-- ==== Sys2Proof/Word.lean ====
section
/-! DEFINITION. The word types of the PL6472 and the index types of its channels, cells, bays, windows and ports (R1, R12, R13). -/

namespace Sys2Proof

/-- A 32-bit register word (R547). -/
abbrev Word := BitVec 32

/-- A byte of memory. -/
abbrev Byte := BitVec 8

/-- A level: a signed 32-bit fraction of a full scale (R85, R122). -/
abbrev Level := BitVec 32

/-- A signed 20-bit DAC code (R86, R122). -/
abbrev Code := BitVec 20

/-- A 24-bit byte address of the map (R547). -/
abbrev Addr := BitVec 24

/-- A logical channel CH_0 … CH_63 (R1). -/
abbrev Ch := Fin 64

/-- A physical cell CELL_0 … CELL_71 (R12). -/
abbrev CellIx := Fin 72

/-- A bay 0 … 7 (R12). -/
abbrev Bay := Fin 8

/-- A link port: 0 up, 1 … 3 down (R492). -/
abbrev Port := Fin 4

/-- An entry of a measure sequence (R168). -/
abbrev Entry := Fin 16

end Sys2Proof
end

