-- ==== Sys2Proof/Syntax.lean ====
section
/-! DEFINITION. The commands of the PL6472: one constructor of `Instr` per row of spec/opcode_table.json, with the data that a command
brings from outside (a written word, a sample, an instant within the loop period). -/

namespace Sys2Proof

/-- The two PLLs (R437). -/
inductive PllId | a | b
  deriving DecidableEq, Repr

/-- The two windows of a channel (R295): window 0 on voltage, window 1 on current. -/
inductive WinId | v | i
  deriving DecidableEq, Repr

/-- The inputs of a channel's comparators at one instant, in 1/1,024 of a threshold code: the carrying cell's, and those of the other cells
that judge the window (R298, R309). -/
structure WinIn where
  own : Int
  others : List Int
  deriving DecidableEq, Repr

/-- The three modulators of a cell (R157). -/
inductive Modulator | v | i | ovl
  deriving DecidableEq, Repr

/-- CH_FORCE_CTRL.MODE (R113). -/
inductive ForceMode | voltage | current
  deriving DecidableEq, Repr

/-- CH_FORCE_CTRL.CLASS (R113). -/
inductive UpdateClass | strobed | stream
  deriving DecidableEq, Repr

/-- CH_MEAS_CTRL.RUN (R169). -/
inductive RunMode | stop | continuous | single | strand
  deriving DecidableEq, Repr

/-- The coefficient and shift registers that R143 governs. -/
inductive CoefReg | kp | ki | kd | kdf | kff | shift
  deriving DecidableEq, Repr

/-- What the comparator of an engine pair finds (R147): agreement, or a disagreement with the residue check of each engine (R345);
`failA` says that engine A's residue check failed. -/
inductive EngineCheck | agree | disagree (failA failB : Bool)
  deriving DecidableEq, Repr

/-- The filter outputs that one loop update takes in (R120, R158), before correction, and what the bay measures beside them. -/
structure LoopIn where
  /-- V modulator, fast-path filter output. -/
  rawV : BitVec 24
  /-- I main modulator, fast-path filter output. -/
  rawI : BitVec 24
  /-- Overlap modulator's fast path while an overlap is engaged (R220). -/
  rawOvl : BitVec 24
  /-- I main of the clasp's member cells in ascending channel order (R166), and behind them of the other cell during a swap (R341). -/
  others : List (BitVec 24)
  /-- The shadow's overlap modulator on its calibration tap (R336). -/
  shadowTap : BitVec 24
  /-- VPOS and the magnitude of VNEG in mV, as the bay samples them (R144). -/
  vpos : BitVec 16
  vneg : BitVec 16
  /-- The comparison of the cell's engines (R147). -/
  check : EngineCheck
  /-- The comparisons of the clasp's member cells in ascending channel order (R146); cells beyond the list agree. -/
  memberChecks : List EngineCheck
  /-- The shadow's command equals the driving cell's, and its own engines agree (R337). -/
  shadowAgrees : Bool
  deriving DecidableEq, Repr

/-- The filter outputs at the end of a conversion (R162): the converted modulator, and the filters that R166, R223 and R342 add. -/
structure ConvIn where
  raw : BitVec 24
  /-- The overlap filter while an overlap is engaged (R223), or the other cell's I main filter over a swap (R342). -/
  second : Option (BitVec 24)
  /-- The member cells' I main filters for a clasp on range 0x7 (R166). -/
  others : List (BitVec 24)
  /-- The modulator input exceeded its span (R164). -/
  overSpan : Bool
  deriving DecidableEq, Repr

/-- What the start-up after a release of reset meets outside the device (R513). -/
structure BootIn where
  /-- The levels of LNK_ID_0 … LNK_ID_11 (R472). -/
  straps : BitVec 12
  /-- REFIN edges counted in 64 ticks (R434), once the count has ended; `none`: start-up stands in step CLOCKS. -/
  refEdges : Option Nat
  /-- Both PLLs have locked and held for 1,024 REFIN cycles (R436). -/
  locked : Bool
  /-- Read ID bytes of the flash part, byte 0 in [7:0] (R402, R403). -/
  nandId : Word
  /-- The lowest VPOS and the smallest magnitude of VNEG of the awake bays in mV (R514). -/
  vpos : BitVec 16
  vneg : BitVec 16
  /-- Ticks that the start-up takes (R513). -/
  ticks : Nat
  deriving DecidableEq, Repr

/-- A write frame of the host port as received (R495, R496). -/
structure WriteFrame where
  opcode : BitVec 8
  devId : BitVec 16
  addr : Addr
  /-- LEN, carried when C = 1. -/
  len : BitVec 8
  words : List Word
  /-- Bits of a last word cut short by CS_N (R498). -/
  tail : Nat
  /-- The received data CRC, carried when C = 1. -/
  crc : BitVec 16
  /-- CS_N rose after the header's end. -/
  headerDone : Bool
  /-- A device write reached a written register in the same cycle (R502). -/
  collide : Bool
  deriving DecidableEq, Repr

/-- A read frame of the host port (R495, R496). -/
structure ReadFrame where
  opcode : BitVec 8
  devId : BitVec 16
  addr : Addr
  len : BitVec 8
  headerCrc : BitVec 16
  /-- Whole words that the host clocks out before CS_N rises, with C = 0. -/
  count : Nat
  headerDone : Bool
  deriving DecidableEq, Repr

/-- What an SRAM read meets (R353, R355). -/
inductive SramRead | clean | single | double
  deriving DecidableEq, Repr

/-- The memory region that a 64-bit SRAM word belongs to (R355): the half of a bead or of a record, and the first of the two entries of
a sine table word. -/
inductive SramRegion
  | bead (index : BitVec 16) (upper : Bool)
  | larder (record : BitVec 16) (upper : Bool)
  | stream (n : Ch) (index : Nat)
  | sine (word : BitVec 13)
  | locket (k : CellIx)
  | loopState (n : Ch)
  | staging
  | coffer (slot : BitVec 12)
  | other
  deriving DecidableEq, Repr

/-- How a flash operation ended (R402, R407, R415, R419): the status bits of a program or erase, or the corrected bits of a read. -/
inductive FlashOutcome
  | ok
  | failed
  | corrected (bits : Nat)
  | uncorrectable
  deriving DecidableEq, Repr

/-- What a link packet carries (R466). -/
inductive Packet
  | write (f : WriteFrame)
  | read (f : ReadFrame)
  | data (words : List Word)
  | summary (dev : BitVec 12) (attn grave : Bool)
  deriving DecidableEq, Repr

/-- An epoch marker as it arrives (R477, R478). -/
structure Marker where
  /-- T: the root's system time at the boundary of sending. -/
  time : Nat
  /-- R: the residence so far, in 1/64 cycle. -/
  residence : Nat
  number : BitVec 16
  resync : Bool
  /-- The arrival of the comma in 1/64 cycle of this device's system time. -/
  arrival : Nat
  deriving DecidableEq, Repr

/-- What an enumeration's walk finds for this device (R470). -/
structure EnumIn where
  id : BitVec 12
  depth : Nat
  rootLat : BitVec 16
  devices : Nat
  maxDepth : Nat
  /-- L_max in 125 ps units (R475). -/
  maxLat : Nat
  /-- This device was refused (R471); on the root, some device of the tree was (R470). -/
  refused : Bool
  /-- Down ports behind which a device was refused, and whether one was for a repeated ID. -/
  refusedPorts : List Port
  dup : Bool
  /-- The IDs of the partners beyond the ports. -/
  peers : List (Port × BitVec 12)
  /-- The root's result: the ID of every other device and the down port that leads to it (R485). -/
  routes : List (BitVec 12 × Port)
  deriving DecidableEq, Repr

/-- A readiness report of a spanning set (R481): the boundary (as a loop-period number) at which a device's members are ready. -/
structure Readiness where
  dev : BitVec 12
  set : BitVec 8
  boundary : Nat
  lowPower : Bool
  deriving DecidableEq, Repr

/-- The GLB_SYNC_CTRL actions (R294). -/
inductive SyncAct | start | fire | abort
  deriving DecidableEq, Repr

/-- The commands: one per row of spec/opcode_table.json, in its order. -/
inductive Instr
  -- resets and supplies (R512 … R518)
  | alwaysOnPowerOnReset
  | powerOnReset
  | resetNAssert
  | resetRelease (b : BootIn)
  | avddSag
  | aonvddSag
  -- clocks (R434 … R457, R523)
  | refDetectionEnd (edges : Nat)
  | pllLockAcquired (p : PllId)
  | pllLockLost (p : PllId)
  | lockHoldEnd (p : PllId)
  | relockRetry (p : PllId)
  | refLost
  | refReturn
  | pllCommit (p : PllId)
  | pllBandMeasure (p : PllId) (khz : List (Nat × Nat))
  | clkoutWrite (x : Fin 4) (v : Word)
  | xtalQualified
  | xtalLost
  | pllStop
  -- host port (R494 … R504)
  | hostReadFrame (f : ReadFrame)
  | hostWriteFrame (f : WriteFrame)
  | registerWrite (a : Addr) (v : Word)
  | readClearCounter (a : Addr)
  | glbTimeLoRead
  | resultLoRead (n : Ch)
  | resultHiRead (n : Ch)
  | demodViRead (n : Ch)
  | cofferW0Read
  -- image (R33 … R83)
  | stageDataWrite (v : Word)
  | stageClear
  | imageAbort
  | loadHost
  | loadSlotA
  | loadSlotB
  | imageSwap
  -- loop and force path (R84 … R156)
  | loopUpdate (n : Ch) (x : LoopIn)
  | slewLimiterStep (n : Ch)
  | forceLoad (n : Ch)
  | forceModeWrite (n : Ch) (m : ForceMode)
  | forceClassWrite (n : Ch) (c : UpdateClass)
  | forceClose (n : Ch)
  | switchClose (n : Ch) (raw : Vector (BitVec 24) 8)
  | forceOpen (n : Ch)
  | forceRest (n : Ch)
  | restHoldReached (n : Ch)
  | graveOpenTimeout (n : Ch)
  | streamSample (n : Ch)
  | streamQueueAppend (n : Ch) (v : Word)
  | streamFlush (n : Ch)
  | outTrippedClear (n : Ch)
  | loopClose (n : Ch)
  | loopOpen (n : Ch)
  | loopCmdWrite (n : Ch) (c : Code)
  | coefficientWrite (n : Ch) (w : WinId) (r : CoefReg) (v : Word)
  | complianceWrite (n : Ch) (v : Word)
  | keeperHold (k : CellIx)
  | keeperOpen (k : CellIx)
  -- measuring (R157 … R210)
  | measRunWrite (n : Ch) (m : RunMode)
  | measStart (n : Ch)
  | measCfgWrite (n : Ch) (v : Word)
  | sequenceEntryStart (n : Ch)
  | inputSettlingEnd (n : Ch)
  | conversionComplete (n : Ch) (m : Modulator) (x : ConvIn)
  | injUrgent (n : Ch) (e : Entry)
  | injOpportunistic (n : Ch) (e : Entry)
  | calZero (n : Ch) (target : BitVec 5)
  | calFull (n : Ch)
  | calCommit (n : Ch)
  | calDiscard (n : Ch)
  | calConversionComplete (n : Ch) (x : ConvIn)
  | demodWindowEnd (n : Ch)
  | sinePhaseWrite (n : Ch) (v : Word)
  -- ranging (R211 … R246)
  | overlapEngage (n : Ch)
  | handoverStart (n : Ch)
  | overlapSquash (n : Ch)
  | holdOffEnd (n : Ch)
  | vRangeSwitch (n : Ch)
  | boosterRangeChange (n : Ch)
  | boosterGainSwitch (n : Ch)
  | waitingChangeStart (n : Ch)
  | rangeCtrlWrite (n : Ch) (v : Word)
  | rangeSetWrite (n : Ch) (v : Word)
  -- strands, pulses, larder, sync sets (R247 … R294)
  | strandStart (n : Ch) (direct : Bool) (strand : BitVec 10)
  | strandStop (n : Ch)
  | strandAbort (n : Ch)
  | beadCommit (n : Ch)
  | strandEndAtDwell (n : Ch)
  | runAheadSquash (n : Ch)
  | markPulseEnd (n : Ch)
  | pulseEnd (n : Ch)
  | pulsePassStart (n : Ch)
  | larderRdWrite (n : Ch) (v : Word)
  | larderClear (n : Ch)
  | syncStart (set : BitVec 8)
  | syncFire (set : BitVec 8)
  | syncAbort (set : BitVec 8)
  | trigInEdge (x : Fin 4) (cyc : Nat)
  -- windows (R295 … R316); `x` is the input in 1/1,024 of a threshold code
  | windowCrossing (n : Ch) (w : WinId) (x : WinIn) (cyc : Nat)
  | windowSample (n : Ch) (w : WinId) (x : WinIn) (cyc : Nat)
  | windowFirstSample (n : Ch) (w : WinId) (x : WinIn)
  | winCfgWrite (n : Ch) (w : WinId) (v : Word)
  | winThrWrite (n : Ch) (w : WinId) (v : Word)
  -- sleep and attic (R330 … R360, R521, R522)
  | baySleep (b : Bay)
  | bayAwake (b : Bay)
  | attMigrate (n : Ch) (keepOld : Bool)
  | migrationGrant
  | shadowAwake (b : Bay)
  | forceCheckEnd (b : Bay)
  | spareReject (b : Bay)
  | migrationSwap (b : Bay)
  | migrationEnd (b : Bay)
  | sramPatrolRead (r : SramRegion) (e : SramRead)
  -- faults (R361 … R398)
  | faultMessage (src : BitVec 10) (kind : BitVec 6) (addr : Word)
  | faultReaction
  | conseqWindowEnd (src : BitVec 10)
  | cofferWrite
  | cofferPersist
  | fltAck (v : Word)
  | fltReadmit (v : Word)
  | aliveToggle (busAccepted slotWritten coreRan : Bool)
  | fltInject (v : Word) (addr : Word)
  -- cellar (R399 … R431)
  | format (key : BitVec 8)
  | writeSlotA
  | writeSlotB
  | clearSlotA
  | clearSlotB
  | saveLibrary
  | patrol
  | flush
  | celReadSelWrite (v : Word)
  | celClockWrite (v : Word)
  | cellarHourTick
  | cellarOperationDone (o : FlashOutcome)
  | garbageCollection
  | patrolPageRead (o : FlashOutcome)
  | notResponding (op : BitVec 8)
  -- Brorno link (R465 … R493)
  | rootTimeout
  | portTrainingDone (p : Port)
  | hopMeasureDone (p : Port) (lat : BitVec 16)
  | pauseReceived (p : Port)
  | linkAlignmentLost (p : Port)
  | pauseTimeout (p : Port)
  | packetReceive (p : Port) (k : Packet) (crcOk : Bool)
  | lnkEnum
  | enumerationDone (x : EnumIn)
  | epochNow
  | epochMarkerSend
  | epochMarkerReceive (m : Marker)
  | timeStepEnd
  | readinessReportReceive (r : Readiness)
  | commitOrderReceive (set : BitVec 8) (boundary : Nat)
  | syncRequestReceive (a : SyncAct) (set : BitVec 8)
  | summaryReceive (dev : BitVec 12) (attn grave : Bool)
  | forwardedReadDone (words : List Word)
  | forwardedReadTimeout
  -- power (R524 … R526)
  | governorUpdate
  | govFail
  -- JTAG (R392, R553); `testen` is the level of TESTEN as the instruction is loaded
  | extest
  | samplePreload
  | idcode
  | clamp
  | highz
  | chipReset
  | factoryTest (testen : Bool)
  | regAccess (write : Bool) (a : Addr) (v : Word)
  | bypass
  | testenLow
  | faultConditionEnd (src : BitVec 10) (kind : BitVec 6)
  | partnerDetected (p : Port)
  | linkCodeError (p : Port)
  | railsInSpan (vpos vneg : BitVec 16)
  deriving DecidableEq, Repr

end Sys2Proof
end

