-- ==== Sys2Proof/Machine/Arith.lean ====
section
/-! DEFINITION. The arithmetic of the PL6472: rounding half away from zero, rounded shifts, saturation and saturating counters (R86, R88,
R123, R124, R165), and the CRC of R41. -/

namespace Sys2Proof.Machine

/-- `a / d` rounded half away from zero, for `d > 0`. -/
def rha (a : Int) (d : Nat) : Int :=
  if 0 ≤ a then (2 * a + d) / (2 * d) else -((2 * -a + d) / (2 * d))

/-- `a / b` rounded half away from zero, for a denominator of either sign; 0 when `b` is 0. -/
def rhaInt (a b : Int) : Int := if b < 0 then rha (-a) b.natAbs else rha a b.natAbs

/-- The rounded shift rs of R123. -/
def rs (x : Int) (sh : Nat) : Int := if sh = 0 then x else rha x (2 ^ sh)

/-- `x` held to the signed span of `w` bits. -/
def satInt (w : Nat) (x : Int) : Int := max (-(2 ^ (w - 1) : Int)) (min (2 ^ (w - 1) - 1) x)

/-- Whether `satInt w` changes `x`. -/
def satHit (w : Nat) (x : Int) : Bool := decide (satInt w x ≠ x)

/-- Saturation to a level (R85, R122). -/
def sat32 (x : Int) : Level := BitVec.ofInt 32 (satInt 32 x)

/-- Saturation to a DAC code (R86, R88). -/
def sat20 (x : Int) : Code := BitVec.ofInt 20 (satInt 20 x)

/-- Saturation to a result (R165). -/
def sat24 (x : Int) : BitVec 24 := BitVec.ofInt 24 (satInt 24 x)

/-- The largest magnitude of a level. -/
def maxLevel : Nat := 0x7FFFFFFF

/-- Saturation at 0x7FFF_FFFF in magnitude (R222, R226, R227). -/
def satMag (x : Int) : Level := BitVec.ofInt 32 (max (-(maxLevel : Int)) (min maxLevel x))

/-- The magnitude of a level, 0x8000_0000 taken as 0x7FFF_FFFF (R129). -/
def mag (l : Level) : Nat := min l.toInt.natAbs maxLevel

/-- One more, saturating at the top (the counters of R6). -/
def satInc {w : Nat} (x : BitVec w) : BitVec w := if x = BitVec.allOnes w then x else x + 1

/-- `k` more, saturating at the top. -/
def satAdd {w : Nat} (x : BitVec w) (k : Nat) : BitVec w :=
  if x.toNat + k ≥ 2 ^ w then BitVec.allOnes w else x + BitVec.ofNat w k

/-- A level as a code, L / 4,096 rounded half away from zero, before saturation (R86). -/
def codeOf (l : Level) : Int := rha l.toInt 4096

/-- A magnitude `v` on the full scale `fs` as a level, rounded toward zero; beyond full scale 0x7FFF_FFFF (R127). -/
def boundLevel (v fs : Nat) : Nat := if v ≥ fs then maxLevel else v * 2 ^ 31 / fs

/-- A level re-expressed from the full scale `old` on `new`, rounded half away from zero and saturated in magnitude (R222, R226). -/
def rescale (l : Level) (old new : Nat) : Level := satMag (rha (l.toInt * old) new)

/-- One step of the CRC-32 of R41 over a byte, reflected. -/
def crc32Byte (c : BitVec 32) (b : Byte) : BitVec 32 :=
  (List.range 8).foldl (fun c _ => if c.getLsbD 0 then (c >>> 1) ^^^ 0xEDB88320#32 else c >>> 1) (c ^^^ b.setWidth 32)

/-- The CRC-32 of R41. -/
def crc32 (bs : List Byte) : Word := bs.foldl crc32Byte 0xFFFFFFFF#32 ^^^ 0xFFFFFFFF#32

/-- The bytes of a word, least significant first (R33, R247, R282). -/
def wordBytes (w : Word) : List Byte := [w.extractLsb' 0 8, w.extractLsb' 8 8, w.extractLsb' 16 8, w.extractLsb' 24 8]

/-- A word from up to four bytes, least significant first. -/
def bytesWord (bs : List Byte) : Word := bs.foldr (fun b w => (w <<< 8) ||| b.setWidth 32) 0

/-- A word as the concatenation of fields: each value shifted to its lowest bit. -/
def fields (fs : List (Nat × Nat)) : Word := fs.foldl (fun w f => w ||| BitVec.ofNat 32 (f.2 <<< f.1)) 0

/-- The bits [lo + w − 1 : lo] of a word as a number. -/
def bits (x : Word) (lo w : Nat) : Nat := (x.toNat >>> lo) % 2 ^ w

/-- A Boolean as a bit. -/
def bit (b : Bool) : Nat := if b then 1 else 0

end Sys2Proof.Machine
end

