-- ==== Sys2Proof/Config.lean ====
section
/-! DEFINITION. What an implementation fixes and the spec does not state: free values without a body, so that no proof can lean on
one (see notes/assumptions). Each is applied to what it depends on, or to State's plain counter `draws`. -/

namespace Sys2Proof.Config

/-- The band table measured at the factory for PLL `p` (0: A, 1: B), entry `i`, as CLK_BAND_x_i reads (R438, R464: "Factory"). -/
opaque factoryBand : Nat → Nat → BitVec 32

/-- Word `i` of the factory locket record of cell `k`, held in on-chip fuses (R427). -/
opaque factoryLocket : Nat → Nat → BitVec 32

/-- The stored bits that an uncorrectable SRAM word reads as, for draw number `i` (R355 states none). -/
opaque sramGarbage : Nat → BitVec 32

/-- How far a generated log-strand level lies from the exactly rounded one, for draw number `i` (R255: within 1 level LSB). -/
opaque logSlack : Nat → Fin 3

/-- Feature 0xB0 of the NAND part as the cellar reads it at start-up (R402). -/
opaque nandFeature : BitVec 8

/-- A value the spec leaves open, for draw number `i`. -/
opaque freeWord : Nat → BitVec 32

end Sys2Proof.Config
end

