-- ==== Sys2Proof/Machine/State.lean ====
section
/-! DEFINITION. The state of the PL6472 as plain data: every register field, memory, queue, counter, mode and pin that the spec gives
the device, the queue of waiting commands, and the state right after reset. -/

namespace Sys2Proof.Machine

/-- Memory as address and byte pairs, addresses strictly rising, no entry equal to what an unlisted address reads as. -/
abbrev Memory := List Host.Cell

/-- A sparse table by number, keys strictly rising. -/
abbrev Table (α : Type) := List (Nat × α)

/-- Why the machine stops. No rule of the spec stops the block for good, so no command of this model faults; the one constructor
is raised by nothing. Safe. -/
inductive Fault
  | none
  deriving DecidableEq, Repr

/-- Why a command has no meaning. -/
inductive Refusal
  /-- The command is not modelled yet. Raised by arms of exec only; safe (it stops). -/
  | notModelled (mnemonic : String)
  deriving DecidableEq, Repr

/-! ### Named values of register fields -/

/-- CELL_ROLE.ROLE (R32). -/
inductive Role | spare | active | member | shadow | fenced
  deriving DecidableEq, Repr

/-- CELL_FORCE_STAT.STAGE (R119). -/
inductive Stage | off | internal | booster | hold | tripped
  deriving DecidableEq, Repr

/-- CELL_FORCE_STAT.ATTEN (R119). -/
inductive Atten | by1 | by2 | by4
  deriving DecidableEq, Repr

/-- CELL_LOCKET_STAT.STATE (R210). -/
inductive LocketState | notLoaded | valid | repaired | single | nominal
  deriving DecidableEq, Repr

/-- CH_OUT_STAT.STATE (R117). -/
inductive OutState | opened | closing | closed | resting | restHold | restOpen | tripOpen | hold | graveOpen
  deriving DecidableEq, Repr

/-- CH_LOOP_STAT.STATE (R135). -/
inductive LoopState | opened | pending | preset | primary | confirmCmp | compliance | confirmPri | held
  deriving DecidableEq, Repr

/-- CH_RANGE_STAT.HSTATE (R244). -/
inductive HState
  | idle | engaging | overlap | blend | resettle | release | squashing | vSwitch | boostMake | boostBreak | gainSwitch
  deriving DecidableEq, Repr

/-- CH_RANGE_CTRL.POLICY (R217). -/
inductive Policy | off | upOnly | full | bounded
  deriving DecidableEq, Repr

/-- CH_STRAND_CFG.TYPE (R253). -/
inductive StrandType | linear | log | list | pulsed | stream | sine
  deriving DecidableEq, Repr

/-- CH_STRAND_STAT.STATE (R292). -/
inductive StrandState | idle | armed | running | waitSet | stalled | done | stopped | error
  deriving DecidableEq, Repr

/-- CH_STRAND_STAT.REASON (R292, R263, R258). -/
inductive Reason
  | none | stop | abort | compliance | trip | fault | badRange | badFlag | badLog | badTone | notOwner | wrongClass | noChannel | busy
  deriving DecidableEq, Repr

/-- CH_WIN_CFG_w.MODE (R312). -/
inductive WinMode | off | continuous | sampled
  deriving DecidableEq, Repr

/-- The state of a window (R299). -/
inductive WinState | inside | outHi | outLo
  deriving DecidableEq, Repr

/-- CH_CAL_STAT.STATE (R208). -/
inductive CalState | idle | wait | zeroRun | zeroDone | fullRun | ready | storing | forceRun
  deriving DecidableEq, Repr

/-- CH_CAL_STAT.RESULT (R208, R190). -/
inductive CalResult
  | ok | wrongRange | busy | state | refSmall | outOfSpan | clipped | notStored | order | discarded | noCell | interrupted | badTarget
  deriving DecidableEq, Repr

/-- ATT_BAY_b.PHASE (R359). -/
inductive MigPhase | idle | wake | forceCheck | mirror | swap | drain
  deriving DecidableEq, Repr

/-- ATT_BAY_b.RESULT (R359). -/
inductive MigResult | ok | noSpare | cold | abandoned | refused | reshared | claspFenced
  deriving DecidableEq, Repr

/-- The four classes of a fault (R370). -/
inductive FClass | note | minor | major | grave
  deriving DecidableEq, Repr

/-- FLT_READMIT_STAT.RESULT (R381). -/
inductive ReadmitResult | ok | grave | notFenced | live | unacked | noSpare | badUnit | busy
  deriving DecidableEq, Repr

/-- IMG_STAT.STATE (R82). -/
inductive ImgState | boot | bare | loading | ready
  deriving DecidableEq, Repr

/-- IMG_STAT.SOURCE (R82). -/
inductive ImgSource | none | slotA | slotB | host
  deriving DecidableEq, Repr

/-- IMG_STAT.RESULT (R42). -/
inductive ImgResult
  | ok | badMagic | badHeader | deviceMismatch | badLength | badCrc | badSectionTable | fieldOverrun | missingSection
  | slotUnreadable | notQuiescent | aborted | needsFull
  deriving DecidableEq, Repr

/-- The reasons of a clamp report entry (R47). -/
inductive ClampReason
  | belowMin | aboveMax | badEncoding | rounded | dependency | resource | length | duplicate | unknownField | badInstance | fencedCell
  deriving DecidableEq, Repr

/-- CLK_STAT.GUARD (R447). -/
inductive Guard | ref | vco16 | vco8
  deriving DecidableEq, Repr

/-- CLK_STAT.REF_CLASS (R434, R461). -/
inductive RefClass | unfinished | mhz24 | mhz10 | unknown
  deriving DecidableEq, Repr

/-- CLK_PLLx_STAT.RESULT (R439, R441). -/
inductive PllResult | ok | vcoRange | pfdRange | noBand | notQuiescent | badPost | busy | switchClosed | noRef
  deriving DecidableEq, Repr

/-- What a PLL is doing (R436, R440, R441, R523). -/
inductive PllPhase | off | startup | committing | measuring | running
  deriving DecidableEq, Repr

/-- CLK_OUT_x.FMT (R455). -/
inductive OutFmt | off | lvcmos18 | lvcmos33 | lvds | hcsl
  deriving DecidableEq, Repr

/-- LNK_PORT_p.STATE (R467). -/
inductive PortState | off | idle | training | measuring | up | paused | fenced | refused
  deriving DecidableEq, Repr

/-- LNK_FWD_STAT.ERROR (R493). -/
inductive FwdError | none | unreachable | busy | timeout | link
  deriving DecidableEq, Repr

/-- CEL_STAT.STATE (R430). -/
inductive CelState | start | unformatted | mounting | ready | sealed | fenced
  deriving DecidableEq, Repr

/-- CEL_STAT.RESULT (R430). -/
inductive CelResult
  | ok | busy | sealed | fenced | unformatted | badLength | notQuiescent | badKey | badCommand | verifyFailed
  deriving DecidableEq, Repr

/-- The cellar's regions (R408). -/
inductive Region | slotA | slotB | rest | lockets | library | coffer | history
  deriving DecidableEq, Repr

/-- PWR_STAT.STEP (R513, R528). -/
inductive BootStep | clocks | cellar | lockets | library | image | rails | rest | done
  deriving DecidableEq, Repr

/-- The JTAG instruction in the instruction register (R553). -/
inductive JtagIr | extest | samplePreload | idcode | clamp | highz | chipReset | factoryTest | regAccess | bypass
  deriving DecidableEq, Repr

/-- The kind of fence on a channel (R350, R352, R374). -/
inductive ChFence | none | atRest | noCell | clasp
  deriving DecidableEq, Repr

/-! ### Channel registers -/

/-- One CH_SEQ_e (R205). -/
structure SeqEntry where
  gain : BitVec 3 := 0
  input : BitVec 3 := 0
  jM1 : BitVec 17 := 0x3BF
  deriving DecidableEq, Repr

/-- The coefficients and shifts of one loop (R153, R155). -/
structure Coefs where
  kp : Word := 0
  ki : Word := 0
  kd : Word := 0
  kdf : Word := 0
  kff : Word := 0
  shP : BitVec 5 := 0
  shI : BitVec 5 := 0
  shD : BitVec 5 := 0
  shDf : BitVec 5 := 0
  shFf : BitVec 5 := 0
  deriving DecidableEq, Repr

/-- CH_WIN_CFG_w and CH_WIN_THR_w (R312, R313). -/
structure WinCfg where
  mode : WinMode := .off
  route : BitVec 2 := 0
  tick : BitVec 5 := 0
  hyst : BitVec 6 := 8
  hi : BitVec 12 := 0xFFF
  lo : BitVec 12 := 0
  deriving DecidableEq, Repr

/-- The host-writable registers of a channel page. A channel holds them twice: as the register file holds them, and as the data path
last sampled them (R9). -/
structure ChanCfg where
  mode : ForceMode := .voltage
  cls : UpdateClass := .strobed
  level : Level := 0
  slewStep : BitVec 20 := 0x1000
  slewRateM1 : BitVec 8 := 0
  streamDivM1 : BitVec 16 := 0
  rampStep : BitVec 20 := 0x100
  compliance : Level := 0x7FFFFFFF
  ilimitNa : Word := 0x01312D00
  vlimitUv : Word := 0x005B8D80
  capMw : BitVec 9 := 0x12C
  coefV : Coefs := {}
  coefI : Coefs := {}
  pubMask : BitVec 16 := 1
  last : BitVec 4 := 0xF
  first : BitVec 4 := 0
  run : RunMode := .stop
  seqLen : BitVec 5 := 2
  order : BitVec 3 := 3
  calTarget : BitVec 5 := 0
  calRef : Word := 0
  calJM1 : BitVec 17 := 0x4AFF
  seq : Vector SeqEntry 16
  demodEn : Bool := false
  demodCycles : BitVec 16 := 1
  horizonM1 : BitVec 10 := 0x1F
  boundHi : BitVec 4 := 7
  boundLo : BitVec 4 := 0
  policy : Policy := .off
  setV : BitVec 4 := 1
  setI : BitVec 4 := 7
  cstop : Bool := false
  tstop : Bool := false
  type : StrandType := .list
  tout : BitVec 3 := 0
  strandFirst : BitVec 16 := 0
  msel : Vector Word 4
  sineEn : Bool := false
  sineTable : Bool := false
  sineFreq : Word := 0
  sineAmpl : Level := 0
  pulseWidth : BitVec 28 := 0x6000
  tripEnd : Bool := true
  mdelay : BitVec 24 := 0
  pulseBase : Level := 0
  larderRing : Bool := false
  winV : WinCfg := {}
  winI : WinCfg := {}
  attnEn : BitVec 8 := 1
  deriving DecidableEq, Repr

/-! ### Channel state -/

/-- CH_MAP (R31). -/
structure ChMap where
  avail : Bool
  bridged : Bool
  member : Bool
  claspSize : BitVec 3
  claspLead : BitVec 3
  gen : BitVec 8
  cell : Option CellIx
  deriving DecidableEq, Repr

/-- What the image declares of a channel (R52, R54, R63, R69). -/
structure ChDecl where
  enabled : Bool := false
  lowPower : Bool := false
  /-- SY_SET. -/
  syncSet : BitVec 8 := 0
  /-- BS_PRESENT, BS_SHUNT_UOHM, BS_IFS_UA of booster ranges 0x8 … 0xA. -/
  boost : Vector (Bool × Nat × Nat) 3
  /-- BS_VFS_MV. -/
  vfsMv : Nat := 12000
  /-- The rest values in force: RS_MODE, RS_VRANGE, RS_CODE, RS_ILIMIT_NA. -/
  rsClose : Bool := false
  rsRange : BitVec 2 := 0
  rsCode : Code := 0
  rsIlimitNa : Nat := 1000
  /-- LP_RAMP_STEP, the rest sequence's ramp (R108). -/
  lpRampStep : Nat := 256
  deriving DecidableEq, Repr

/-- The force path of a channel (R84 … R118). -/
structure ForceSt where
  applied : Level := 0
  /-- Limiter code and target (R91). -/
  code : Code := 0
  target : Code := 0
  rateCnt : Nat := 0
  /-- The loop period in which the limiter last stepped: it steps once in each (R91). -/
  stepAt : Option Nat := none
  sat : Bool := false
  underrun : Bool := false
  streamUnder : Word := 0
  /-- Loop period in which CLASS became 1, and the last stream sample (R95). -/
  streamStart : Nat := 0
  streamLast : Level := 0
  tripped : Bool := false
  /-- A trip has reached the output stage; the switch opens at the next boundary (R101). -/
  tripReq : Bool := false
  clampOn : Bool := true
  /-- The setting of the analog clamp (R98, R107, R127) in units of 2^-31 × 0.1 nA: a level of a full scale in nA is `10 × level × scale`. -/
  clamp : Nat := 429496729400000000
  out : OutState := .opened
  /-- System time at which the closing request landed (R99). -/
  closeAt : Option Nat := none
  /-- The closing belongs to a rest sequence, which ramps on when it ends (R108). -/
  closeRest : Bool := false
  /-- The closing began in REST_OPEN: the channel leaves rest when its switch closes (R110). -/
  fromRest : Bool := false
  /-- RS_CODE and RS_ILIMIT_NA as the present rest sequence uses them (R69). -/
  rsCode : Code := 0
  rsIlimitNa : Nat := 1000
  /-- System time at which the rest sequence started (R109). -/
  restAt : Option Nat := none
  deriving DecidableEq, Repr

/-- The loop engine of a channel (R120 … R156). -/
structure LoopSt where
  st : LoopState := .opened
  /-- The state that HELD returns to (R136). -/
  before : LoopState := .opened
  sign : Bool := false
  ramping : Bool := false
  spLimit : Bool := false
  dcap : Bool := false
  dcapHit : Bool := false
  crossed : Bool := false
  satV : BitVec 10 := 0
  satI : BitVec 10 := 0
  /-- The command sent to the limiter. -/
  cmd : Code := 0
  /-- The 32-bit candidate that drives the command. -/
  drive : Level := 0
  setpoint : Level := 0
  /-- The applied target that r last moved toward (R128). -/
  goal : Level := 0
  complApplied : Level := 0x7FFFFFFF
  complEff : Level := 0x7FFFFFFF
  grantMw : BitVec 9 := 0x12C
  accV : Level := 0
  accI : Level := 0
  yPrevV : Level := 0
  yPrevI : Level := 0
  dPrevV : Level := 0
  dPrevI : Level := 0
  /-- Consecutive updates with the measured value opposite to the compliance sign (R133). -/
  oppose : Nat := 0
  coefIgnored : Word := 0
  crossCount : Word := 0
  /-- The dissipation bound for the next period in 2^-31 nA (R144); `none` before the first update. -/
  icap : Option Nat := none
  /-- V_head × |I| of the last update in mW (R524). -/
  dissMw : Nat := 0
  fastV : Level := 0
  fastI : Level := 0
  /-- A strobe restarts the ramp at the next update (R128). -/
  restart : Bool := false
  /-- The compliance candidate drove the command since the present bead's commit (R283). -/
  complDrove : Bool := false
  /-- The PRESET update has been computed (R136, R137). -/
  presetDone : Bool := false
  /-- The current loop is preset in the next update (R222). -/
  presetI : Bool := false
  /-- So is the voltage loop, when a booster change moves the scale of the command (R230). -/
  presetV : Bool := false
  /-- A compliance write waits for the next strobe (R130). -/
  complPend : Bool := false
  /-- The bounded target of the last update, from which an open loop's command comes (R321 steps 1 to 4). -/
  openGoal : Level := 0
  /-- A manual command was sampled at the boundary of this loop period, and no update has passed since (R139, R321). -/
  manualNow : Bool := false
  manualHeld : Bool := false
  deriving DecidableEq, Repr

/-- CH_RESULT_LO (R180). -/
structure ResultLo where
  value : BitVec 24 := 0
  overrun : Bool := false
  injected : Bool := false
  clip : Bool := false
  disturbed : Bool := false
  entry : BitVec 4 := 0
  deriving DecidableEq, Repr

/-- What a running conversion belongs to. -/
inductive ConvKind | seq | urgent | opp | cal
  deriving DecidableEq, Repr

/-- A running conversion: its settings stay those it started with (R174). -/
structure Conv where
  kind : ConvKind
  entry : BitVec 4
  md : Modulator
  /-- The input settling before the window (R172). -/
  settling : Bool
  /-- t_s and t_e in cycles (R162). -/
  tStart : Nat
  tEnd : Nat
  input : BitVec 3
  gain : BitVec 3
  /-- The window's length in cycles. -/
  len : Nat
  disturbed : Bool
  clip : Bool
  /-- The last boundary in cycles at which CLIP held (R220). -/
  clipAt : Option Nat := none
  /-- The overlap engaged in the window, with the last boundary in cycles at which it was (R173, R223). -/
  ovl : Option (BitVec 4 × Nat) := none
  /-- The boundary in cycles at which the last disturbance was seen; `none` until then (R167, R171). -/
  distAt : Option Nat := none
  deriving DecidableEq, Repr

/-- A pass in progress (R168, R170). -/
structure Pass where
  next : Nat
  last : Nat
  deriving DecidableEq, Repr

/-- The calibration session (R190 … R196, R206 … R208). -/
structure CalSt where
  st : CalState := .idle
  result : CalResult := .ok
  done : Bool := false
  target : BitVec 5 := 0
  om : Word := 0
  gm : Word := 0
  z : Int := 0
  clipped : Bool := false
  /-- The point that waits in WAIT is FULL. -/
  waitFull : Bool := false
  /-- m₁ of a force session (R196). -/
  m1 : Option Int := none
  deriving DecidableEq, Repr

/-- The synchronous demodulator (R197 … R200). -/
structure DemodSt where
  vi : Level := 0
  vq : Level := 0
  ii : Level := 0
  iq : Level := 0
  time : Word := 0
  snapVq : Level := 0
  snapIi : Level := 0
  snapIq : Level := 0
  snapTime : Word := 0
  new : Bool := false
  disturbed : Bool := false
  /-- EN and CYCLES in force: writes take effect at the next wrap (R199). -/
  on : Bool := false
  cycles : BitVec 16 := 1
  /-- A window is open; sums, samples and wraps so far. -/
  open_ : Bool := false
  sVi : Int := 0
  sVq : Int := 0
  sIi : Int := 0
  sIq : Int := 0
  n : Nat := 0
  wraps : Nat := 0
  /-- A window that has ended and not yet delivered: its four sums, its samples and the boundary of its end in cycles (R198). -/
  fin : Option (Int × Int × Int × Int × Nat × Nat) := none
  deriving DecidableEq, Repr

/-- The measure path of a channel (R157 … R210). -/
structure MeasSt where
  res : ResultLo := {}
  resTime : Word := 0
  /-- The boundary in cycles at which the register's result was due (R181). -/
  resAt : Nat := 0
  snap : Word := 0
  loRead : Bool := false
  pairDone : Bool := true
  vals : Vector ResultLo 16
  passDone : Bool := false
  pass : Option Pass := none
  convs : List Conv := []
  /-- Entries aborted by a pause or an overlap, which restart first (R173, R176). -/
  redo : List (ConvKind × BitVec 4) := []
  /-- The pending slot (R177). -/
  injHeld : Option (BitVec 4) := none
  injDrop : Word := 0
  restarts : Word := 0
  overruns : Word := 0
  /-- Input and gain of the overlap modulator's previous conversion (R172); `none` after a wake or an overlap. -/
  lastOvl : Option (BitVec 3 × BitVec 3) := none
  freeRun : Bool := false
  cal : CalSt := {}
  demod : DemodSt := {}
  deriving DecidableEq, Repr

/-- Who engaged the overlap (R219, R220, R262). -/
inductive Origin | predictor | command | prearm
  deriving DecidableEq, Repr

/-- Ranging (R211 … R246). -/
structure RangeSt where
  hst : HState := .idle
  ovl : Option (BitVec 4) := none
  limited : Bool := false
  squashed : Bool := false
  changed : Bool := false
  complRange : BitVec 4 := 7
  v : BitVec 4 := 1
  i : BitVec 4 := 7
  complRef : Level := 0x7FFFFFFF
  /-- The full scale of the compliance quantity when `complRef` took effect, in nA or µV (R131, R226). -/
  complFs : Nat := 20000000
  changes : Word := 0
  specs : Word := 0
  squashes : Word := 0
  /-- Updates spent in the present HSTATE. -/
  steps : Nat := 0
  origin : Origin := .command
  /-- The predictor's last 16 magnitudes, newest first, and its counters (R219). -/
  hist : List Nat := []
  upCnt : Nat := 0
  dnCnt : Nat := 0
  /-- Updates of the hold-off so far; `none` when it has expired. -/
  hold : Option Nat := none
  /-- The range the predictor asks to engage. -/
  fire : Option (BitVec 4) := none
  /-- Consecutive updates in which the crossing test held (R220), or the firing condition failed (R224). -/
  cross : Nat := 0
  miss : Nat := 0
  /-- Commanded ranges that wait to be carried out (R215, R234). -/
  wantV : Option (BitVec 4) := none
  wantI : Option (BitVec 4) := none
  /-- The level that comes with a waiting change of the forced quantity's range (R216). -/
  wantLevel : Option Level := none
  /-- The range before a handover, for the blend (R221). -/
  old : BitVec 4 := 7
  /-- The change that a voltage range change interrupts and returns to, with its count (R224, R227). -/
  back : HState := .idle
  backSteps : Nat := 0
  /-- A commanded change off the lowest booster range waits for the current to fall (R234). -/
  waits : Bool := false
  /-- The sense gain G_b of I main (R213); 1 on an internal range. -/
  gb : Nat := 1
  /-- hist[15] of the last update, before its shift (R219). -/
  oldest : Nat := 0
  /-- System time at which V_SWITCH began, and then at which the voltage range switched (R227, R239). -/
  vAt : Nat := 0
  /-- Sum of the fast-path V of the periods in which the downward booster change presets the command (R99, R230). -/
  vSum : Int := 0
  /-- The code at which BOOST_DRV_n starts in an upward booster change (R230). -/
  boostC : Code := 0
  /-- The squashed overlap's switch conducted when its squash began (R224, R246). -/
  ovlOn : Bool := false
  /-- A commit commanded the last voltage range, the last current range (R264). -/
  vCommit : Bool := false
  iCommit : Bool := false
  /-- A migration through a bridge runs for the channel: its ranges are held as behind the bridge (R26, R27). -/
  borrow : Bool := false
  deriving DecidableEq, Repr

/-- A prepared bead or point (R261). -/
structure Prep where
  /-- Index of the bead, or of the anchor of a generated point. -/
  index : Nat
  /-- Index of the segment's end bead. -/
  endIndex : Nat
  point : Nat
  /-- Points of the segment. -/
  points : Nat
  level : Level
  compl : Level
  v : BitVec 4
  i : BitVec 4
  dwell : Nat
  sel : BitVec 4
  flags : BitVec 12
  link : BitVec 16
  /-- The mark of a failed check (R263). -/
  bad : Option Reason
  fixed : Bool
  /-- An uncorrectable word (R355). -/
  ue : Bool
  deriving DecidableEq, Repr

/-- The record of the bead in force (R282 … R284). -/
structure BeadRec where
  index : Nat
  commit : Nat
  silent : Bool
  limited : Bool
  v : Option (BitVec 24 × BitVec 4)
  i : Option (BitVec 24 × BitVec 4)
  clip : Bool
  disturbed : Bool
  tripped : Bool
  written : Bool
  /-- t_e of the last conversion of the pass. -/
  lastEnd : Option Nat
  /-- The ranges in force at the commit or at that t_e. -/
  ranges : BitVec 8
  /-- V and I are fast-path samples of a cut pulse; the record is written at the next boundary (R273). -/
  fast : Bool := false
  deriving DecidableEq, Repr

/-- The strand engine of a channel (R247 … R294). -/
structure StrandSt where
  st : StrandState := .idle
  reason : Reason := .none
  ended : Bool := false
  fixed : Bool := false
  bead : BitVec 16 := 0
  point : Nat := 0
  ahead : List Prep := []
  squashes : Word := 0
  lates : Word := 0
  /-- System time of the last commit and its dwell in loop periods; `none` before the first commit. -/
  committed : Option Nat := none
  dwell : Nat := 0
  /-- LAST of the present bead. -/
  last : Bool := false
  /-- The next point to prepare: bead index and point. -/
  cursor : Nat := 0
  cursorPt : Nat := 0
  /-- What follows the committed point: bead index and point (R265). -/
  nextBead : Nat := 0
  nextPt : Nat := 0
  /-- The LAST bead has been prepared. -/
  noMore : Bool := false
  holdUntil : Nat := 0
  stopReq : Bool := false
  /-- A squash event waits for its boundary (R264). -/
  squashReq : Bool := false
  /-- An end that waits for its boundary: the strongest reason so far (R324). -/
  endReq : Option Reason := none
  rcd : Option BeadRec := none
  /-- The end instant of a running pulse in cycles (R272), and its level. -/
  pulse : Option (Nat × Level) := none
  /-- CH_PULSE_BASE replaces the base target (R321). -/
  baseOn : Bool := false
  /-- The boundary at which the pass of a pulse bead starts (R272). -/
  passAt : Option Nat := none
  /-- A spanning set's commit order: the boundary T_c (R481). -/
  order : Option Nat := none
  /-- The tone generator was enabled by a tone bead (R278). -/
  toneOn : Bool := false
  /-- The boundary at which the last strand ended (R324). -/
  endAt : Option Nat := none
  deriving DecidableEq, Repr

/-- The larder partition of a channel (R285 … R287). -/
structure LarderSt where
  base : Nat := 0
  size : Nat := 1024
  wr : Word := 0
  rd : Word := 0
  lost : Word := 0
  stalls : Word := 0
  deriving DecidableEq, Repr

/-- A window of a channel (R295 … R315). -/
structure WinSt where
  appHi : BitVec 12 := 0xFFF
  appLo : BitVec 12 := 0
  hiOff : Bool := false
  loOff : Bool := false
  st : WinState := .inside
  /-- The boundary in cycles at which the window was armed, while its comparator settles (R302). -/
  arming : Option Nat := none
  tripHi : Bool := false
  tripLo : Bool := false
  refRange : BitVec 4 := 1
  /-- The full scale of the reference range when it was taken, in nA or µV (R307). -/
  refFs : Nat := 6000000
  trips : Word := 0
  time : Word := 0
  /-- This window tripped the output stage and has not returned inside (R117). -/
  stage : Bool := false
  /-- The trips of the sleeping bay that wait for the wake, oldest first: side and instant in cycles (R304, R310). -/
  late : List (WinState × Nat) := []
  deriving DecidableEq, Repr

/-- A channel: everything that follows it when its cell changes (R20). -/
structure Chan where
  map : ChMap
  decl : ChDecl
  fence : ChFence := .none
  /-- The registers as the register file holds them. -/
  cfg : ChanCfg
  /-- The registers as the data path last sampled them (R9). -/
  eff : ChanCfg
  force : ForceSt := {}
  loop : LoopSt := {}
  meas : MeasSt
  range : RangeSt := {}
  strand : StrandSt := {}
  larder : LarderSt
  winV : WinSt := {}
  winI : WinSt := { refRange := 7, refFs := 20000000 }
  /-- The sine phase accumulator (R275). -/
  phase : Word := 0
  /-- The stream queue, head first (R279); `none` is a sample that cannot be corrected (R355). -/
  queue : List (Option Level) := []
  streamOver : Word := 0
  deriving DecidableEq, Repr

/-! ### Cells -/

/-- The keeper of a cell (R148, R156, R515 … R517). -/
structure Keeper where
  armed : Bool := false
  hold : Bool := false
  held : Bool := false
  opened : Bool := false
  keep : Bool := false
  miss : BitVec 16 := 0
  /-- Updates since the last toggle of an armed keeper. -/
  quiet : Nat := 0
  /-- The clamp held, as the C_eff of the last completed period (R516). -/
  clamp : Level := 0
  deriving DecidableEq, Repr

/-- The applied copy of a locket record (R185). -/
structure Locket where
  cell : BitVec 16 := 0
  gen : Word := 0
  calTime : Word := 0
  calTemp : Word := 0
  modified : Word := 0
  /-- g and o of voltage ranges 0x0 … 0x2. -/
  force : Vector (BitVec 16 × BitVec 16) 3
  shunt : Vector Word 8
  /-- om and gm of entries 0 … 31. -/
  meas : Vector (Word × Word) 32
  deriving DecidableEq, Repr

/-- A cell: everything that stays with it (R20). -/
structure Cell where
  role : Role
  viaBridge : Bool := false
  /-- The channel whose pins the cell drives or shadows. -/
  channel : Option Ch
  stage : Stage := .off
  gain2 : Bool := false
  atten : Atten := .by1
  dac : Code := 0
  /-- The cell's output switch conducts; BOOST_DRV_n is driven away from 0 V. -/
  switchOn : Bool := false
  boostOn : Bool := false
  /-- The limiter code that drives BOOST_DRV_n (R102, R230); 0 drives it at 0 V. -/
  boostDrv : Code := 0
  keeper : Keeper := {}
  locketSt : LocketState := .notLoaded
  locket : Locket
  temp : BitVec 24 := 0
  locketSel : BitVec 7 := 0
  shunts : BitVec 8 := 0
  ovlIn : BitVec 4 := 0xF
  imainIn : BitVec 4 := 0xF
  iPow : Bool := false
  vPow : Bool := false
  iHi : Bool := false
  iLo : Bool := false
  vHi : Bool := false
  vLo : Bool := false
  simplex : Bool := false
  survivorB : Bool := false
  takeovers : BitVec 16 := 0
  matched : Bool := false
  run : BitVec 8 := 0
  diffUv : BitVec 16 := 0
  /-- Clock gates open (R458). -/
  awake : Bool := false
  /-- Rejected by a shadow since its last re-admission (R330). -/
  rejected : Bool := false
  /-- Fenced by a reaction while it still carries its channel (R374). -/
  condemned : Bool := false
  deriving DecidableEq, Repr

/-! ### Faults -/

/-- A fault message (R361); `injected` by FLT_INJECT (R392). -/
structure Msg where
  src : BitVec 10
  kind : BitVec 6
  addr : Word
  injected : Bool := false
  deriving DecidableEq, Repr

/-- A coffer record (R386): the fields of words 0 … 3. -/
structure FRec where
  src : BitVec 10
  kind : BitVec 6
  cls : FClass
  conseq : Bool
  coalesced : Bool
  escalated : Bool
  live : Bool
  acked : Bool
  injected : Bool
  tag : BitVec 8
  addr : Word
  time : Word
  seq : Word
  deriving DecidableEq, Repr

/-- A coalesce counter (R384). -/
structure Coal where
  src : BitVec 10
  kind : BitVec 6
  count : Nat
  first : Nat
  last : Nat
  cls : FClass
  escalated : Bool
  conseq : Bool
  tag : BitVec 8
  deriving DecidableEq, Repr

/-- What the collector keeps of one source (R370, R379, R397). -/
structure SrcSt where
  winStart : Nat := 0
  winCount : Nat := 0
  unackMinor : Bool := false
  unackMajor : Bool := false
  sticky : BitVec 64 := 0
  live : BitVec 64 := 0
  fences : BitVec 8 := 0
  fenced : Bool := false
  deriving DecidableEq, Repr

/-- A consequence window (R378): the source of the unit that the reaction fences, the cell that carried a fenced channel, the window's
start and end in ticks and its tag. -/
structure Conseq where
  src : BitVec 10
  cell : Option CellIx
  start : Nat
  until_ : Nat
  tag : BitVec 8
  deriving DecidableEq, Repr

/-- A reaction that waits for its boundary (R375): the source of the unit that it fences (the message's own for a Grave one). -/
structure Reaction where
  msg : Msg
  cls : FClass
  unit : BitVec 10
  tag : BitVec 8
  /-- The loop period of the classification: the boundary of the reaction lies behind it (R375). -/
  since : Nat := 0
  deriving DecidableEq, Repr

/-- The collector (R361 … R398). -/
structure Flt where
  grave : Bool := false
  lost : Bool := false
  persistOff : Bool := false
  /-- The LOST record of this flood has been written (R385). -/
  lostWritten : Bool := false
  srcs : Table SrcSt := []
  fifo : List FRec := []
  coal : List Coal := []
  coffer : Table FRec := []
  /-- Slots that have been persisted (R389). -/
  persisted : List Nat := []
  /-- Sequence numbers for which PERSIST_FAILED has been raised (R389). -/
  failed : List Word := []
  seq : Word := 1
  head : BitVec 12 := 0
  persistSeq : Word := 0
  tag : BitVec 8 := 0
  conseqs : List Conseq := []
  reactions : List Reaction := []
  srcSel : BitVec 10 := 0
  cofferSel : BitVec 12 := 0
  snap1 : Word := 0
  snap2 : Word := 0
  snap3 : Word := 0
  /-- FLT_INJECT_ADDR (R392). -/
  injectAddr : Word := 0
  lostCount : Word := 0
  coalCount : Word := 0
  overwrites : Word := 0
  readmitDone : Bool := false
  readmitRes : ReadmitResult := .ok
  readmitUnit : BitVec 4 := 0
  readmitIndex : BitVec 10 := 0
  alive : Bool := false
  deriving DecidableEq, Repr

/-! ### Attic -/

/-- Why a migration was asked for (R332). -/
inductive MigCause | fault | takeover | host | homecoming | readmit
  deriving DecidableEq, Repr

/-- A request for a migration (R332, R349). -/
structure MigReq where
  ch : Ch
  cause : MigCause
  keepOld : Bool
  /-- The cold kind of R364. -/
  cold : Bool
  lostOnce : Bool := false
  deriving DecidableEq, Repr

/-- The migration of a bay (R335, R359). -/
structure BayMig where
  busy : Bool := false
  done : Bool := false
  phase : MigPhase := .idle
  result : MigResult := .ok
  newCell : Option CellIx := none
  oldCell : Option CellIx := none
  ch : Option Ch := none
  cause : MigCause := .host
  keepOld : Bool := false
  cold : Bool := false
  /-- The bay that lends (R347), and the bridge taken. -/
  lender : Option Bay := none
  bridge : Option (Fin 7) := none
  /-- The cellar has confirmed the spare's locket (R338). -/
  confirmed : Bool := false
  /-- Updates spent in FORCE_CHECK or in SWAP (R339, R341). -/
  periods : Nat := 0
  /-- Cycles since which the shadow's V and I main filters, and its overlap filter, take the channel's inputs (R338). -/
  sinceVI : Nat := 0
  sinceOvl : Nat := 0
  /-- The boundary s of the swap in cycles (R341). -/
  swapAt : Nat := 0
  /-- A comparison of R337 failed. -/
  failed : Bool := false
  /-- This entry shows that the bay is occupied as a lender. -/
  lending : Bool := false
  deriving DecidableEq, Repr

/-- The attic and the SRAM (R330 … R360). -/
structure Att where
  homecoming : Bool := true
  useNominal : Bool := false
  tolUv : BitVec 16 := 0x28
  bridge : Vector (Option Ch) 7
  migrations : Word := 0
  rejects : Word := 0
  arbLosses : Word := 0
  ue : Bool := false
  exhausted : Bool := false
  spareRows : Nat := 512
  ueAddr : BitVec 22 := 0
  ce : Word := 0
  /-- Corrected errors per row since reset or its repair, and spare rows used per bank. -/
  rowErrs : Table Nat := []
  rowsUsed : Table Nat := []
  /-- The patrol's next word (R354). -/
  patrol : Nat := 0
  bays : Vector BayMig 8
  requests : List MigReq := []
  /-- Beads with an uncorrectable word that nothing has written since (R355). -/
  ueBeads : List (BitVec 16) := []
  /-- History entries that wait for persistence (R412). -/
  history : List (List Word) := []
  deriving DecidableEq, Repr

/-- A bay (R12, R51, R521, R522). -/
structure BaySt where
  awake : Bool := false
  waking : Bool := false
  /-- Loop periods in which nothing held the bay. -/
  idle : Nat := 0
  vrefExt : Bool := false
  vrefUv : Nat := 3000000
  sleepOk : Bool := true
  lend : Bool := true
  vposMv : BitVec 16 := 0
  vnegMv : BitVec 16 := 0
  fenced : Bool := false
  /-- Channels that the bay's fence sent to rest (R382). -/
  sent : List Ch := []
  /-- Loop periods of the present wake (R522). -/
  wakePeriods : Nat := 0
  /-- Host writes held until the bay is awake (R329). -/
  held : List (Addr × Word) := []
  deriving DecidableEq, Repr

/-! ### Image loader -/

/-- A clamp report entry (R48). -/
structure Clamp where
  field : BitVec 16
  inst : BitVec 16
  offered : Word
  applied : Word
  reason : ClampReason
  index : Nat
  deriving DecidableEq, Repr

/-- A load that has been validated and waits for its swap (R73). -/
structure LoadJob where
  src : ImgSource
  part : Bool
  /-- The working copy of the field values. -/
  vals : Table (List Word)
  /-- Keys that the load sets. -/
  sets : List Nat
  sections : List Nat
  clamps : List Clamp
  count : Nat
  crc : Word
  required : List Ch
  /-- Bead memory words that the load writes, by bead word number. -/
  beads : List (Nat × Word)
  deriving DecidableEq, Repr

/-- One library entry (R252, R410). -/
structure LibEntry where
  channel : BitVec 8 := 0xFF
  first : BitVec 16 := 0
  type : StrandType := .list
  deriving DecidableEq, Repr

/-- The image loader (R33 … R83). -/
structure Img where
  stage : Memory := []
  /-- Bytes written to the staging buffer since it was cleared, as the largest offset (R42 BAD_LENGTH). -/
  written : Nat := 0
  word : BitVec 16 := 0
  st : ImgState := .boot
  /-- The state that LOADING returns to (R82). -/
  before : ImgState := .boot
  done : Bool := false
  rejA : Bool := false
  rejB : Bool := false
  firstCh : BitVec 8 := 0xFF
  result : ImgResult := .ok
  part : Bool := false
  source : ImgSource := .none
  crc : Word := 0
  clampCount : Word := 0
  clampSel : BitVec 9 := 0
  clamps : List Clamp := []
  /-- The loader's own record of the applied fields, by field ID × 65,536 + instance (R46). -/
  vals : Table (List Word) := []
  job : Option LoadJob := none
  /-- Words of the staging buffer are uncorrectable (R355). -/
  stageUe : Bool := false
  library : Table LibEntry := []
  deriving DecidableEq, Repr

/-! ### Cellar -/

/-- A programmed page of the flash (R406). -/
structure FPage where
  block : Nat
  page : Nat
  region : Region
  setLast : Bool
  lpage : Nat
  seq : Nat
  set : Nat
  hour : Nat
  data : List Byte
  /-- The page's content cannot be corrected (R419). -/
  lost : Bool := false
  deriving DecidableEq, Repr

/-- The SPI NAND part (R399, R404). -/
structure Flash where
  /-- The descriptor of block 0: GEOM bits, BLOCKS, FORMATS, ID. -/
  desc : Option (BitVec 4 × Nat × Word × Word) := none
  /-- Blocks bad by marker. -/
  bad : List Nat := []
  pages : List FPage := []
  erases : Table Nat := []
  /-- Blocks whose page 0 carries REGION = 0 or that are blank count as free; the others are used. -/
  closed : List Nat := []
  deriving DecidableEq, Repr

/-- A command that the cellar sends to the part (R400). -/
inductive NandOp
  | reset
  | readId
  | getFeature (a : Byte)
  | setFeature (a v : Byte)
  | writeEnable
  | pageRead (row : Nat)
  | readCache (quad : Bool) (col : BitVec 16)
  | load (quad : Bool) (col : BitVec 16)
  | execute (row : Nat)
  | erase (row : Nat)
  deriving DecidableEq, Repr

/-- Work of the cellar (R416). Locket work has one flash operation for each copy; `second` is that of the other copy, by its number for a
store (R187, R188). -/
inductive CelWork
  | confirm (b : Bay) (second : Bool)
  | storeLocket (k : CellIx) (n : Option Ch) (second : Option Nat)
  | readLocket (k : CellIx) (second : Bool)
  | persist
  | command (c : BitVec 8)
  | writeRest
  | writeLibrary
  deriving DecidableEq, Repr

/-- The cellar manager (R399 … R431). -/
structure Cel where
  st : CelState := .start
  busy : Bool := false
  done : Bool := false
  result : CelResult := .ok
  lastCmd : BitVec 8 := 0
  quad : Bool := false
  plane : Bool := false
  bigPage : Bool := false
  ppb128 : Bool := false
  blocks : BitVec 16 := 0
  id : Word := 0
  clock : Word := 0
  boot : Word := 0
  corrMax : BitVec 8 := 0
  /-- SEQs of the pages that the present patrol pass has still to read (R417). -/
  pass : List Nat := []
  refreshes : Word := 0
  retires : Word := 0
  ues : Word := 0
  readHistory : Bool := false
  readBack : BitVec 16 := 0
  ready : Bool := false
  none_ : Bool := false
  readUe : Bool := false
  data : Vector Word 8
  /-- Program sequence number of the next page (R406). -/
  nextSeq : Nat := 1
  /-- Commands sent to the part in this loop period, oldest first (R400 … R402). -/
  sent : List NandOp := []
  /-- Work that waits, and the work in progress (R416). -/
  work : List CelWork := []
  running : Option CelWork := none
  refreshBits : Nat := 8
  maxAgeDays : Nat := 365
  passHours : Nat := 168
  deriving DecidableEq, Repr

/-! ### Clocks -/

/-- One CLK_BAND_x_i (R464). -/
structure Band where
  valid : Bool
  hi : BitVec 12
  lo : BitVec 12
  deriving DecidableEq, Repr

/-- A PLL (R437 … R446, R462, R463). -/
structure Pll where
  shM : BitVec 10 := 0
  shN : BitVec 16 := 0
  shP : BitVec 7
  actM : BitVec 10 := 0
  actN : BitVec 16 := 0
  actP : BitVec 7
  locked : Bool := false
  /-- LOCKED has held for 1,024 REFIN cycles (R440). -/
  held : Bool := false
  refOk : Bool := false
  lol : Bool := false
  lor : Bool := false
  done : Bool := false
  band : BitVec 6 := 0
  result : PllResult := .ok
  phase : PllPhase := .off
  bands : Vector Band 64
  deriving DecidableEq, Repr

/-- CLK_OUT_x (R455, R464) and whether the output runs. -/
structure ClkOut where
  coast : Bool := false
  fmt : OutFmt := .off
  divM1 : BitVec 10 := 0
  running : Bool := false
  deriving DecidableEq, Repr

/-- The clocks (R432 … R464). -/
structure Clk where
  guard : Guard := .ref
  unaligned : Bool := true
  refMismatch : Bool := false
  refClass : RefClass := .unfinished
  detect : BitVec 16 := 0
  guardCount : Word := 0
  xtal : Bool := false
  xtalLost : Bool := false
  pllA : Pll
  pllB : Pll
  outs : Vector ClkOut 4
  /-- CK_REFIN of the structure in force (R65). -/
  ckRefin : Bool := false
  /-- PLL_OFF (R523). -/
  pllOff : Bool := false
  deriving DecidableEq, Repr

/-! ### Link -/

/-- A link port (R467, R493). -/
structure PortSt where
  st : PortState := .off
  peer : Option (BitVec 12) := none
  lat : BitVec 16 := 0
  errs : Word := 0
  /-- The port has been UP since reset (R468). -/
  wasUp : Bool := false
  /-- CODE_ERROR has been raised in this epoch (R489). -/
  coded : Bool := false
  /-- Sendings of the packet at hand (R466). -/
  sends : Nat := 0
  deriving DecidableEq, Repr

/-- The link block (R465 … R493). -/
structure Lnk where
  root : Bool := false
  /-- Up-port history for the root rule (R469). -/
  enumBusy : Bool := false
  enumDone : Bool := false
  refusedFlag : Bool := false
  dup : Bool := false
  depth : BitVec 4 := 0
  lead : BitVec 4 := 2
  idStraps : Bool := false
  strap : BitVec 12 := 0
  /-- The tree ID of the last enumeration (R470, R472). -/
  treeId : BitVec 12 := 0
  enumerated : Bool := false
  maxDepth : BitVec 4 := 0
  devices : BitVec 13 := 0
  ports : Vector PortSt 4
  portEn : BitVec 4 := 0xF
  /-- On the root, the ID of every other device and the port that leads to it (R470, R485). -/
  routes : List (BitVec 12 × Port) := []
  rootLat : BitVec 16 := 0
  epochResync : Bool := false
  epochNo : BitVec 16 := 0
  offset : Word := 0
  steps : Word := 0
  /-- LK_EPOCH and the tick of the last marker sent (R477). -/
  epochTicks : Nat := 32768
  lastMarker : Nat := 0
  /-- The root has been unaligned since its last marker (R477). -/
  resyncNext : Bool := true
  /-- EPOCH_NOW waits for its boundary. -/
  epochReq : Bool := false
  fwdBusy : Bool := false
  fwdDone : Bool := false
  fwdError : FwdError := .none
  fwdCount : BitVec 7 := 0
  fwdDev : BitVec 12 := 0
  fwdBuf : Vector Word 64
  /-- Devices with their attention and Grave bits set (R488), rising. -/
  attn : List (BitVec 12)
  graves : List (BitVec 12)
  /-- Frames on their way to another device, oldest first: target and packet (R485). -/
  outbox : List (BitVec 12 × Packet) := []
  /-- The last marker sent or forwarded (R477). -/
  sent : Option Marker := none
  /-- A time step in progress: e_int and the cycles still to lengthen (R479). -/
  step : Option (Int × Nat) := none
  /-- The trim still to apply, in 1/64 cycle (R478). -/
  trim : Int := 0
  /-- Readiness reports of spanning sets (root), and orders sent (R481). -/
  reports : List Readiness := []
  orders : List (BitVec 8 × Nat) := []
  /-- Actions of spanning sets that the root carries out at a boundary, in cycles (R482). -/
  acts : List (SyncAct × BitVec 8 × Nat) := []
  /-- Whether this device is one the parent refused (R471). -/
  refused : Bool := false
  /-- Requests of spanning sets to the root that wait (R482, R453). -/
  waiting : List (SyncAct × BitVec 8) := []
  deriving DecidableEq, Repr

/-! ### Host port, power, JTAG -/

/-- The host port (R494 … R509). -/
structure HostPort where
  crcReq : Bool := false
  crcErr : Bool := false
  badFrame : Bool := false
  unmapped : Bool := false
  lastOp : BitVec 8 := 0
  crcErrs : Word := 0
  badFrames : Word := 0
  defers : Word := 0
  scratch : Word := 0
  /-- The snapshot of GLB_TIME_HI (R504). -/
  timeHi : Word := 0
  /-- The words and the CRC that the device drove in the last read, and whether it drove at all. -/
  out : List Word := []
  outCrc : BitVec 16 := 0
  drove : Bool := false
  deriving DecidableEq, Repr

/-- Power and start-up (R510 … R529). -/
structure Pwr where
  pllSleep : Bool := false
  holdAwake : BitVec 8 := 0
  govHit : Bool := false
  keeper : Bool := false
  railWait : Bool := false
  railWaited : Bool := false
  step : BootStep := .clocks
  limitMw : BitVec 16 := 0x7530
  totalMw : BitVec 16 := 0
  ceilMw : BitVec 9 := 0x12C
  startTicks : Word := 0
  /-- Consecutive loop periods at the minimum ceiling above the limit (R526). -/
  overCount : Nat := 0
  /-- The rail gate has acted since reset (R514), and the channels whose first rest sequence waits for it or for the rest values. -/
  gateDone : Bool := false
  waitRest : List Ch := []
  /-- The logic is held in reset, and by what: the POWER_UP address (R390). -/
  inReset : Bool := false
  source : BitVec 2 := 1
  /-- AONVDD has fallen: ticks and ALIVE stop until it returns (R518). -/
  aonDown : Bool := false
  /-- Start-up data that waits for the clocks (R513). -/
  boot : Option BootIn := none
  deriving DecidableEq, Repr

/-- The test access port (R392, R553). -/
structure Jtag where
  ir : JtagIr := .idcode
  factory : Bool := false
  /-- The level of TESTEN as last seen; its pull-down holds it low. -/
  testen : Bool := false
  /-- The sampled digital output pins: ALIVE, TRIG_OUT_0 … 3, the SIO drive, LOCK_A and LOCK_B, as this model orders them. -/
  boundary : BitVec 8 := 0
  dr : Word := 0
  deriving DecidableEq, Repr

/-- The machine. -/
structure State where
  /-- The commands that are waiting, first in, first out. -/
  pending : List Instr
  /-- System time in cycles at the start of the present loop period (R433). -/
  time : Nat
  /-- Always-on time in ticks, and the part of the next tick gone by in 1/937,500 (R4). -/
  ticks : Nat
  frac : Nat
  /-- Boundary requests of host writes that have landed and wait for the next boundary (R9). -/
  landed : List Instr
  /-- The model's own counter of free values drawn. -/
  draws : Nat
  chans : Vector Chan 64
  cells : Vector Cell 72
  bays : Vector BaySt 8
  /-- Bead memory, larder and sine tables, by byte address of the map. -/
  mem : Memory
  /-- Words of bead memory and of the sine tables that host writes have changed since the last boundary, by byte address, with the word that
  the data path still takes (R9). -/
  fresh : Table Word
  img : Img
  clk : Clk
  flt : Flt
  cel : Cel
  flash : Flash
  lnk : Lnk
  pwr : Pwr
  att : Att
  host : HostPort
  jtag : Jtag
  /-- TRIG_OUT pulses in progress: pin, channel, end in cycles (R291). -/
  marks : List (Fin 4 × Ch × Nat)
  /-- Accepted external strobes: set and the earliest cycle of the commit (R270). -/
  strobes : List (BitVec 8 × Nat)
  deriving DecidableEq, Repr

/-! ### Reset values -/

/-- CH_SEQ_e at reset (R205). -/
def seqReset : Vector SeqEntry 16 := (Vector.replicate 16 ({} : SeqEntry)).set 1 { input := 1 }

/-- The channel registers at reset. -/
def ChanCfg.reset : ChanCfg := { seq := seqReset, msel := Vector.replicate 4 0x10101010 }

/-- The nominal shunt of range `x` as a locket word: mantissa × 10^(E − 6) Ω (R185, R211). -/
def nominalShunt (x : Nat) : Word :=
  let w (e m : Nat) : Word := BitVec.ofNat 32 (e * 2 ^ 28 + m)
  match x with
  | 0 => w 8 5000000
  | 1 => w 8 500000
  | 2 => w 8 50000
  | 3 => w 8 5000
  | 4 => w 8 500
  | 5 => w 6 5000
  | 6 => w 6 500
  | _ => w 6 25

/-- Every trim 0 and every shunt nominal (R187). -/
def Locket.nominal (k : Nat) : Locket :=
  { cell := BitVec.ofNat 16 k, force := Vector.replicate 3 (0, 0),
    shunt := ⟨((List.range 8).map nominalShunt).toArray, by simp⟩, meas := Vector.replicate 32 (0, 0) }

/-- The cell that carries CH_n in bare structure (R19). -/
def bareCell (n : Ch) : CellIx := ⟨9 * (n.val / 8) + n.val % 8, by omega⟩

/-- The bay and the index of a cell (R12). -/
def CellIx.bay (k : CellIx) : Bay := ⟨k.val / 9, by omega⟩

def CellIx.index (k : CellIx) : Nat := k.val % 9

/-- CH_n at reset. -/
def Chan.reset (n : Ch) : Chan :=
  { map := { avail := false, bridged := false, member := false, claspSize := 0, claspLead := BitVec.ofNat 3 n.val, gen := 0,
             cell := some (bareCell n) },
    decl := { boost := Vector.replicate 3 (false, 1000000, 100000) },
    cfg := ChanCfg.reset, eff := ChanCfg.reset, meas := { vals := Vector.replicate 16 {} },
    larder := { base := n.val * 1024 } }

/-- CELL_k at reset: ACTIVE for k = 0 … 7 of its bay, SPARE for the last (R32). -/
def Cell.reset (k : CellIx) : Cell :=
  if h : CellIx.index k < 8 then
    { role := .active, channel := some ⟨k.val / 9 * 8 + k.val % 9, by simp only [CellIx.index] at h; omega⟩, locket := Locket.nominal k.val }
  else { role := .spare, channel := none, locket := Locket.nominal k.val }

/-- A band-table word as its fields (R464). -/
def Band.ofWord (w : Word) : Band := { valid := w.getLsbD 31, hi := w.extractLsb' 16 12, lo := w.extractLsb' 0 12 }

/-- The band tables measured at the factory (R438). -/
def factoryBands (p : Nat) : Vector Band 64 := ⟨((List.range 64).map fun i => Band.ofWord (Config.factoryBand p i)).toArray, by simp⟩

/-- The clocks at reset. -/
def Clk.reset : Clk :=
  { pllA := { shP := 8, actP := 8, bands := factoryBands 0 }, pllB := { shP := 4, actP := 4, bands := factoryBands 1 },
    outs := Vector.replicate 4 {} }

/-- The POWER_UP record, the first of the coffer after every reset; its address is the reset source (R390). -/
def powerUpRecord (source : Word) : FRec :=
  { src := 0x12A, kind := 0, cls := .note, conseq := false, coalesced := false, escalated := false, live := false, acked := false,
    injected := false, tag := 0, addr := source, time := 0, seq := 1 }

/-- The cells as a vector built from one function. -/
def tabulate {α : Type} (n : Nat) (f : Fin n → α) : Vector α n := ⟨((List.finRange n).map f).toArray, by simp⟩

/-- The machine right after reset: every field at the value of its table, the other state as R554 and the assumption log say. -/
def State.reset : State :=
  { pending := [], time := 0, ticks := 0, frac := 0, landed := [], draws := 0,
    chans := tabulate 64 Chan.reset, cells := tabulate 72 Cell.reset, bays := Vector.replicate 8 {}, mem := [], fresh := [],
    img := {}, clk := Clk.reset, flt := { coffer := [(0, powerUpRecord 1)] }, cel := { data := Vector.replicate 8 0 }, flash := {},
    lnk := { ports := Vector.replicate 4 {}, fwdBuf := Vector.replicate 64 0, attn := [], graves := [] },
    pwr := {}, att := { bridge := Vector.replicate 7 none, bays := Vector.replicate 8 {} }, host := {}, jtag := {},
    marks := [], strobes := [] }

end Sys2Proof.Machine
end

