-- ==== Sys2Proof/Machine/Ops.lean ====
section
/-! DEFINITION. The named operations over the state: tables, memory, channels, cells, bays, the applied image fields and the full
scales of the ranges. -/

namespace Sys2Proof.Machine

/-! ### Sparse tables -/

/-- `t` with `v` at key `k`, keys kept strictly rising. -/
def insertAt {α : Type} : List (Nat × α) → Nat → α → List (Nat × α)
  | [], k, v => [(k, v)]
  | (k', v') :: t, k, v =>
    if k < k' then (k, v) :: (k', v') :: t else if k = k' then (k, v) :: t else (k', v') :: insertAt t k v

/-- `t` without key `k`. -/
def removeAt {α : Type} : List (Nat × α) → Nat → List (Nat × α)
  | [], _ => []
  | (k', v') :: t, k => if k = k' then t else (k', v') :: removeAt t k

/-- The value at key `k`. -/
def findAt {α : Type} : List (Nat × α) → Nat → Option α
  | [], _ => none
  | (k', v') :: t, k => if k = k' then some v' else findAt t k

/-! ### Sine tables at reset (R276) -/

/-- π in units of 2^-96. -/
def piFix : Nat := 248902613312231085230521944622

/-- sin(2π i / 4,096) in units of 2^-96 for a first-quadrant `i` (0 … 1,024). -/
def sineQuadrant (i : Nat) : Int :=
  let x := 2 * piFix * i / 4096
  let rec go (fuel : Nat) (t : Int) (k : Nat) : Int :=
    match fuel with
    | 0 => 0
    | f + 1 => t + go f (-(t * x * x) / ((k + 1) * (k + 2)) / 2 ^ 192) (k + 2)
  go 20 x 1

/-- T[i] = round(524,287 × sin(2π i / 4,096)) (R276). -/
def sineEntry (i : Nat) : Int :=
  let j := i % 4096
  let q (m : Nat) : Int := rha (524287 * sineQuadrant m) (2 ^ 96)
  if j ≤ 1024 then q j
  else if j ≤ 2048 then q (2048 - j)
  else if j ≤ 3072 then -q (j - 2048)
  else -q (4096 - j)

/-! ### Memory -/

/-- What an unlisted byte of the mapped memories reads as: the sine tables of R276 in their region, 0 elsewhere (R554). -/
def memBackground (a : Nat) : Byte :=
  if 0x300000 ≤ a ∧ a < 0x308000 then
    (BitVec.ofInt 20 (sineEntry ((a - 0x300000) % 0x4000 / 4))).setWidth 32 |>.extractLsb' (8 * (a % 4)) 8
  else 0

/-- What an unlisted byte of the staging buffer reads as (R554). -/
def stageBackground (_ : Nat) : Byte := 0

/-- One byte of a memory over its background. -/
def readByte (bg : Nat → Byte) (m : Memory) (a : Nat) : Byte := (findAt m a).getD (bg a)

/-- A byte written, keeping the canonical form. -/
def writeByte (bg : Nat → Byte) (m : Memory) (a : Nat) (b : Byte) : Memory :=
  if b = bg a then removeAt m a else insertAt m a b

/-- Four bytes, least significant first. -/
def readMemWord (bg : Nat → Byte) (m : Memory) (a : Nat) : Word :=
  bytesWord [readByte bg m a, readByte bg m (a + 1), readByte bg m (a + 2), readByte bg m (a + 3)]

def writeMemWord (bg : Nat → Byte) (m : Memory) (a : Nat) (w : Word) : Memory :=
  writeByte bg (writeByte bg (writeByte bg (writeByte bg m a (w.extractLsb' 0 8)) (a + 1) (w.extractLsb' 8 8))
    (a + 2) (w.extractLsb' 16 8)) (a + 3) (w.extractLsb' 24 8)

/-- Keys strictly rising above `lo`, no entry equal to the background: the canonical form from a lower bound on. -/
def wfFrom (bg : Nat → Byte) : Nat → Memory → Bool
  | _, [] => true
  | lo, (a, b) :: t => decide (lo ≤ a) && decide (b ≠ bg a) && wfFrom bg (a + 1) t

/-- The canonical form of a memory. -/
def Memory.wf (bg : Nat → Byte) (m : Memory) : Bool := wfFrom bg 0 m

/-- The words of bead memory, the larder and the sine tables, by byte address of the map (R547). -/
def State.memWord (s : State) (a : Nat) : Word := readMemWord memBackground s.mem a

def State.setMemWord (s : State) (a : Nat) (w : Word) : State := { s with mem := writeMemWord memBackground s.mem a w }

/-- A host write to a word of bead memory or of a sine table: it reads back at once, and the data path takes it from the next boundary on
(R9). -/
def State.hostMemWord (s : State) (a : Nat) (w : Word) : State :=
  { (s.setMemWord a w) with fresh := if (findAt s.fresh a).isSome then s.fresh else insertAt s.fresh a (s.memWord a) }

/-- A memory word as the data path takes it (R9). -/
def State.pathWord (s : State) (a : Nat) : Word := (findAt s.fresh a).getD (s.memWord a)

/-- The entry of a sine table (R276). -/
def State.sineAt (s : State) (table : Bool) (i : Nat) : Int :=
  ((s.pathWord (0x300000 + 0x4000 * bit table + 4 * (i % 4096))).setWidth 20).toInt

/-! ### Channels, cells and bays -/

def State.ch (s : State) (n : Ch) : Chan := s.chans[n.val]

def State.setCh (s : State) (n : Ch) (c : Chan) : State := { s with chans := s.chans.set n.val c }

/-- Channel `n` changed by `f`, all else kept. -/
def State.upCh (s : State) (n : Ch) (f : Chan → Chan) : State := s.setCh n (f (s.ch n))

def State.cell (s : State) (k : CellIx) : Cell := s.cells[k.val]

def State.setCell (s : State) (k : CellIx) (c : Cell) : State := { s with cells := s.cells.set k.val c }

def State.upCell (s : State) (k : CellIx) (f : Cell → Cell) : State := s.setCell k (f (s.cell k))

/-- The cell that carries channel `n`, changed by `f`; nothing when no cell carries it. -/
def State.upCarrier (s : State) (n : Ch) (f : Cell → Cell) : State :=
  match (s.ch n).map.cell with
  | some k => s.upCell k f
  | none => s

def State.bay (s : State) (b : Bay) : BaySt := s.bays[b.val]

def State.upBay (s : State) (b : Bay) (f : BaySt → BaySt) : State := { s with bays := s.bays.set b.val (f (s.bay b)) }

/-- Every channel changed by `f`. -/
def State.allCh (s : State) (f : Ch → Chan → Chan) : State := { s with chans := tabulate 64 fun n => f n (s.ch n) }

/-- Every cell changed by `f`. -/
def State.allCells (s : State) (f : CellIx → Cell → Cell) : State := { s with cells := tabulate 72 fun k => f k (s.cell k) }

/-- Every bay changed by `f`. -/
def State.allBays (s : State) (f : Bay → BaySt → BaySt) : State := { s with bays := tabulate 8 fun b => f b (s.bay b) }

/-- All channels, cells and bays in ascending number. -/
def allChs : List Ch := List.finRange 64

def allCellIxs : List CellIx := List.finRange 72

def allBayIxs : List Bay := List.finRange 8

/-- The bay of a channel's pins and its local position (R13). -/
def chBay (n : Ch) : Bay := ⟨n.val / 8, by omega⟩

def chLocal (n : Ch) : Nat := n.val % 8

/-- The channels of a bay, the cells of a bay (R12, R13). -/
def bayChs (b : Bay) : List Ch := allChs.filter fun n => chBay n = b

def bayCells (b : Bay) : List CellIx := allCellIxs.filter fun k => CellIx.bay k = b

/-- The number of the present loop period (R4). -/
def State.period (s : State) : Nat := s.time / 256

/-- System time in 64 bits, and its low half (R162, R504). -/
def State.time64 (s : State) : BitVec 64 := BitVec.ofNat 64 s.time

def timeLo (t : Nat) : Word := BitVec.ofNat 32 t

/-- A change made when `b` holds. -/
def State.when (s : State) (b : Bool) (f : State → State) : State := if b then f s else s

/-- `f` over every element of a list in order. -/
def State.each {α : Type} (s : State) (l : List α) (f : α → State → State) : State := l.foldl (fun s a => f a s) s

/-- The next free value's number is taken. -/
def State.draw (s : State) : State := { s with draws := s.draws + 1 }

/-! ### Fields of the structure in force (R46) -/

/-- The number of a field's instance in the loader's own record. -/
def fieldKey (fid inst : Nat) : Nat := fid * 65536 + inst

/-- The words of a field's present value; `none` when no accepted load has set it (its default holds, R44, R46). -/
def State.field (s : State) (fid inst : Nat) : Option (List Word) := findAt s.img.vals (fieldKey fid inst)

/-- The first word of a field's present value, or its default. -/
def State.fieldNat (s : State) (fid inst dflt : Nat) : Nat :=
  match s.field fid inst with
  | some (w :: _) => w.toNat
  | _ => dflt

/-- A channel of a sync set, the set's span and strobe source (R63). -/
def State.setSpans (s : State) (t : BitVec 8) : Bool := s.fieldNat 0x3002 t.toNat 0 == 1

def State.setStrobe (s : State) (t : BitVec 8) : Nat := s.fieldNat 0x3003 t.toNat 0

/-- The members of a sync set. -/
def State.setMembers (s : State) (t : BitVec 8) : List Ch :=
  if t = 0 then [] else allChs.filter fun n => (s.ch n).decl.syncSet == t && (s.ch n).decl.enabled

/-! ### Clasps and bridges (R21 … R27) -/

/-- Channels in the clasp: 1 outside a clasp. -/
def Chan.claspM (c : Chan) : Nat := c.map.claspSize.toNat + 1

/-- The lead of the clasp that channel `n` belongs to. -/
def State.lead (s : State) (n : Ch) : Ch :=
  ⟨n.val / 8 * 8 + (s.ch n).map.claspLead.toNat, by have := (s.ch n).map.claspLead.isLt; omega⟩

/-- The member channels of the clasp whose lead is `n`, in ascending order. -/
def State.members (s : State) (n : Ch) : List Ch :=
  (bayChs (chBay n)).filter fun j => (s.ch j).map.member && (s.lead j == n) && (j != n)

/-- The member cells of the clasp whose lead is `n`. -/
def State.memberCells (s : State) (n : Ch) : List CellIx := (s.members n).filterMap fun j => (s.ch j).map.cell

/-! ### Full scales (R87, R163, R211, R212) -/

/-- Full scale of a voltage range in µV. -/
def fsVolt (v : BitVec 4) : Nat := if v = 0 then 1500000 else if v = 1 then 6000000 else 12000000

/-- Full scale of an internal current range in nA. -/
def fsAmp : Nat → Nat
  | 0 => 1
  | 1 => 10
  | 2 => 100
  | 3 => 1000
  | 4 => 10000
  | 5 => 100000
  | 6 => 1000000
  | _ => 20000000

/-- A current range is a booster range (R1, R212). -/
def isBoost (i : BitVec 4) : Bool := decide (8 ≤ i.toNat)

/-- The full scale in nA of current range `i` on the channel (R22, R211, R212). -/
def Chan.fsI (c : Chan) (i : BitVec 4) : Nat :=
  if h : 8 ≤ i.toNat ∧ i.toNat < 11 then (c.decl.boost[i.toNat - 8]'(by omega)).2.2 * 1000
  else if i.toNat = 7 ∧ ¬ c.map.member then c.claspM * 20000000
  else fsAmp i.toNat

/-- The full scale in µV of voltage range `v` while current range `i` is active (R56, R163). -/
def Chan.fsVOn (c : Chan) (v i : BitVec 4) : Nat :=
  if isBoost i then max 12000000 (c.decl.vfsMv * 1000) else fsVolt v

/-- Full scales of the active ranges. -/
def Chan.fsv (c : Chan) : Nat := c.fsVOn c.range.v c.range.i

def Chan.fsi (c : Chan) : Nat := c.fsI c.range.i

/-- Full scale of the forced quantity and of the compliance quantity on the active ranges, in µV or nA (R85, R129). -/
def Chan.fsForced (c : Chan) : Nat := if c.eff.mode = .voltage then c.fsv else c.fsi

def Chan.fsCompl (c : Chan) : Nat := if c.eff.mode = .voltage then c.fsi else c.fsv

/-- Booster range `i` is declared (R54). -/
def Chan.declared (c : Chan) (i : BitVec 4) : Bool :=
  if h : 8 ≤ i.toNat ∧ i.toNat < 11 then (c.decl.boost[i.toNat - 8]'(by omega)).1 else decide (i.toNat < 8)

/-- The highest declared current range (R217). -/
def Chan.topRange (c : Chan) : BitVec 4 :=
  if c.declared 10 then 10 else if c.declared 9 then 9 else if c.declared 8 then 8 else 7

/-! ### Loop and output states -/

/-- Either loop is closed: any state but OPEN and PENDING (R135). -/
def LoopState.closed (l : LoopState) : Bool := match l with
  | .opened | .pending => false
  | _ => true

/-- The output switch is closed, by the state of the output (R117). -/
def OutState.switchClosed (o : OutState) (tripped : Bool) : Bool := match o with
  | .closed | .restHold => true
  | .resting => !tripped
  | _ => false

/-- The channel is at rest (R107): its rest sequence runs or has ended. -/
def OutState.atRest (o : OutState) : Bool := match o with
  | .resting | .restHold | .restOpen => true
  | _ => false

/-- A strand runs or is armed (R94, R258). -/
def StrandState.active (t : StrandState) : Bool := match t with
  | .armed | .running | .waitSet | .stalled => true
  | _ => false

/-- A strand runs (R292). -/
def StrandState.runs (t : StrandState) : Bool := match t with
  | .running | .waitSet | .stalled => true
  | _ => false

/-- A calibration session is open (R190). -/
def CalSt.isOpen (c : CalSt) : Bool := decide (c.st ≠ .idle)

/-- Update count of a low-power channel (R5): one update lasts 4 loop periods. -/
def Chan.lpStep (c : Chan) : Nat := if c.decl.lowPower then 4 else 1

/-- The dissipation bound as a level of the active current range, rounded toward zero (R144); it is not applied on booster ranges (R145). -/
def Chan.icapLevel (c : Chan) : Nat :=
  match c.loop.icap with
  | some u => if isBoost c.range.i then maxLevel else min maxLevel (u / c.fsi)
  | none => maxLevel

/-! ### The analog clamp (R98, R107, R145) -/

/-- The rest values rule the channel: it is at rest, its rest sequence closes the switch, or a CLOSE closes it out of REST_OPEN
(R107, R108, R110). -/
def ForceSt.rests (f : ForceSt) : Bool := f.out.atRest || f.closeRest || f.fromRest

/-- The rest sequence runs: it ranks above strobes, OPEN and CLOSE writes and the loops (R108, R111). -/
def ForceSt.resting (f : ForceSt) : Bool := f.out == .resting || f.closeRest

/-- The setting of the analog clamp that the channel's state asks for, in the unit of `ForceSt.clamp`, and whether it is engaged: 110 % of
full scale with the loops closed; otherwise RS_ILIMIT_NA at rest and the current limit as a level of the active range elsewhere, both lowered
by the dissipation bound (R98, R127, R145). -/
def Chan.clampWanted (c : Chan) : Bool × Nat :=
  let fs := c.fsi
  if c.loop.st.closed then (false, fs * 11 * 2 ^ 31)
  else
    let lim := if c.force.rests then 10 * (c.force.rsIlimitNa * 2 ^ 31) else 10 * (boundLevel c.eff.ilimitNa.toNat fs * fs)
    (true, if c.icapLevel < maxLevel then min lim (10 * (c.icapLevel * fs)) else lim)

def Chan.reclamp (c : Chan) : Chan :=
  { c with force := { c.force with clampOn := c.clampWanted.1, clamp := c.clampWanted.2 } }

/-! ### The data path's sampling (R9) -/

/-- The engaged overlap is squashed: its switch ramps off over the next updates (R224). A voltage range change that interrupts it
returns to SQUASHING. -/
def Chan.squash (c : Chan) : Chan :=
  let engaged (h : HState) : Bool := h == .engaging || h == .overlap
  let on (h : HState) (k : Nat) : Bool := h == .overlap || decide (2 ≤ k)
  let r := c.range
  let r' := { r with squashes := satInc r.squashes, squashed := true, cross := 0, miss := 0 }
  if engaged r.hst then { c with range := { r' with hst := .squashing, steps := 0, ovlOn := on r.hst r.steps } }
  else if r.hst == .vSwitch && engaged r.back then { c with range := { r' with back := .squashing, backSteps := 0, ovlOn := on r.back r.backSteps } }
  else c

/-- The predictor's history, counters and request are cleared (R219). -/
def RangeSt.forget (r : RangeSt) : RangeSt := { r with hist := [], upCnt := 0, dnCnt := 0, fire := none }

/-- A new autorange policy, and a new mode, in which the policy acts or not (R214, DEDUCED, see notes/assumptions), clears the predictor's
history and squashes the overlap that it engaged (R219, R224); one that a commanded change waits for is kept (R240). -/
def Chan.newPolicy (c : Chan) : Chan :=
  let c := { c with range := c.range.forget }
  if c.range.origin = .predictor ∧ c.range.wantI.isNone then c.squash else c

/-- The range of the compliance quantity. -/
def Chan.complRangeNow (c : Chan) : BitVec 4 := if c.eff.mode = .voltage then c.range.i else c.range.v

/-- A new mode takes the compliance word as a word of its own compliance quantity (R97, R129). -/
def Chan.newMode (c : Chan) : Chan :=
  { c with range := { c.range with complRef := c.loop.complApplied, complRange := c.complRangeNow, complFs := c.fsCompl } }

/-- The data path samples the channel's registers at the start of loop period `p` (R9). A channel that enters class 1 starts its stream
count (R95). A change of a window's mode is taken by the operation that arms the window (R300). -/
def Chan.sampled (c : Chan) (p : Nat) : Chan :=
  let old := c.eff
  let c := { c with eff := { c.cfg with winV := { c.cfg.winV with mode := old.winV.mode }, winI := { c.cfg.winI with mode := old.winI.mode } } }
  let c := if c.cfg.policy = old.policy ∧ c.cfg.mode = old.mode then c else c.newPolicy
  let c := if c.cfg.mode = old.mode then c else c.newMode
  let c := if c.cfg.cls = .stream ∧ old.cls ≠ .stream then
      { c with force := { c.force with streamStart := p, streamLast := c.force.applied } }
    else c
  c.reclamp

end Sys2Proof.Machine
end

