-- ==== Sys2Proof/Machine/Collect.lean ====
section
/-! DEFINITION. The fault collector as a shared operation: sources, default classes, counting, escalation, the intake FIFO, coalesce
counters and the scheduling of reactions (R361 … R385). -/

namespace Sys2Proof.Machine

/-! ### Sources (R363) -/

def srcCell (k : CellIx) : BitVec 10 := BitVec.ofNat 10 k.val
def srcCh (n : Ch) : BitVec 10 := BitVec.ofNat 10 (0x80 + n.val)
def srcBay (b : Bay) : BitVec 10 := BitVec.ofNat 10 (0xC0 + b.val)
def srcBridge (g : Fin 7) : BitVec 10 := BitVec.ofNat 10 (0xC8 + g.val)
def srcImage : BitVec 10 := 0x120
def srcHost : BitVec 10 := 0x121
def srcCellar : BitVec 10 := 0x122
def srcLink (p : Port) : BitVec 10 := BitVec.ofNat 10 (0x124 + p.val)
def srcPower : BitVec 10 := 0x128
def srcAttic : BitVec 10 := 0x129
def srcCollector : BitVec 10 := 0x12A

/-- The groups of sources (R363). -/
inductive SrcGroup
  | cell (k : CellIx) | channel (n : Ch) | bay (b : Bay) | bridge (g : Fin 7) | bank (n : Nat) | image | host | cellar
  | link (p : Port) | power | attic | collector | unused
  deriving DecidableEq, Repr

def srcGroup (src : BitVec 10) : SrcGroup :=
  let v := src.toNat
  if h : v < 72 then .cell ⟨v, h⟩
  else if h : 0x80 ≤ v ∧ v < 0xC0 then .channel ⟨v - 0x80, by omega⟩
  else if h : 0xC0 ≤ v ∧ v < 0xC8 then .bay ⟨v - 0xC0, by omega⟩
  else if h : 0xC8 ≤ v ∧ v < 0xCF then .bridge ⟨v - 0xC8, by omega⟩
  else if 0x100 ≤ v ∧ v < 0x120 then .bank (v - 0x100)
  else if v = 0x120 then .image
  else if v = 0x121 then .host
  else if v = 0x122 then .cellar
  else if h : 0x124 ≤ v ∧ v < 0x128 then .link ⟨v - 0x124, by omega⟩
  else if v = 0x128 then .power
  else if v = 0x129 then .attic
  else if v = 0x12A then .collector
  else .unused

/-! ### Codes (R364 … R368) -/

/-- Default class of a listed code and whether it has a live bit; `none` for a code that is never sent. -/
def codeInfo (src : BitVec 10) (kind : Nat) : Option (FClass × Bool) :=
  match srcGroup src, kind with
  | .cell _, 0x0 => some (.minor, false)
  | .cell _, 0x1 => some (.major, true)
  | .cell _, 0x2 => some (.major, false)
  | .cell _, 0x3 => some (.major, false)
  | .cell _, 0x4 => some (.major, true)
  | .cell _, 0x5 => some (.major, true)
  | .cell _, 0x6 => some (.minor, false)
  | .cell _, 0x7 => some (.minor, false)
  | .cell _, 0x8 => some (.minor, false)
  | .cell _, 0x9 => some (.major, true)
  | .cell _, 0xA => some (.major, true)
  | .cell _, 0xB => some (.minor, false)
  | .cell _, 0xC => some (.note, false)
  | .cell _, 0xD => some (.minor, false)
  | .channel _, 0x0 => some (.note, false)
  | .channel _, 0x1 => some (.note, false)
  | .channel _, 0x2 => some (.note, false)
  | .channel _, 0x3 => some (.minor, false)
  | .channel _, 0x4 => some (.minor, false)
  | .channel _, 0x5 => some (.minor, false)
  | .channel _, 0x6 => some (.minor, false)
  | .channel _, 0x7 => some (.major, false)
  | .channel _, 0x8 => some (.minor, false)
  | .channel _, 0x9 => some (.major, false)
  | .channel _, 0xA => some (.minor, false)
  | .bay _, 0x0 => some (.minor, false)
  | .bay _, 0x1 => some (.major, false)
  | .bay _, 0x2 => some (.major, true)
  | .bay _, 0x3 => some (.minor, false)
  | .bridge _, 0x0 => some (.major, false)
  | .bank _, 0x0 => some (.note, false)
  | .bank _, 0x1 => some (.minor, false)
  | .bank _, 0x2 => some (.major, false)
  | .image, 0x0 => some (.minor, false)
  | .image, 0x1 => some (.minor, false)
  | .image, 0x2 => some (.note, false)
  | .image, 0x3 => some (.note, false)
  | .image, 0x4 => some (.note, false)
  | .host, 0x0 => some (.note, false)
  | .host, 0x1 => some (.note, false)
  | .host, 0x2 => some (.note, false)
  | .cellar, 0x0 => some (.note, false)
  | .cellar, 0x1 => some (.note, false)
  | .cellar, 0x2 => some (.minor, false)
  | .cellar, 0x3 => some (.minor, true)
  | .cellar, 0x4 => some (.major, true)
  | .link _, 0x0 => some (.note, false)
  | .link _, 0x1 => some (.major, true)
  | .link _, 0x2 => some (.note, true)
  | .power, 0x0 => some (.note, true)
  | .power, 0x1 => some (.grave, false)
  | .power, 0x2 => some (.grave, false)
  | .attic, 0x0 => some (.note, false)
  | .attic, 0x1 => some (.note, false)
  | .attic, 0x2 => some (.minor, false)
  | .attic, 0x3 => some (.note, false)
  | .collector, 0x0 => some (.note, false)
  | .collector, 0x1 => some (.minor, false)
  | .collector, 0x2 => some (.minor, false)
  | .collector, 0x3 => some (.minor, false)
  | _, _ => none

def FClass.rank : FClass → Nat
  | .note => 0
  | .minor => 1
  | .major => 2
  | .grave => 3

def FClass.ofRank : Nat → FClass
  | 0 => .note
  | 1 => .minor
  | 2 => .major
  | _ => .grave

/-- The class raised by one level (R371). -/
def FClass.raise : FClass → FClass
  | .note => .minor
  | .minor => .major
  | _ => .grave

/-- The class of a code: its FT_CLASS, never below the default class (R64, R368). -/
def State.codeClass (s : State) (src : BitVec 10) (kind : BitVec 6) : FClass :=
  let d := match codeInfo src kind.toNat with
    | some (c, _) => c
    | none => .note
  FClass.ofRank (max d.rank (s.fieldNat 0x3404 (src.toNat * 64 + kind.toNat) d.rank))

/-- FT_N, FT_W and FT_CONSEQ (R64). -/
def State.ftN (s : State) (src : BitVec 10) : Nat := s.fieldNat 0x3401 src.toNat 4
def State.ftW (s : State) (src : BitVec 10) : Nat := s.fieldNat 0x3402 src.toNat 32768
def State.ftConseq (s : State) : Nat := s.fieldNat 0x3403 0 256

/-! ### State of a source -/

def Flt.srcSt (f : Flt) (src : BitVec 10) : SrcSt := (findAt f.srcs src.toNat).getD {}

def Flt.upSrc (f : Flt) (src : BitVec 10) (g : SrcSt → SrcSt) : Flt :=
  { f with srcs := insertAt f.srcs src.toNat (g (f.srcSt src)) }

def State.upFlt (s : State) (g : Flt → Flt) : State := { s with flt := g s.flt }

def SrcSt.unack (x : SrcSt) : FClass → Bool
  | .minor => x.unackMinor
  | .major => x.unackMajor
  | _ => false

/-- A unit is fenced, or its fence waits for its boundary (R374). -/
def Flt.fencedOrDue (f : Flt) (unit : BitVec 10) : Bool :=
  (f.srcSt unit).fenced || f.reactions.any fun r => r.unit == unit && r.cls == .major

/-- The fence of a unit is recorded (R397). -/
def Flt.fence (f : Flt) (unit : BitVec 10) : Flt :=
  if (f.srcSt unit).fenced then f else f.upSrc unit fun x => { x with fenced := true, fences := satInc x.fences }

def Flt.unfence (f : Flt) (unit : BitVec 10) : Flt := f.upSrc unit fun x => { x with fenced := false }

/-! ### Consequence windows (R378) -/

/-- A consequence window covers a code; `none` as the kind asks whether it covers the source at all (R397). -/
def Conseq.covers (w : Conseq) (src : BitVec 10) (kind : Option Nat) : Bool :=
  let low := match kind with
    | some k => decide (k < 2)
    | none => true
  src == w.src || match srcGroup w.src with
  | .cell k => src == srcBay (CellIx.bay k) && low
  | .channel n => (match w.cell with
      | some k => src == srcCell k
      | none => false) || (src == srcBay (chBay n) && low)
  | .bay b => (match srcGroup src with
      | .cell k => decide (CellIx.bay k = b)
      | .channel n => decide (chBay n = b)
      | _ => false)
  | .bridge g => (src == BitVec.ofNat 10 (0xC0 + g.val) || src == BitVec.ofNat 10 (0xC1 + g.val)) && low
  | _ => false

def Conseq.isOpen (w : Conseq) (t : Nat) : Bool := decide (w.start ≤ t) && decide (t < w.until_)

/-- The tag of the newest open window that covers a code. -/
def Flt.conseqTag (f : Flt) (src : BitVec 10) (kind : Option Nat) (t : Nat) : Option (BitVec 8) :=
  (f.conseqs.reverse.find? fun w => w.isOpen t && w.covers src kind).map (·.tag)

/-! ### Reactions -/

/-- The next cause tag, 0xFF followed by 0x01 (R373). -/
def nextTag (t : BitVec 8) : BitVec 8 := if t = 0xFF then 1 else t + 1

/-- A kind of a cell's fault that makes the migration cold (R364): the channel's output opens first. -/
def coldKind (k : BitVec 6) : Bool := k == 1 || k == 2 || k == 3 || k == 4 || k == 9

/-- The unit that a Major reaction fences (R374): `none` where the table names none. -/
def majorUnit (m : Msg) : Option (BitVec 10) :=
  match srcGroup m.src, m.kind.toNat with
  | .bay _, 1 => some (BitVec.ofNat 10 (0x80 + bits m.addr 8 6))
  | .cell _, _ | .channel _, _ | .bay _, 2 | .bridge _, _ | .cellar, _ | .link _, _ => some m.src
  | _, _ => none

/-- The cell of the channel that a reaction fences, for its consequence window. -/
def State.conseqCell (s : State) (unit : BitVec 10) : Option CellIx :=
  match srcGroup unit with
  | .channel n => (s.ch n).map.cell
  | _ => none

/-- A Major reaction starts: tag, consequence window and the fence that waits for its boundary (R373 … R375, R378). A unit already fenced
is only logged. -/
def State.startMajor (s : State) (m : Msg) : Flt × BitVec 8 :=
  let f := s.flt
  match majorUnit m with
  | none => ({ f with tag := nextTag f.tag }, nextTag f.tag)
  | some u =>
    if f.fencedOrDue u then (f, 0)
    else
      let t := nextTag f.tag
      ({ f with tag := t,
                conseqs := (f.conseqs.filter fun w => w.src != u && w.isOpen s.ticks) ++
                  [{ src := u, cell := s.conseqCell u, start := s.ticks, until_ := s.ticks + s.ftConseq, tag := t }],
                reactions := f.reactions ++ [{ msg := m, cls := .major, unit := u, tag := t, since := s.period }] }, t)

/-- The Grave latch (R376): in the cycle of classification the latch is set and ALIVE driven low; the rest follows at the boundary. -/
def State.startGrave (s : State) (m : Msg) : Flt × BitVec 8 :=
  let t := nextTag s.flt.tag
  ({ s.flt with tag := t, grave := true, alive := false,
                reactions := s.flt.reactions ++ [{ msg := m, cls := .grave, unit := m.src, tag := t, since := s.period }] }, t)

/-! ### The intake FIFO and the coalesce counters (R383 … R385) -/

/-- A classified message as a record that waits to be written. -/
def recOf (m : Msg) (c : FClass) (conseq esc : Bool) (tag : BitVec 8) (t : Nat) : FRec :=
  { src := m.src, kind := m.kind, cls := c, conseq := conseq, coalesced := false, escalated := esc, live := false, acked := false,
    injected := m.injected, tag := tag, addr := m.addr, time := BitVec.ofNat 32 t, seq := 0 }

/-- A code holds a coalesce counter. -/
def Flt.holds (f : Flt) (src : BitVec 10) (kind : BitVec 6) : Bool := f.coal.any fun c => c.src == src && c.kind == kind

def Coal.add (c : Coal) (r : FRec) (t : Nat) : Coal :=
  { c with count := min (c.count + 1) 65535, last := t, cls := if c.cls.rank < r.cls.rank then r.cls else c.cls,
           escalated := c.escalated || r.escalated, conseq := c.conseq && r.conseq, tag := r.tag }

/-- The record enters the FIFO, or a coalesce counter, or is lost. -/
def Flt.intake (f : Flt) (r : FRec) (t : Nat) : Flt :=
  if f.holds r.src r.kind then
    { f with coal := f.coal.map fun c => if c.src == r.src && c.kind == r.kind then c.add r t else c }
  else if f.fifo.length < (if r.cls.rank ≤ 1 then 56 else 64) then { f with fifo := f.fifo ++ [r] }
  else if f.coal.length < 128 then
    { f with coal := f.coal ++ [{ src := r.src, kind := r.kind, count := 1, first := t, last := t, cls := r.cls,
                                  escalated := r.escalated, conseq := r.conseq, tag := r.tag }] }
  else { f with lost := true, lostCount := satInc f.lostCount }

/-! ### Classification (R370) -/

/-- A kind's live bit is set while its condition holds; an injected message has no condition (R379, R392). -/
def Flt.markSticky (f : Flt) (m : Msg) : Flt :=
  f.upSrc m.src fun x =>
    { x with sticky := x.sticky ||| (1#64 <<< m.kind.toNat),
             live := if !m.injected && (match codeInfo m.src m.kind.toNat with
                       | some (_, l) => l
                       | none => false)
                     then x.live ||| (1#64 <<< m.kind.toNat) else x.live }

/-- The counting model of R370 for a message of class Minor or Major: the source's new state, the class and whether it was raised. -/
def State.count (s : State) (m : Msg) (c : FClass) : SrcSt × FClass × Bool :=
  let x := s.flt.srcSt m.src
  let fresh := decide (x.winCount = 0) || decide (x.winStart + s.ftW m.src ≤ s.ticks)
  let k := (if fresh then 0 else x.winCount) + 1
  let full := decide (s.ftN m.src ≤ k)
  let up := full || x.unack c
  let c' := if up then c.raise else c
  ({ x with winStart := if fresh then s.ticks else x.winStart, winCount := if full then 0 else k,
            unackMinor := x.unackMinor || c' == .minor, unackMajor := x.unackMajor || c' == .major }, c', up)

/-- The state of the collector after it has counted a message that no consequence window covers, with its class and tag. -/
def State.classify (s : State) (m : Msg) : Flt × FClass × Bool × BitVec 8 :=
  let c := s.codeClass m.src m.kind
  let r : SrcSt × FClass × Bool := if c = .minor ∨ c = .major then s.count m c else (s.flt.srcSt m.src, c, false)
  let s := s.upFlt fun f => f.upSrc m.src fun _ => r.1
  let x : Flt × BitVec 8 := match r.2.1 with
    | .grave => s.startGrave m
    | .major => s.startMajor m
    | _ => (s.flt, 0)
  (x.1, r.2.1, r.2.2, x.2)

/-- The collector takes one message (R369 … R385). It changes nothing but the collector's state. -/
def State.collectFlt (s : State) (m : Msg) : Flt :=
  match codeInfo m.src m.kind.toNat with
  | none => s.flt
  | some _ =>
    match (if s.flt.grave then some s.flt.tag else s.flt.conseqTag m.src (some m.kind.toNat) s.ticks) with
    | some tag => (s.flt.markSticky m).intake (recOf m (s.codeClass m.src m.kind) true false tag s.ticks) s.ticks
    | none =>
      let r := s.classify m
      (r.1.markSticky m).intake (recOf m r.2.1 false r.2.2.1 r.2.2.2 s.ticks) s.ticks

def State.collect (s : State) (m : Msg) : State := { s with flt := s.collectFlt m }

/-- A message by its parts. -/
def State.post (s : State) (src : BitVec 10) (kind : Nat) (addr : Nat) : State :=
  s.collect { src := src, kind := BitVec.ofNat 6 kind, addr := BitVec.ofNat 32 addr }

/-- A write that another rule ignores with a Note fault from its channel: kind 0x00, address the page offset (R365). -/
def State.noteCh (s : State) (n : Ch) (off : Nat) : State := s.post (srcCh n) 0 off

/-- The image loader's WRITE_IGNORED, with the register's address (R367). -/
def State.noteImg (s : State) (addr : Nat) : State := s.post srcImage 4 addr

/-- The address word of a cell's message: unit, channel and detail (R364). -/
def State.cellAddr (s : State) (k : CellIx) (unit detail : Nat) : Nat :=
  unit * 2 ^ 24 + (match (s.cell k).channel with
    | some n => n.val
    | none => 0xFF) * 2 ^ 16 + detail % 65536

def State.postCell (s : State) (k : CellIx) (kind unit detail : Nat) : State :=
  s.post (srcCell k) kind (s.cellAddr k unit detail)

/-- A condition behind a live kind begins without a message (R364, R379). -/
def State.beginLive (s : State) (src : BitVec 10) (kind : Nat) : State :=
  s.upFlt fun f => f.upSrc src fun x => { x with live := x.live ||| (1#64 <<< kind) }

/-- A condition behind a live kind ends (R379). -/
def State.endLive (s : State) (src : BitVec 10) (kind : Nat) : State :=
  s.upFlt fun f => f.upSrc src fun x => { x with live := x.live &&& ~~~ (1#64 <<< kind) }

end Sys2Proof.Machine
end

