-- ==== Sys2Proof/Machine/ChanOps.lean ====
section
/-! DEFINITION. Operations on one channel that several commands share: conversions, calibration sessions, window thresholds, ranges,
overlaps and the loops (R101, R140, R173, R194, R215 … R227, R307). -/

namespace Sys2Proof.Machine

/-! ### Conversions -/

/-- The conversions that satisfy `p` abort and deliver nothing; any abort ends a free run (R171). -/
def Chan.abortConvs (c : Chan) (p : Conv → Bool) : Chan :=
  { c with meas := { c.meas with convs := c.meas.convs.filter fun v => !p v, freeRun := c.meas.freeRun && !c.meas.convs.any p } }

/-- The conversions that satisfy `p` abort, counted, and restart later in ascending order of start (R173, R176). -/
def Chan.restartConvs (c : Chan) (p : Conv → Bool) : Chan :=
  let hit := c.meas.convs.filter p
  { c with meas := { c.meas with convs := c.meas.convs.filter fun v => !p v, freeRun := c.meas.freeRun && hit.isEmpty,
                                 restarts := satAdd c.meas.restarts hit.length,
                                 redo := c.meas.redo ++ hit.map fun v => (v.kind, v.entry) } }

/-- Ranging takes the overlap modulator: the conversion running on it aborts and restarts after the release (R173). -/
def Chan.takeOverlap (c : Chan) : Chan :=
  let c := c.restartConvs fun v => v.md == .ovl && v.input != 3
  { c with meas := { c.meas with lastOvl := none } }

/-- A range change or a clock event spoils an open demodulator window (R199, R450). -/
def DemodSt.spoil (d : DemodSt) : DemodSt := { d with open_ := false, disturbed := d.disturbed || d.open_ }

/-- A change of the current range (`cur`) or of the voltage range falls inside the windows that run (R167, R238). -/
def Chan.disturb (c : Chan) (cur : Bool) : Chan :=
  { c with meas := { c.meas with
      convs := c.meas.convs.map fun v =>
        if (if cur then v.input == 1 || v.input == 3 else v.input == 0 || v.input == 2) && !v.settling then { v with disturbed := true, distAt := none } else v
      demod := c.meas.demod.spoil } }

/-- Every window that is open at cycle `t` has DISTURBED set (R450, R479). -/
def Chan.markWindows (c : Chan) (t : Nat) : Chan :=
  { c with meas := { c.meas with
      convs := c.meas.convs.map fun v => if v.settling then v else { v with disturbed := true, distAt := some t }
      demod := { c.meas.demod with disturbed := c.meas.demod.disturbed || c.meas.demod.open_ } } }

/-- The instant of a disturbance is noted at the update that sees it. -/
def Chan.noteDisturbed (c : Chan) (t : Nat) : Chan :=
  { c with meas := { c.meas with
      convs := c.meas.convs.map fun v => if v.disturbed && v.distAt.isNone then { v with distAt := some t } else v } }

/-- The core clock is outside VCO8, or a time step lengthens loop periods (R450, R479). -/
def State.offPace (s : State) : Bool := s.clk.guard != .vco8 || s.lnk.step.isSome

/-! ### Calibration sessions (R190 … R196) -/

/-- A change of range in progress past its handover (R199). -/
def RangeSt.inHandover (r : RangeSt) : Bool := match r.hst with
  | .idle | .engaging | .overlap | .squashing => false
  | _ => true

/-- The range of a change in progress has switched, and the change has not completed: a demodulator window opens only behind it (R199). -/
def RangeSt.switched (r : RangeSt) : Bool := match r.hst with
  | .blend | .resettle | .release | .gainSwitch => true
  | .boostMake => decide (7 ≤ r.steps)
  | .boostBreak => decide (8 ≤ r.steps)
  | .vSwitch => r.steps == 2
  | _ => false

/-- The current range's change falls in this period's windows (R167, R223, R232). -/
def RangeSt.mixesI (r : RangeSt) : Bool := r.inHandover && r.hst != .vSwitch

/-- A session's target names the current (`true`), the voltage (`false`) or neither (R186, R190). -/
def calQuantity (t : BitVec 5) : Option Bool :=
  let v := t.toNat
  if 3 ≤ v ∧ v ≤ 19 then some true
  else if v ≤ 2 ∨ (20 ≤ v ∧ v ≤ 27) ∨ v = 30 then some false
  else none

/-- The session ends with a result; its conversion, if one runs, aborts. -/
def Chan.calEnd (c : Chan) (r : CalResult) : Chan :=
  { c with meas := { c.meas with
      cal := { c.meas.cal with st := .idle, result := r, done := true, m1 := none, waitFull := false },
      convs := c.meas.convs.filter fun v => v.kind != .cal,
      redo := c.meas.redo.filter fun e => e.1 != .cal } }

/-- The session ends with INTERRUPTED (R194); the sealing of trims already applied runs on. -/
def Chan.calInterrupt (c : Chan) : Chan :=
  match c.meas.cal.st with
  | .idle | .storing => c
  | _ => c.calEnd .interrupted

/-- The force session's precondition (R190). -/
def Chan.calForceOk (c : Chan) : Bool :=
  c.loop.st == .opened && (c.force.out == .opened || c.force.out == .restOpen)

/-- A force session ends with INTERRUPTED when its precondition no longer holds (R190, R194). -/
def Chan.calKeep (c : Chan) : Chan := if c.meas.cal.target = 30 ∧ c.calForceOk = false then c.calInterrupt else c

/-- A range change of the target's quantity interrupts the session (R194). -/
def Chan.calRange (c : Chan) (cur : Bool) : Chan :=
  if c.meas.cal.isOpen && calQuantity c.meas.cal.target == some cur then c.calInterrupt else c

/-! ### Window thresholds (R307) -/

/-- A threshold re-expressed from the full scale `old` on `new`. -/
def thrScale (t : BitVec 12) (old new : Nat) : Int := 2048 + rha (((t.toNat : Int) - 2048) * old) new

/-- The applied thresholds of a window whose written thresholds are `hi` and `lo` on the full scale `old`. -/
def WinSt.apply (w : WinSt) (hi lo : BitVec 12) (old new : Nat) : WinSt :=
  let h := thrScale hi old new
  let l := thrScale lo old new
  { w with hiOff := decide (4095 < h), loOff := decide (l < 0),
           appHi := if 4095 < h then 0xFFF else if h < 0 then 0 else BitVec.ofInt 12 h,
           appLo := if l < 0 then 0 else if 4095 < l then 0xFFF else BitVec.ofInt 12 l }

/-- The full scale of a window's quantity on range `r` (R296). -/
def Chan.winFs (c : Chan) (w : WinId) (r : BitVec 4) : Nat :=
  match w with
  | .v => c.fsVOn r c.range.i
  | .i => c.fsI r

/-- The range in force of a window's quantity. -/
def Chan.winRange (c : Chan) (w : WinId) : BitVec 4 :=
  match w with
  | .v => c.range.v
  | .i => c.range.i

/-- Both windows' thresholds on the ranges in force. -/
def Chan.applyThr (c : Chan) : Chan :=
  { c with winV := c.winV.apply c.eff.winV.hi c.eff.winV.lo c.winV.refFs (c.winFs .v c.range.v),
           winI := c.winI.apply c.eff.winI.hi c.eff.winI.lo c.winI.refFs (c.winFs .i c.range.i) }

/-! ### Compliance (R129 … R131, R226) -/

/-- The full scale of the compliance quantity on range `r`. -/
def Chan.complFs (c : Chan) (r : BitVec 4) : Nat := if c.eff.mode = .voltage then c.fsI r else c.fsVOn r c.range.i

/-- The range of the compliance quantity in the loop period of a strobe: the commanded current range when it finds its shunt in OVERLAP,
since that range is active from this period (R220). -/
def Chan.complRangeAt (c : Chan) : BitVec 4 :=
  if c.eff.mode = .voltage ∧ c.range.hst = .overlap ∧ c.range.wantI.isSome ∧ c.range.wantI = c.range.ovl then c.range.wantI.getD 7
  else c.complRangeNow

/-- A compliance word takes effect (R130, R226). -/
def Chan.setCompl (c : Chan) (w : Level) : Chan :=
  let r := c.complRangeAt
  { c with loop := { c.loop with complApplied := if r = c.complRangeNow then w else rescale w (c.complFs r) (c.complFs c.complRangeNow) },
           range := { c.range with complRef := w, complRange := r, complFs := c.complFs r } }

/-- CH_COMPL_APPLIED recomputed on the range in force (R226). -/
def Chan.rescaleCompl (c : Chan) : Chan :=
  { c with loop := { c.loop with complApplied := rescale c.range.complRef c.range.complFs (c.complFs c.complRangeNow) } }

/-! ### Range requests (R27, R215, R323) -/

/-- The limits of R26 hold: a bridge carries the channel, or a migration through one runs for it (DESIGN CHOICE, see notes/assumptions). -/
def Chan.onBridge (c : Chan) : Bool := c.map.bridged || c.range.borrow

/-- A commanded current range held to the bridge limits and to the bounds of BOUNDED, which acts in MODE 0 only (R214, R215). -/
def Chan.holdI (c : Chan) (i : BitVec 4) : BitVec 4 :=
  let i := if c.onBridge && decide (6 < i.toNat) then 6 else i
  if c.eff.policy = .bounded ∧ c.eff.mode = .voltage then
    (if i.toNat < c.eff.boundLo.toNat then c.eff.boundLo else if c.eff.boundHi.toNat < i.toNat then c.eff.boundHi else i)
  else i

/-- A commanded voltage range held to the bridge limits. -/
def Chan.holdV (c : Chan) (v : BitVec 4) : BitVec 4 := if c.onBridge && decide (1 < v.toNat) then 1 else v

/-- The present code would leave the span of voltage range `v` (R228). -/
def Chan.overSpan (c : Chan) (v : BitVec 4) : Bool :=
  decide (524287 < (rha (c.force.code.toInt * c.fsv) (c.fsVOn v c.range.i)).natAbs)

/-- The target to which R228 moves the output first. -/
def Chan.preMove (c : Chan) (v : BitVec 4) : Code :=
  let m : Int := 524287 * c.fsVOn v c.range.i / c.fsv
  BitVec.ofInt 20 (if c.force.code.toInt < 0 then -m else m)

/-- V_SWITCH before its switch follows what is commanded: the target is the present code, or the edge of the new span (R228); a change that
is no longer asked for ends, and ranging returns to what it interrupted (DESIGN CHOICE, see notes/assumptions). -/
def Chan.aimV (c : Chan) : Chan :=
  let r := c.range
  if r.hst = .vSwitch ∧ r.steps = 0 then
    match r.wantV with
    | some v =>
      if c.force.out.switchClosed c.force.tripped then
        { c with force := { c.force with target := if c.overSpan v then c.preMove v else c.force.code } }
      else c
    | none => { c with range := { r with hst := r.back, steps := r.backSteps } }
  else c

/-- The lowest declared booster range (R230). -/
def Chan.lowBoost (c : Chan) : BitVec 4 := if c.declared 8 then 8 else if c.declared 9 then 9 else 10

/-- The sense gain of a booster range: the largest of 1 … 64 that keeps BS_IFS_UA × BS_SHUNT_UOHM × G_b within 1,500 mV (R213). The product
of µA and µΩ is in pV. -/
def gainOf (ua uohm : Nat) : Nat := ([64, 32, 16, 8, 4, 2].find? fun g => decide (ua * uohm * g ≤ 1500000000000)).getD 1

def Chan.gB (c : Chan) (i : BitVec 4) : Nat :=
  if h : 8 ≤ i.toNat ∧ i.toNat < 11 then gainOf (c.decl.boost[i.toNat - 8]'(by omega)).2.2 (c.decl.boost[i.toNat - 8]'(by omega)).2.1 else 1

/-- The fast-path |I| is below 16 mA (R230, R234). -/
def Chan.below16mA (c : Chan) : Bool := decide (mag c.loop.fastI * c.fsi < 16000000 * 2 ^ 31)

/-- A commanded change off the lowest booster range to `i` has to wait for the current to fall (R234). -/
def Chan.waitsOff (c : Chan) (i : BitVec 4) : Bool := isBoost c.range.i && c.range.i == c.lowBoost && !isBoost i && !c.below16mA

/-- The commanded change needs the engaged shunt: it is its own, or the 0x7 shunt on the way to a booster range (R233, R240). -/
def RangeSt.needsOvl (r : RangeSt) : Bool := match r.ovl, r.wantI with
  | some o, some w => o == w || (isBoost w && o == 7 && !isBoost r.i)
  | _, _ => false

/-- A commanded change finds its shunt in OVERLAP: its handover need not wait for an update there (R220). -/
def Chan.foundOverlap (c : Chan) : Chan :=
  let r := c.range
  if r.hst == .overlap then { c with range := { r with steps := max 1 r.steps } }
  else if r.hst == .vSwitch && r.back == .overlap then { c with range := { r with backSteps := max 1 r.backSteps } }
  else c

/-- The range requests that wait, held to the limits in force. -/
def Chan.holdWants (c : Chan) : Chan :=
  let v := c.range.wantV.map c.holdV
  let i := c.range.wantI.map c.holdI
  { c with range := { c.range with wantV := if v = some c.range.v then none else v, wantI := if i = some c.range.i then none else i,
                                   limited := c.range.limited || v != c.range.wantV || i != c.range.wantI } }.aimV

/-- The channel comes to lie behind a bridge, or a migration through one begins: what waits is held again, and an overlap of a range that
the bridge does not carry is squashed (R26, R27). -/
def Chan.rehold (c : Chan) : Chan :=
  let d := c.holdWants
  match d.range.ovl with
  | some o => if 6 < o.toNat then { d.squash with range := { d.squash.range with fire := none } } else d
  | none => { d with range := { d.range with fire := none } }

/-- A strobe, a commit or the rest sequence commands ranges; 0xF keeps one (R215, R240, R250). The level of the forced quantity waits
for its range (R216). A command that names the present current range ends what the predictor or an earlier command began, and the hold-off
starts from it (R240, R320 M10). -/
def Chan.command (c : Chan) (v i : BitVec 4) : Chan :=
  let hv := c.holdV v
  let hi := c.holdI i
  let c := { c with range := { c.range with
              limited := if v = 15 ∧ i = 15 then c.range.limited else (v ≠ 15 && hv != v) || (i ≠ 15 && hi != i),
              waits := if i = 15 then c.range.waits else c.waitsOff hi,
              wantV := if v = 15 then c.range.wantV else if hv = c.range.v then none else some hv,
              wantI := if i = 15 then c.range.wantI else if hi = c.range.i then none else some hi } }.aimV
  let c := if i = 15 then c
           else if c.range.wantI.isNone then { c.squash with range := { c.squash.range.forget with hold := some 0 } }
           else if c.range.needsOvl then c.foundOverlap else c.squash
  let c := if i ≠ 15 && c.range.wantI.isSome then c.calRange true else c
  if v ≠ 15 && c.range.wantV.isSome then c.calRange false else c

/-- Who commanded the ranges of a command: a commit or not (R264). -/
def Chan.commandedBy (c : Chan) (v i : BitVec 4) (commit : Bool) : Chan :=
  { c with range := { c.range with vCommit := if v = 15 then c.range.vCommit else commit, iCommit := if i = 15 then c.range.iCommit else commit } }

/-- A change of the forced quantity's range waits. -/
def Chan.forcedWaits (c : Chan) : Bool := if c.eff.mode = .voltage then c.range.wantV.isSome else c.range.wantI.isSome

/-! ### A new current range (R222, R226, R307) -/

/-- The loop's levels of the current re-expressed. -/
def LoopSt.rescaleI (l : LoopSt) (mode : ForceMode) (old new : Nat) : LoopSt :=
  { l with fastI := rescale l.fastI old new, yPrevI := rescale l.yPrevI old new, dPrevI := 0, presetI := l.st.closed,
           setpoint := if mode = .current then rescale l.setpoint old new else l.setpoint,
           goal := if mode = .current then rescale l.goal old new else l.goal }

/-- The loop's levels of the voltage re-expressed. -/
def LoopSt.rescaleV (l : LoopSt) (mode : ForceMode) (old new : Nat) : LoopSt :=
  { l with fastV := rescale l.fastV old new, yPrevV := rescale l.yPrevV old new,
           setpoint := if mode = .voltage then rescale l.setpoint old new else l.setpoint,
           goal := if mode = .voltage then rescale l.goal old new else l.goal }

/-- The command and the limiter's code and target on a new voltage scale: c′ = round(c × FS_old / FS_new), saturated (R227, R228, R230). -/
def Chan.rescaleCode (c : Chan) (old new : Nat) : Chan :=
  let c' := rha (c.force.code.toInt * old) new
  { c with loop := { c.loop.rescaleV c.eff.mode old new with cmd := sat20 c', drive := sat32 (satInt 20 c' * 4096) },
           force := { c.force with code := sat20 c', target := sat20 c', rateCnt := 0, sat := c.force.sat || satHit 20 c' } }

/-- Current range `i` becomes active: every current level is re-expressed on it. A booster range has a voltage scale of its own, so the
voltage levels and the command move too (R103, R230). -/
def Chan.activateI (c : Chan) (i : BitVec 4) : Chan :=
  let old := c.fsi
  let new := c.fsI i
  let vOld := c.fsv
  let c := { c with loop := c.loop.rescaleI c.eff.mode old new,
                    range := { c.range with old := c.range.i, i := i, gb := c.gB i, wantI := if c.range.wantI = some i then none else c.range.wantI } }
  let c := if c.fsv = vOld then c
           else { (c.rescaleCode vOld c.fsv) with loop := { (c.rescaleCode vOld c.fsv).loop with presetV := c.loop.st.closed } }
  let c := if c.eff.mode = .voltage || c.fsv != vOld then c.rescaleCompl else c
  let c := if c.fsv = vOld then c else c.disturb false
  ((c.calRange true).disturb true).applyThr.reclamp

/-! ### A new voltage range (R227, R228) -/

/-- Voltage range `v` becomes active with the code c′ of R227. -/
def Chan.activateV (c : Chan) (v : BitVec 4) : Chan :=
  let c := { (c.rescaleCode c.fsv (c.fsVOn v c.range.i)) with range := { c.range with v := v, wantV := none } }
  let c := if c.eff.mode = .current then c.rescaleCompl else c
  ((c.calRange false).disturb false).applyThr.reclamp

/-- A commanded voltage range change begins in the period at `now` when no current range change runs past its overlap, and no handover is due
at this boundary (R224, R227, R240). The output holds, or moves into the new span first (R228). -/
def Chan.startV (c : Chan) (now : Nat) : Chan :=
  let r := c.range
  let free := r.hst == .idle || r.hst == .engaging || (r.hst == .overlap && !r.needsOvl)
  match r.wantV with
  | some _ =>
    if free then
      { c with range := { r with hst := .vSwitch, steps := 0, vAt := now, back := r.hst, backSteps := r.steps } }.aimV
    else c
  | none => c

/-! ### The loops (R140) -/

/-- The loops open with the command held at the limiter's present code, and the clamp engages. -/
def Chan.openLoops (c : Chan) : Chan :=
  Chan.reclamp { c with
    loop := if c.loop.st = .opened then c.loop
            else { c.loop with st := .opened, before := .opened, cmd := c.force.code, ramping := false, presetDone := false, presetI := false,
                               presetV := false, restart := false },
    force := if c.loop.st = .opened then c.force else { c.force with target := c.force.code } }

/-- The loops close: the PRESET update comes next (R136, R137). -/
def Chan.presetLoops (c : Chan) : Chan :=
  Chan.reclamp { c with
    loop := { c.loop with st := .preset, before := .preset, presetDone := false, presetI := false, presetV := false, oppose := 0,
                          restart := false } }

/-! ### The level in force (R321) -/

/-- Steps 1 and 2 of R321: the level source and the pulse. While a level waits for its range, the target keeps its previous value in volts
or amperes (R216). -/
def Chan.baseLevel (c : Chan) : Level :=
  if c.range.wantLevel.isSome then c.loop.goal
  else match c.strand.pulse with
    | some (_, l) => l
    | none => if c.strand.baseOn then c.eff.pulseBase else c.force.applied

/-- The sine is on (R277, R278). -/
def Chan.sineOn (c : Chan) : Bool := c.eff.sineEn

/-- The bound on the primary target (R127): CH_VLIMIT in force-voltage mode, CH_ILIMIT and the dissipation bound in force-current mode. -/
def Chan.primaryBound (c : Chan) : Nat :=
  if c.eff.mode = .voltage then boundLevel c.eff.vlimitUv.toNat c.fsv
  else min (boundLevel c.eff.ilimitNa.toNat c.fsi) c.icapLevel

/-- A level held within a magnitude (R127). -/
def clampMag (x : Int) (b : Nat) : Int := max (-(b : Int)) (min b x)

/-- Whether the bound changes the level. -/
def overMag (x : Int) (b : Nat) : Bool := decide (clampMag x b ≠ x)

/-- Stage 2 of R84: a code saturated to the span of the active range (R86, R103). -/
def Chan.spanHi (c : Chan) : Int :=
  if isBoost c.range.i && decide (c.decl.vfsMv ≤ 12000) then min 524287 (c.decl.vfsMv * 524288 / 12000 : Nat) else 524287

def Chan.stage2 (c : Chan) (x : Int) : Code × Bool :=
  let hi := c.spanHi
  let lo := if hi = 524287 then -524288 else -hi
  let y := max lo (min hi x)
  (BitVec.ofInt 20 y, decide (y ≠ x))

/-- The command is preset to a code past the step limit, and closed loops are preset from it (R99, R137, R230). -/
def Chan.presetCode (c : Chan) (x : Int) : Chan :=
  let p := c.stage2 x
  { c with force := { c.force with code := p.1, target := p.1, rateCnt := 0, sat := c.force.sat || p.2 },
           loop := { c.loop with cmd := p.1, drive := sat32 (p.1.toInt * 4096), presetV := c.loop.st.closed, presetI := c.loop.st.closed } }

/-- A code goes to the limiter as its target. -/
def Chan.toLimiter (c : Chan) (x : Int) : Chan :=
  { c with loop := { c.loop with cmd := (c.stage2 x).1 },
           force := { c.force with target := (c.stage2 x).1, sat := c.force.sat || (c.stage2 x).2 } }

/-- The primary target of R321 before its bound: steps 1 to 3. A stream sample carries its sine already (R277). -/
def Chan.rawTarget (c : Chan) (sine : Int) : Level := if c.eff.cls = .stream then c.baseLevel else sat32 (c.baseLevel.toInt + sine)

/-- The bounded target of an open loop (R321 steps 1 to 4), whatever the mode. -/
def Chan.openLevel (c : Chan) (sine : Int) : Level :=
  BitVec.ofInt 32 (clampMag (c.rawTarget sine).toInt (boundLevel c.eff.vlimitUv.toNat c.fsv))

/-- The level of R321 with the loops open in force-voltage mode becomes the command (R96); in every other case it is the set-point's
target or is stored only. -/
def Chan.openTarget (c : Chan) (sine : Int) : Chan :=
  if c.eff.mode = .voltage ∧ c.loop.st.closed = false ∧ c.force.out.switchClosed c.force.tripped then
    let m := (c.rawTarget sine).toInt
    let b := c.primaryBound
    let c := c.toLimiter (rha (clampMag m b) 4096)
    { c with loop := { c.loop with spLimit := overMag m b } }
  else c

/-- The sample of the sine generator at the present phase (R275). -/
def State.sineNow (s : State) (n : Ch) : Int :=
  let c := s.ch n
  if c.sineOn then
    (sat32 (rs (c.eff.sineAmpl.toInt * s.sineAt c.eff.sineTable (c.phase.toNat / 2 ^ 20)) 19)).toInt
  else 0

end Sys2Proof.Machine
end

