-- ==== Sys2Proof/Machine/ClkOps.lean ====
section
/-! DEFINITION. Clocks as shared operations: dividers and bands, the guard, alignment, and the outputs and ports that stop and restart with
PLL-B (R434 … R456, R523). -/

namespace Sys2Proof.Machine

def State.upClk (s : State) (f : Clk → Clk) : State := { s with clk := f s.clk }

def Clk.pll (k : Clk) (p : PllId) : Pll := match p with
  | .a => k.pllA
  | .b => k.pllB

def State.upPll (s : State) (p : PllId) (f : Pll → Pll) : State :=
  match p with
  | .a => s.upClk fun k => { k with pllA := f k.pllA }
  | .b => s.upClk fun k => { k with pllB := f k.pllB }

def State.upLnk (s : State) (f : Lnk → Lnk) : State := { s with lnk := f s.lnk }

/-! ### Reference and dividers (R434, R437, R438) -/

/-- The nominal frequency of a class in kHz; 0 for one that is not supported. -/
def RefClass.khz : RefClass → Nat
  | .mhz24 => 24576
  | .mhz10 => 10000
  | _ => 0

/-- REF_CLASS of an edge count (R434). -/
def refClassOf (edges : Nat) : RefClass :=
  if 43200 ≤ edges ∧ edges ≤ 52800 then .mhz24 else if 17578 ≤ edges ∧ edges ≤ 21484 then .mhz10 else .unknown

/-- M − 1, N and P of the defaults of a supported class (R65, R462). -/
def pllDefaults (c : RefClass) (p : PllId) : BitVec 10 × BitVec 16 × BitVec 7 :=
  match p, c with
  | .a, .mhz10 => (124, 24576, 8)
  | .a, _ => (0, 80, 8)
  | .b, .mhz10 => (0, 200, 4)
  | .b, _ => (191, 15625, 4)

/-- The highest VCO frequency in MHz, and the span of P (R437). -/
def pllVcoMax : PllId → Nat
  | .a => 2160
  | .b => 2200

def pllPostOk (p : PllId) (v : BitVec 7) : Bool := match p with
  | .a => v == 8
  | .b => decide (2 ≤ v.toNat) && decide (v.toNat ≤ 64)

/-- f_pfd lies in its span (R437). -/
def pfdOk (khz m : Nat) : Bool := decide (50 * m ≤ khz) && decide (khz ≤ 30000 * m)

/-- f_vco lies in its span (R437). -/
def vcoOk (p : PllId) (khz m n : Nat) : Bool := decide (1800000 * m ≤ khz * n) && decide (khz * n ≤ pllVcoMax p * 1000 * m)

/-- The lowest valid band that covers f_vco (R438). -/
def Pll.bandFor (l : Pll) (khz m n : Nat) : Option (BitVec 6) :=
  ((List.finRange 64).find? fun i =>
    let b := l.bands[i.val]
    b.valid && decide (b.lo.toNat * 1000 * m ≤ khz * n) && decide (khz * n ≤ b.hi.toNat * 1000 * m)).map fun i => BitVec.ofNat 6 i.val

/-- The band of the active dividers; the present one when no valid band covers the VCO. -/
def Pll.selectBand (l : Pll) (khz : Nat) : Pll := { l with band := (l.bandFor khz (l.actM.toNat + 1) l.actN.toNat).getD l.band }

/-- A PLL starts to acquire lock on its active dividers (R436 step 2). -/
def Pll.acquire (l : Pll) (khz : Nat) : Pll := { (l.selectBand khz) with refOk := true, locked := false, held := false, phase := .startup }

/-- PLL-B gives 500 MHz on its active dividers (R454). -/
def Clk.linkRate (k : Clk) : Bool := k.refClass.khz * k.pllB.actN.toNat == 2000000 * (k.pllB.actM.toNat + 1) && k.pllB.actP == 4

/-! ### Alignment (R453) -/

/-- The spanning sync sets with a member on this device. -/
def State.localSpans (s : State) : List (BitVec 8) :=
  ((List.range 256).map (BitVec.ofNat 8)).filter fun t => s.setSpans t && !(s.setMembers t).isEmpty

/-- System time is marked unaligned; each spanning set with a local member raises UNALIGNED once. -/
def State.unalign (s : State) : State :=
  if s.clk.unaligned then s
  else ((s.upClk fun k => { k with unaligned := true }).upLnk fun l => { l with resyncNext := true }).each s.localSpans fun t s =>
    s.post (srcLink 0) 2 t.toNat

/-- System time is aligned. -/
def State.align (s : State) : State := (s.upClk fun k => { k with unaligned := false }).endLive (srcLink 0) 2

/-! ### The guard (R447 … R450) -/

/-- Every open window of the device has DISTURBED set (R450, R479). -/
def State.markAll (s : State) : State := s.allCh fun _ c => c.markWindows s.time

/-- The guard leaves VCO8: open sessions are interrupted, open windows are disturbed and system time becomes unaligned (R450, R453). -/
def State.leaveVco8 (s : State) (g : Guard) : State :=
  if s.clk.guard = .vco8 then
    ((s.allCh fun _ c => (c.markWindows s.time).calInterrupt).upClk fun k =>
      { k with guard := g, guardCount := if g = .vco16 then satInc k.guardCount else k.guardCount }).unalign
  else s.upClk fun k => { k with guard := if g = .ref then .ref else k.guard }

/-- The guard enters VCO8; windows that are open contain cycles outside it. -/
def State.enterVco8 (s : State) : State := if s.clk.guard = .vco8 then s else s.markAll.upClk fun k => { k with guard := .vco8 }

/-! ### CLKOUT and the link ports (R454 … R456) -/

/-- The outputs stop: all of them, or those that do not coast. -/
def State.outsStop (s : State) (all : Bool) : State :=
  s.upClk fun k => { k with outs := k.outs.map fun o => { o with running := o.running && o.coast && !all } }

/-- The common restart of the outputs. -/
def State.outsRun (s : State) : State := s.upClk fun k => { k with outs := k.outs.map fun o => { o with running := o.fmt != .off } }

/-- A port of the tree reached UP or left it: the root enumerates (R473). -/
def State.treeChanged (s : State) : State := if s.lnk.root then s.upLnk fun l => { l with enumBusy := true } else s

/-- The ports stop with PLL-B; they read IDLE until it holds lock again (DESIGN CHOICE). -/
def PortSt.stop (p : PortSt) : PortSt :=
  match p.st with
  | .off | .fenced | .refused => p
  | _ => { p with st := .idle }

def State.portsStop (s : State) : State :=
  let was := s.lnk.ports.any fun p => p.st == .up
  let s := s.upLnk fun l => { l with ports := l.ports.map PortSt.stop }
  s.when was State.treeChanged

/-- A port is enabled or held disabled (R454, R467). -/
def PortSt.enable (p : PortSt) (on : Bool) : PortSt :=
  if !on then { p with st := .off, peer := none } else if p.st = .off then { p with st := .idle } else p

/-- LK_PORT_EN and the rate of PLL-B act on the ports. -/
def State.portsEnable (s : State) : State :=
  let on := s.clk.linkRate
  let was := s.lnk.ports.any fun p => p.st == .up
  let s := s.upLnk fun l => { l with ports := tabulate 4 fun p => l.ports[p.val].enable (on && l.portEn.getLsbD p.val) }
  s.when (was && !s.lnk.ports.any fun p => p.st == .up) State.treeChanged

/-- The ports restart with PLL-B: one that has been UP trains again, the others look for a partner (R456, R468). -/
def State.portsStart (s : State) : State :=
  s.portsEnable.upLnk fun l => { l with ports := l.ports.map fun p => if p.st = .idle ∧ p.wasUp then { p with st := .training } else p }

/-! ### Start and stop of the PLLs (R436, R523) -/

/-- Both PLLs start on their active dividers. -/
def State.pllsStart (s : State) : State :=
  if s.clk.refClass.khz = 0 then s
  else s.upClk fun k => { k with pllOff := false, pllA := k.pllA.acquire k.refClass.khz, pllB := k.pllB.acquire k.refClass.khz }

/-- A wake request of bay `b` (R522): it wakes, and stopped PLLs start with it (R523). -/
def State.wake (s : State) (b : Bay) : State :=
  if (s.bay b).awake || (s.bay b).waking then s
  else (s.when s.clk.pllOff State.pllsStart).upBay b fun x => { x with waking := true, wakePeriods := 0 }

/-- Detection ends (R434): the count, its class and the defaults of a supported class. -/
def State.detected (s : State) (edges : Nat) : State :=
  let c := refClassOf edges
  let load (p : PllId) (l : Pll) : Pll :=
    let d := pllDefaults c p
    { l with shM := d.1, actM := d.1, shN := d.2.1, actN := d.2.1, shP := d.2.2, actP := d.2.2 }
  let s := s.upClk fun k => { k with refClass := c, detect := BitVec.ofNat 16 (min edges 0xFFFF) }
  if c.khz = 0 then s else (s.upClk fun k => { k with pllA := load .a k.pllA, pllB := load .b k.pllB }).pllsStart

/-- LOCKED is set (R443). -/
def State.lockAcquired (s : State) (p : PllId) : State :=
  let l := s.clk.pll p
  if l.refOk && !l.locked && l.phase != .off then s.upPll p fun l => { l with locked := true, held := false } else s

/-- LOCKED has held for 1,024 REFIN cycles (R436, R440, R447, R455). -/
def State.lockHeld (s : State) (p : PllId) : State :=
  let l := s.clk.pll p
  if l.locked && !l.held then
    let ended := l.phase == .committing || l.phase == .measuring
    let s := s.upPll p fun l => { l with held := true, phase := .running, done := l.done || ended, result := if ended then .ok else l.result }
    match p with
    | .a => s.enterVco8
    | .b => s.outsRun.portsStart
  else s

/-! ### Commits and band measurements (R439 … R441) -/

/-- The level of LOCK_A or LOCK_B between PFD correction pulses (R446): low while REF_OK is 0, and in a commit until LOCKED is set. -/
def Pll.lockPin (l : Pll) : Bool := l.refOk && !(l.phase == .committing && !l.locked)

/-- Either PLL commits, measures or acquires at start-up. -/
def Clk.pllBusy (k : Clk) : Bool := [k.pllA, k.pllB].any fun l => l.phase == .startup || l.phase == .committing || l.phase == .measuring

/-- A channel is quiesced (R70): loops open, no strand running, run-ahead empty, and its switch open or its rest value held. Loops that are
PENDING are not open (DESIGN CHOICE, see notes/assumptions); a keeper's hold keeps the switch closed (R516, R517). -/
def Chan.quiesced (c : Chan) : Bool :=
  c.loop.st == .opened && !c.strand.st.runs && c.strand.ahead.isEmpty &&
    (!(c.force.out.switchClosed c.force.tripped || c.force.out == .hold) || c.force.out == .restHold)

/-- Every channel is quiesced (R70). -/
def State.allQuiet (s : State) : Bool := allChs.all fun n => (s.ch n).quiesced

/-- A commit or a measurement ends at once with a code. -/
def State.pllEnd (s : State) (p : PllId) (r : PllResult) : State := s.upPll p fun l => { l with result := r, done := true }

/-- The first condition of R439 that refuses a commit, and the band that it would take. -/
def State.commitCheck (s : State) (p : PllId) : PllResult × BitVec 6 :=
  let l := s.clk.pll p
  let khz := s.clk.refClass.khz
  let m := l.shM.toNat + 1
  if s.clk.pllBusy then (.busy, 0)
  else if !l.refOk then (.noRef, 0)
  else if !pllPostOk p l.shP then (.badPost, 0)
  else if !pfdOk khz m then (.pfdRange, 0)
  else if !vcoOk p khz m l.shN.toNat then (.vcoRange, 0)
  else match l.bandFor khz m l.shN.toNat with
    | none => (.noBand, 0)
    | some b => if p = .a ∧ s.allQuiet = false then (.notQuiescent, 0) else (.ok, b)

/-- The core leaves VCO8, or the outputs and ports stop, for a commit (`g` = VCO16) or a measurement (`g` = REF). -/
def State.pllAway (s : State) (p : PllId) (g : Guard) : State := match p with
  | .a => s.leaveVco8 g
  | .b => (s.outsStop true).portsStop.unalign

/-- A COMMIT at its boundary (R439, R440). -/
def State.commitPll (s : State) (p : PllId) : State :=
  let l := s.clk.pll p
  match s.commitCheck p with
  | (.ok, b) =>
    if l.shM = l.actM ∧ l.shN = l.actN ∧ l.shP = l.actP then s.pllEnd p .ok
    else
      let s := (s.pllAway p .vco16).upPll p fun l =>
        { l with actM := l.shM, actN := l.shN, actP := l.shP, band := b, locked := false, held := false, phase := .committing }
      s.when (p == .b) State.portsEnable
  | (r, _) => s.pllEnd p r

/-- A measured band: the low frequency rounded up and the high one rounded down to whole MHz (R441). -/
def Band.measured (khz : Nat × Nat) : Band :=
  let lo := (khz.1 + 999) / 1000
  let hi := khz.2 / 1000
  { valid := decide (lo ≤ hi), hi := BitVec.ofNat 12 hi, lo := BitVec.ofNat 12 lo }

/-- Band `i` of a measurement; one without a measured value is a free value. -/
def State.bandOf (s : State) (khz : List (Nat × Nat)) (i : Nat) : Band :=
  match khz[i]? with
  | some x => Band.measured x
  | none => Band.measured (bits (Config.freeWord (s.draws + i)) 0 16 * 100, bits (Config.freeWord (s.draws + i)) 16 16 * 100)

/-- Every output switch of the device is open. -/
def State.allSwitchesOpen (s : State) : Bool := s.cells.all fun x => !x.switchOn && !x.boostOn

/-- A MEASURE at its boundary (R441): the band table is rewritten and the active dividers are committed again. -/
def State.measureBands (s : State) (p : PllId) (khz : List (Nat × Nat)) : State :=
  let l := s.clk.pll p
  if s.clk.pllBusy then s.pllEnd p .busy
  else if !l.refOk then s.pllEnd p .noRef
  else if p = .a ∧ s.allQuiet = false then s.pllEnd p .notQuiescent
  else if p = .a ∧ s.allSwitchesOpen = false then s.pllEnd p .switchClosed
  else
    let f := s.clk.refClass.khz
    let bands : Vector Band 64 := tabulate 64 fun i => s.bandOf khz i.val
    { (s.pllAway p .ref).upPll p fun l => { ({ l with bands := bands } : Pll).selectBand f with locked := false, held := false, phase := .measuring }
      with draws := if khz.length < 64 then s.draws + 64 else s.draws }

/-! ### CLKOUT (R455, R464) -/

/-- FMT of a code; 5 … 7 store 0. -/
def outFmtOf : Nat → OutFmt
  | 1 => .lvcmos18
  | 2 => .lvcmos33
  | 3 => .lvds
  | 4 => .hcsl
  | _ => .off

/-- CLK_OUT_x is written: the output runs on if it ran, and starts when PLL-B holds lock. -/
def State.writeClkout (s : State) (x : Fin 4) (v : Word) : State :=
  let fmt := outFmtOf (bits v 24 3)
  s.upClk fun k =>
    let o := k.outs[x.val]
    { k with outs := k.outs.set x.val { coast := v.getLsbD 31, fmt := fmt, divM1 := v.extractLsb' 0 10,
                                        running := fmt != .off && (o.running || k.pllB.held) } }

end Sys2Proof.Machine
end

