-- ==== Sys2Proof/Machine/StrandOps.lean ====
section
/-! DEFINITION. Operations of the strand engine that several commands share: larder records, the squash of run-ahead and the end of a
strand (R260, R264, R265, R282 … R287). -/

namespace Sys2Proof.Machine

/-! ### Larder records -/

/-- Byte address of a larder record (R285). -/
def recAddr (r : Nat) : Nat := 0x200000 + 16 * (r % 65536)

/-- Active ranges as a record holds them (R282). -/
def Chan.rangesByte (c : Chan) : BitVec 8 := BitVec.ofNat 8 (c.range.v.toNat * 16 + c.range.i.toNat)

/-- STATUS of a record (R283). -/
def recStatus (b : BeadRec) (compl : Bool) : Nat :=
  let e (x : Option (BitVec 24 × BitVec 4)) : Nat := match x with
    | some (_, k) => if b.fast then 15 else k.toNat
    | none => 15
  bit b.v.isSome * 2 ^ 15 + bit b.i.isSome * 2 ^ 14 + bit b.clip * 2 ^ 13 + bit b.disturbed * 2 ^ 12 +
    bit b.tripped * 2 ^ 11 + bit compl * 2 ^ 10 + bit b.limited * 2 ^ 9 + bit b.fast * 2 ^ 8 + e b.i * 16 + e b.v

/-- The four words of a record (R282). -/
def recWords (b : BeadRec) (compl : Bool) (v i : BitVec 24) (time : Nat) : Word × Word × Word × Word :=
  (fields [(0, v.toNat), (24, i.toNat % 256)],
   fields [(0, i.toNat / 256), (16, recStatus b compl)],
   timeLo time,
   fields [(0, b.index % 65536), (16, b.ranges.toNat)])

/-- A record enters the channel's partition (R285, R287): in ring mode a full partition frees its oldest record. -/
def State.pushRecord (s : State) (n : Ch) (w : Word × Word × Word × Word) : State :=
  let l := (s.ch n).larder
  if l.size = 0 then s
  else
    let a := recAddr (l.base + l.wr.toNat % l.size)
    let s := (((s.setMemWord a w.1).setMemWord (a + 4) w.2.1).setMemWord (a + 8) w.2.2.1).setMemWord (a + 12) w.2.2.2
    s.upCh n fun c =>
      let full := c.cfg.larderRing && decide (l.size < (l.wr + 1 - l.rd).toNat)
      { c with larder := { l with wr := l.wr + 1, rd := if full then l.rd + 1 else l.rd, lost := if full then satInc l.lost else l.lost } }

/-- A record that a trip cut takes the fast-path samples of the last update: it is written at the boundary behind the trip, and those samples
were completed at the end of the loop period before the trip (R120, R273). -/
def BeadRec.filled (b : BeadRec) (l : LoopSt) : BeadRec :=
  if b.fast then { b with v := some (l.fastV.extractLsb' 8 24, 15), i := some (l.fastI.extractLsb' 8 24, 15) } else b

/-- The record of the bead in force is written with what its pass has given (R284); it never changes afterwards. -/
def State.writeRecord (s : State) (n : Ch) : State :=
  let c := s.ch n
  match c.strand.rcd.map fun b => b.filled c.loop with
  | some b =>
    if b.silent || b.written then s
    else
      let t := b.lastEnd.getD b.commit
      let s := s.pushRecord n (recWords b c.loop.complDrove ((b.v.map (·.1)).getD 0) ((b.i.map (·.1)).getD 0) t)
      s.upCh n fun c => { c with strand := { c.strand with rcd := some { b with written := true } } }
  | none => s

/-- A trip cuts a pulse (R273): the record shows the trip, its time and the ranges in force there, and is written at the next boundary. -/
def Chan.fastRecord (c : Chan) (time : Nat) : Chan :=
  { c with strand := { c.strand with rcd := c.strand.rcd.map fun b =>
      (if b.written then b
       else { b with fast := true, tripped := true, lastEnd := some time, ranges := c.rangesByte }) } }

/-! ### Run-ahead -/

/-- Loop periods of a dwell (R249, R288). -/
def Chan.dwellPeriods (c : Chan) (d : Nat) : Nat := if c.decl.lowPower then (d + 3) / 4 * 4 else d

/-- The loop period from which the dwell of the bead in force lets the next one commit. -/
def Chan.dwellEnd (c : Chan) : Nat := match c.strand.committed with
  | some t => t / 256 + c.dwellPeriods c.strand.dwell
  | none => 0

/-- An overlap that run-ahead pre-armed is released; a commanded change that already needs it keeps it (R240, R265). -/
def Chan.releasePrearm (c : Chan) : Chan := if c.range.origin = .prearm && c.range.wantI.isNone then c.squash else c

/-- Every prepared bead is discarded, pre-armed overlaps are released and preparation restarts behind the committed bead (R265, R266); a
bead whose dwell ends sooner than two boundaries on is lengthened, once. -/
def Chan.squashAhead (c : Chan) (now : Nat) : Chan :=
  let c := c.releasePrearm
  let g := c.strand
  let late := g.committed.isSome && !g.last && !g.stopReq && decide (c.dwellEnd < now + 2) && decide (g.holdUntil ≤ c.dwellEnd)
  { c with strand := { g with ahead := [], squashReq := false, squashes := satInc g.squashes, cursor := g.nextBead, cursorPt := g.nextPt,
                              noMore := g.last || g.stopReq, holdUntil := now + 2, lates := if late then satInc g.lates else g.lates } }

/-- What becomes of the last bead's record when a strand ends (R260). -/
inductive RecFate
  /-- Written when its pass ends, as always. -/
  | normal
  /-- Not written, and the conversions of the bead's pass abort. -/
  | dropped
  /-- Written at once with what completed. -/
  | now
  deriving DecidableEq, Repr

/-- The strand of a channel ends (R260): nothing later commits, a pulse ends at once and returns to its base level, a tone strand's sine
stops. -/
def Chan.strandOver (c : Chan) (st : StrandState) (r : Reason) (now : Nat) : Chan :=
  let c := c.releasePrearm
  let g := c.strand
  { c with
    strand := { g with st := st, reason := r, ended := true, ahead := [], stopReq := false, squashReq := false, endReq := none, order := none,
                       noMore := true, last := false, baseOn := g.baseOn || g.pulse.isSome || (c.eff.type == .pulsed && g.committed.isSome),
                       pulse := none, toneOn := false, endAt := some now },
    cfg := if g.toneOn then { c.cfg with sineEn := false } else c.cfg,
    eff := if g.toneOn then { c.eff with sineEn := false } else c.eff }

/-- The strand's record as its end asks for: written normally, by its pass where one of its own is still due (R260, R284, R320 M17). -/
def State.settleRecord (s : State) (n : Ch) (f : RecFate) : State :=
  match f with
  | .normal => s.when ((s.ch n).eff.run != .strand || ((s.ch n).meas.pass.isNone && (s.ch n).strand.passAt.isNone)) fun s => s.writeRecord n
  | .now => (s.writeRecord n).upCh n fun c => { c with strand := { c.strand with passAt := none } }
  | .dropped => s.upCh n fun c =>
      let c := if c.eff.run = .strand then c.abortConvs (fun v => v.kind == .seq) else c
      { c with strand := { c.strand with rcd := none, passAt := none },
               meas := if c.eff.run = .strand then { c.meas with pass := none, redo := c.meas.redo.filter fun e => e.1 != .seq } else c.meas }

/-- The target of an ended pulse (R260, R272): the base level, like a strobe with the loops closed. -/
def Chan.baseTarget (c : Chan) (sine : Int) : Chan :=
  if c.loop.st.closed then { c with loop := { c.loop with restart := true } } else if c.loop.manualNow then c else c.openTarget sine

/-- The squash of run-ahead that goes with an end (R260, R264): it is counted, and lengthens no bead. -/
def Chan.endSquash (c : Chan) : Chan :=
  { c.releasePrearm with strand := { c.releasePrearm.strand with ahead := [], squashes := satInc c.strand.squashes } }

/-- The strength of an end's reason (R324): the first of FAULT, TRIP, COMPLIANCE, ABORT, STOP stands. -/
def Reason.rank : Reason → Nat
  | .fault => 5
  | .trip => 4
  | .compliance => 3
  | .abort => 2
  | .stop => 1
  | _ => 0

/-- The end that takes place where `r` meets one that was asked for and acts at the same boundary (R324): the stronger reason, with its own
state, record and squash. -/
def Chan.strongerEnd (c : Chan) (st : StrandState) (r : Reason) (f : RecFate) (count : Bool) : StrandState × Reason × RecFate × Bool :=
  match c.strand.endReq with
  | some q => if r.rank < q.rank then (.stopped, q, .now, true) else (st, r, f, count)
  | none => (st, r, f, count)

/-- A strand that is armed or runs ends as said. -/
def State.endAs (s : State) (n : Ch) (x : StrandState × Reason × RecFate × Bool) : State :=
  let s := if (s.ch n).strand.committed.isSome then s.settleRecord n x.2.2.1 else s
  let s := s.when x.2.2.2 fun s => s.upCh n fun c => c.endSquash
  let cut := (s.ch n).strand.pulse.isSome
  let s := s.upCh n fun c => c.strandOver x.1 x.2.1 s.time
  s.when cut fun s => s.upCh n fun c => c.baseTarget (s.sineNow n)

/-- A strand that ended at this very boundary takes the stronger reason of a second end (R324), with the record that goes with it. -/
def State.endAgain (s : State) (n : Ch) (st : StrandState) (r : Reason) (f : RecFate) : State :=
  let g := (s.ch n).strand
  if g.endAt = some s.time ∧ g.reason.rank < r.rank then
    let s := if g.committed.isSome then s.settleRecord n f else s
    s.upCh n fun c => { c with strand := { c.strand with st := st, reason := r } }
  else s

/-- A strand that is armed or runs ends; `count` says whether its run-ahead is squashed by an event of R264. -/
def State.endStrand (s : State) (n : Ch) (st : StrandState) (r : Reason) (f : RecFate) (count : Bool) : State :=
  if (s.ch n).strand.st.active then s.endAs n ((s.ch n).strongerEnd st r f count) else s.endAgain n st r f

/-- An end is asked for at the next boundary; the stronger reason stands. -/
def Chan.askEnd (c : Chan) (r : Reason) : Chan :=
  if c.strand.st.active then
    { c with strand := { c.strand with endReq := match c.strand.endReq with
        | some q => if q.rank < r.rank then some r else some q
        | none => some r } }
  else c

/-- A squash event of R264 acts at the next boundary. -/
def Chan.askSquash (c : Chan) : Chan :=
  if c.strand.st.active then { c with strand := { c.strand with squashReq := true } } else c

end Sys2Proof.Machine
end

