-- ==== Sys2Proof/Machine/ForceOps.lean ====
section
/-! DEFINITION. Operations of the force path that several commands share: the limiter, correction, the output switch, the rest sequence,
load strobes and the status of a carrying cell (R84 … R111, R246). -/

namespace Sys2Proof.Machine

/-! ### The slew limiter (R91 … R93) -/

/-- One loop period of the limiter. A target that changes in the period behind the one in which the code reached it finds the count still
running: the limiter's own listing decides over the sentence before it (DEDUCED, see notes/assumptions). -/
def ForceSt.limStep (f : ForceSt) (step rate : Nat) : ForceSt :=
  if f.code = f.target then { f with rateCnt := 0 }
  else
    let d := f.target.toInt - f.code.toInt
    let m : Int := max (-(step : Int)) (min step d)
    { f with code := if f.rateCnt = 0 then BitVec.ofInt 20 (f.code.toInt + m) else f.code, rateCnt := (f.rateCnt + 1) % rate }

/-- `k` loop periods of the limiter. -/
def ForceSt.limSteps (f : ForceSt) (step rate : Nat) : Nat → ForceSt
  | 0 => f
  | k + 1 => (f.limStep step rate).limSteps step rate k

/-- The limiter moves the output of a channel whose switch is closed; while the switch is open, and while a keeper holds, its code holds
(R111). -/
def Chan.moves (c : Chan) : Bool := c.force.out.switchClosed c.force.tripped

def Chan.limit (c : Chan) (k : Nat) : Chan :=
  if c.moves then { c with force := c.force.limSteps c.eff.slewStep.toNat (c.eff.slewRateM1.toNat + 1) k } else c

/-- The limiter's step of loop period `p`: it steps once in a period, and in low-power mode by 4 periods at once in an update's period
(R91, R93). -/
def Chan.limitIn (c : Chan) (p : Nat) : Chan :=
  if c.force.stepAt = some p then c
  else { (c.limit c.lpStep) with force := { (c.limit c.lpStep).force with stepAt := some p } }

/-! ### Correction (R88) -/

/-- BY_VREF_UV of an external reference as k_ref, with 24 fractional bits (R88). -/
def BaySt.kRef (b : BaySt) : Nat := if b.vrefExt then (rha (3000000 * 2 ^ 24) b.vrefUv).toNat else 2 ^ 24

/-- The factor of a raw value, with 24 fractional bits (R165). -/
def BaySt.rawFactor (b : BaySt) : Nat := if b.vrefExt then (rha (b.vrefUv * 2 ^ 24) 3000000).toNat else 2 ^ 24

/-- The code sent to the DAC, and whether stage 4 saturates (R88). -/
def correctDac (c : Int) (g o : BitVec 16) (kref : Nat) : Code × Bool :=
  let x := rha (c * (2 ^ 24 + g.toInt) * kref) (2 ^ 48) + o.toInt
  (sat20 x, satHit 20 x)

/-- The corrected code of limiter code `c` on cell `k` at voltage range `v`. -/
def State.dacOn (s : State) (k : CellIx) (v : BitVec 4) (c : Code) : Code × Bool :=
  let t := (s.cell k).locket.force[min v.toNat 2]'(by omega)
  correctDac c.toInt t.1 t.2 (s.bay (CellIx.bay k)).kRef

/-- The DAC of cell `k` takes the code of channel `n` with the cell's own correction; its saturation shows in CH_DAC_STAT (R88). -/
def State.latchCell (s : State) (n : Ch) (k : CellIx) : State :=
  let d := s.dacOn k (s.ch n).range.v (s.ch n).force.code
  (s.upCell k fun x => { x with dac := d.1 }).upCh n fun c => { c with force := { c.force with sat := c.force.sat || d.2 } }

/-- The DAC of the carrying cell, and of a clasp's member cells on range 0x7, takes the limiter's code (R88, R146);
a force session drives it itself (R196). -/
def State.latchDac (s : State) (n : Ch) : State :=
  let c := s.ch n
  match (if c.meas.cal.st = .forceRun then none else c.map.cell) with
  | some k => s.each (k :: if c.range.i = 7 then s.memberCells n else []) fun j s => s.latchCell n j
  | none => s

/-- The offset-binary word that the DAC converts, and the taps that its two strings select (R89). -/
def dacWord (d : Code) : BitVec 20 := d + 524288

def dacCoarse (d : Code) : BitVec 10 := (dacWord d).extractLsb' 10 10

def dacFine (d : Code) : BitVec 10 := (dacWord d).extractLsb' 0 10

/-! ### Status of the cells (R119, R148, R246) -/

/-- The shunt switches that conduct (R246). -/
def RangeSt.shunts (r : RangeSt) : BitVec 8 :=
  let one (x : BitVec 4) : BitVec 8 := if x.toNat < 8 then 1#8 <<< x.toNat else 0
  let ov : BitVec 8 := match r.ovl with
    | some x => one x
    | none => 0
  let ch : HState × Nat := if r.hst = .vSwitch then (r.back, r.backSteps) else (r.hst, r.steps)
  one r.i ||| match ch.1 with
    | .engaging => if 2 ≤ ch.2 then ov else 0
    | .overlap => ov
    | .blend => one r.old
    | .squashing => if ch.2 < 3 && r.ovlOn then ov else 0
    | .boostMake | .boostBreak => one 7
    | _ => 0

/-- The shunt that I main converts (R246). -/
def RangeSt.imain (r : RangeSt) : BitVec 4 :=
  if r.hst = .blend then r.old else if isBoost r.i || (r.hst == .boostMake && decide (4 ≤ r.steps)) then 8 else r.i

/-- The output is connected: the switch is closed, or a keeper holds the output (R111, R516). -/
def Chan.connected (c : Chan) : Bool := c.moves || c.force.out == .hold

/-- The analog status of a cell that carries a channel. -/
def Cell.follow (x : Cell) (c : Chan) (awake : Bool) : Cell :=
  let closed := c.connected
  let boost := isBoost c.range.i
  { x with
    stage := if x.keeper.hold then .hold else if c.force.out = .tripOpen ∨ c.force.tripReq then .tripped else if !awake then .off
             else if boost && closed then .booster else .internal,
    gain2 := boost || decide (c.range.v ≠ 0),
    atten := if boost then .by1 else if c.range.v = 0 then .by4 else if c.range.v = 1 then .by2 else .by1,
    switchOn := closed && (!boost || (c.range.hst == .boostMake && decide (c.range.steps < 8)) || c.range.hst == .boostBreak),
    boostOn := closed && (boost || (c.range.hst == .boostMake && decide (4 ≤ c.range.steps))),
    boostDrv := if !closed then 0 else if boost then c.force.code
                else if c.range.hst == .boostMake && decide (4 ≤ c.range.steps) then c.range.boostC else 0,
    keeper := { x.keeper with armed := closed, quiet := if closed && !x.keeper.armed then 0 else x.keeper.quiet },
    shunts := c.range.shunts,
    ovlIn := c.range.ovl.getD 15,
    imainIn := c.range.imain }

/-- The analog status of a clasp's member cell: connected on range 0x7 only (R22, R23, R229). -/
def Cell.followMember (x : Cell) (c : Chan) (awake : Bool) : Cell :=
  let on := c.connected && c.range.i == 7 && c.range.hst != .blend && !c.force.out.atRest
  { x with
    stage := if x.keeper.hold then .hold else if c.force.out = .tripOpen ∨ c.force.tripReq then .tripped else if !awake then .off else .internal,
    gain2 := decide (c.range.v ≠ 0),
    atten := if c.range.v = 0 then .by4 else if c.range.v = 1 then .by2 else .by1,
    switchOn := on, boostOn := false, boostDrv := 0,
    keeper := { x.keeper with armed := on, quiet := if on && !x.keeper.armed then 0 else x.keeper.quiet },
    shunts := if c.range.i = 7 then 0x80 else 0, ovlIn := 15, imainIn := if c.range.i = 7 then 7 else 15 }

/-- The cells of a channel show its state. -/
def State.refresh (s : State) (n : Ch) : State :=
  let c := s.ch n
  match c.map.cell with
  | some k =>
    let s := s.upCell k fun x => x.follow c (s.bay (CellIx.bay k)).awake
    s.each (s.memberCells n) fun j s => s.upCell j fun x => x.followMember c (s.bay (CellIx.bay j)).awake
  | none => s

/-! ### The output switch -/

/-- The channel's switch opens and its loops with it (R100, R140); a keeper that held lets go (R517). -/
def Chan.openOut (c : Chan) (o : OutState) : Chan :=
  let c := { c with force := { c.force with out := o, closeAt := none, closeRest := false, fromRest := false,
                                            restAt := if o = OutState.graveOpen then none else c.force.restAt } }
  c.openLoops.calKeep

/-- The keepers of a channel's cells let go of a hold when its switch is commanded open (R517). -/
def State.releaseKeepers (s : State) (n : Ch) : State :=
  let one (j : CellIx) (s : State) : State :=
    let held := (s.cell j).keeper.hold
    let s := s.upCell j fun x => { x with keeper := { x.keeper with hold := false, armed := false } }
    s.when held fun s => s.endLive (srcCell j) 1
  s.each ((s.ch n).map.cell.toList ++ s.memberCells n) one

def State.openSwitch (s : State) (n : Ch) (o : OutState) : State :=
  ((s.releaseKeepers n).upCh n fun c => c.openOut o).refresh n

/-- The JTAG instructions that hold every output open (R553). -/
def JtagIr.holdsPins : JtagIr → Bool
  | .extest | .clamp | .highz => true
  | _ => false

/-- Every output switch and every loop opens with the command held (R553). -/
def State.pinsOpen (s : State) : State :=
  s.each allChs fun n s => match (s.ch n).force.out with
    | .closed | .closing | .resting | .restHold | .hold => s.openSwitch n .opened
    | _ => (s.upCh n Chan.openLoops).refresh n

/-- The closing sequence starts (R99). -/
def Chan.startClosing (c : Chan) (now : Nat) (rest : Bool) : Chan :=
  { c with force := { c.force with out := .closing, closeAt := some now, closeRest := rest,
                                   fromRest := !rest && (c.force.fromRest || c.force.out == .restOpen) } }

/-! ### Rest (R107 … R110) -/

/-- The smallest internal range whose full scale is at least the rest limit (R107). -/
def restRange (na : Nat) : BitVec 4 :=
  BitVec.ofNat 4 (((List.range 8).find? fun i => decide (na ≤ fsAmp i)).getD 7)

/-- A channel that runs a rest sequence at all (R108): enabled by the structure in force, no clasp member, carried by a cell. -/
def Chan.canRest (c : Chan) : Bool := c.decl.enabled && !c.map.member && c.map.cell.isSome

/-- The rest sequence of a channel starts (R108), whatever started it, with the rest values as they stand now (R69). Grave opening is not
undone. -/
def Chan.restBegin (c : Chan) (now : Nat) : Chan :=
  let was := c.moves
  let c := (c.squash).openLoops
  let v : BitVec 4 := if c.decl.rsClose then c.decl.rsRange.setWidth 4 else 15
  let c := (c.command v (restRange c.decl.rsIlimitNa)).commandedBy v 0 false
  let c := { c with range := { c.range with wantLevel := none },
                    force := { c.force with restAt := some now, rsCode := c.decl.rsCode, rsIlimitNa := c.decl.rsIlimitNa } }
  let c :=
    if c.force.out = .hold then c
    else if c.decl.rsClose && !c.force.tripped then
      if was then { c with force := { c.force with out := .resting, closeAt := none, closeRest := false, fromRest := false } }
      else c.startClosing now true
    else { c with force := { c.force with out := .restOpen, closeAt := none, closeRest := false, fromRest := false } }
  c.reclamp.calKeep

/-- The bays that channel `n` needs awake: that of its pins, and that of its cell where a bridge lends it (R25, R328). -/
def State.chBays (s : State) (n : Ch) : List Bay :=
  match (s.ch n).map.cell with
  | some k => if CellIx.bay k = chBay n then [chBay n] else [chBay n, CellIx.bay k]
  | none => [chBay n]

/-- What holds a bay awake begins on channel `n` (R522). -/
def State.wakeFor (s : State) (n : Ch) : State := s.each (s.chBays n) fun b s => s.wake b

/-- The rest sequence of a channel starts, unless it waits for the rest values or the rails anyway (R106, R514). -/
def State.restStart (s : State) (n : Ch) : State :=
  if (s.ch n).canRest && (s.ch n).force.out != .graveOpen && !s.pwr.waitRest.contains n then
    let s := (s.wakeFor n).upCh n fun c => c.restBegin s.time
    let s := s.when ((s.ch n).force.out == .restOpen) fun s => s.releaseKeepers n
    s.refresh n
  else s

/-- The channel leaves rest when a level is applied or its loop closes (R110). -/
def Chan.leaveRest (c : Chan) : Chan :=
  match c.force.out with
  | .restHold => Chan.reclamp { c with force := { c.force with out := .closed, restAt := none } }
  | .restOpen => Chan.reclamp { c with force := { c.force with out := .opened, restAt := none } }
  | .closing => if c.force.fromRest then Chan.reclamp { c with force := { c.force with fromRest := false, restAt := none } } else c
  | _ => c

/-! ### Load strobes (R94 … R96, R216) -/

/-- An applied level takes effect (R94, R96, R128): the command with the loops open in force-voltage mode, unless a manual command of the same
boundary wins (R139); the set-point's target with the loops closed; stored only otherwise. -/
def Chan.applyLevel (c : Chan) (l : Level) (sine : Int) : Chan :=
  let c := c.leaveRest
  let c := { c with force := { c.force with applied := l }, range := { c.range with wantLevel := none } }
  if c.loop.st.closed then { c with loop := { c.loop with restart := c.loop.restart || c.baseLevel != c.loop.goal } }
  else if c.loop.manualNow then c
  else { (c.openTarget sine) with loop := { (c.openTarget sine).loop with manualHeld := false } }

/-- A strobe of class 0 applies level and ranges, and `prep` sets the pulse and its base behind the level (R321); a level that comes with a new
range of the forced quantity waits for it. In class 1 the level stays pending (R95). While the rest sequence runs, a strobe only updates
CH_FORCE_APPLIED (R111). -/
def Chan.strobeWith (c : Chan) (l : Level) (v i : BitVec 4) (prep : Chan → Chan) (sine : Int) : Chan :=
  if c.force.resting then
    if c.eff.cls = .stream then c else { (prep c) with force := { (prep c).force with applied := l } }
  else
  let goal := c.baseLevel
  let c := c.command v i
  if c.eff.cls = .stream then c
  else
  let c := prep c
  if c.forcedWaits then
    let c := c.leaveRest
    { c with range := { c.range with wantLevel := some l }, loop := { c.loop with goal := goal } }
  else c.applyLevel l sine

/-- The channel's own strobe and the set's FIRE: CH_FORCE_LEVEL, CH_RANGE_SET and a compliance that waits (R94, R130, R215). -/
def Chan.strobe (c : Chan) (sine : Int) : Chan :=
  let c := (c.strobeWith c.eff.level c.eff.setV c.eff.setI (fun c => { c with strand := { c.strand with baseOn := false } }) sine).commandedBy
    c.eff.setV c.eff.setI false
  if c.loop.complPend then
    let c := c.setCompl c.eff.compliance
    { c with loop := { c.loop with complPend := false } }
  else c

/-- One period after the switch closed, its target is re-enabled: with the loops open in force-voltage mode the applied level (R99). -/
def Chan.reTarget (c : Chan) (sine : Int) : Chan :=
  if c.force.out = .closed ∧ c.force.closeAt.isSome then
    let c := { c with force := { c.force with closeAt := none } }
    if c.loop.manualNow then c else c.openTarget sine
  else c

/-- The loop period behind the one in which the switch closed: a rest sequence ramps on (R99, R108), and pending loops are preset (R136). The
manual command of the boundary before is past (R139). -/
def Chan.afterClosing (c : Chan) : Chan :=
  let c := { c with loop := { c.loop with manualNow := false } }
  if c.force.out = .closed then
    if c.force.closeRest then { c with force := { c.force with out := .resting, closeAt := none, closeRest := false } }
    else if c.loop.st = .pending then c.presetLoops else c
  else c

/-! ### Fences of a channel (R374, R350) -/

/-- A channel without a cell, or whose path failed: switch open, strand ended, AVAIL 0 (R350). -/
def State.fenceOpen (s : State) (n : Ch) (f : ChFence) : State :=
  let s := s.endStrand n .stopped .fault .now true
  let s := s.openSwitch n .opened
  s.upCh n fun c => { (c.squash.calInterrupt) with fence := f, map := { c.map with avail := false } }

end Sys2Proof.Machine
end

