-- ==== Sys2Proof/Machine/AtticOps.lean ====
section
/-! DEFINITION. Operations of the attic that several commands share: eligible spares, borrowing, requests, mapping changes and the fence
of a channel without a spare (R18, R30, R330 … R333, R347 … R352). -/

namespace Sys2Proof.Machine

/-- A spare that a migration may take (R330). -/
def Cell.eligible (useNominal : Bool) (x : Cell) : Bool := x.role == .spare && !x.rejected && (x.locketSt != .nominal || useNominal)

/-- A running migration has taken the cell. -/
def State.taken (s : State) (k : CellIx) : Bool :=
  allBayIxs.any fun b => s.att.bays[b.val].busy && !s.att.bays[b.val].lending && s.att.bays[b.val].newCell == some k

/-- The eligible spares of a bay, lowest first (R330, R331). -/
def State.spares (s : State) (b : Bay) : List CellIx :=
  (bayCells b).filter fun k => (s.cell k).eligible s.att.useNominal && !s.taken k

/-- The bridge between bays `b` and `b + 1` is free (R25, R347). -/
def State.bridgeFree (s : State) (g : Fin 7) : Bool :=
  s.att.bridge[g.val].isNone && !s.flt.fencedOrDue (srcBridge g) &&
    !allBayIxs.any fun b => s.att.bays[b.val].busy && s.att.bays[b.val].bridge == some g

/-- The bays adjacent to `b`, lower first, each with its bridge. -/
def neighbours (b : Bay) : List (Bay × Fin 7) :=
  (if h : 0 < b.val then [(⟨b.val - 1, by omega⟩, ⟨b.val - 1, by omega⟩)] else []) ++
    (if h : b.val < 7 then [(⟨b.val + 1, by omega⟩, ⟨b.val, h⟩)] else [])

/-- The channel's ranges and its structure allow a borrow (R347). -/
def Chan.mayBorrow (c : Chan) : Bool :=
  decide (c.range.i.toNat ≤ 6) && decide (c.range.v.toNat ≤ 1) && c.map.claspSize == 0 && !c.map.member && !c.map.bridged

/-- The bay that would lend to channel `n`, with its bridge (R347): the one with more eligible spares, the lower at equal counts. -/
def State.lenderFor (s : State) (n : Ch) : Option (Bay × Fin 7) :=
  if (s.ch n).mayBorrow && !(s.bay (chBay n)).fenced && (s.spares (chBay n)).isEmpty then
    let ok := (neighbours (chBay n)).filter fun p => (s.bay p.1).lend && !(s.bay p.1).fenced && s.bridgeFree p.2 && !(s.spares p.1).isEmpty
    match ok with
    | [] => none
    | [p] => some p
    | p :: q :: _ => if (s.spares p.1).length < (s.spares q.1).length then some q else some p
  else none

/-- A reaction of this boundary opens, rests or fences channel `n` (R260, R374, R376). -/
def State.faultDue (s : State) (n : Ch) : Bool :=
  s.flt.reactions.any fun r => decide (r.since < s.period) && (r.cls == .grave || match srcGroup r.unit with
    | .channel m => m == n && (srcGroup r.msg.src != srcGroup r.unit || (r.msg.kind != 7 && r.msg.kind != 9))
    | .cell k => coldKind r.msg.kind && ((s.ch n).map.cell == some k || (s.memberCells n).contains k)
    | .bay b => b == chBay n && (s.ch n).map.avail
    | .bridge g => s.att.bridge[g.val] == some n && (s.spares (chBay n)).isEmpty
    | _ => false)

/-- An end of the strand at this boundary, for which FAULT stands where a reaction acts there too (R324). -/
def State.endBy (s : State) (n : Ch) (st : StrandState) (r : Reason) (f : RecFate) (count : Bool) : State :=
  if s.faultDue n then s.endStrand n .stopped .fault .now true else s.endStrand n st r f count

/-- A migration of the channel would find a cell: an eligible spare of its own bay, or a borrow. -/
def State.spareFor (s : State) (n : Ch) : Bool := !(s.spares (chBay n)).isEmpty || (s.lenderFor n).isSome

def State.mig (s : State) (b : Bay) : BayMig := s.att.bays[b.val]

/-- The phases in which the old cell alone carries the channel (R344). -/
def MigPhase.early : MigPhase → Bool
  | .wake | .forceCheck | .mirror => true
  | _ => false

/-- The bay's entry shows a running migration of a channel of its own. -/
def BayMig.runs (m : BayMig) : Bool := m.busy && !m.lending

/-- Channel `n`'s own cell is in a migration (R333). -/
def State.migrating (s : State) (n : Ch) : Bool := (s.mig (chBay n)).runs && (s.mig (chBay n)).ch == some n

/-- The migration that runs for channel `n`, or for a member of the clasp that it leads, by the bay it occupies. -/
def State.migOf (s : State) (n : Ch) : Option Bay :=
  match (s.mig (chBay n)).runs, (s.mig (chBay n)).ch with
  | true, some j => if j = n ∨ s.lead j = n then some (chBay n) else none
  | _, _ => none

def State.upMig (s : State) (b : Bay) (f : BayMig → BayMig) : State :=
  { s with att := { s.att with bays := s.att.bays.set b.val (f (s.mig b)) } }

def State.upAtt (s : State) (f : Att → Att) : State := { s with att := f s.att }

/-- The phase in which channel `n` migrates. -/
def State.phaseOf (s : State) (n : Ch) : MigPhase :=
  match s.migOf n with
  | some b => (s.mig b).phase
  | none => .idle

/-- A request for a migration of channel `n` waits for its grant (R349). One request for a channel is enough. -/
def State.request (s : State) (q : MigReq) : State :=
  if s.att.requests.any (fun r => r.ch == q.ch) || s.migrating q.ch then s
  else s.upAtt fun a => { a with requests := a.requests ++ [q] }

/-- A mapping change of the channels listed: MAP_GEN of each one whose mapping or cells `old` shows differently increments (R30). -/
def State.remapped (s : State) (old : State) : State :=
  s.allCh fun n c =>
    let o := old.ch n
    let cells := [o.map.cell, c.map.cell].filterMap id
    let moved (k : CellIx) : Bool :=
      (s.cell k).role != (old.cell k).role || (s.cell k).channel != (old.cell k).channel || (s.cell k).viaBridge != (old.cell k).viaBridge
    let lends := allCellIxs.any fun k => moved k && ((s.cell k).role == .member && (s.cell k).channel == some n ||
      (old.cell k).role == .member && (old.cell k).channel == some n)
    if { o.map with gen := 0 } ≠ { c.map with gen := 0 } ∨ cells.any moved ∨ lends then
      { c with map := { c.map with gen := o.map.gen + 1 } }
    else { c with map := { c.map with gen := o.map.gen } }

/-- A cell leaves service for good (FENCED) or returns to the attic (SPARE): asleep, its switch open (R32, R330, R374). -/
def Cell.retire (x : Cell) (fenced : Bool) : Cell :=
  { x with role := if fenced then .fenced else .spare, channel := none, viaBridge := false, stage := .off, switchOn := false, boostOn := false,
           shunts := 0, ovlIn := 15, imainIn := 15, awake := false, condemned := false, matched := false, run := 0,
           vPow := false, vHi := false, vLo := false, iPow := false, iHi := false, iLo := false,
           keeper := { x.keeper with armed := false, hold := false } }

/-- The bridge that carries channel `n` becomes free. -/
def State.freeBridge (s : State) (n : Ch) : State :=
  s.upAtt fun a => { a with bridge := a.bridge.map fun x => if x = some n then none else x }

/-- A channel is fenced for want of a cell (R350): its switch opens, its strand ends with FAULT, AVAIL reads 0 and CELL 0x7F; the failing
cell (`bad`) is fenced, a healthy one returns to the attic. -/
def State.fenceNoSpare (s : State) (n : Ch) (f : ChFence) (bad : Bool) : State :=
  let old := s
  let s := s.fenceOpen n f
  let s := match (old.ch n).map.cell with
    | some k => (s.upCell k fun x => x.retire bad).when bad fun s => s.upFlt fun f => f.fence (srcCell k)
    | none => s
  let s := s.freeBridge n
  let s := s.upCh n fun c => { c with map := { c.map with cell := none, bridged := false } }
  s.remapped old

end Sys2Proof.Machine
end

