-- ==== Sys2Proof/Machine/MeasOps.lean ====
section
/-! DEFINITION. Correction by the locket and the clasp's mean (R158, R165, R166, R186). -/

namespace Sys2Proof.Machine

/-- A raw value corrected by an offset and a gain trim; the flag says that it saturated (R165). -/
def correct (raw : Int) (t : Word × Word) : Int × Bool :=
  let x := rha ((raw - t.1.toInt) * (2 ^ 30 + t.2.toInt)) (2 ^ 30)
  (satInt 24 x, satHit 24 x)

/-- The raw value of a filter output on cell `k`: scaled by the declared reference on an external one (R165). The scaled output is an integer,
rounded half away from zero before the offset trim is subtracted (DESIGN CHOICE, see notes/assumptions). -/
def State.rawOf (s : State) (k : CellIx) (x : BitVec 24) : Int :=
  let b := s.bay (CellIx.bay k)
  if b.vrefExt then rha (x.toInt * b.rawFactor) (2 ^ 24) else x.toInt

/-- Measure entry `e` of the cell's applied locket (R186). -/
def Cell.trim (x : Cell) (e : Nat) : Word × Word := if h : e < 32 then x.locket.meas[e] else (0, 0)

/-- The entries of R186. -/
def entryV (v : BitVec 4) : Nat := min v.toNat 2

def entryI (i : BitVec 4) : Nat := if isBoost i then 11 else 3 + i.toNat

def entryOvl (i : BitVec 4) : Nat := 12 + min i.toNat 7

def entryGain (g : BitVec 3) : Nat := 22 + g.toNat

/-- A filter output of cell `k` corrected by its entry `e`. -/
def State.corrected (s : State) (k : CellIx) (e : Nat) (x : BitVec 24) : Int × Bool := correct (s.rawOf k x) ((s.cell k).trim e)

/-- The other cell of a migration whose current adds to the channel's on current range `i` (R341, R342): the old cell from the swap on,
for a member of a clasp on range 0x7 only. -/
def State.swapPartner (s : State) (n : Ch) (i : BitVec 4) : Option CellIx :=
  match s.migOf n with
  | some b => if ((s.mig b).phase = .swap ∨ (s.mig b).phase = .drain) ∧ ((s.mig b).ch = some n ∨ i = 7) then (s.mig b).oldCell else none
  | none => none

/-- During the swap the fast-path current is the sum of both cells' (R341). -/
def State.fastPartner (s : State) (n : Ch) (i : BitVec 4) : Option CellIx := if s.phaseOf n = .swap then s.swapPartner n i else none

/-- The I main value of channel `n` on carrying cell `k`: the mean over the cells of a clasp on range 0x7, each by its own locket (R166).
A swap's partner `j` adds its cell's current (R341, R342); its filter output comes behind the members'. -/
def State.mainI (s : State) (n : Ch) (k : CellIx) (i : BitVec 4) (x : BitVec 24) (others : List (BitVec 24)) (j : Option CellIx) :
    Int × Bool :=
  let own := s.corrected k (entryI i) x
  let ms := (if i = 7 then s.memberCells n else []) ++ j.toList
  let m := if i = 7 then (s.memberCells n).length + 1 else 1
  if ms = [] then own
  else
    let rest := (ms.zip others).map fun p => s.corrected p.1 (entryI i) p.2
    (rha (rest.foldl (fun a p => a + p.1) own.1) m, rest.foldl (fun b p => b || p.2) own.2)

end Sys2Proof.Machine
end

