-- ==== Sys2Proof/Machine/FastPath.lean ====
section
/-! DEFINITION. What a loop update takes from the fast path and from ranging: corrected samples, the current through an overlap, a blend
or a booster change, the predictor, and the counts of a change in progress (R158, R218 … R224, R227 … R232, R341). -/

namespace Sys2Proof.Machine

/-! ### Fast-path levels (R158, R166, R220, R221, R230, R232) -/

/-- A level on the full scale `old` as a number on the full scale `new`, saturated to the span of a level. -/
def onScale (x : Int) (old new : Nat) : Int := satInt 32 (if old = new then x else rha (x * old) new)

/-- A corrected sample as a level (R158). -/
def sampleLevel (x : Int × Bool) : Int := satInt 32 (x.1 * 256)

/-- The resistance of a shunt by its locket word, in µΩ (R185). -/
def shuntMicro (w : Word) : Nat := bits w 0 28 * 10 ^ bits w 28 4

/-- Resistance of the shunt of internal range `i` on a cell. -/
def Cell.shuntOf (x : Cell) (i : BitVec 4) : Nat := if h : i.toNat < 8 then shuntMicro x.locket.shunt[i.toNat] else 0

/-- What the overlap converts, as a level of the active current range (R220). The cell's own shunt has its own full scale. -/
def State.ovlLevel (s : State) (n : Ch) (k : CellIx) (x : BitVec 24) : Int :=
  let c := s.ch n
  match c.range.ovl with
  | some o => onScale (sampleLevel (s.corrected k (entryOvl o) x)) (fsAmp o.toNat) c.fsi
  | none => 0

/-- The fast-path current of the blend, sample `j` of 16 (R221). -/
def blendI (a b : Int) (j : Nat) : Int := satInt 32 (rha ((16 - (j : Int)) * a + j * b) 16)

/-- The change that the fast path sees: a voltage range change leaves the overlap that it interrupts engaged (R224). -/
def RangeSt.change (r : RangeSt) : HState × Nat := if r.hst = .vSwitch then (r.back, r.backSteps) else (r.hst, r.steps)

/-- The corrected V of an update as a level (R158). -/
def State.fastVOf (s : State) (n : Ch) (k : CellIx) (x : LoopIn) : Int :=
  sampleLevel (s.corrected k (entryV (s.ch n).range.v) x.rawV)

/-- While an overlap waits, a clipped current reads as full scale (R220). -/
def fullScale (x : Int) : Int := if 0x7FFFFF00 ≤ x then maxLevel else x

/-- The corrected I of an update as a level of the active range, and whether a correction saturated. -/
def State.fastIOf (s : State) (n : Ch) (k : CellIx) (x : LoopIn) : Int :=
  let c := s.ch n
  let r := c.range
  let main := sampleLevel (s.mainI n k r.i x.rawI x.others (s.fastPartner n r.i))
  let ovl := s.ovlLevel n k x.rawOvl
  match r.change with
  | (.engaging, _) => fullScale main
  | (.overlap, _) => fullScale (satInt 32 (main + ovl))
  | (.squashing, _) => satInt 32 (main + ovl)
  | (.blend, j) =>
    let old := onScale (sampleLevel (s.corrected k (entryI r.old) x.rawI)) (fsAmp r.old.toNat) c.fsi
    let cell := s.cell k
    let ra := cell.shuntOf r.old
    let a := satInt 32 (old + ovl)
    let b := satInt 32 (rhaInt (ovl * (ra + cell.shuntOf r.i)) ra)
    blendI a b (j + 1)
  | (.resettle, j) => if r.i = 7 ∧ s.memberCells n ≠ [] ∧ 0 < j then main else ovl
  | (.boostMake, j) => if j < 4 then main else if j < 7 then ovl else if j < 8 then satInt 32 (main + ovl) else main
  | (.boostBreak, j) => if j < 8 then satInt 32 (main + ovl) else ovl
  | (.gainSwitch, _) => c.loop.fastI.toInt
  | _ => main

/-! ### The predictor (R217 … R219) -/

/-- The down threshold as a level of the active range (R218). -/
def Chan.downThr (c : Chan) : Nat :=
  let i := c.range.i
  if i = 7 then (rha 0x051EB852 c.claspM).toNat
  else (rha (8 * (c.fsI (i - 1) : Int) * 2 ^ 31) (10 * c.fsi)).toNat

/-- The top of the span: 0x6 through a bridge (R27), otherwise the highest declared range. -/
def Chan.spanTop (c : Chan) : BitVec 4 := if c.onBridge then 6 else c.topRange

/-- The next range up or down lies in the span of the policy (R217). -/
def Chan.upInSpan (c : Chan) : Bool :=
  let i := c.range.i.toNat
  decide (i < c.spanTop.toNat) && c.declared (c.range.i + 1) && match c.eff.policy with
    | .off => false
    | .upOnly | .full => true
    | .bounded => decide (i < c.eff.boundHi.toNat)

def Chan.downInSpan (c : Chan) : Bool :=
  let i := c.range.i.toNat
  decide (0 < i) && match c.eff.policy with
    | .off | .upOnly => false
    | .full => true
    | .bounded => decide (c.eff.boundLo.toNat < i)

/-- The horizon in updates (R219). -/
def Chan.horizon (c : Chan) : Nat :=
  let h := c.eff.horizonM1.toNat + 1
  if c.decl.lowPower then (h + 3) / 4 else h

/-- The projection of R219 from the present magnitude and the one of 16 updates before. -/
def Chan.proj (c : Chan) (a oldest : Nat) : Int := (a : Int) + Int.tdiv (((a : Int) - oldest) * c.horizon) 16

def upThr : Nat := 0x73333333

/-- The predictor's firing condition in either direction. -/
def Chan.firesUp (c : Chan) (a oldest : Nat) : Bool := c.upInSpan && decide ((upThr : Int) ≤ c.proj a oldest)

def Chan.firesDown (c : Chan) (a oldest : Nat) : Bool := c.downInSpan && decide (c.proj a oldest < c.downThr)

/-- The policy acts: MODE is 0 and no calibration session is open (R194, R214, R217). -/
def Chan.autorange (c : Chan) : Bool :=
  c.eff.policy != .off && c.eff.mode == .voltage && !c.meas.cal.isOpen

/-- The hold-off has expired (R219). -/
def RangeSt.ready (r : RangeSt) : Bool := match r.hold with
  | some k => decide (16 ≤ k)
  | none => true

/-- The predictor in one update: its counters, its history and what it asks to engage. It gathers in a hold-off and while its own overlap
waits for the crossing; it fires only with no change in progress and none commanded (R219, R240). -/
def Chan.predict (c : Chan) : Chan :=
  let r := c.range
  let a := mag c.loop.fastI
  let o := r.hist.getLastD a
  if c.autorange && (r.hst == .idle || r.hst == .engaging || r.hst == .overlap) then
    let may := r.hst == .idle && r.ready && r.wantI.isNone && r.wantV.isNone
    let up := if may && c.firesUp a o then r.upCnt + 1 else 0
    let dn := if may && c.firesDown a o then r.dnCnt + 1 else 0
    { c with range := { r with upCnt := up, dnCnt := dn, hist := (a :: r.hist).take 16, oldest := o,
                               fire := if up = 2 then some (r.i + 1) else if dn = 2 then some (r.i - 1) else if may then r.fire else none } }
  else { c with range := { r with fire := none, oldest := o } }

/-- What the predictor asks to engage, held to its limits at the boundary at which it would act (R323): the policy acts, no session is open, and
the range lies in the span. -/
def Chan.fired (c : Chan) : Option (BitVec 4) :=
  match c.range.fire with
  | some f => if c.autorange && (if c.range.i.toNat < f.toNat then c.upInSpan else c.downInSpan) then some f else none
  | none => none

/-- The hold-off counts an update. -/
def Chan.holdCount (c : Chan) : Chan := { c with range := { c.range with hold := c.range.hold.map (min 16 <| · + 1) } }

/-! ### Counts of a change in progress -/

/-- The hold-off starts with a cleared history (R219). -/
def RangeSt.holdOff (r : RangeSt) : RangeSt :=
  { r.forget with hst := .idle, steps := 0, ovl := none, hold := some 0, cross := 0, miss := 0 }

/-- A change completes (R220, R230, R232). One that no commit commanded squashes run-ahead (R264). A change off a booster range no longer
waits (R234). -/
def Chan.completeChange (c : Chan) : Chan :=
  let c := if c.range.origin = .predictor || !c.range.iCommit then c.askSquash else c
  { c with range := { c.range.holdOff with changed := true, changes := satInc c.range.changes,
                                           waits := c.range.waits && c.range.hst != .boostBreak } }

/-- A squash ends (R224, R225). One that run-ahead's own squash brought asks for no other. -/
def Chan.completeSquash (c : Chan) : Chan :=
  let c := if c.range.origin = .predictor || (c.range.origin == .command && !c.range.iCommit) then c.askSquash else c
  { c with range := c.range.holdOff }

/-- The counts of an overlap that waits for its crossing (R220, R224), on the history as it stood when the update began. -/
def Chan.overlapCount (c : Chan) : Chan :=
  let r := c.range
  let a := mag c.loop.fastI
  let up := match r.ovl with
    | some o => decide (r.i.toNat < o.toNat)
    | none => false
  let crossing := if up then decide (upThr ≤ a) else decide (a < c.downThr)
  let firing := if up then c.firesUp a r.oldest else c.firesDown a r.oldest
  { c with range := { r with steps := r.steps + 1, cross := if crossing then r.cross + 1 else 0, miss := if firing then 0 else r.miss + 1 } }

/-- Behind period p + 4 of an upward booster change I main moves to the booster sense at its gain, and BOOST_DRV_n starts at the present code
on the booster's scale (R213, R230). -/
def Chan.boostDrive (c : Chan) : Chan :=
  { c with range := { c.range with steps := 4, gb := c.gB c.lowBoost,
                                   boostC := sat20 (rha (c.force.code.toInt * 12000) (max 12000 c.decl.vfsMv)) } }

/-- Behind period p + 7 the booster range becomes active (R230). -/
def Chan.boostTake (c : Chan) : Chan := { (c.activateI c.lowBoost) with range := { (c.activateI c.lowBoost).range with steps := 7 } }

/-- A period of the downward change enters the preset of R99; behind period p + 8, 0x7 becomes active with the command at the mean pin
voltage (R230). -/
def Chan.boostDown (c : Chan) : Chan :=
  let sum := c.range.vSum + c.loop.fastV.toInt
  if c.range.steps = 7 then
    let d := (c.activateI 7).presetCode (rha (sum * c.fsv) (8 * 4096 * (c.activateI 7).fsv))
    { d with range := { d.range with steps := 8, vSum := sum } }
  else { c with range := { c.range with steps := c.range.steps + 1, vSum := sum } }

/-- The change in progress counts an update (R220, R224, R230, R232). -/
def Chan.countChange (c : Chan) : Chan :=
  let r := c.range
  let next (h : HState) : Chan := { c with range := { r with hst := h, steps := 0, cross := 0, miss := 0 } }
  let more : Chan := { c with range := { r with steps := r.steps + 1 } }
  match r.hst with
  | .engaging => if 7 ≤ r.steps then next .overlap else more
  | .overlap => c.overlapCount
  | .blend => if 15 ≤ r.steps then next .resettle else more
  | .resettle => if 2 ≤ r.steps then next .release else more
  | .release => c.completeChange
  | .squashing => if 3 ≤ r.steps then c.completeSquash else more
  | .boostMake => if 8 ≤ r.steps then c.completeChange else if r.steps = 6 then c.boostTake else if r.steps = 3 then c.boostDrive else more
  | .boostBreak => if 8 ≤ r.steps then c.completeChange else c.boostDown
  | .gainSwitch => if 2 ≤ r.steps then c.completeChange else more
  | _ => c

end Sys2Proof.Machine
end

