-- ==== Sys2Proof/Machine/Prepare.lean ====
section
/-! DEFINITION. Run-ahead: reading a bead, generating the points of a segment, and checking each point as it is prepared
(R247 … R256, R261, R263). -/

namespace Sys2Proof.Machine

/-- A bead as its four words (R247). -/
structure Bead where
  level : Level
  compl : Level
  v : BitVec 4
  i : BitVec 4
  dwell : Nat
  sel : BitVec 4
  flags : BitVec 12
  link : BitVec 16

/-- The bead with an index (R247), as the data path takes its words. -/
def State.bead (s : State) (index : Nat) : Bead :=
  let a := 0x100000 + 16 * (index % 65536)
  let w2 := s.pathWord (a + 8)
  let w3 := s.pathWord (a + 12)
  { level := s.pathWord a, compl := s.pathWord (a + 4), v := w2.extractLsb' 4 4, i := w2.extractLsb' 0 4, dwell := bits w2 8 24,
    sel := w3.extractLsb' 0 4, flags := w3.extractLsb' 4 12, link := w3.extractLsb' 16 16 }

/-! Flags of a bead (R248). -/

def Prep.isLast (p : Prep) : Bool := p.flags.getLsbD 0
def Prep.isBarrier (p : Prep) : Bool := p.flags.getLsbD 1
def Prep.isStrobe (p : Prep) : Bool := p.flags.getLsbD 2
def Prep.isTone (p : Prep) : Bool := p.flags.getLsbD 3
def Prep.isPulse (p : Prep) : Bool := p.flags.getLsbD 4
def Prep.isSilent (p : Prep) : Bool := p.flags.getLsbD 5
def Prep.isMark (p : Prep) : Bool := p.flags.getLsbD 6

/-- SEG_M1 of a bead's flags. -/
def segM1 (flags : BitVec 12) : Nat := (flags.extractLsb' 7 5).toNat

/-- The types whose beads open segments (R253). -/
def StrandType.segments : StrandType → Bool
  | .linear | .log | .pulsed => true
  | _ => false

/-- A tone bead: the SINE flag in a sine strand (R253, R256). -/
def isToneBead (t : StrandType) (flags : BitVec 12) : Bool := t == .sine && flags.getLsbD 3

/-- Points of the segment that a bead opens (R254, R255). -/
def segPoints (t : StrandType) (flags : BitVec 12) : Nat :=
  if t.segments && !flags.getLsbD 0 then segM1 flags + 1 else 1

/-- Bisection over the bits of a root: the greatest `m` below `2^bits` above `acc` that satisfies `p`. -/
def bisect (p : Nat → Bool) : Nat → Nat → Nat
  | 0, acc => acc
  | b + 1, acc => bisect p b (if p (acc + 2 ^ b) then acc + 2 ^ b else acc)

/-- (a^(S − i) · b^i)^(1/S) rounded half up, for magnitudes a and b. -/
def logRoot (a b i S : Nat) : Nat :=
  let n := a ^ (S - i) * b ^ i * 2 ^ S
  bisect (fun m => decide ((2 * m - 1) ^ S ≤ n)) 33 0

/-- Point `i` of a linear segment of `S` points (R254). -/
def linPoint (la lb : Level) (i S : Nat) : Level := sat32 (la.toInt + rha ((lb.toInt - la.toInt) * i) S)

/-- Point `i` of a log segment, with the slack of R255: at most 1 level LSB from the exactly rounded value. -/
def logPoint (la lb : Level) (i S : Nat) (slack : Fin 3) : Level :=
  let m : Int := logRoot la.toInt.natAbs lb.toInt.natAbs i S
  sat32 ((if la.toInt < 0 then -m else m) + (slack.val : Int) - 1)

/-- The anchors of a log segment are 0 or differ in sign (R263). -/
def badAnchors (la lb : Level) : Bool :=
  la == 0 || lb == 0 || (decide (la.toInt < 0) != decide (lb.toInt < 0))

/-- The first failing check of rows 2 … 5 of R263. -/
def Chan.checkBead (c : Chan) (t : StrandType) (a : Bead) (lb : Level) : Option Reason :=
  let tone := isToneBead t a.flags
  let badRange := !tone && ((decide (2 < a.v.toNat) && a.v != 15) || (a.i != 15 && (decide (10 < a.i.toNat) || !c.declared a.i)))
  let badFlag := (a.flags.getLsbD 4 && t != .pulsed) || (a.flags.getLsbD 3 && t != .sine) || (segM1 a.flags != 0 && !t.segments)
  let badLog := t == .log && decide (1 < segPoints t a.flags) && badAnchors a.level lb
  let badTone := tone && (a.dwell != 0 || a.flags.getLsbD 0)
  if badRange then some .badRange else if badFlag then some .badFlag else if badLog then some .badLog
  else if badTone then some .badTone else none

/-- The point of a strand at a cursor, prepared and checked (R254 … R256, R261, R263). Points after the first carry range codes 0xFF and
a clear MARK. -/
def State.preparePoint (s : State) (n : Ch) (index pt : Nat) : Prep :=
  let c := s.ch n
  let t := c.eff.type
  let a := s.bead index
  let S := segPoints t a.flags
  let e := if S = 1 then index else a.link.toNat
  let lb := (s.bead e).level
  let level := if pt = 0 then a.level
    else if t = .log then logPoint a.level lb pt S (Config.logSlack s.draws) else linPoint a.level lb pt S
  let tone := isToneBead t a.flags
  { index := index, endIndex := e, point := pt, points := S, level := level, compl := a.compl,
    v := if pt = 0 then a.v else 15, i := if pt = 0 then a.i else 15, dwell := if tone then 0 else max a.dwell 10, sel := a.sel,
    flags := if pt = 0 then a.flags else a.flags &&& 0xFBF, link := a.link, bad := c.checkBead t a lb, fixed := !tone && decide (a.dwell < 10),
    ue := s.att.ueBeads.any fun u => u.toNat == index || u.toNat == e }

/-- What follows a prepared point: its bead's next point, or the linked bead (R254, R256). -/
def Prep.next (p : Prep) : Nat × Nat := if p.point + 1 < p.points then (p.index, p.point + 1) else (p.link.toNat, 0)

/-- Run-ahead may prepare in this loop period (R261, R266): fewer than 8 are prepared, LAST has not been prepared, no squash is due or has
just happened, and a barrier finds every earlier bead committed. -/
def State.mayPrepare (s : State) (n : Ch) : Bool :=
  let g := (s.ch n).strand
  let barrier := (s.bead g.cursor).flags.getLsbD 1
  g.st.active && decide (g.ahead.length < 8) && !g.noMore && !g.squashReq && decide (g.holdUntil ≠ s.period + 2) &&
    (!barrier || g.ahead.isEmpty)

/-- Run-ahead prepares at most one bead (R261). -/
def State.prepare (s : State) (n : Ch) : State :=
  if s.mayPrepare n then
    let g := (s.ch n).strand
    let p := s.preparePoint n g.cursor g.cursorPt
    (s.when ((s.ch n).eff.type == .log && decide (0 < g.cursorPt)) State.draw).upCh n fun c =>
      { c with strand := { c.strand with ahead := c.strand.ahead ++ [p], cursor := p.next.1, cursorPt := p.next.2,
                                         noMore := p.isLast && !isToneBead c.eff.type p.flags } }
  else s

end Sys2Proof.Machine
end

