-- ==== Sys2Proof/Machine/Engine.lean ====
section
/-! DEFINITION. The loop engine: the control law to the bit, set-point and ramp, effective compliance, selection, states, presets and
tracking, and the dissipation bound (R122 … R145). -/

namespace Sys2Proof.Machine

/-! ### The control law (R123 … R125, R137) -/

/-- What one loop computes in one update: its terms, the candidate integrator, the candidate output and the saturations by point. -/
structure Law where
  p : Int
  i : Int
  d : Int
  f : Int
  u : Int
  flags : BitVec 10

/-- Saturation points that were hit, by their bits (R124). -/
def satPoints (l : List (Nat × Bool)) : BitVec 10 := l.foldl (fun w x => if x.2 then w ||| (1#10 <<< x.1) else w) 0

/-- A coefficient times an operand, shifted and rounded, before saturation (R123). -/
def product (k : Word) (x : Int) (sh : BitVec 5) : Int := rs (k.toInt * x) sh.toNat

/-- The law of R125 for set-point `r` and measured value `y`. -/
def law (k : Coefs) (r y acc yPrev dPrev : Int) : Law :=
  let e := satInt 32 (r - y)
  let p0 := product k.kp e k.shP
  let m0 := product k.ki e k.shI
  let i0 := acc + satInt 32 m0
  let dy := satInt 32 (yPrev - y)
  let dk0 := product k.kd dy k.shD
  let df0 := satInt 32 dk0 - dPrev
  let dm0 := product k.kdf (satInt 32 df0) k.shDf
  let d0 := dPrev + satInt 32 dm0
  let f0 := product k.kff r k.shFf
  let p := satInt 32 p0
  let i := satInt 32 i0
  let d := satInt 32 d0
  let f := satInt 32 f0
  let u := satInt 32 (p + i + d + f)
  { p := p, i := i, d := d, f := f, u := u,
    flags := satPoints [(0, satHit 32 (r - y)), (1, satHit 32 p0), (2, satHit 32 m0), (3, satHit 32 i0), (4, satHit 32 (yPrev - y)),
      (5, satHit 32 dk0), (6, satHit 32 df0 || satHit 32 dm0 || satHit 32 d0), (7, satHit 32 f0), (8, satHit 32 (p + i + d + f)),
      (9, satHit 20 (rha u 4096))] }

/-- The preset of R137: d is 0 and the integrator is what makes the candidate `held`. -/
def lawPreset (k : Coefs) (r y held : Int) : Law :=
  let e := satInt 32 (r - y)
  let p0 := product k.kp e k.shP
  let f0 := product k.kff r k.shFf
  let p := satInt 32 p0
  let f := satInt 32 f0
  let i := satInt 32 (held - p - f)
  let u := satInt 32 (p + i + f)
  { p := p, i := i, d := 0, f := f, u := u,
    flags := satPoints [(0, satHit 32 (r - y)), (1, satHit 32 p0), (3, satHit 32 (held - p - f)), (7, satHit 32 f0),
      (8, satHit 32 (p + i + f)), (9, satHit 20 (rha u 4096))] }

/-- The tracking integrator of R138 for the driving candidate `u`, and whether it saturated. -/
def track (o : Law) (u : Int) : Int × Bool := (satInt 32 (u - o.p - o.d - o.f), satHit 32 (u - o.p - o.d - o.f))

/-! ### Bounds (R127, R132, R144) -/

/-- C_eff (R132). -/
def Chan.cEff (c : Chan) : Nat :=
  let a := mag c.loop.complApplied
  if c.eff.mode = .voltage then min (min a (boundLevel c.eff.ilimitNa.toNat c.fsi)) c.icapLevel
  else min a (boundLevel c.eff.vlimitUv.toNat c.fsv)

/-- The dissipation bound is the tightest term (R144). -/
def Chan.dcapTightest (c : Chan) : Bool :=
  let lim := boundLevel c.eff.ilimitNa.toNat c.fsi
  decide (c.icapLevel < if c.eff.mode = .voltage then min (mag c.loop.complApplied) lim else lim)

/-- V_head in 2^-31 µV (R144). -/
def Chan.headroom (c : Chan) (vpos vneg : Nat) : Nat :=
  let v : Int := c.loop.fastV.toInt * c.fsv
  let h : Int := if 0 ≤ c.loop.fastI.toInt then (vpos : Int) * 1000 * 2 ^ 31 - v else v + (vneg : Int) * 1000 * 2 ^ 31
  max h.toNat (1000000 * 2 ^ 31)

/-- I_cap in 2^-31 nA for a grant in mW (R144), and the dissipation estimate in mW (R524). -/
def capFrom (head grant : Nat) : Nat := grant * 10 ^ 12 * 2 ^ 62 / head

def Chan.dissFrom (c : Chan) (head : Nat) : Nat := head * c.loop.fastI.toInt.natAbs * c.fsi / (10 ^ 12 * 2 ^ 62)

/-! ### One update (R128, R133 … R138) -/

/-- The state in which an update begins: HELD returns to the state it left (R136). -/
def LoopSt.entry (l : LoopSt) : LoopState := if l.st = .held then l.before else l.st

/-- The loop that drives the command in a state: the compliance loop in CONFIRM_CMP and COMPLIANCE (R135). -/
def LoopState.byCompl : LoopState → Bool
  | .confirmCmp | .compliance => true
  | _ => false

/-- The next state of R136 for an update; `tighter` says that the compliance candidate is the more restrictive one. -/
def LoopState.after (st : LoopState) (tighter : Bool) : LoopState :=
  match st with
  | .preset => .primary
  | .primary => if tighter then .confirmCmp else .primary
  | .confirmCmp => if tighter then .compliance else .primary
  | .compliance => if tighter then .compliance else .confirmPri
  | .confirmPri => if tighter then .compliance else .primary
  | s => s

/-- One step of the ramp toward the target (R128). -/
def rampTo (r target : Int) (step : Nat) : Int := r + max (-(step : Int)) (min step (target - r))

/-- The compliance sign of an update and its count of opposite samples (R133). -/
def LoopSt.signStep (l : LoopSt) (st : LoopState) (first : Bool) (y : Int) : Bool × Nat :=
  if first then (decide (y < 0), 0)
  else
    let opp := if l.sign then decide (0 < y) else decide (y < 0)
    let k := if opp then min (l.oppose + 1) 2 else 0
    let locked := st.byCompl || st == .confirmPri
    if k = 2 && !locked then (!l.sign, 0) else (l.sign, k)

/-- The primary set-point of an update (R128). -/
def Chan.setpointStep (c : Chan) (first : Bool) (y target : Int) : Int :=
  if first || c.loop.restart then y
  else rampTo c.loop.setpoint.toInt target (c.eff.rampStep.toNat * 4096 * c.lpStep)

/-- A loop's candidate of an update: a preset of R137 from the held command or from the driving candidate, or the law. -/
def LoopSt.candidate (l : LoopSt) (k : Coefs) (volt first : Bool) (r y : Int) : Law :=
  if first then lawPreset k r y (l.cmd.toInt * 4096)
  else if (if volt then l.presetV else l.presetI) then lawPreset k r y l.drive.toInt
  else if volt then law k r y l.accV.toInt l.yPrevV.toInt l.dPrevV.toInt
  else law k r y l.accI.toInt l.yPrevI.toInt l.dPrevI.toInt

/-- The integrators after an update: (primary, compliance), and whether the tracking one saturated (R134, R135, R138). A loop that is
preset keeps its preset, or tracks. -/
def integrators (st : LoopState) (first presetP presetC : Bool) (accP accC : Int) (p q : Law) : Int × Int × Bool × Bool :=
  if first then (p.i, q.i, false, false)
  else match st with
    | .primary => (p.i, (track q p.u).1, false, (track q p.u).2)
    | .compliance => ((track p q.u).1, q.i, (track p q.u).2, false)
    | .confirmCmp => (if presetP then (track p q.u).1 else accP, if presetC then q.i else accC, presetP && (track p q.u).2, false)
    | .confirmPri => (if presetP then p.i else accP, if presetC then (track q p.u).1 else accC, false, presetC && (track q p.u).2)
    | _ => (accP, accC, false, false)

/-- One update of closed loops, engines agreeing (R125 … R138). -/
def Chan.closedUpdate (c : Chan) (target : Level) : Chan :=
  let l := c.loop
  let volt := c.eff.mode == .voltage
  let st := l.entry
  let first := st == .preset && !l.presetDone
  let y : Int := if volt then l.fastV.toInt else l.fastI.toInt
  let yc : Int := if volt then l.fastI.toInt else l.fastV.toInt
  let r := c.setpointStep first y target.toInt
  let sg := l.signStep st first yc
  let rc : Int := if sg.1 then -(c.cEff : Int) else c.cEff
  let p := l.candidate (if volt then c.eff.coefV else c.eff.coefI) volt first r y
  let q := l.candidate (if volt then c.eff.coefI else c.eff.coefV) (!volt) first rc yc
  let presetP := if volt then l.presetV else l.presetI
  let presetC := if volt then l.presetI else l.presetV
  let tighter := if sg.1 then decide (p.u < q.u) else decide (q.u < p.u)
  let st' := if first || presetP || presetC then st else st.after tighter
  let crossed := (st == .confirmCmp && st' == .compliance) || (st == .confirmPri && st' == .primary)
  let byC := st'.byCompl
  let u := if byC then q.u else p.u
  let acc := integrators st' first presetP presetC (if volt then l.accV.toInt else l.accI.toInt) (if volt then l.accI.toInt else l.accV.toInt) p q
  let fp := p.flags ||| satPoints [(3, acc.2.2.1)]
  let fq := q.flags ||| satPoints [(3, acc.2.2.2)]
  let aP := BitVec.ofInt 32 acc.1
  let aC := BitVec.ofInt 32 acc.2.1
  let dP := BitVec.ofInt 32 p.d
  let dC := BitVec.ofInt 32 q.d
  let c := { c with loop := { l with
    st := st', before := st', presetDone := first || l.presetDone, presetI := false, presetV := false, restart := false,
    setpoint := BitVec.ofInt 32 r, ramping := decide (r ≠ target.toInt), sign := sg.1, oppose := sg.2,
    accV := if volt then aP else aC, accI := if volt then aC else aP, dPrevV := if volt then dP else dC, dPrevI := if volt then dC else dP,
    yPrevV := l.fastV, yPrevI := l.fastI, drive := BitVec.ofInt 32 u, complDrove := l.complDrove || byC,
    satV := l.satV ||| (if volt then fp else fq), satI := l.satI ||| (if volt then fq else fp),
    crossed := l.crossed || crossed, crossCount := if crossed then satInc l.crossCount else l.crossCount } }
  let c := c.toLimiter (satInt 20 (rha u 4096))
  if crossed && byC then (if c.eff.cstop then c.askEnd .compliance else c).askSquash else c

/-- A HELD period: the command stands, no integrator and no set-point advances (R135, R142). The derivative filters run on, with their
saturations (R124), and the compliance sign keeps its count (R133). -/
def Chan.heldUpdate (c : Chan) : Chan :=
  let l := c.loop
  let dv := law c.eff.coefV 0 l.fastV.toInt l.accV.toInt l.yPrevV.toInt l.dPrevV.toInt
  let di := law c.eff.coefI 0 l.fastI.toInt l.accI.toInt l.yPrevI.toInt l.dPrevI.toInt
  let diff : BitVec 10 := 0x070
  let sg := l.signStep l.entry false (if c.eff.mode = .voltage then l.fastI.toInt else l.fastV.toInt)
  { c with loop := { l with st := .held, before := l.entry, yPrevV := l.fastV, yPrevI := l.fastI, sign := sg.1, oppose := sg.2,
                            dPrevV := BitVec.ofInt 32 dv.d, dPrevI := BitVec.ofInt 32 di.d,
                            satV := l.satV ||| (dv.flags &&& diff), satI := l.satI ||| (di.flags &&& diff) } }

/-- The rest sequence's ramp toward RS_CODE by LP_RAMP_STEP codes in a loop period (R108): it begins once the voltage range stands. -/
def Chan.restRamp (c : Chan) : Chan :=
  if c.range.wantV.isSome then c
  else c.toLimiter (rampTo c.loop.cmd.toInt c.force.rsCode.toInt (c.decl.lpRampStep * c.lpStep))

/-- The composition of R321 changes an open loop's command in this update: the sine moves it, or its bounded target is another one than in
the update before. A manual command stands for its own update, and after it until the composition changes (R139, DEDUCED, see
notes/assumptions). -/
def Chan.recomposes (c : Chan) (sine : Int) : Bool :=
  c.eff.mode == .voltage && c.force.closeAt.isNone && !c.loop.manualHeld &&
    ((c.sineOn && c.eff.cls == .strobed) || c.openLevel sine != c.loop.openGoal)

/-- One update with the loops open: the rest ramp, the composed target, or the held command (R96, R108, R277, R321). -/
def Chan.openUpdate (c : Chan) (sine : Int) : Chan :=
  match c.force.out with
  | .resting => c.restRamp
  | .restHold => c
  | _ =>
    let d := { c with force := { c.force with target := c.loop.cmd } }
    if c.recomposes sine then d.openTarget sine else d

/-- The terms that every update shows: C_eff, SP_LIMIT and DCAP (R127, R132, R144). -/
def Chan.showBounds (c : Chan) (raw : Level) : Chan :=
  { c with loop := { c.loop with complEff := BitVec.ofNat 32 c.cEff, spLimit := overMag raw.toInt c.primaryBound, dcap := c.dcapTightest,
                                 dcapHit := c.loop.dcapHit || c.dcapTightest } }

/-- What the update keeps of its composed target (R321). -/
def Chan.keepGoal (c : Chan) (sine : Int) : Chan := { c with loop := { c.loop with openGoal := c.openLevel sine, manualHeld := false } }

/-- The engine's part of an update: `agree` is the result of the comparison (R147). -/
def Chan.engine (c : Chan) (sine : Int) (agree : Bool) : Chan :=
  let raw := c.rawTarget sine
  let c := c.showBounds raw
  let c := { c with loop := { c.loop with goal := c.baseLevel } }
  (if c.range.hst = .vSwitch then c
   else if c.loop.st.closed then
     if agree then c.closedUpdate (BitVec.ofInt 32 (clampMag raw.toInt c.primaryBound)) else c.heldUpdate
   else c.openUpdate sine).keepGoal sine

/-! ### The end of a voltage range change (R227) -/

/-- The change counts, both loops are preset from c′ in the next update with their state and set-point, and run-ahead is squashed when no
commit commanded it (R227, R264). -/
def Chan.finishV (c : Chan) : Chan :=
  let r : RangeSt := { c.range with hst := c.range.back, steps := c.range.backSteps, changed := true, changes := satInc c.range.changes }
  let c := { c with range := if r.hst = HState.idle then r.holdOff else r }
  let c := if c.range.vCommit then c else c.askSquash
  { c with loop := { c.loop with presetV := c.loop.presetV || c.loop.st.closed, presetI := c.loop.presetI || c.loop.st.closed } }

/-- Period p + 2 of a voltage range change begins, in low-power mode too (R227, R239). -/
def Chan.endV (c : Chan) (now : Nat) : Chan :=
  if c.range.hst = .vSwitch ∧ c.range.steps = 2 ∧ c.range.vAt + 256 ≤ now then c.finishV else c

/-- A level that came with a new range of the forced quantity is applied once that range is in force (R216). -/
def Chan.settleLevel (c : Chan) (sine : Int) : Chan :=
  match c.range.wantLevel with
  | some l =>
    if c.forcedWaits || c.range.hst == .vSwitch then c
    else c.applyLevel l sine
  | none => c

/-- The count of the change in progress; an overlap that a voltage range change interrupts counts on behind it (R224). -/
def Chan.countAll (c : Chan) : Chan :=
  if c.range.hst = .vSwitch then
    if c.range.back = .idle then c
    else
      let d := { c with range := { c.range with hst := c.range.back, steps := c.range.backSteps } }.countChange
      { d with range := { d.range with hst := .vSwitch, steps := c.range.steps, back := d.range.hst, backSteps := d.range.steps } }
  else c.countChange

/-! ### What ranging does next (R220, R232, R233, R344) -/

/-- Ranging acts on the channel: a cell carries it, and no swap runs (R344). -/
def State.mayRange (s : State) (n : Ch) : Bool :=
  (s.ch n).map.cell.isSome && (match s.phaseOf n with
    | .swap => false
    | _ => true)

/-- The handover may start: the crossing has held in two consecutive updates of a predicted overlap, or a commanded change has its shunt in
OVERLAP, itself or on its way to a booster range, since the period before or already at its strobe (R220, R233). -/
def Chan.handoverDue (c : Chan) : Bool :=
  let r := c.range
  r.hst == .overlap && ((r.needsOvl && decide (1 ≤ r.steps)) || (r.origin == .predictor && decide (2 ≤ r.cross)))

/-- What the channel asks for: a commanded current range, else the predictor's. -/
def Chan.rangeAsked (c : Chan) : Option (BitVec 4 × Origin) :=
  match c.range.wantI with
  | some w => some (w, .command)
  | none => c.fired.map fun f => (f, .predictor)

/-- The booster range that one switch of G_b brings: the one asked for, or the lowest on the way to an internal range (R232, R233). -/
def Chan.gainTarget (c : Chan) : Option (BitVec 4 × Origin) :=
  match c.range.hst, c.rangeAsked with
  | .idle, some (w, o) =>
    let t := if isBoost w then w else c.lowBoost
    if isBoost c.range.i ∧ t ≠ c.range.i then some (t, o) else none
  | _, _ => none

end Sys2Proof.Machine
end

