-- ==== Sys2Proof/Machine/Codes.lean ====
section
/-! DEFINITION. The encodings of the named values in registers and records. -/

namespace Sys2Proof.Machine

/-- CELL_ROLE.ROLE (R32). -/
def Role.code : Role → Nat
  | .spare => 0 | .active => 1 | .member => 2 | .shadow => 3 | .fenced => 4

/-- CELL_FORCE_STAT.STAGE (R119). -/
def Stage.code : Stage → Nat
  | .off => 0 | .internal => 1 | .booster => 2 | .hold => 3 | .tripped => 4

/-- CELL_FORCE_STAT.ATTEN (R119). -/
def Atten.code : Atten → Nat
  | .by1 => 0 | .by2 => 1 | .by4 => 2

/-- CELL_LOCKET_STAT.STATE (R210). -/
def LocketState.code : LocketState → Nat
  | .notLoaded => 0 | .valid => 1 | .repaired => 2 | .single => 3 | .nominal => 4

/-- CH_OUT_STAT.STATE (R117). -/
def OutState.code : OutState → Nat
  | .opened => 0 | .closing => 1 | .closed => 2 | .resting => 3 | .restHold => 4 | .restOpen => 5 | .tripOpen => 6 | .hold => 7
  | .graveOpen => 8

/-- CH_LOOP_STAT.STATE (R135). -/
def LoopState.code : LoopState → Nat
  | .opened => 0 | .pending => 1 | .preset => 2 | .primary => 3 | .confirmCmp => 4 | .compliance => 5 | .confirmPri => 6 | .held => 7

/-- CH_RANGE_STAT.HSTATE (R244). -/
def HState.code : HState → Nat
  | .idle => 0 | .engaging => 1 | .overlap => 2 | .blend => 3 | .resettle => 4 | .release => 5 | .squashing => 6 | .vSwitch => 7
  | .boostMake => 8 | .boostBreak => 9 | .gainSwitch => 10

/-- CH_MEAS_CTRL.RUN (R202). -/
def runCode : RunMode → Nat
  | .stop => 0 | .continuous => 1 | .single => 2 | .strand => 3

def runOf : Nat → RunMode
  | 0 => .stop | 1 => .continuous | 2 => .single | _ => .strand

/-- CH_RANGE_CTRL.POLICY from its code (R217). -/
def policyOf : Nat → Policy
  | 0 => .off | 1 => .upOnly | 2 => .full | _ => .bounded

/-- The class of a coffer record (R386). -/
def FClass.code : FClass → Nat
  | .note => 0 | .minor => 1 | .major => 2 | .grave => 3

/-- Region IDs of the cellar (R408). -/
def Region.code : Region → Nat
  | .slotA => 1 | .slotB => 2 | .rest => 3 | .lockets => 4 | .library => 5 | .coffer => 6 | .history => 7

/-- CH_STRAND_CFG.TYPE and ST_TYPE (R61, R292). -/
def StrandType.code : StrandType → Nat
  | .linear => 0 | .log => 1 | .list => 2 | .pulsed => 3 | .stream => 4 | .sine => 5

def strandTypeOf : Nat → StrandType
  | 0 => .linear | 1 => .log | 3 => .pulsed | 4 => .stream | 5 => .sine | _ => .list

end Sys2Proof.Machine
end

