-- ==== Sys2Proof/Machine/Land.lean ====
section
/-! DEFINITION. How a host write reaches a channel: the reset gate, the members of a clasp, sleeping bays, and the boundary that samples
it (R9, R24, R329, R512, R522). -/

namespace Sys2Proof.Machine

/-- What the logic does while it is not held in reset (R512). -/
def State.live (s : State) (f : State → State) : State := if s.pwr.inReset then s else f s

/-- Work for the cellar: it starts at once when nothing runs, and waits otherwise (R416). -/
def State.celAsk (s : State) (w : CelWork) : State :=
  if s.cel.running.isNone then { s with cel := { s.cel with running := some w } } else { s with cel := { s.cel with work := s.cel.work ++ [w] } }

/-- Byte address of a channel register, of a cell register (R547). -/
def chAddr (n : Ch) (off : Nat) : Addr := BitVec.ofNat 24 (0x10000 + n.val * 0x400 + off)

def cellReg (k : CellIx) (off : Nat) : Addr := BitVec.ofNat 24 (0x20000 + k.val * 0x400 + off)

/-- A host write that the Grave latch does not except: ignored while it holds, without a message (R377). -/
def State.hostAct (s : State) (f : State → State) : State := s.live fun s => if s.flt.grave then s else f s

/-- A host write to a page of bay `b`: held while the bay sleeps, which wakes (R329), otherwise it lands. -/
def State.pageWrite (s : State) (b : Bay) (a : Addr) (w : Word) (f : State → State) : State :=
  s.hostAct fun s =>
    if (s.bay b).awake then f s else (s.wake b).upBay b fun x => { x with held := x.held ++ [(a, w)] }

/-- A host write to a data-path register of a channel: on a clasp member it is ignored with a Note (R24). -/
def State.chWrite (s : State) (n : Ch) (off : Nat) (w : Word) (f : State → State) : State :=
  s.pageWrite (chBay n) (chAddr n off) w fun s => if (s.ch n).map.member then s.noteCh n off else f s

/-- The data path samples channel `n` at a boundary (R9). -/
def State.sample (s : State) (n : Ch) : State := s.upCh n fun c => c.sampled s.period

/-- A write that lands in a register and is sampled at the boundary that follows. -/
def State.chSet (s : State) (n : Ch) (off : Nat) (w : Word) (f : ChanCfg → ChanCfg) : State :=
  s.chWrite n off w fun s => (s.upCh n fun c => { c with cfg := f c.cfg }).sample n

/-- A change of the voltage range that a strobe commanded begins at once, unless a migration's swap runs (R227, R344). -/
def State.startRanging (s : State) (n : Ch) : State :=
  match s.phaseOf n with
  | .swap => s
  | _ => s.upCh n fun c => c.startV s.time

end Sys2Proof.Machine
end

