-- ==== Sys2Proof/Machine/Loop.lean ====
section
/-! DEFINITION. The loop family: one update of a channel, the limiter's step, closing and opening the loops, the manual command,
coefficients and compliance (R91, R120 … R156). -/

namespace Sys2Proof.Machine

/-! ### LOOP_UPDATE -/

/-- Channel `n` computes an update now: its cell is awake, it is no clasp member, and in low-power mode the loop period is an update
boundary (R121, R325). -/
def State.updates (s : State) (n : Ch) : Bool :=
  let c := s.ch n
  (match c.map.cell with
    | some k => (s.bay (CellIx.bay k)).awake
    | none => false) && !c.map.member && (!c.decl.lowPower || s.time % 1024 == 0)

/-- What running conversions keep of the update at cycle `t`: CLIP while an overlap waits and the fast-path current saturates (R220), the
overlap that is engaged (R173, R223), and DISTURBED while the current range changes (R167, R223, R232). -/
def Chan.watchConvs (c : Chan) (t : Nat) : Chan :=
  let waits := c.range.change.1 == .engaging || c.range.change.1 == .overlap
  let sat := waits && decide (c.loop.fastI.toInt.natAbs ≥ maxLevel)
  let watch (v : Conv) : Conv :=
    let cur := v.input == 1 || v.input == 3
    let hit := sat && v.input == 1
    let mix := cur && c.range.mixesI
    if v.settling then v
    else { v with clip := v.clip || hit, clipAt := if hit then some t else v.clipAt, ovl := if cur then (c.range.ovl.map (·, t)).or v.ovl else v.ovl,
                  disturbed := v.disturbed || mix, distAt := if mix then some t else v.distAt }
  { c with meas := { c.meas with convs := c.meas.convs.map watch } }

/-- The corrected fast-path samples (R120, R158). -/
def State.takeSamples (s : State) (n : Ch) (k : CellIx) (x : LoopIn) : State :=
  let v := s.fastVOf n k x
  let i := s.fastIOf n k x
  s.upCh n fun c => { c with loop := { c.loop with
    fastV := BitVec.ofInt 32 v, fastI := BitVec.ofInt 32 i } }

/-- The engine that a disagreement gives up: engine A unless only B's residue check failed (R345). -/
def givesUpA (failA failB : Bool) : Bool := !(failB && !failA)

/-- The engine takeover of R345 and R346: the cell runs in simplex, a Minor is raised and a migration asked for when a spare exists. -/
def State.takeover (s : State) (n : Ch) (k : CellIx) (failA failB : Bool) : State :=
  let a := givesUpA failA failB
  let s := s.upCell k fun x => { x with simplex := true, survivorB := a, takeovers := satInc x.takeovers }
  let s := s.postCell k 0 (if a then 0 else 1) (s.ch n).loop.st.code
  s.when (s.spareFor n) fun s => s.request { ch := n, cause := .takeover, keepOld := false, cold := !(s.ch (s.lead n)).moves }

/-- The engines of a clasp's member cells compare the code that they receive on range 0x7; a takeover there holds no period, since they run
no law (R23, R146). -/
def State.compareMembers (s : State) (n : Ch) (l : List EngineCheck) : State :=
  s.each (if (s.ch n).range.i = 7 then (s.members n).zip l else []) fun x s =>
    match (s.ch x.1).map.cell, x.2 with
    | some k, .disagree a b => if (s.cell k).simplex then s else s.takeover x.1 k a b
    | _, _ => s

/-- The comparison of R147: whether this update stands, or is a HELD one with its takeover. -/
def State.compare (s : State) (n : Ch) (k : CellIx) (x : LoopIn) : State × Bool :=
  let s := s.compareMembers n x.memberChecks
  match x.check with
  | .agree => (s, true)
  | .disagree a b => if (s.cell k).simplex then (s, true) else (s.takeover n k a b, false)

/-- The dissipation bound for the next period, the estimate for the governor, and the rails as the bay sampled them (R144, R524). -/
def State.boundNext (s : State) (n : Ch) (k : CellIx) (x : LoopIn) : State :=
  let s := s.upBay (CellIx.bay k) fun b => { b with vposMv := x.vpos, vnegMv := x.vneg }
  s.upCh n fun c =>
    let head := c.headroom x.vpos.toNat x.vneg.toNat
    Chan.reclamp { c with loop := { c.loop with icap := some (capFrom head (c.loop.grantMw.toNat * if c.map.member then 1 else c.claspM)),
                                                dissMw := c.dissFrom head } }

/-- A window opens with its sums cleared, or none does. -/
def DemodSt.openIf (d : DemodSt) (b : Bool) : DemodSt := { d with open_ := b, wraps := 0, n := 0, sVi := 0, sVq := 0, sIi := 0, sIq := 0 }

/-- A wrap of the phase accumulator for the demodulator (R198, R199): EN and CYCLES take effect; the open window counts it, and at its last
wrap ends at cycle `t`, where the next one opens at once unless a range change has just taken place. -/
def DemodSt.wrap (d : DemodSt) (en : Bool) (cyc : BitVec 16) (mixed : Bool) (t : Nat) : DemodSt :=
  let d := { d with on := en, cycles := cyc }
  if d.open_ then
    if cyc.toNat ≤ d.wraps + 1 then { (d.openIf (en && !mixed)) with fin := some (d.sVi, d.sVq, d.sIi, d.sIq, d.n, t) }
    else if en then { d with wraps := d.wraps + 1 } else d.openIf false
  else if en && !mixed then d.openIf true else d

/-- The 24-bit sample of a fast-path level (R158, R197). -/
def sample24 (l : Level) : Int := (l.extractLsb' 8 24).toInt

/-- A fast-path sample enters the open window (R197). -/
def DemodSt.take (d : DemodSt) (v i sn cs : Int) : DemodSt :=
  if d.open_ then { d with sVi := d.sVi + v * sn, sVq := d.sVq + v * cs, sIi := d.sIi + i * sn, sIq := d.sIq + i * cs, n := d.n + 1 } else d

/-- The phase accumulator advances and the demodulator takes the sample at the same index (R197, R275). Several wraps inside one low-power
update count as one (DESIGN CHOICE, see notes/assumptions). -/
def State.phaseStep (s : State) (n : Ch) : State :=
  let c := s.ch n
  let idx := c.phase.toNat / 2 ^ 20
  let sn := s.sineAt c.eff.sineTable idx
  let cs := s.sineAt c.eff.sineTable (idx + 1024)
  let next := c.phase.toNat + c.lpStep * c.eff.sineFreq.toNat
  let wrapped := decide (2 ^ 32 ≤ next)
  s.upCh n fun c =>
    let d := c.meas.demod.take (sample24 c.loop.fastV) (sample24 c.loop.fastI) sn cs
    { c with phase := BitVec.ofNat 32 next,
             meas := { c.meas with demod := if wrapped then d.wrap c.eff.demodEn c.eff.demodCycles c.range.switched (s.time + 256 * c.lpStep) else d } }

/-- The engine pair's toggle of an armed keeper (R148); the keeper keeps the C_eff of the period (R516). -/
def Cell.toggle (x : Cell) (ceff : Level) : Cell :=
  if x.keeper.armed then { x with keeper := { x.keeper with keep := !x.keeper.keep, quiet := 0, clamp := if x.keeper.hold then x.keeper.clamp else ceff } } else x

def State.toggles (s : State) (n : Ch) (k : CellIx) : State :=
  let f := (s.ch n).loop.complEff
  (s.upCell k fun x => x.toggle f).each (s.memberCells n) fun j s => s.upCell j fun x => x.toggle f

/-- A shadow follows the channel: its shunts, gain, attenuator and DAC (R336, R340). -/
def State.shadowFollow (s : State) (n : Ch) (j : CellIx) : State :=
  let c := s.ch n
  let d := s.dacOn j c.range.v c.force.code
  let like (x : Cell) : Cell := x.follow c true
  s.upCell j fun x => { x with dac := d.1, gain2 := (like x).gain2, atten := (like x).atten, shunts := c.range.shunts,
                               ovlIn := c.range.ovl.getD 15, imainIn := c.range.imain }

/-- The force check of one loop period (R336, R337): the tap against the fast-path V, and the shadow's command. -/
def State.shadowCheck (s : State) (n : Ch) (b : Bay) (j : CellIx) (x : LoopIn) : State :=
  let c := s.ch n
  let m := s.mig b
  let tap := sampleLevel (s.corrected j (20 + min c.range.v.toNat 2) x.shadowTap)
  let diff := rha ((tap - c.loop.fastV.toInt) * c.fsv) (2 ^ 31)
  let pass := decide (diff.natAbs ≤ s.att.tolUv.toNat)
  let s := if m.phase = .forceCheck then
      s.upCell j fun y => { y with diffUv := BitVec.ofInt 16 (satInt 16 diff), run := if pass then satInc y.run else 0 }
    else s
  s.upMig b fun m => { m with periods := m.periods + 1, failed := m.failed || !x.shadowAgrees }

/-- What a running migration of the channel, or of a member of its clasp, does in an update: it becomes cold when the output's switch is
open (R344), the shadow's checks, or one of the 5 periods of the swap (R335 … R341). -/
def State.migrationStep (s : State) (n : Ch) (x : LoopIn) : State :=
  match s.migOf n with
  | none => s
  | some b =>
    let s := s.upMig b fun m => { m with cold := m.cold || (m.phase.early && !(s.ch n).moves) }
    match (s.mig b).phase, (s.mig b).newCell with
    | .forceCheck, some j | .mirror, some j => (s.shadowCheck n b j x).shadowFollow n j
    | .swap, _ => s.upMig b fun m => if 4 ≤ m.periods then { m with phase := .drain, periods := 0 } else { m with periods := m.periods + 1 }
    | _, _ => s

/-- One update of channel `n` on cell `k` (R120): samples, ranging, both loops, the comparison, the bound, the keeper, the limiter,
run-ahead, and the shadow beside it. -/
def State.loopUpdate (s : State) (n : Ch) (k : CellIx) (x : LoopIn) : State :=
  let sine := s.sineNow n
  let s := (s.startRanging n).upCh n fun c => c.settleLevel sine
  let s := (s.takeSamples n k x).upCh n fun c => c.watchConvs s.time
  let r := s.compare n k x
  let s := r.1.upCh n fun c => c.engine sine r.2
  let s := s.boundNext n k x
  let s := s.upCh n fun c => c.predict.holdCount.countAll
  let s := ((s.phaseStep n).toggles n k).upCh n fun c => c.limitIn s.period
  let s := (s.latchDac n).when (!(s.ch n).decl.lowPower) fun s => s.prepare n
  (s.migrationStep n x).refresh n

/-- LOOP_UPDATE (R120). A channel without an update in this period keeps everything. -/
def execLoopUpdate (n : Ch) (x : LoopIn) (s : State) : Host.Outcome State Fault Refusal :=
  .next (s.live fun s =>
    match (s.ch n).map.cell with
    | some k =>
      if s.updates n then
        let s := s.upCh n fun c => if s.offPace then c.markWindows s.time else c.noteDisturbed s.time
        s.loopUpdate n k x
      else s
    | none => s)

/-- SLEW_LIMITER_STEP (R91 … R93): the limiter's step of a loop period in which the channel updates and has not stepped yet. -/
def execSlewLimiterStep (n : Ch) (s : State) : Host.Outcome State Fault Refusal :=
  .next (s.live fun s =>
    if s.updates n && (s.ch n).force.stepAt != some s.period then (s.upCh n fun c => c.limitIn s.period).latchDac n else s)

/-! ### Closing and opening the loops -/

/-- A CLOSE is refused with a Note (R141). -/
def Chan.refusesClose (c : Chan) : Bool :=
  !c.map.avail || c.map.member || c.force.tripped || c.force.out == .resting || c.force.out == .graveOpen

/-- The CLOSE bit at its boundary (R136, R141): PRESET with a closed switch, otherwise PENDING. A channel in REST_HOLD leaves rest. -/
def State.loopClose (s : State) (n : Ch) : State :=
  let c := s.ch n
  if c.refusesClose then s.noteCh n 0x080
  else if c.loop.st ≠ .opened ∨ s.jtag.ir.holdsPins then s
  else if (c.force.out = .closed ∧ c.force.closeRest = false) ∨ c.force.out = .restHold then (s.upCh n fun c => c.leaveRest.presetLoops).refresh n
  else s.upCh n fun c => Chan.calKeep { c with loop := { c.loop with st := .pending, before := .pending } }

/-- The OPEN bit at its boundary (R140). -/
def State.loopOpen (s : State) (n : Ch) : State := (s.upCh n Chan.openLoops).refresh n

/-- LOOP_CLOSE: a CLOSE write lands and acts at the boundary that samples it. -/
def execLoopClose (n : Ch) (s : State) : Host.Outcome State Fault Refusal :=
  .next (s.chWrite n 0x080 1 fun s => (s.sample n).loopClose n)

/-- LOOP_OPEN: an OPEN write lands and acts at the boundary that samples it. -/
def execLoopOpen (n : Ch) (s : State) : Host.Outcome State Fault Refusal :=
  .next (s.chWrite n 0x080 2 fun s => (s.sample n).loopOpen n)

/-- The manual command at its boundary (R139). -/
def State.loopCmd (s : State) (n : Ch) (x : Code) : State :=
  if (s.ch n).loop.st = .opened then
    s.upCh n fun c => { (c.toLimiter x.toInt) with loop := { (c.toLimiter x.toInt).loop with manualNow := true, manualHeld := true } }
  else s.noteCh n 0x08C

/-- LOOP_CMD_WRITE. -/
def execLoopCmdWrite (n : Ch) (x : Code) (s : State) : Host.Outcome State Fault Refusal :=
  .next (s.chWrite n 0x08C (x.setWidth 32) fun s => (s.sample n).loopCmd n x)

/-! ### Coefficients and compliance -/

/-- A register of one loop with a new value (R153, R155). -/
def Coefs.write (k : Coefs) (r : CoefReg) (v : Word) : Coefs :=
  match r with
  | .kp => { k with kp := v }
  | .ki => { k with ki := v }
  | .kd => { k with kd := v }
  | .kdf => { k with kdf := v }
  | .kff => { k with kff := v }
  | .shift => { k with shP := v.extractLsb' 0 5, shI := v.extractLsb' 5 5, shD := v.extractLsb' 10 5, shDf := v.extractLsb' 15 5,
                       shFf := v.extractLsb' 20 5 }

/-- Page offset of a coefficient register (R149). -/
def coefOff (w : WinId) (r : CoefReg) : Nat :=
  (match w with
    | .v => 0x0B8
    | .i => 0x0D0) + match r with
    | .kp => 0
    | .ki => 4
    | .kd => 8
    | .kdf => 12
    | .kff => 16
    | .shift => 20

/-- A coefficient write as it lands (R143): accepted in OPEN only, otherwise ignored, counted and reported as
COEF_IGNORED (R365). -/
def State.coefLand (s : State) (n : Ch) (w : WinId) (r : CoefReg) (v : Word) : State :=
  if (s.ch n).loop.st = .opened then
    s.upCh n fun c => { c with cfg := match w with
      | .v => { c.cfg with coefV := c.cfg.coefV.write r v }
      | .i => { c.cfg with coefI := c.cfg.coefI.write r v } }
  else
    (s.upCh n fun c => { c with loop := { c.loop with coefIgnored := satInc c.loop.coefIgnored } }).post (srcCh n) 1 (coefOff w r)

/-- COEFFICIENT_WRITE. -/
def execCoefficientWrite (n : Ch) (w : WinId) (r : CoefReg) (v : Word) (s : State) : Host.Outcome State Fault Refusal :=
  .next (s.chWrite n (coefOff w r) v fun s => (s.coefLand n w r v).sample n)

/-- A compliance write at its boundary (R130): a tightening one takes effect, any other waits for the next strobe. -/
def Chan.complianceAct (c : Chan) (v : Level) : Chan :=
  if mag v < mag c.loop.complApplied then { (c.setCompl v) with loop := { (c.setCompl v).loop with complPend := false } }
  else { c with loop := { c.loop with complPend := true } }

/-- COMPLIANCE_WRITE. -/
def execComplianceWrite (n : Ch) (v : Word) (s : State) : Host.Outcome State Fault Refusal :=
  .next (s.chWrite n 0x098 v fun s =>
    ((s.upCh n fun c => { c with cfg := { c.cfg with compliance := v } }).sample n).upCh n fun c => c.complianceAct v)

end Sys2Proof.Machine
end

