-- ==== Sys2Proof/Machine/MeasConv.lean ====
section
/-! DEFINITION. Conversions as shared operations: modulators, starting, results, publishing, passes, the bead's record and calibration
(R157 … R184, R190 … R196, R281 … R284, R322). -/

namespace Sys2Proof.Machine

/-! ### Modulators and lengths -/

/-- The modulator of an input at a gain code (R157). -/
def modOf (input gain : BitVec 3) : Modulator :=
  if input = 0 then (if gain = 0 then .v else .ovl) else if input = 1 then .i else .ovl

/-- The gain code that a conversion runs at: inputs 1, 3 and 4 run at gain 1 (R164). -/
def effGain (input gain : BitVec 3) : BitVec 3 := if input = 1 ∨ input = 3 ∨ input = 4 then 0 else gain

/-- The modulator is free for a new conversion: no conversion holds it, and ranging does not hold the overlap modulator (R170, R173, R322).
Input 3 claims nothing. -/
def Chan.modFree (c : Chan) (m : Modulator) (input : BitVec 3) : Bool :=
  if input = 3 then !c.meas.convs.any fun v => v.input == 3
  else !(c.meas.convs.any fun v => v.md == m && v.input != 3) && (m != .ovl || c.range.ovl.isNone)

/-- Cycles of a window of order `k` and decimation code `j` (R160, R162, R184). -/
def Chan.windowLen (c : Chan) (jM1 : BitVec 17) : Nat := c.eff.order.toNat * (jM1.toNat + 1) * 256 * c.lpStep

/-- Cycles of input settling (R172, R184). -/
def Chan.settleLen (c : Chan) : Nat := 2 * 256 * c.lpStep

/-- A conversion starts (R162, R172): on the overlap modulator with input settling when its input or gain differ from those of the
modulator's last conversion, which counts from the opening of its window. A change of range in
progress past its handover already falls in the window (R167, R223). -/
def Chan.startConv (c : Chan) (now : Nat) (kind : ConvKind) (e : BitVec 4) (input gain : BitVec 3) (jM1 : BitVec 17) : Chan :=
  let g := effGain input gain
  let m := modOf input g
  let claims := m == .ovl && input != 3
  let settle := claims && c.meas.lastOvl != some (input, g)
  let t := if settle then now + c.settleLen else now
  let cur := c.range.mixesI
  let v : Conv := { kind := kind, entry := e, md := m, settling := settle, tStart := t, tEnd := t + c.windowLen jM1, input := input, gain := g,
                    len := c.windowLen jM1, disturbed := if input = 1 ∨ input = 3 then cur else (input = 0 ∨ input = 2) && c.range.hst == .vSwitch,
                    clip := false, ovl := if input = 1 ∨ input = 3 then c.range.ovl.map (·, now) else none }
  { c with meas := { c.meas with convs := c.meas.convs ++ [v], lastOvl := if claims && !settle then some (input, g) else c.meas.lastOvl } }

/-- Sequence entry `e` as the registers hold it (R174). -/
def Chan.seqEntry (c : Chan) (e : BitVec 4) : SeqEntry := c.eff.seq[e.toNat]

/-- Entry `e` starts if its modulator is free; otherwise it waits among those that start first. -/
def Chan.startEntry (c : Chan) (now : Nat) (kind : ConvKind) (e : BitVec 4) : Chan :=
  let q := c.seqEntry e
  if c.modFree (modOf q.input (effGain q.input q.gain)) q.input then c.startConv now kind e q.input q.gain q.jM1
  else { c with meas := { c.meas with redo := c.meas.redo ++ [(kind, e)] } }

/-! ### The conversion of a calibration point (R190, R191, R193, R196) -/

/-- The input and gain code of a target's conversion (R186, R190, R191). -/
def calInput (t : BitVec 5) : BitVec 3 × BitVec 3 :=
  let v := t.toNat
  if v ≤ 2 ∨ v = 30 then (0, 0)
  else if v ≤ 11 then (1, 0)
  else if v ≤ 19 then (3, 0)
  else if v ≤ 22 then (0, 0)
  else if v ≤ 26 then (0, BitVec.ofNat 3 (v - 22))
  else if v = 27 then (2, 0)
  else if v = 28 then (5, 0)
  else (4, 0)

/-- The modulator of a target's conversion: targets 12 … 29 use the overlap modulator. -/
def calMod (t : BitVec 5) : Modulator :=
  let v := t.toNat
  if v ≤ 2 ∨ v = 30 then .v else if v ≤ 11 then .i else .ovl

/-- Settling of a force point before its conversion: 16 loop periods (R196). -/
def forceSettle : Nat := 16 * 256

/-- The calibration conversion opens at this boundary (R191, R193), or after the settling of a force point (R196). -/
def Chan.calStart (c : Chan) (now : Nat) : Chan :=
  let t := c.meas.cal.target
  let i := calInput t
  let m := calMod t
  let wait := if t = 30 then forceSettle else 0
  let len := c.windowLen c.eff.calJM1
  let v : Conv := { kind := .cal, entry := 0, md := m, settling := decide (0 < wait), tStart := now + wait, tEnd := now + wait + len, input := i.1,
                    gain := i.2, len := len, disturbed := false, clip := false }
  if m = .ovl ∧ c.range.ovl.isSome then
    { c with meas := { c.meas with redo := (ConvKind.cal, (0 : BitVec 4)) :: c.meas.redo.filter fun e => e.1 != .cal } }
  else { c with meas := { c.meas with convs := c.meas.convs ++ [v], lastOvl := if m = .ovl then some i else c.meas.lastOvl } }

/-! ### Passes (R168 … R171) -/

/-- The last entry of a pass (R168). -/
def Chan.lastEntry (c : Chan) : Nat := min c.eff.last.toNat (c.eff.seqLen.toNat - 1)

/-- A pass begins; an empty one ends at once (R168, R169). -/
def Chan.beginPass (c : Chan) : Chan :=
  if c.lastEntry < c.eff.first.toNat then { c with meas := { c.meas with pass := none, passDone := true } }
  else { c with meas := { c.meas with pass := some { next := c.eff.first.toNat, last := c.lastEntry } } }

/-- An injected or a calibration conversion runs or waits: the sequence pauses (R176, R178, R193). -/
def Chan.paused (c : Chan) : Bool :=
  c.meas.convs.any (fun v => v.kind != .seq) || c.meas.redo.any (fun e => e.1 != .seq)

/-- Waiting conversions of the list start as far as their modulators are free, in order (R170, R173). -/
def Chan.startRedo (c : Chan) (now : Nat) : List (ConvKind × BitVec 4) → Chan
  | [] => c
  | (k, e) :: l => (if k = .cal then c.calStart now else c.startEntry now k e).startRedo now l

/-- The entries of the pass start in order while each finds its modulator free (R170). -/
def Chan.startEntries (c : Chan) (now : Nat) : Nat → Chan
  | 0 => c
  | fuel + 1 =>
    match c.meas.pass with
    | some p =>
      if p.next ≤ p.last then
        let e := BitVec.ofNat 4 p.next
        let q := c.seqEntry e
        if c.modFree (modOf q.input (effGain q.input q.gain)) q.input then
          ({ c with meas := { c.meas with pass := some { p with next := p.next + 1 } } }.startConv now .seq e q.input q.gain q.jM1).startEntries now fuel
        else c
      else c
    | none => c

/-- Every entry of the pass has started at the same boundary, on different modulators and with equal decimation (R171). -/
def Chan.pairsUp (c : Chan) (now : Nat) : Bool :=
  match c.meas.pass, c.meas.convs with
  | some p, v :: vs => decide (p.last < p.next) && decide (p.last + 1 - c.eff.first.toNat = (v :: vs).length) &&
      (v :: vs).all fun w => w.kind == .seq && w.tStart == now && !w.settling && w.len == v.len
  | _, _ => false

/-- The sequence's conversions abort and the pass goes back to the earliest of them (R176); each counts a restart. -/
def Chan.pauseSeq (c : Chan) : Chan :=
  let hit := (c.meas.convs.filter fun v => v.kind == .seq).map (·.entry.toNat) ++ (c.meas.redo.filter fun e => e.1 == .seq).map (·.2.toNat)
  let n := (c.meas.convs.filter fun v => v.kind == .seq).length
  let first := hit.foldl min 16
  { c with meas := { c.meas with
      convs := c.meas.convs.filter fun v => v.kind != .seq, redo := c.meas.redo.filter fun e => e.1 != .seq, freeRun := c.meas.freeRun && n == 0,
      restarts := satAdd c.meas.restarts n,
      pass := match c.meas.pass with
        | some p => some { p with next := min p.next first }
        | none => none } }

/-! ### Results (R163 … R167, R173, R181 … R183) -/

/-- A sum of I on the scale of the range in force, of the overlap that was engaged in the window (R223), released before its end or not (R225). -/
def State.ovlResult (s : State) (n : Ch) (k : CellIx) (v : Conv) (x : BitVec 24) : Int :=
  match v.ovl with
  | some (o, _) => rha ((s.corrected k (entryOvl o) x).1 * fsAmp o.toNat) (s.ch n).fsi
  | none => 0

/-- I main of a conversion with an overlap, on the scale of the range in force: in BLEND it still converts the old shunt, with its entry and
its full scale (R220, R223). -/
def State.mainResult (s : State) (n : Ch) (k : CellIx) (x : ConvIn) : Int × Bool :=
  let c := s.ch n
  if c.range.hst = .blend then
    let a := s.corrected k (entryI c.range.old) x.raw
    let y := rha (a.1 * fsAmp c.range.old.toNat) c.fsi
    (satInt 24 y, a.2 || satHit 24 y)
  else s.mainI n k c.range.i x.raw x.others none

/-- A swap's old cell adds to a conversion whose window contains a part of s … s + 4 (R342). -/
def State.convPartner (s : State) (n : Ch) (v : Conv) : Option CellIx :=
  match s.migOf n with
  | some b => if v.tStart ≤ (s.mig b).swapAt + 4 * 256 * (s.ch n).lpStep then s.swapPartner n (s.ch n).range.i else none
  | none => none

/-- The corrected value of a conversion's input, before its gain entry; the target of a calibration is bypassed (R165, R166, R186, R191). -/
def State.inputValue (s : State) (n : Ch) (k : CellIx) (v : Conv) (x : ConvIn) (skip : Option Nat) : Int × Bool :=
  let c := s.ch n
  let by_ (e : Nat) : Int × Bool := if skip = some e then (s.rawOf k x.raw, false) else s.corrected k e x.raw
  match v.input.toNat with
  | 0 => if v.md = .v then by_ (entryV c.range.v) else by_ (20 + min c.range.v.toNat 2)
  | 1 =>
    if skip = some (entryI c.range.i) then (s.rawOf k x.raw, false)
    else
      match x.second with
      | some y =>
        match s.convPartner n v with
        | some j => s.mainI n k c.range.i x.raw (x.others ++ [y]) (some j)
        | none =>
          let m := s.mainResult n k x
          (satInt 24 (m.1 + s.ovlResult n k v y), m.2 || satHit 24 (m.1 + s.ovlResult n k v y))
      | none => s.mainI n k c.range.i x.raw x.others none
  | 2 => by_ 27
  | 3 => by_ (12 + min ((v.ovl.map (·.1)).getD c.range.i).toNat 7)
  | 4 => by_ 29
  | _ => by_ 28

/-- The corrected result of a conversion with its CLIP (R164, R165). -/
def State.convValue (s : State) (n : Ch) (k : CellIx) (v : Conv) (x : ConvIn) (skip : Option Nat) : Int × Bool :=
  let a := s.inputValue n k v x skip
  let b := if v.gain = 0 ∨ skip = some (entryGain v.gain) then a
           else ((correct a.1 ((s.cell k).trim (entryGain v.gain))).1, a.2 || (correct a.1 ((s.cell k).trim (entryGain v.gain))).2)
  let G : Int := 2 ^ v.gain.toNat
  if x.overSpan then (if x.raw.toInt < 0 then -(2 ^ 23 / G) else 2 ^ 23 / G - 1, true) else b

/-- A conversion's result as the register shows it (R180): input 3 without an overlap delivers 0, DISTURBED (R173). -/
def State.resultOf (s : State) (n : Ch) (k : CellIx) (v : Conv) (x : ConvIn) : ResultLo :=
  if v.input = 3 ∧ v.ovl.isNone then { value := 0, disturbed := true, injected := v.kind != .seq, entry := v.entry }
  else
    let r := s.convValue n k v x none
    { value := BitVec.ofInt 24 r.1, clip := r.2 || v.clip, disturbed := v.disturbed || s.offPace, injected := v.kind != .seq, entry := v.entry }

/-- The place of a result among those of one boundary: ascending entries, an injected one last (R181). -/
def ResultLo.rank (r : ResultLo) : Nat := if r.injected then 16 else r.entry.toNat

/-- The result register takes a result (R182). Of two that are due at one boundary it keeps the later one of R181, which the other one
overruns, whatever their order of delivery. -/
def MeasSt.publish (m : MeasSt) (r : ResultLo) (t : Nat) : MeasSt :=
  if m.resAt = t ∧ m.pairDone = false ∧ r.rank < m.res.rank then { m with res := { m.res with overrun := true }, overruns := satInc m.overruns }
  else { m with res := { r with overrun := !m.pairDone }, resTime := timeLo t, resAt := t, pairDone := false,
                overruns := if m.pairDone then m.overruns else satInc m.overruns }

/-- A sequence result enters CH_SEQ_VAL_e, and the register when its entry publishes (R181, R183). -/
def MeasSt.seqResult (m : MeasSt) (pub : BitVec 16) (r : ResultLo) (t : Nat) : MeasSt :=
  let m := { m with vals := m.vals.set r.entry.toNat r }
  if pub.getLsbD r.entry.toNat then m.publish r t else m

/-- A result of the sequence enters the open record of the bead in force (R281 … R284, R320 M17). -/
def BeadRec.take (b : BeadRec) (input : BitVec 3) (r : ResultLo) (tEnd : Nat) (ranges : BitVec 8) : BeadRec :=
  if b.written || b.fast || decide (tEnd < b.commit) then b
  else
    let x := some (r.value, r.entry)
    { b with v := if input = 1 ∨ input = 3 then b.v else x, i := if input = 1 ∨ input = 3 then x else b.i,
             clip := b.clip || r.clip, disturbed := b.disturbed || r.disturbed, lastEnd := some (max tEnd (b.lastEnd.getD 0)), ranges := ranges }

def Chan.recordResult (c : Chan) (input : BitVec 3) (r : ResultLo) (tEnd : Nat) : Chan :=
  { c with strand := { c.strand with rcd := c.strand.rcd.map fun b => b.take input r tEnd c.rangesByte } }

/-- The pass has started every entry and none of its conversions runs or waits. -/
def Chan.passOver (c : Chan) : Bool :=
  match c.meas.pass with
  | some p => decide (p.last < p.next) && !(c.meas.convs.any fun v => v.kind == .seq) && !(c.meas.redo.any fun e => e.1 == .seq)
  | none => false

/-- A pass ends (R169, R170, R284): PASS_DONE, the bead's record in RUN = STRAND, and the next pass in CONTINUOUS. -/
def State.endPass (s : State) (n : Ch) : State :=
  let s := s.upCh n fun c => { c with meas := { c.meas with pass := none, passDone := true } }
  let s := s.when ((s.ch n).eff.run == .strand) fun s => s.writeRecord n
  s.upCh n fun c => if c.eff.run = .continuous then c.beginPass else c

/-- A pass begins at this boundary; an empty one writes its bead's record at once (R168, R284). -/
def State.startPass (s : State) (n : Ch) : State :=
  let s := s.upCh n Chan.beginPass
  s.when ((s.ch n).meas.pass.isNone && (s.ch n).eff.run == .strand) fun s => s.writeRecord n

/-- After an injected or a calibration conversion the pending slot runs first (R177, R193); it is restarted with the sequence behind it. -/
def Chan.afterInjected (c : Chan) (now : Nat) : Chan :=
  match c.meas.injHeld with
  | some e => ({ c with meas := { c.meas with injHeld := none } }.pauseSeq).startEntry now .urgent e
  | none => c

/-- In a free run a conversion goes on with its next result, a decimation period later (R171). Its next window keeps what was last seen at or
behind its start: a disturbance, a clipped overlap sum, an engaged overlap (R167, R173, R220). -/
def Conv.again (v : Conv) (j : Nat) : Conv :=
  let holds (d : Option Nat) : Bool := match d with
    | some d => decide (v.tStart + j ≤ d)
    | none => true
  { v with tStart := v.tStart + j, tEnd := v.tEnd + j, clip := v.clip && holds v.clipAt, disturbed := v.disturbed && holds v.distAt,
           ovl := v.ovl.filter fun x => decide (v.tStart + j ≤ x.2) }

/-- The conversion leaves the list of running ones; in a free run it goes on. -/
def Chan.leaveConv (c : Chan) (v : Conv) : Chan :=
  if c.meas.freeRun ∧ v.kind = .seq then
    { c with meas := { c.meas with convs := c.meas.convs.map fun w => if w = v then v.again (v.len / c.eff.order.toNat) else w } }
  else { c with meas := { c.meas with convs := c.meas.convs.erase v } }

/-! ### Calibration (R190 … R196) -/

/-- A ZERO or FULL point starts, or waits for injected conversions (R193). -/
def Chan.calPoint (c : Chan) (now : Nat) (full : Bool) : Chan :=
  let busy := c.meas.injHeld.isSome || (c.meas.convs.any fun v => v.kind == .urgent || v.kind == .opp) ||
    c.meas.redo.any fun e => e.1 == .urgent || e.1 == .opp
  if busy then { c with meas := { c.meas with cal := { c.meas.cal with st := .wait, waitFull := full } } }
  else
    let c := { c with meas := { c.meas with cal := { c.meas.cal with
      st := if c.meas.cal.target = 30 then .forceRun else if full then .fullRun else .zeroRun, waitFull := false } } }
    (c.pauseSeq).calStart now

/-- A calibration point that waits begins once nothing injected runs or waits (R193). -/
def Chan.calWake (c : Chan) (now : Nat) : Chan :=
  if c.meas.cal.st = .wait then c.calPoint now c.meas.cal.waitFull else c

/-! ### What starts at a boundary (R170, R176, R177, R193, R322) -/

/-- An injected or a calibration conversion runs or is put back. -/
def Chan.injRuns (c : Chan) : Bool :=
  (c.meas.convs.any fun v => v.kind == .urgent || v.kind == .opp) || c.meas.redo.any fun e => e.1 == .urgent || e.1 == .opp

def Chan.calRuns (c : Chan) : Bool := (c.meas.convs.any fun v => v.kind == .cal) || c.meas.redo.any fun e => e.1 == .cal

/-- The pending slot is served, and behind it a calibration point that waits, when nothing injected and no calibration conversion runs
(R177, R193). -/
def Chan.serveSlot (c : Chan) (now : Nat) : Chan :=
  let c := if c.injRuns || c.calRuns then c else c.afterInjected now
  c.calWake now

/-- What starts at a boundary, in the order of R322: conversions that were put back, the pending slot and a calibration point that waits, then
the next entries of the pass. -/
def Chan.startNext (c : Chan) (now : Nat) : Chan :=
  let l := c.meas.redo
  let c := { c with meas := { c.meas with redo := [] } }.startRedo now l
  let c := c.serveSlot now
  if c.paused || !c.meas.redo.isEmpty then c
  else
    let fresh := match c.meas.pass with
      | some p => c.meas.convs.isEmpty && p.next == c.eff.first.toNat
      | none => false
    let c := c.startEntries now 16
    if fresh && c.eff.run == .continuous && c.pairsUp now then { c with meas := { c.meas with freeRun := true } } else c

/-! ### Passes and pulses of a bead (R272, R281) -/

/-- The pass of the bead before aborts, when it is the bead's own (R281). -/
def Chan.cutPass (c : Chan) : Chan :=
  if c.eff.run = .strand then
    let c := c.abortConvs fun v => v.kind == .seq
    { c with meas := { c.meas with pass := none, redo := c.meas.redo.filter fun e => e.1 != .seq }, strand := { c.strand with passAt := none } }
  else c

/-- The end instant of a pulse (R272): the target returns to the base level. With the loops open the limiter takes a step at once and the
DAC latches it; with the loops closed the end acts like a strobe. -/
def State.pulseOver (s : State) (n : Ch) : State :=
  let s := s.upCh n fun c => { c with strand := { c.strand with pulse := none, baseOn := true } }.baseTarget (s.sineNow n)
  if (s.ch n).loop.st.closed then s
  else
    let step (c : Chan) : Chan :=
      let f : ForceSt := { c.force with rateCnt := 0 }
      if c.moves then
        { c with force := { f.limStep c.eff.slewStep.toNat (c.eff.slewRateM1.toNat + 1) with rateCnt := c.force.rateCnt } }
      else c
    (s.upCh n step).latchDac n

end Sys2Proof.Machine
end

