-- ==== Sys2Proof/Machine/WinOps.lean ====
section
/-! DEFINITION. Windows as shared operations: the input and the state table, blanking, arming and trips (R295 … R310, R101, R273). -/

namespace Sys2Proof.Machine

/-- A window of a channel by its number. -/
def Chan.win (c : Chan) (w : WinId) : WinSt := match w with
  | .v => c.winV
  | .i => c.winI

def Chan.upWin (c : Chan) (w : WinId) (f : WinSt → WinSt) : Chan := match w with
  | .v => { c with winV := f c.winV }
  | .i => { c with winI := f c.winI }

/-- A window's registers. -/
def ChanCfg.win (g : ChanCfg) (w : WinId) : WinCfg := match w with
  | .v => g.winV
  | .i => g.winI

def ChanCfg.upWin (g : ChanCfg) (w : WinId) (f : WinCfg → WinCfg) : ChanCfg := match w with
  | .v => { g with winV := f g.winV }
  | .i => { g with winI := f g.winI }

/-- The window is blanked (R308): window 0 in the period of a voltage range change; window 1 while a shunt switch ramps, while its comparator
moves in a booster change, and over a switch of G_b. -/
def Chan.blanked (c : Chan) (w : WinId) : Bool :=
  match w with
  | .v => c.range.hst == .vSwitch && c.range.steps == 2
  | .i => match c.range.change with
    | (.engaging, j) => decide (2 ≤ j) && decide (j ≤ 4)
    | (.squashing, j) => decide (j ≤ 2)
    | (.resettle, j) => j == 0
    | (.boostMake, j) | (.boostBreak, j) => decide (4 ≤ j) && decide (j ≤ 8)
    | (.gainSwitch, _) => true
    | _ => false

/-- The other cell that drives the channel during s … s + 2 of a swap (R309, R341). -/
def State.swapOther (s : State) (n : Ch) : Option CellIx :=
  match s.migOf n with
  | some b => if (s.mig b).phase = .swap ∧ (s.mig b).periods < 2 then s.swapPartner n (s.ch n).range.i else none
  | none => none

/-- The cells whose comparators decide window `w` (R298, R309): the carrier's; for the current also those of a clasp on range 0x7 and of both
cells of a swap. -/
def State.winCells (s : State) (n : Ch) (w : WinId) : List CellIx :=
  (s.ch n).map.cell.toList ++ match w with
    | .v => []
    | .i => (if (s.ch n).range.i = 7 then s.memberCells n else []) ++ (s.swapOther n).toList

/-- A shadow beside the channel, whose comparators run without acting on the routes (R309, R340). -/
def State.winShadow (s : State) (n : Ch) : Option CellIx :=
  ((s.migOf n).bind fun b => (s.mig b).newCell).filter fun j => (s.cell j).role == .shadow

/-- The input of a window on cell `k` as the thresholds stand for it (R296, R297): `x` in 1/1,024 of a code, scaled by a declared reference and
corrected by the cell's own locket entry, in 1/4,096 of a code from mid-scale. -/
def State.winInput (s : State) (n : Ch) (w : WinId) (k : CellIx) (x : Int) : Int :=
  let b := s.bay (CellIx.bay k)
  let raw := (x - 2048 * 1024) * 4
  let raw := if b.vrefExt then rha (raw * b.rawFactor) (2 ^ 24) else raw
  let e := match w with
    | .v => entryV (s.ch n).range.v
    | .i => entryI (s.ch n).range.i
  let t := (s.cell k).trim e
  rha ((raw - t.1.toInt) * (2 ^ 30 + t.2.toInt)) (2 ^ 30)

/-- The part of the total current in the shunt of range `i` while the shunt of range `j` carries beside it: R_j / (R_i + R_j) (R308). -/
def Cell.shareOf (x : Cell) (i j : BitVec 4) : Nat × Nat :=
  if x.shuntOf i + x.shuntOf j = 0 then (1, 1) else (x.shuntOf j, x.shuntOf i + x.shuntOf j)

/-- The other internal shunt that conducts on the cell. -/
def Cell.otherShunt (x : Cell) (i : BitVec 4) : Option (BitVec 4) :=
  ((List.range 8).find? fun j => x.shunts.getLsbD j && j != i.toNat).map (BitVec.ofNat 4)

/-- The thresholds of a window as a cell's comparator holds them (R308): window 1's are scaled while two shunts connect in parallel. -/
def WinSt.loaded (a : WinSt) (w : WinId) (x : Cell) (i : BitVec 4) : WinSt :=
  match w, (if isBoost i || !x.shunts.getLsbD i.toNat then none else x.otherShunt i) with
  | .i, some j =>
    let p := x.shareOf i j
    let t (c : BitVec 12) : BitVec 12 := BitVec.ofInt 12 (2048 + rha (((c.toNat : Int) - 2048) * p.1) p.2)
    { a with appHi := t a.appHi, appLo := t a.appLo }
  | _, _ => a

/-- A window on cell `k`: the thresholds that its comparator holds, and its input. -/
def State.winOn (s : State) (n : Ch) (w : WinId) (k : CellIx) (x : Int) : WinSt × Int :=
  (((s.ch n).win w).loaded w (s.cell k) (s.ch n).range.i, s.winInput n w k x)

/-- The window on every cell that decides it; inputs behind the carrier's stand in the order of `winCells`. -/
def State.winOns (s : State) (n : Ch) (w : WinId) (xs : List Int) : List (WinSt × Int) :=
  ((s.winCells n w).zip xs).map fun p => s.winOn n w p.1 p.2

/-- A threshold code from mid-scale in 1/4,096 of a code, moved by `d` codes. -/
def edge (t : BitVec 12) (d : Int) : Int := ((t.toNat : Int) - 2048 + d) * 4096

/-- The input lies beyond the band of the high side, of the low side. A side that is off is never beyond (R307). -/
def WinSt.above (w : WinSt) (h : Nat) (y : Int) : Bool := !w.hiOff && decide (edge w.appHi h < y)

def WinSt.below (w : WinSt) (h : Nat) (y : Int) : Bool := !w.loOff && decide (y < edge w.appLo (-h))

/-- The state after a sample (R299): any cell's comparator takes the window outside, and all of them bring it back (R298, R309). -/
def WinState.next (st : WinState) (h : Nat) (l : List (WinSt × Int)) : WinState :=
  let above := l.any fun p => p.1.above h p.2
  let below := l.any fun p => p.1.below h p.2
  let backHi := l.all fun p => p.1.hiOff || decide (p.2 < edge p.1.appHi (-h))
  let backLo := l.all fun p => p.1.loOff || decide (edge p.1.appLo h < p.2)
  match st with
  | .inside => if above then .outHi else if below then .outLo else .inside
  | .outHi => if below then .outLo else if backHi then .inside else .outHi
  | .outLo => if above then .outHi else if backLo then .inside else .outLo

/-- The comparators of a cell as CELL_WIN_STAT shows them (R316). -/
def Cell.comparator (x : Cell) (w : WinId) (pow hi lo : Bool) : Cell := match w with
  | .v => { x with vPow := pow, vHi := hi, vLo := lo }
  | .i => { x with iPow := pow, iHi := hi, iLo := lo }

/-- The cell carries, lends or shadows (R32). -/
def Cell.inUse (x : Cell) : Bool := x.role == .active || x.role == .member || x.role == .shadow

/-- The comparators of window `w` show their own verdicts: those that decide it, and a shadow's beside them (R309, R316). -/
def State.comparators (s : State) (n : Ch) (w : WinId) (pow : Bool) (h : Nat) (xs : List Int) : State :=
  s.each ((s.winCells n w ++ (s.winShadow n).toList).zip xs) fun p s =>
    let a := s.winOn n w p.1 p.2
    s.upCell p.1 fun x => if x.inUse then x.comparator w pow (a.1.above h a.2) (a.1.below h a.2) else x

/-- The comparators of a window are powered or turned off, without a verdict (R302). -/
def State.powerWindow (s : State) (n : Ch) (w : WinId) : State :=
  let on := ((s.ch n).eff.win w).mode == .continuous
  s.each (s.winCells n w ++ (s.winShadow n).toList) fun k s => s.upCell k fun x => x.comparator w on false false

/-! ### Trips (R101, R264, R273, R305, R306, R310) -/

/-- The output stage stops driving (R101); a keeper's hold stands above the trip (R111). -/
def Cell.tripStage (x : Cell) : Cell := if x.stage = .hold then x else { x with stage := .tripped }

/-- The cells that drive the channel's output: the carrier, a clasp's member cells, and both cells of a swap (R22, R309). -/
def State.driveCells (s : State) (n : Ch) : List CellIx :=
  (s.ch n).map.cell.toList ++ s.memberCells n ++ (s.swapOther n).toList

/-- A trip reaches the output stages (R101): high impedance at once; the switch opens at the next boundary. -/
def State.stageTrip (s : State) (n : Ch) : State :=
  (s.each (s.driveCells n) fun k s => s.upCell k Cell.tripStage).upCh n fun c => { c with force := { c.force with tripReq := true } }

/-- The boundary behind an output-stage trip (R101, R140): the switch and the loops open and TRIPPED is set. An open switch stays as it is,
and a keeper's hold stands above the trip (R111). -/
def State.stageOpen (s : State) (n : Ch) : State :=
  if !(s.ch n).force.tripReq then s
  else
  let s := s.upCh n fun c => { c.squash with force := { c.squash.force with tripped := true, tripReq := false } }
  match (s.ch n).force.out with
  | .closed | .closing | .resting | .restHold => s.openSwitch n .tripOpen
  | _ => (s.upCh n Chan.openLoops).refresh n

/-- A trip cuts a pulse (R273). The end instant is the trip's. -/
def State.cutPulse (s : State) (n : Ch) (t : Nat) : State :=
  if (s.ch n).strand.pulse.isSome && (s.ch n).eff.tripEnd then ((s.upCh n Chan.cutPass).upCh n fun c => c.fastRecord t).pulseOver n else s

/-- The flags, count and time of a trip, and TRIPPED in the record of the bead in force (R310). -/
def Chan.noteTrip (c : Chan) (w : WinId) (st : WinState) (t : Nat) : Chan :=
  let c := c.upWin w fun x => { x with tripHi := x.tripHi || st == .outHi, tripLo := x.tripLo || st == .outLo, trips := satInc x.trips, time := timeLo t }
  { c with strand := { c.strand with rcd := c.strand.rcd.map fun b =>
      (if b.written || decide (t < b.commit) then b else { b with tripped := true }) } }

/-- A trip of window `w` at cycle `t` (R305, R306): reported always, and sent to the routes that ROUTE selects. -/
def State.trip (s : State) (n : Ch) (w : WinId) (st : WinState) (t : Nat) : State :=
  let g := (s.ch n).eff.win w
  let s := s.upCh n fun c => c.noteTrip w st t
  let s := s.when (g.route.getLsbD 0) fun s => s.cutPulse n t
  let s := s.when (g.route.getLsbD 1) fun s => (s.upCh n fun c => c.upWin w fun x => { x with stage := true }).stageTrip n
  s.upCh n fun c =>
    let c := c.askSquash
    if c.eff.tstop || g.route.getLsbD 1 then c.askEnd .trip else c

/-- The window judges its inputs at cycle `t` of a loop period (R299): the state follows the table, and a change outward is a trip. A window
that is off, blanked or settling keeps its state (R302, R308). -/
def State.judge (s : State) (n : Ch) (w : WinId) (xs : List Int) (t : Nat) (pow : Bool) : State :=
  let c := s.ch n
  let g := c.eff.win w
  let h := g.hyst.toNat
  let old := c.win w
  let l := s.winOns n w xs
  let s := s.comparators n w pow h xs
  if g.mode = .off ∨ c.blanked w ∨ old.arming.isSome then s
  else
    let st := old.st.next h l
    let s := s.upCh n fun c => c.upWin w fun x => { x with st := st, stage := x.stage && st != .inside }
    if st = old.st ∨ st = .inside then s else s.trip n w st t

/-! ### Arming (R300 … R302) -/

/-- The window is armed at a boundary, or turned off. -/
def WinSt.arm (w : WinSt) (m : WinMode) (now : Nat) : WinSt :=
  { w with st := .inside, stage := false, late := [], arming := if m = .continuous then some now else none }

/-- The data path takes a window's mode: the window is armed, or turned off. -/
def Chan.takeMode (c : Chan) (w : WinId) (now : Nat) : Chan :=
  let m := (c.cfg.win w).mode
  ({ c with eff := c.eff.upWin w fun g => { g with mode := m } }).upWin w fun x => x.arm m now

/-- A change of a window's mode acts at the boundary, and its comparator is powered with it (R300 … R302). -/
def State.winAct (s : State) (n : Ch) (w : WinId) : State :=
  if ((s.ch n).cfg.win w).mode = ((s.ch n).eff.win w).mode then s
  else (s.upCh n fun c => c.takeMode w s.time).powerWindow n w

/-- Bare structure is in force, also while a load runs on it (R44, R301). -/
def State.isBare (s : State) : Bool := s.img.st == .bare || (s.img.st == .loading && s.img.before == .bare)

/-- The comparators of a cell that begins to shadow or to carry channel `n` are powered as the channel's windows ask (R302, R309). -/
def State.powerCell (s : State) (n : Ch) (k : CellIx) : State :=
  let on (w : WinId) : Bool := ((s.ch n).eff.win w).mode == .continuous
  s.upCell k fun x => (x.comparator .v (on .v) false false).comparator .i (on .i) false false

/-- The thresholds of a window take the range in force as their reference (R307). -/
def Chan.refThr (c : Chan) (w : WinId) : Chan := (c.upWin w fun x => { x with refRange := c.winRange w, refFs := c.winFs w (c.winRange w) }).applyThr

end Sys2Proof.Machine
end

