-- ==== Sys2Proof/Machine/Migrate.lean ====
section
/-! DEFINITION. The course of a migration as shared operations: its grant, its ends, the mapping change, rejection, and what happens when
the spares run out (R332 … R352). -/

namespace Sys2Proof.Machine

/-- The lead whose pins the cell of channel `n` drives: the channel itself outside a clasp. -/
def State.pins (s : State) (n : Ch) : Ch := if (s.ch n).map.member then s.lead n else n

/-! ### The end of a migration -/

/-- The channel that migrates in bay `b` is no longer held for a borrow that did not come about. -/
def State.endBorrow (s : State) (b : Bay) : State :=
  match (s.mig b).ch with
  | some n => s.upCh n fun c => { c with range := { c.range with borrow := false } }
  | none => s

/-- The bay's entry is free again and shows how its migration ended; DONE is set (R359). A lending bay is free with it. -/
def State.freeMig (s : State) (b : Bay) (r : MigResult) : State :=
  let s := match (s.mig b).lender with
    | some l => s.upMig l fun m => { m with busy := false, lending := false }
    | none => s
  let s := s.endBorrow b
  s.upMig b fun m => { m with busy := false, done := true, phase := .idle, result := r, ch := none, lender := none, bridge := none }

/-- The address word of an attic message (R367). -/
def BayMig.addr (m : BayMig) : Nat :=
  (match m.newCell with
    | some k => k.val
    | none => 0x7F) * 256 + match m.oldCell with
    | some k => k.val
    | none => 0x7F

/-- The history entry of a completed migration (R412). -/
def State.historyEntry (s : State) (b : Bay) (r : MigResult) (cold : Bool) : List Word :=
  let m := s.mig b
  let code : Nat := if r = .cold then 2 else 0
  let ch : Nat := match m.ch with
    | some n => n.val
    | none => 0
  [s.cel.boot, s.cel.clock,
   BitVec.ofNat 32 (m.addr + ch * 2 ^ 16 + code * 2 ^ 24 + bit cold * 2 ^ 28 + bit m.lender.isSome * 2 ^ 29), timeLo s.ticks]

/-- A completed migration is counted, reported and added to the history (R342, R358, R367, R412). -/
def State.completeMig (s : State) (b : Bay) (r : MigResult) : State :=
  let m := s.mig b
  let e := s.historyEntry b r (r == .cold)
  let s := s.upAtt fun a => { a with migrations := satInc a.migrations, history := a.history ++ [e] }
  let s := s.post srcAttic (if r = .cold then 1 else if m.cause = .homecoming then 3 else 0) m.addr
  s.freeMig b r

/-- An early migration is abandoned (R344): the spare returns to the attic. -/
def State.abandonMig (s : State) (b : Bay) : State :=
  let m := s.mig b
  if m.runs && m.phase.early then
    let s := match m.newCell with
      | some k => if (s.cell k).role = Role.shadow ∨ (s.cell k).role = Role.spare then s.upCell k fun x => x.retire false else s
      | none => s
    (s.post srcAttic 2 m.addr).freeMig b .abandoned
  else s

/-- The migration of channel `n`'s own cell is abandoned when the channel is fenced or disabled (R344); its waiting request ends. -/
def State.abandonFor (s : State) (n : Ch) : State :=
  let s := s.upAtt fun a => { a with requests := a.requests.filter fun q => q.ch != n }
  if s.migrating n then s.abandonMig (chBay n) else s

/-! ### The mapping change (R30, R332, R334, R341) -/

/-- The old cell after the migration: FENCED, or SPARE after a homecoming or a host's MIGRATE with KEEP_OLD (R332). -/
def State.retireOld (s : State) (m : BayMig) : State :=
  match m.oldCell with
  | some k =>
    let keep := (m.cause == .homecoming || (m.cause == .host && m.keepOld)) && !(s.cell k).condemned
    (s.upCell k fun x => x.retire (!keep)).when (!keep) fun s => s.upFlt fun f => f.fence (srcCell k)
  | none => s

/-- The new cell takes the channel over; a bridge carries it from now on. -/
def State.installNew (s : State) (m : BayMig) (n : Ch) (k : CellIx) : State :=
  let s := s.upCell k fun x =>
    { x with role := if (s.ch n).map.member then .member else .active, channel := some (s.pins n), viaBridge := m.lender.isSome, awake := true }
  let s := match m.bridge with
    | some g => s.upAtt fun a => { a with bridge := a.bridge.set g.val (some n) }
    | none => s
  s.upCh n fun c =>
    let c := { c with map := { c.map with cell := some k, bridged := m.lender.isSome } }
    if m.lender.isSome then c.rehold else c

/-- The mapping change of the migration of bay `b`. A calibration session of the channel ends (R194). -/
def State.remapMig (s : State) (b : Bay) : State :=
  let m := s.mig b
  match m.ch, m.newCell with
  | some n, some k =>
    let old := s
    let s := ((s.retireOld m).freeBridge n).installNew m n k
    let s := (s.upCh (s.pins n) fun c => c.calInterrupt).remapped old
    (s.latchDac (s.pins n)).refresh (s.pins n)
  | _, _ => s

/-- A cold migration's end (R334): the mapping changes with the spare's switch open and the channel is available; a channel that waited
without a cell is no longer fenced (R382). The comparators of the new cell are powered with it (R302, R316). -/
def State.coldMig (s : State) (b : Bay) : State :=
  let m := s.mig b
  let s := s.remapMig b
  let s := match m.ch, m.newCell with
    | some n, some k => s.powerCell (s.pins n) k
    | _, _ => s
  let s := match m.ch with
    | some n =>
      let s := s.upCh n fun c => { c with map := { c.map with avail := c.decl.enabled }, fence := .none }
      s.when (m.cause == MigCause.readmit) fun s => s.upFlt fun f => f.unfence (srcCh n)
    | none => s
  s.completeMig b .cold

/-! ### When the spares run out (R350 … R352) -/

/-- The bay's entry shows a result without a migration. -/
def State.showResult (s : State) (n : Ch) (r : MigResult) (old : Option CellIx) : State :=
  s.upMig (chBay n) fun m => { m with done := true, result := r, newCell := none, oldCell := old }

/-- One channel is fenced by R350 and its Major logged (R365). -/
def State.loseChannel (s : State) (n : Ch) (f : ChFence) (kind : Nat) (bad : Bool) : State :=
  let lost : Nat := match (s.ch n).map.cell with
    | some k => k.val
    | none => 0x7F
  let s := s.fenceNoSpare n f bad
  let s := s.when (bad || kind == 7) fun s => s.post (srcCh n) kind lost
  s.upFlt fun f => f.fence (srcCh n)

/-- The current that the clasp's compliance asks for in nA (R351): |C_eff| in force-voltage mode, the bound of R127 in force-current mode,
where C_eff is a voltage. -/
def Chan.claspDemand (c : Chan) : Nat :=
  (if c.eff.mode = .voltage then c.loop.complEff.toNat else c.primaryBound) * c.fsi / 2 ^ 31

/-- Full scale of range 0x7 becomes that of `m` cells: every current level is re-expressed (R226, R351). -/
def Chan.resize (c : Chan) (m : Nat) : Chan :=
  let old := c.fsI 7
  let c := { c with map := { c.map with claspSize := BitVec.ofNat 3 (m - 1) } }
  let new := c.fsI 7
  let cur := c.eff.mode == .current
  let c := if c.range.complRange = 7 ∧ c.eff.mode = .voltage then
      { c with range := { c.range with complRef := rescale c.range.complRef old new, complFs := new } } else c
  if c.range.i = 7 then
    let c := { c with loop := c.loop.rescaleI c.eff.mode old new,
                      force := if cur then { c.force with applied := rescale c.force.applied old new } else c.force }
    (if cur then c else c.rescaleCompl).reclamp
  else c

/-- The channel leaves its clasp without a cell. -/
def Chan.leaveClasp (c : Chan) (n : Ch) : Chan :=
  { c with fence := .noCell,
           map := { c.map with avail := false, member := false, claspSize := 0, claspLead := BitVec.ofNat 3 (chLocal n), cell := none } }

/-- The clasp of channel `n`, whose cell failed, is re-shared among its other cells (R351). -/
def State.reshare (s : State) (n : Ch) : State :=
  let old := s
  let lead := s.pins n
  let ms := s.members lead
  let m := ms.length
  let leaver : Ch := if n = lead then ms.getLast?.getD n else n
  let bad := (s.ch n).map.cell
  let s := match bad with
    | some k => (s.upCell k fun x => x.retire true).upFlt fun f => f.fence (srcCell k)
    | none => s
  let s := if n = lead then
      match (old.ch leaver).map.cell with
      | some k => (s.upCell k fun x => { x with role := .active, channel := some lead }).upCh lead fun c => { c with map := { c.map with cell := some k } }
      | none => s
    else s
  let s := (s.upCh leaver fun c => c.leaveClasp leaver).upFlt fun f => f.fence (srcCh leaver)
  let s := s.each (ms.filter fun j => j != leaver) fun j s => s.upCh j fun c => { c with map := { c.map with claspSize := BitVec.ofNat 3 (m - 1) } }
  let s := (s.upCh lead fun c => c.resize m).remapped old
  let s := (s.latchDac lead).refresh lead
  let lost : Nat := match bad with
    | some k => k.val
    | none => 0x7F
  (s.post (srcCh n) 8 lost).showResult n .reshared bad

/-- The whole clasp is fenced (R352). -/
def State.fenceClasp (s : State) (n : Ch) : State :=
  let lead := s.pins n
  let bad := (s.ch n).map.cell
  let s := (s.each (lead :: s.members lead) fun j s => s.loseChannel j .clasp 9 (j == n)).remapped s
  s.showResult n .claspFenced bad

/-- A failing cell finds no spare and no borrow (R346, R350 … R352). -/
def State.noSpare (s : State) (q : MigReq) : State :=
  let n := q.ch
  let bad := (s.ch n).map.cell
  let fence := q.cause == .fault || (q.cause == .host && !q.keepOld)
  if fence then
    let lead := s.pins n
    let m := (s.members lead).length
    if m = 0 then (s.loseChannel n .noCell 7 true).showResult n .noSpare bad
    else if (s.ch lead).claspDemand ≤ m * 20000000 then s.reshare n
    else s.fenceClasp n
  else if q.cause = .host then s.showResult n .noSpare bad
  else s

/-! ### The grant (R331, R335, R347, R349) -/

/-- The cell that a request would take, with the lending bay and bridge. -/
def State.planFor (s : State) (n : Ch) : Option (CellIx × Option (Bay × Fin 7)) :=
  match s.spares (chBay n) with
  | k :: _ => some (k, none)
  | [] =>
    match s.lenderFor n with
    | some p => (s.spares p.1).head?.map fun k => (k, some p)
    | none => none

/-- A migration begins with WAKE: the bay, a lending bay and its bridge are occupied, the spare's bay wakes, and for a live migration the
cellar's confirming read starts (R335); a fenced cellar's passes on the applied copy (R374). For a cold one the cellar reads the spare's
locket alone (R187). A borrow holds the channel's ranges from here on (R26). -/
def State.beginMig (s : State) (q : MigReq) (k : CellIx) (l : Option (Bay × Fin 7)) : State :=
  let n := q.ch
  let b := chBay n
  let cold := q.cold || !(s.ch (s.pins n)).moves
  let s := s.upMig b fun m =>
    { done := m.done, result := m.result, busy := true, phase := .wake, newCell := some k, oldCell := (s.ch n).map.cell, ch := some n,
      cause := q.cause, keepOld := q.keepOld, cold := cold, lender := l.map (·.1), bridge := l.map (·.2), confirmed := s.cel.st == .fenced }
  let s := match l with
    | some p => ((s.upMig p.1 fun m => { m with busy := true, lending := true }).wake p.1).upCh n fun c =>
        Chan.rehold { c with range := { c.range with borrow := true } }
    | none => s
  let s := (s.wake b).upCell k fun x => { x with matched := false, run := 0 }
  if s.cel.st = .fenced then s else s.celAsk (if cold then .readLocket k false else .confirm b false)

/-- The request may still be granted: its channel has a cell and is available, or is to be carried again (R349, R382). -/
def State.causeHolds (s : State) (q : MigReq) : Bool :=
  let c := s.ch q.ch
  !s.migrating q.ch && if q.cause = .readmit then c.map.cell.isNone else c.map.cell.isSome && c.decl.enabled && c.fence == .none &&
    (q.cause != .homecoming || c.map.bridged)

/-- A request at a boundary, with the bays that were occupied before this boundary's grants: granted, waiting (a loss to another request of
this boundary counts once), or without a spare. -/
def State.tryGrant (s : State) (q : MigReq) (before : Bay → Bool) : State :=
  let wait (bs : List Bay) : State :=
    let lost := bs.any fun b => (s.mig b).busy && !before b
    s.upAtt fun a => { a with requests := a.requests ++ [{ q with lostOnce := q.lostOnce || lost }],
                              arbLosses := if lost && !q.lostOnce then satInc a.arbLosses else a.arbLosses }
  let b := chBay q.ch
  if !s.causeHolds q then s
  else if (s.mig b).busy then wait [b]
  else match s.planFor q.ch with
    | some (k, none) => if (s.bay b).fenced then s.noSpare q else s.beginMig q k none
    | some (k, some p) => if (s.mig p.1).busy then wait [p.1] else s.beginMig q k (some p)
    | none => s.noSpare q

/-- The requests in ascending channel number (R349). -/
def insertReq (q : MigReq) : List MigReq → List MigReq
  | [] => [q]
  | r :: l => if q.ch.val < r.ch.val then q :: r :: l else r :: insertReq q l

def sortReqs (l : List MigReq) : List MigReq := l.foldl (fun a q => insertReq q a) []

/-- Channels carried through a bridge that may come home (R348), whatever HOMECOMING holds when the bridge is fenced (R374). -/
def State.homecomings (s : State) : List Ch :=
  allChs.filter fun n =>
    let c := s.ch n
    c.map.bridged && c.map.avail && !(s.spares (chBay n)).isEmpty &&
      (s.att.homecoming || (List.finRange 7).any fun g => s.att.bridge[g.val] == some n && (s.flt.srcSt (srcBridge g)).fenced)

/-! ### Rejection (R339) -/

/-- A load that contains BAYS or CHANNELS is in progress (R75). -/
def State.mapLoads (s : State) : Bool :=
  match s.img.job with
  | some j => j.sections.any fun x => x == 2 || x == 3
  | none => false

/-- A running migration goes on with its next eligible spare. While a load of R75 runs it takes one of its own bay or of the bay that lends to
it already; otherwise its request waits for the swap, since no borrow starts. -/
def State.resumeMig (s : State) (q : MigReq) (lender : Option Bay) (g : Option (Fin 7)) : State :=
  if !s.mapLoads then s.tryGrant q fun _ => true
  else if !s.causeHolds q then s
  else match s.spares (chBay q.ch), lender, g with
    | k :: _, _, _ => s.beginMig q k none
    | [], some l, some g =>
      match (s.spares l).head? with
      | some k => s.beginMig q k (some (l, g))
      | none => s.request q
    | [], _, _ => s.request q

/-- The spare of bay `b`'s migration is fenced and rejected, and the migration goes on with the next eligible one from WAKE; the message
goes first, while the cell is a shadow. -/
def State.rejectSpare (s : State) (b : Bay) (reason : Option Nat) : State :=
  let m := s.mig b
  match m.newCell, m.ch with
  | some k, some n =>
    let s := match reason with
      | some r => s.post (srcCell k) 0xD (0x0B * 2 ^ 24 + (s.pins n).val * 2 ^ 16 + r)
      | none => s
    let s := (s.upCell k fun x => { x.retire true with rejected := true }).upFlt fun f => f.fence (srcCell k)
    let s := s.upAtt fun a => { a with rejects := satInc a.rejects }
    let s := match m.lender with
      | some l => s.upMig l fun x => { x with busy := false, lending := false }
      | none => s
    let s := (s.endBorrow b).upMig b fun x => { x with busy := false, phase := .idle, ch := none, newCell := none, lender := none, bridge := none }
    s.resumeMig { ch := n, cause := m.cause, keepOld := m.keepOld, cold := m.cold } m.lender m.bridge
  | _, _ => s

end Sys2Proof.Machine
end

