-- ==== Sys2Proof/Machine/Attic.lean ====
section
/-! DEFINITION. The attic family: migrations from request to end, and the patrol of the on-chip SRAM (R330 … R360). -/

namespace Sys2Proof.Machine

/-! ### ATT_MIGRATE and the grant -/

/-- ATT_CMD.MIGRATE at its boundary (R333): refused without an available channel of its own, or while its cell migrates. -/
def State.hostMigrate (s : State) (n : Ch) (keepOld : Bool) : State :=
  let c := s.ch n
  if !c.map.avail || c.map.member || s.migrating n then s.upMig (chBay n) fun m => { m with done := true, result := .refused }
  else s.request { ch := n, cause := .host, keepOld := keepOld, cold := false }

/-- ATT_MIGRATE (R332, R333). -/
def execAttMigrate (n : Ch) (keepOld : Bool) (s : State) : Host.Outcome State Fault Refusal :=
  .next (s.hostAct fun s => s.hostMigrate n keepOld)

/-- No migration starts while the Grave latch holds, nor while a load with BAYS or CHANNELS runs (R75, R344). -/
def State.grantsBlocked (s : State) : Bool :=
  s.flt.grave || s.mapLoads

/-- The grants of one boundary (R348, R349). -/
def State.grants (s : State) : State :=
  let s := s.each s.homecomings fun n s => s.request { ch := n, cause := .homecoming, keepOld := true, cold := false }
  let qs := sortReqs s.att.requests
  let before := fun b => (s.mig b).busy
  (s.upAtt fun a => { a with requests := [] }).each qs fun q s => s.tryGrant q before

/-- MIGRATION_GRANT (R349). -/
def execMigrationGrant (s : State) : Host.Outcome State Fault Refusal :=
  .next (s.live fun s => if s.grantsBlocked then s else s.grants)

/-! ### The phases -/

/-- The spare and, through it, its bay are awake. -/
def State.spareAwake (s : State) (k : CellIx) : Bool := (s.bay (CellIx.bay k)).awake

/-- The migration of bay `b` is cold now (R332, R344). -/
def State.coldNow (s : State) (m : BayMig) (n : Ch) : Bool := m.cold || !(s.ch (s.pins n)).moves

/-- SHADOW_AWAKE (R334, R335): the end of WAKE and its settling. A cold migration changes the mapping at once; a live one runs the spare as
a shadow and begins FORCE_CHECK. -/
def execShadowAwake (b : Bay) (s : State) : Host.Outcome State Fault Refusal :=
  .next (s.live fun s =>
    let m := s.mig b
    match m.runs && m.phase == .wake, m.ch, m.newCell with
    | true, some n, some k =>
      if !s.spareAwake k then s
      else if s.coldNow m n then s.coldMig b
      else
        let s := s.upCell k fun x => { x with role := .shadow, channel := some (s.pins n), awake := true, run := 0, matched := false }
        ((s.upMig b fun m => { m with phase := .forceCheck, periods := 0, failed := false, sinceVI := s.time }).shadowFollow (s.pins n) k).powerCell
          (s.pins n) k
    | _, _, _ => s)

/-- The cellar found no valid locket copy of the spare, and NOMINAL spares are not eligible (R339). -/
def State.locketFails (s : State) (m : BayMig) (k : CellIx) : Bool :=
  m.confirmed && (s.cell k).locketSt == .nominal && !s.att.useNominal

/-- FORCE_CHECK_END (R338): 64 consecutive passes and a confirmed locket. -/
def execForceCheckEnd (b : Bay) (s : State) : Host.Outcome State Fault Refusal :=
  .next (s.live fun s =>
    let m := s.mig b
    match m.newCell with
    | some k =>
      if m.runs && m.phase == .forceCheck && !m.failed && m.confirmed && decide (64 ≤ (s.cell k).run.toNat) && !s.locketFails m k then
        (s.upCell k fun x => { x with matched := true }).upMig b fun m => { m with phase := .mirror, sinceOvl := s.time }
      else s
    | none => s)

/-- Why the spare of a migration is rejected now (R339): engines, locket or time. -/
def State.rejectReason (s : State) (m : BayMig) (k : CellIx) : Option Nat :=
  if !m.runs || !(m.phase == .forceCheck || m.phase == .mirror) then none
  else if m.failed then some 1
  else if m.phase == .forceCheck && s.locketFails m k then some 2
  else if m.phase == .forceCheck && decide (4096 ≤ m.periods) then some 0
  else none

/-- SPARE_REJECT (R339). -/
def execSpareReject (b : Bay) (s : State) : Host.Outcome State Fault Refusal :=
  .next (s.live fun s =>
    match (s.mig b).newCell with
    | some k =>
      match s.rejectReason (s.mig b) k with
      | some r => s.rejectSpare b (some r)
      | none => s
    | none => s)

/-- The shadow's filters have converted every open window from its start (R338). -/
def Chan.mirrored (c : Chan) (m : BayMig) : Bool :=
  c.meas.convs.all fun v => v.settling || decide ((if v.md = .ovl then m.sinceOvl else m.sinceVI) ≤ v.tStart)

/-- MIRROR ends now (R338). -/
def State.swapDue (s : State) (m : BayMig) (n : Ch) : Bool :=
  let c := s.ch (s.pins n)
  m.phase == .mirror && !m.failed && c.mirrored m && c.range.hst == .idle && c.loop.st != .held

/-- MIGRATION_SWAP (R341): s … s + 2 as one command: the cells overlap, the mapping changes, and SWAP counts the 5 periods in which the
current is the sum of both cells. A migration that became cold changes the mapping with the switch open (R344). -/
def execMigrationSwap (b : Bay) (s : State) : Host.Outcome State Fault Refusal :=
  .next (s.live fun s =>
    let m := s.mig b
    match m.runs && (m.phase == .forceCheck || m.phase == .mirror), m.ch with
    | true, some n =>
      if s.coldNow m n then s.coldMig b
      else if s.swapDue m n then (s.remapMig b).upMig b fun m => { m with phase := .swap, periods := 0, swapAt := s.time }
      else s
    | _, _ => s)

/-- A conversion of I still runs whose window contains a part of s … s + 4 (R342). -/
def Chan.drains (c : Chan) (m : BayMig) : Bool :=
  c.meas.convs.any fun v => v.md == .i && !v.settling && decide (v.tStart ≤ m.swapAt + 4 * 256 * c.lpStep)

/-- MIGRATION_END (R342). -/
def execMigrationEnd (b : Bay) (s : State) : Host.Outcome State Fault Refusal :=
  .next (s.live fun s =>
    let m := s.mig b
    match m.runs && m.phase == .drain, m.ch with
    | true, some n => if (s.ch (s.pins n)).drains m then s else s.completeMig b .ok
    | _, _ => s)

/-! ### SRAM (R353 … R355) -/

/-- Byte address of the word that the patrol reads next, its bank and its row (R353, R354). -/
def State.patrolAddr (s : State) : Nat := 8 * s.att.patrol

/-- The fault source of the bank that holds a byte address (R363). -/
def srcBank (a : Nat) : BitVec 10 := BitVec.ofNat 10 (0x100 + a / 131072 % 32)

/-- The row that holds byte address `a` is repaired with a spare row of its bank, or the bank is exhausted (R353, R355). -/
def State.repairRow (s : State) (a : Nat) : State :=
  let bank := a / 131072
  let used := (findAt s.att.rowsUsed bank).getD 0
  if used < 16 then
    (s.upAtt fun t => { t with rowsUsed := insertAt t.rowsUsed bank (used + 1), spareRows := t.spareRows - 1,
                               rowErrs := removeAt t.rowErrs (a / 128) }).post (srcBank a) 0 a
  else (s.upAtt fun t => { t with exhausted := true }).post (srcBank a) 2 a

/-- A corrected word (R353): counted, and its row repaired at the second one. -/
def State.sramCorrected (s : State) (a : Nat) : State :=
  let k := (findAt s.att.rowErrs (a / 128)).getD 0 + 1
  let s := s.upAtt fun t => { t with ce := satInc t.ce, rowErrs := insertAt t.rowErrs (a / 128) k }
  if k = 2 then s.repairRow a else s

/-- The 64-bit word at map address `a` holds bits that the spec leaves open (R355). -/
def State.garble (s : State) (a : Nat) : State :=
  let s := (s.setMemWord a (Config.sramGarbage s.draws)).draw
  (s.setMemWord (a + 4) (Config.sramGarbage s.draws)).draw

/-- The word at map address `a` takes its reset value. -/
def State.resetWord (s : State) (a : Nat) : State :=
  s.setMemWord a (bytesWord [memBackground a, memBackground (a + 1), memBackground (a + 2), memBackground (a + 3)])

/-- The effect of an uncorrectable word of a region (R355, R388). -/
def State.sramEffect (s : State) (r : SramRegion) (a : Nat) : State :=
  match r with
  | .bead i upper =>
    (s.upAtt fun t => { t with ueBeads := if t.ueBeads.contains i then t.ueBeads else t.ueBeads ++ [i] }).garble (0x100000 + 16 * i.toNat + 8 * bit upper)
  | .larder i upper => s.garble (0x200000 + 16 * i.toNat + 8 * bit upper)
  | .stream n i => s.upCh n fun c => { c with queue := if i < c.queue.length then c.queue.set i none else c.queue }
  | .sine w =>
    let w := w.toNat / 2 * 2
    (s.resetWord (0x300000 + 4 * w)).resetWord (0x300000 + 4 * w + 4)
  | .locket k => s.celAsk (.readLocket k false)
  | .loopState n => (s.post (srcCh n) 0xA a).loopOpen n
  | .staging => { s with img := { s.img with stageUe := true } }
  | .coffer i =>
    let s := s.upFlt fun f => { f with coffer := match findAt f.coffer i.toNat with
      | some x => insertAt f.coffer i.toNat { x with src := srcCollector, kind := 2, cls := .minor, conseq := false, coalesced := false,
                                                     escalated := false, live := false, acked := false, injected := false, tag := 0,
                                                     addr := i.setWidth 32, seq := 0 }
      | none => f.coffer }
    s.post srcCollector 2 i.toNat
  | .other => s

/-- An uncorrectable word (R353, R355). -/
def State.sramUncorrectable (s : State) (r : SramRegion) (a : Nat) : State :=
  let s := s.upAtt fun t => { t with ue := true, ueAddr := BitVec.ofNat 22 a }
  let s := (s.repairRow a).post (srcBank a) 1 a
  s.sramEffect r a

/-- SRAM_PATROL_READ (R354): the next word, which belongs to region `r`, as the read finds it. -/
def execSramPatrolRead (r : SramRegion) (e : SramRead) (s : State) : Host.Outcome State Fault Refusal :=
  .next (s.live fun s =>
    let a := s.patrolAddr
    let s := s.upAtt fun t => { t with patrol := (t.patrol + 1) % 524288 }
    match e with
    | .clean => s
    | .single => s.sramCorrected a
    | .double => s.sramUncorrectable r a)

end Sys2Proof.Machine
end

