-- ==== Sys2Proof/Machine/CelOps.lean ====
section
/-! DEFINITION. The cellar as shared operations: geometry, blocks, pages and sets on the flash, the regions' contents, lockets, mount,
persistence and retirement (R185 … R188, R404 … R423). -/

namespace Sys2Proof.Machine

/-! ### Geometry (R399, R404, R405, R408, R420) -/

/-- The mounted geometry: page size, pages per block and blocks from the descriptor. -/
def Flash.pageSize (f : Flash) : Nat := match f.desc with
  | some d => if d.1.getLsbD 0 then 4096 else 2048
  | none => 2048

def Flash.perBlock (f : Flash) : Nat := match f.desc with
  | some d => if d.1.getLsbD 1 then 128 else 64
  | none => 64

/-- M of R405; no managed area without a descriptor. -/
def Flash.limit (f : Flash) : Nat := match f.desc with
  | some d => min d.2.1 1024
  | none => 0

/-- Bytes of a region's content (R408). -/
def Region.size : Region → Nat
  | .slotA | .slotB => 262144
  | .rest => 1024
  | .lockets => 73728
  | .library => 1056768
  | .coffer => 2097152
  | .history => 131072

def allRegions : List Region := [.slotA, .slotB, .rest, .lockets, .library, .coffer, .history]

/-- The block count of a region (R408). -/
def Flash.regionBlocks (f : Flash) (r : Region) : Nat := (r.size + f.pageSize * f.perBlock - 1) / (f.pageSize * f.perBlock)

/-- The working set W: every region at its block count plus 2 (R408). -/
def Flash.workingSet (f : Flash) : Nat := allRegions.foldl (fun a r => a + f.regionBlocks r + 2) 0

/-! ### Blocks (R406, R414, R415) -/

/-- The good blocks of the managed area. -/
def Flash.good (f : Flash) : List Nat := (List.range f.limit).filter fun b => b != 0 && !f.bad.contains b

/-- A block holds a page of a region, or takes no further pages. -/
def Flash.used (f : Flash) (b : Nat) : Bool := f.pages.any (fun p => p.block == b) || f.closed.contains b

def Flash.free (f : Flash) : List Nat := f.good.filter fun b => !f.used b

/-- The erase count of a block; a blank one that this device never erased counts the mean of those known (R413). -/
def Flash.eraseCount (f : Flash) (b : Nat) : Nat :=
  (findAt f.erases b).getD (if f.erases = [] then 0 else (f.erases.foldl (fun a e => a + e.2) 0) / f.erases.length)

/-- The block of a list with the lowest key, the lowest number at equal keys. -/
def leastBy (key : Nat → Nat) : List Nat → Option Nat
  | [] => none
  | b :: l => match leastBy key l with
    | some c => if key c < key b then some c else some b
    | none => some b

/-- Pages programmed in a block. -/
def Flash.fill (f : Flash) (b : Nat) : Nat := (f.pages.filter fun p => p.block == b).length

/-- The pages of a region on good blocks, newest last. -/
def Flash.regionPages (f : Flash) (r : Region) : List FPage := f.pages.filter fun p => p.region == r

/-- The block that takes the next page of a region: the one in which its newest page lies while it has room, otherwise the free block of
the lowest erase count (R414). -/
def Flash.target (f : Flash) (r : Region) : Option Nat :=
  match ((f.regionPages r).getLast?).filter fun p => f.fill p.block < f.perBlock && !f.closed.contains p.block && !f.bad.contains p.block with
  | some p => some p.block
  | none => leastBy f.eraseCount f.free

/-- A block is erased, and its page 0 marks it as free (R414). -/
def Flash.erase (f : Flash) (b : Nat) : Flash :=
  { f with pages := f.pages.filter fun p => p.block != b, closed := f.closed.filter fun c => c != b,
           erases := insertAt f.erases b (f.eraseCount b + 1) }

/-! ### Commands to the part (R400 … R402) -/

/-- The opcode of a command (R400). -/
def NandOp.opcode : NandOp → Byte
  | .reset => 0xFF
  | .readId => 0x9F
  | .getFeature _ => 0x0F
  | .setFeature _ _ => 0x1F
  | .writeEnable => 0x06
  | .pageRead _ => 0x13
  | .readCache quad _ => if quad then 0x6B else 0x03
  | .load quad _ => if quad then 0x32 else 0x02
  | .execute _ => 0x10
  | .erase _ => 0xD8

/-- A number as `n` bytes, most significant first. -/
def bytesHigh (n x : Nat) : List Byte := (List.range n).map fun i => BitVec.ofNat 8 (x / 256 ^ (n - 1 - i))

/-- What the cellar sends behind the opcode and ahead of dummies and data, on NAND_IO_0 alone (R401). -/
def NandOp.frame : NandOp → List Byte
  | .reset | .readId | .writeEnable => []
  | .getFeature a => [a]
  | .setFeature a v => [a, v]
  | .pageRead row | .execute row | .erase row => bytesHigh 3 row
  | .readCache _ col | .load _ col => bytesHigh 2 col.toNat

/-- Dummy clocks behind the frame (R401). -/
def NandOp.dummies : NandOp → Nat
  | .readId | .readCache _ _ => 8
  | _ => 0

/-- The data phase of a command uses all four lines (R401). -/
def NandOp.wide : NandOp → Bool
  | .readCache quad _ | .load quad _ => quad
  | _ => false

/-- The column address of byte `o` of a page of block `b`: with CEL_GEOM.PLANE, bit 0 of the block number above the offset (R401). -/
def Cel.column (c : Cel) (f : Flash) (b o : Nat) : BitVec 16 :=
  BitVec.ofNat 16 (o + if c.plane then b % 2 * (if f.pageSize = 4096 then 8192 else 4096) else 0)

/-- Row address of page `p` of block `b` (R401). -/
def Flash.rowOf (f : Flash) (b p : Nat) : Nat := b * f.perBlock + p

/-- The commands of a page read, of a program at offset `o`, and of an erase, each with one poll of feature 0xC0 (R400, R402; DESIGN CHOICE, see
notes/assumptions). -/
def Cel.readOps (c : Cel) (f : Flash) (b p : Nat) : List NandOp :=
  [.pageRead (f.rowOf b p), .getFeature 0xC0, .readCache c.quad (c.column f b 0)]

def Cel.programOps (c : Cel) (f : Flash) (b p o : Nat) : List NandOp :=
  [.writeEnable, .load c.quad (c.column f b o), .execute (f.rowOf b p), .getFeature 0xC0]

def Cel.eraseOps (f : Flash) (b : Nat) : List NandOp := [.writeEnable, .erase (f.rowOf b 0), .getFeature 0xC0]

/-- The start-up of the part (R400, R402): reset, its ID, the unlocking of every block and the search for the descriptor. -/
def startOps : List NandOp :=
  [.reset, .getFeature 0xC0, .readId, .setFeature 0xA0 0, .getFeature 0xB0, .pageRead 0, .getFeature 0xC0, .readCache false 0]

/-- Feature 0xB0 as the cellar writes it: ECC off, quad on a ×4 part, the other bits as read (R402). -/
def Cel.featureB0 (c : Cel) : Byte := (Config.nandFeature &&& 0xEE) ||| (if c.quad then Config.nandFeature ||| 1 else Config.nandFeature) &&& 1

/-- The cellar sends commands to the part. -/
def State.send (s : State) (l : List NandOp) : State := { s with cel := { s.cel with sent := s.cel.sent ++ l } }

/-- A block is erased and programmed as free (R400, R414, R427). -/
def State.eraseBlock (s : State) (b : Nat) : State :=
  { s with flash := s.flash.erase b }.send (Cel.eraseOps s.flash b ++ s.cel.programOps s.flash b 0 s.flash.pageSize)

/-! ### Pages and sets (R406, R413) -/

/-- The valid copy of a logical page: the newest of its committed ones. -/
def Flash.valid (f : Flash) (r : Region) (l : Nat) : Option FPage := (f.pages.filter fun p => p.region == r && p.lpage == l).getLast?

/-- A page is the valid copy of its logical page. -/
def Flash.isValid (f : Flash) (p : FPage) : Bool := (f.valid p.region p.lpage).any fun q => q.seq == p.seq

/-- The valid pages, in the order in which they were programmed. -/
def Flash.validPages (f : Flash) : List FPage := f.pages.filter fun p => f.isValid p

/-- Row address of a page (R401). -/
def Flash.row (f : Flash) (p : FPage) : Nat := f.rowOf p.block p.page

/-- One page is programmed into block `b`. -/
def State.programAt (s : State) (b : Nat) (r : Region) (l set : Nat) (last : Bool) (data : List Byte) : State :=
  let p : FPage := { block := b, page := s.flash.fill b, region := r, setLast := last, lpage := l, seq := s.cel.nextSeq, set := set,
                     hour := s.cel.clock.toNat, data := data }
  { s with flash := { s.flash with pages := s.flash.pages ++ [p] }, cel := { s.cel with nextSeq := s.cel.nextSeq + 1 } }.send
    (s.cel.programOps s.flash b p.page 0)

/-- One page is programmed; a full cellar programs nothing. -/
def State.program (s : State) (r : Region) (l set : Nat) (last : Bool) (data : List Byte) : State :=
  match s.flash.target r with
  | some b => s.programAt b r l set last data
  | none => s

/-- A list cut into pages of `p` bytes. -/
def chunks (p : Nat) : Nat → List Byte → List (List Byte)
  | 0, _ => []
  | fuel + 1, l => if l.length ≤ p then [l] else l.take p :: chunks p fuel (l.drop p)

/-- The pages of a set from logical page `l` on. -/
def State.programAll (s : State) (r : Region) (l set : Nat) : List (List Byte) → State
  | [] => s
  | [d] => s.program r l set true d
  | d :: ds => (s.program r l set false d).programAll r (l + 1) set ds

/-- A set of the content `bytes` from logical page 0 on (R413). -/
def State.writeSet (s : State) (r : Region) (bytes : List Byte) : State :=
  s.programAll r 0 s.cel.nextSeq (chunks s.flash.pageSize 1024 bytes)

/-- A page's data area, filled out with 0xFF (R408). -/
def padPage (p : Nat) (d : List Byte) : List Byte := d ++ List.replicate (p - d.length) 0xFF#8

/-- The content of a region from logical page `l` on, as far as its pages are valid and readable; `none` from the first that is lost. The
page of an empty set ends it (R424). -/
def Flash.content (f : Flash) (r : Region) : Nat → Nat → Option (List Byte)
  | 0, _ => some []
  | fuel + 1, l =>
    match f.valid r l with
    | some p => if p.lost then none else if p.data = [] then some [] else (f.content r fuel (l + 1)).map fun t => padPage f.pageSize p.data ++ t
    | none => some []

/-- The commands with which the cellar reads the valid pages of a region (R400). -/
def State.regionReads (s : State) (r : Region) : List NandOp :=
  (List.range (r.size / s.flash.pageSize)).flatMap fun l => match s.flash.valid r l with
    | some p => s.cel.readOps s.flash p.block p.page
    | none => []

/-! ### Retiring and sealing (R415, R420) -/

/-- The cellar programs and erases: it is mounted and neither sealed nor fenced. -/
def State.celWrites (s : State) : Bool := s.cel.st == .ready

/-- The cellar reads the flash (R420, R421). -/
def State.celReads (s : State) : Bool := s.cel.st == .ready || s.cel.st == .sealed

/-- The seal is decided (R420): persistence stops with it (R389). -/
def State.sealCheck (s : State) : State :=
  if s.cel.st == .ready && decide (s.flash.good.length < s.flash.workingSet + 4) then
    ({ s with cel := { s.cel with st := .sealed } }.upFlt fun f => { f with persistOff := true }).post srcCellar 3 s.flash.good.length
  else s

/-- The valid readable pages of a block are programmed again elsewhere, each as a set of its own. -/
def State.copyOut (s : State) (b : Nat) : State :=
  let ps := s.flash.validPages.filter fun p => p.block == b && !p.lost
  let s := { s with flash := { s.flash with closed := if s.flash.closed.contains b then s.flash.closed else s.flash.closed ++ [b] } }
  s.each ps fun p s => s.program p.region p.lpage s.cel.nextSeq true p.data

/-- A block is retired (R415): its valid pages go elsewhere, and its marker is programmed. -/
def State.retireBlock (s : State) (b : Nat) : State :=
  if s.celWrites && !s.flash.bad.contains b then
    let s := s.copyOut b
    let s := { s with flash := { s.flash with bad := s.flash.bad ++ [b], pages := s.flash.pages.filter fun p => p.block != b || p.lost },
                      cel := { s.cel with retires := satInc s.cel.retires } }.send (s.cel.programOps s.flash b 0 s.flash.pageSize)
    (s.post srcCellar 1 b).sealCheck
  else s

/-- A page's content is programmed again as a set of one page (R417). -/
def State.refreshPage (s : State) (p : FPage) : State :=
  if s.celWrites then
    { (s.program p.region p.lpage s.cel.nextSeq true p.data).post srcCellar 0 (s.flash.row p) with
      cel := { (s.program p.region p.lpage s.cel.nextSeq true p.data).cel with refreshes := satInc s.cel.refreshes } }
  else s

/-- A page cannot be read (R419): it is counted and reported, its content is lost and its block retired. -/
def State.losePage (s : State) (p : FPage) : State :=
  let row := s.flash.row p
  let s := { s with flash := { s.flash with pages := s.flash.pages.map fun (q : FPage) => (if q.seq = p.seq then { q with lost := true } else q) },
                    cel := { s.cel with ues := satInc s.cel.ues } }
  (s.post srcCellar 2 row).retireBlock p.block

/-- A page is due for a refresh: corrected bits or age (R417). -/
def State.refreshDue (s : State) (p : FPage) (bits : Nat) : Bool :=
  decide (s.cel.refreshBits ≤ bits) || decide (s.cel.maxAgeDays * 24 ≤ s.cel.clock.toNat - p.hour)

/-- The read of a page, and what it finds: corrected bits that may ask for a refresh, or an uncorrectable codeword. -/
def State.readPage (s : State) (p : FPage) (o : FlashOutcome) : State :=
  let s := s.send (s.cel.readOps s.flash p.block p.page)
  match o with
  | .uncorrectable => s.losePage p
  | .corrected bits => if s.refreshDue p bits then s.refreshPage p else s
  | _ => if s.refreshDue p 0 then s.refreshPage p else s

/-! ### Lockets (R185 … R188, R427) -/

/-- Words 0 … 126 of a locket record (R185). -/
def Locket.words (l : Locket) : List Word :=
  [0x4B434F4C, fields [(0, 1), (16, l.cell.toNat)], l.gen, l.calTime, l.calTemp, l.modified, 0, 0] ++
    (l.force.toList.map fun t => fields [(16, t.1.toNat), (0, t.2.toNat)]) ++ [0] ++ l.shunt.toList ++
    (l.meas.toList.flatMap fun t => [t.1, t.2]) ++ List.replicate 43 0

/-- The record of a locket with its CRC. -/
def Locket.record (l : Locket) : List Byte :=
  let b := l.words.flatMap wordBytes
  b ++ wordBytes (crc32 b)

/-- Word `i` of a byte list. -/
def wordAt (b : List Byte) (i : Nat) : Word := bytesWord ((b.drop (4 * i)).take 4)

/-- The locket that 512 bytes hold, when they are a valid copy for cell `k` (R187). -/
def locketOf (k : CellIx) (b : List Byte) : Option Locket :=
  let w := wordAt b
  if b.length = 512 ∧ w 0 = 0x4B434F4C ∧ w 1 = fields [(0, 1), (16, k.val)] ∧ w 127 = crc32 (b.take 508) then
    some { cell := BitVec.ofNat 16 k.val, gen := w 2, calTime := w 3, calTemp := w 4, modified := w 5,
           force := tabulate 3 fun i => ((w (8 + i.val)).extractLsb' 16 16, (w (8 + i.val)).extractLsb' 0 16),
           shunt := tabulate 8 fun i => w (12 + i.val), meas := tabulate 32 fun i => (w (20 + 2 * i.val), w (21 + 2 * i.val)) }
  else none

/-- Copy `c` of cell `k`'s record lies at this byte offset of the region (R408). -/
def locketOffset (k : CellIx) (c : Nat) : Nat := 512 * (c * 72 + k.val)

/-- The page that holds copy `c` of cell `k`. -/
def Flash.locketPage (f : Flash) (k : CellIx) (c : Nat) : Option FPage := f.valid .lockets (locketOffset k c / f.pageSize)

/-- The valid copy `c` of cell `k`. -/
def State.locketCopy (s : State) (k : CellIx) (c : Nat) : Option Locket :=
  if s.celReads then
    match s.flash.locketPage k c with
    | some p => if p.lost then none else locketOf k ((p.data.drop (locketOffset k c % s.flash.pageSize)).take 512)
    | none => none
  else none

/-- Bytes of a page with `d` at offset `o`. -/
def splice (page : List Byte) (o : Nat) (d : List Byte) : List Byte :=
  let page := page ++ List.replicate (o + d.length - page.length) 0xFF#8
  page.take o ++ d ++ page.drop (o + d.length)

/-- Copy `c` of cell `k` is written: its page is a set of its own. -/
def State.writeLocket (s : State) (k : CellIx) (c : Nat) (l : Locket) : State :=
  let o := locketOffset k c
  let old := match s.flash.locketPage k c with
    | some p => if p.lost then [] else p.data
    | none => []
  s.program .lockets (o / s.flash.pageSize) s.cel.nextSeq true (splice old (o % s.flash.pageSize) l.record)

/-- A cell applies its locket (R187): the newer valid copy, repairing the other, or nominal trims with a fault. -/
def State.applyLocket (s : State) (k : CellIx) : State :=
  let take (l : Locket) (st : LocketState) (s : State) : State := s.upCell k fun x => { x with locket := l, locketSt := st }
  let one (l : Locket) (other : Nat) : State :=
    if s.celWrites then ((take l .repaired s).writeLocket k other l).postCell k 0xC 0x0B other else take l .single s
  match s.locketCopy k 0, s.locketCopy k 1 with
  | some a, some b => take (if a.gen.toNat < b.gen.toNat then b else a) .valid s
  | some a, none => one a 1
  | none, some b => one b 0
  | none, none => (take (Locket.nominal k.val) .nominal s).postCell k 0xB 0x0B 0

/-- The copy that a stored update writes first: the one with the lower GENERATION, or copy 1 (R188). -/
def State.olderCopy (s : State) (k : CellIx) : Nat :=
  match s.locketCopy k 0, s.locketCopy k 1 with
  | some a, some b => if a.gen.toNat < b.gen.toNat then 0 else 1
  | none, some _ => 0
  | _, _ => 1

/-- The record of a stored update (R188). -/
def Locket.next (l : Locket) : Locket := { l with gen := l.gen + 1 }

/-- The first half of a stored update: the older copy is written, and the cell holds what was stored. -/
def State.storeFirst (s : State) (k : CellIx) : State :=
  let l := (s.cell k).locket.next
  (s.writeLocket k (s.olderCopy k) l).upCell k fun x => { x with locket := l }

/-- The read-back of the first copy fails (R188, R419): the page is lost, and what it held before is programmed again, from which the update
starts anew (DESIGN CHOICE, see notes/assumptions). -/
def State.storeBad (s : State) (k : CellIx) : State :=
  let c := s.olderCopy k
  let old := (s.flash.locketPage k c).filter fun p => !p.lost
  let s := s.writeLocket k c (s.cell k).locket.next
  let s := match s.flash.locketPage k c with
    | some p => s.losePage p
    | none => s
  match old with
  | some p => s.program .lockets p.lpage s.cel.nextSeq true p.data
  | none => s

/-- The factory record of a cell, held in fuses, with GENERATION 1 (R427). -/
def factoryLocket (k : CellIx) : Locket :=
  let w (i : Nat) : Word := Config.factoryLocket k.val i
  { cell := BitVec.ofNat 16 k.val, gen := 1, calTime := 0, calTemp := w 4, modified := 0,
    force := tabulate 3 fun i => ((w (8 + i.val)).extractLsb' 16 16, (w (8 + i.val)).extractLsb' 0 16),
    shunt := tabulate 8 fun i => w (12 + i.val), meas := tabulate 32 fun i => (w (20 + 2 * i.val), w (21 + 2 * i.val)) }

/-! ### Rest values and the library (R409, R410) -/

/-- The rest table from the values in force (R409). -/
def State.restTable (s : State) : List Byte :=
  allChs.flatMap fun n =>
    let d := (s.ch n).decl
    [fields [(0, bit d.rsClose), (4, d.rsRange.toNat)], d.rsCode.signExtend 32, BitVec.ofNat 32 d.rsIlimitNa, 0].flatMap wordBytes

/-- The rest values of channel `n` from the table; RS_MODE = 0 where it is missing or unreadable (R409, R419). -/
def ChDecl.restFrom (d : ChDecl) (t : Option (List Byte)) (n : Ch) : ChDecl :=
  match t with
  | some b =>
    if b.length < 1024 then { d with rsClose := false, rsRange := 0, rsCode := 0, rsIlimitNa := 1000 }
    else
      let w := fun i => wordAt b (4 * n.val + i)
      { d with rsClose := (w 0).getLsbD 0, rsRange := (w 0).extractLsb' 4 2, rsCode := (w 1).setWidth 20, rsIlimitNa := (w 2).toNat }
  | none => { d with rsClose := false, rsRange := 0, rsCode := 0, rsIlimitNa := 1000 }

def State.restoreRest (s : State) : State :=
  let t := if s.celReads then s.flash.content .rest 2 0 else none
  (s.when s.celReads fun s => s.send (s.regionReads .rest)).allCh fun n c => { c with decl := c.decl.restFrom t n }

/-- The library's entries and a copy of bead memory (R410). -/
def State.libraryImage (s : State) : List Byte :=
  ((List.range 1024).flatMap fun i =>
    let e := (findAt s.img.library i).getD {}
    wordBytes (fields [(0, e.channel.toNat), (8, e.type.code)]) ++ wordBytes (e.first.setWidth 32)) ++
    (List.range 1048576).map fun a => readByte memBackground s.mem (0x100000 + a)

/-- Library entry `i` from the saved bytes. -/
def libEntry (b : List Byte) (i : Nat) : LibEntry :=
  { channel := (wordAt b (2 * i)).extractLsb' 0 8, type := strandTypeOf (bits (wordAt b (2 * i)) 8 3), first := (wordAt b (2 * i + 1)).setWidth 16 }

/-- The byte of the library at offset `o`; a page that cannot be read gives ST_CHANNEL = 0xFF and bead memory 0 (R419). -/
def Flash.libByte (f : Flash) (o : Nat) : Byte :=
  let lost : Byte := if o < 8192 ∧ o % 8 = 0 then 0xFF else 0
  match f.valid .library (o / f.pageSize) with
  | some p => if p.lost then lost else p.data.getD (o % f.pageSize) lost
  | none => lost

/-- The library and bead memory are restored at power-up (R410). -/
def State.restoreLibrary (s : State) : State :=
  if s.celReads && (s.flash.valid .library 0).isSome then
    let head := (List.range 8192).map s.flash.libByte
    let lib := (List.range 1024).map fun i => (i, libEntry head i)
    let m := (List.range 1048576).foldl (fun m a => writeByte memBackground m (0x100000 + a) (s.flash.libByte (8192 + a))) s.mem
    State.send { s with mem := m, img := { s.img with library := lib.filter fun e => e.2 != {} } } (s.regionReads .library)
  else s

/-! ### Persistence (R386, R389, R411, R412) -/

/-- Word 0 of a coffer record (R386). -/
def FRec.word0 (r : FRec) : Word :=
  fields [(0, r.src.toNat), (10, r.kind.toNat), (16, r.cls.code), (18, bit r.conseq), (19, bit r.coalesced), (20, bit r.escalated),
    (21, bit r.live), (22, bit r.acked), (23, bit r.injected), (24, r.tag.toNat)]

/-- The four words of a record. -/
def FRec.words (r : FRec) : List Word := [r.word0, r.addr, r.time, r.seq]

/-- Slots that hold a record not yet persisted, in ascending sequence number. -/
def insertSlot (x : Nat × FRec) : List (Nat × FRec) → List (Nat × FRec)
  | [] => [x]
  | y :: l => if x.2.seq.toNat < y.2.seq.toNat then x :: y :: l else y :: insertSlot x l

def Flt.unpersisted (f : Flt) : List (Nat × FRec) :=
  (f.coffer.filter fun x => !f.persisted.contains x.1 && x.2.seq != 0).foldl (fun l x => insertSlot x l) []

/-- Where a page stands in the order of its ring: by the BOOT and the sequence number of its first record, or by the BOOT, the hour and the time
of its first history entry (R411, R412). A refresh or a move leaves that order alone. -/
def ringKey (p : FPage) : Nat :=
  let w (i : Nat) : Nat := (wordAt p.data i).toNat
  if p.region = .history then (w 0 * 2 ^ 32 + w 1) * 2 ^ 32 + w 3 else w 4 * 2 ^ 32 + w 3

/-- A page takes its place in a list in the order of the ring. -/
def insertRing (p : FPage) : List FPage → List FPage
  | [] => [p]
  | q :: l => if ringKey p < ringKey q then p :: q :: l else q :: insertRing p l

/-- The valid pages of a ring, oldest first. -/
def Flash.ring (f : Flash) (r : Region) : List FPage := (f.validPages.filter fun p => p.region == r).foldl (fun l p => insertRing p l) []

/-- The next logical page of a ring: the oldest one once it is full (R408, R411). -/
def Flash.ringNext (f : Flash) (r : Region) : Nat :=
  match (f.ring r).getLast? with
  | some p => (p.lpage + 1) % (r.size / f.pageSize)
  | none => 0

/-- Records that find no block fail to persist, which raises PERSIST_FAILED once for each sequence number (R389). -/
def State.persistFails (s : State) (l : List (Nat × FRec)) : State :=
  s.each (l.filter fun x => !s.flt.failed.contains x.2.seq) fun x s =>
    (s.upFlt fun f => { f with failed := f.failed ++ [x.2.seq] }).post srcCollector 3 x.2.seq.toNat

/-- One page of coffer records is programmed and committed, where a block can take it. -/
def State.persistPage (s : State) (l : List (Nat × FRec)) : State :=
  if s.flash.target .coffer = none then s.persistFails l
  else
    let d := l.flatMap fun x => (x.2.words ++ [s.cel.boot, s.cel.clock, 0, 0]).flatMap wordBytes
    let s := s.program .coffer (s.flash.ringNext .coffer) s.cel.nextSeq true d
    s.upFlt fun f => { f with persisted := f.persisted ++ l.map (·.1),
                              persistSeq := match l.getLast? with
                                | some x => x.2.seq
                                | none => f.persistSeq }

/-- The records of a persistence, page by page (R411). -/
def State.persistRecords (s : State) : Nat → List (Nat × FRec) → State
  | 0, _ => s
  | _, [] => s
  | fuel + 1, l => (s.persistPage (l.take (s.flash.pageSize / 32))).persistRecords fuel (l.drop (s.flash.pageSize / 32))

/-- The history entries, page by page (R412). -/
def State.persistHistory (s : State) : Nat → List (List Word) → State
  | 0, _ => s
  | _, [] => s
  | fuel + 1, l =>
    (s.program .history (s.flash.ringNext .history) s.cel.nextSeq true ((l.take (s.flash.pageSize / 16)).flatMap fun e => e.flatMap wordBytes)).persistHistory
      fuel (l.drop (s.flash.pageSize / 16))

/-- A persistence writes every record and history entry that waits (R389, R412); entries for which no block is left wait on. -/
def State.persistAll (s : State) : State :=
  let s := s.persistRecords 4096 s.flt.unpersisted
  let h := s.att.history
  if s.flash.target .history = none then s else (s.persistHistory (h.length + 1) h).upAtt fun a => { a with history := [] }

/-- A persistence has ended; the final one of Grave, which had latched before it, stops persistence (R376, R389). -/
def State.persistEnd (s : State) (final : Bool) : State := if final then s.upFlt fun f => { f with persistOff := true } else s

/-! ### Read-back (R426) -/

/-- The records of a ring, newest first, each with whether its page can be read. -/
def Flash.records (f : Flash) (hist : Bool) : List (List Word × Bool) :=
  let n := if hist then 4 else 8
  let page (p : FPage) : List (List Word × Bool) :=
    (List.range (p.data.length / (4 * n))).map fun i => ((List.range n).map fun j => wordAt p.data (n * i + j), p.lost)
  ((f.ring (if hist then .history else .coffer)).flatMap page).reverse.filter fun x => x.1.getD (if hist then 0 else 4) 0 != 0xFFFFFFFF

/-- The fetch of CEL_READ_SEL. -/
def State.readBack (s : State) : State :=
  let c := { s.cel with ready := false, none_ := false, readUe := false }
  if s.celReads then
    match (s.flash.records s.cel.readHistory)[s.cel.readBack.toNat]? with
    | some (w, lost) =>
      if lost then { s with cel := { c with readUe := true } }
      else { s with cel := { c with ready := true, data := tabulate 8 fun i => w.getD i.val 0 } }
    | none => { s with cel := { c with none_ := true } }
  else { s with cel := c }

/-! ### Mount (R413, R418, R420, R422) -/

/-- A new patrol pass begins over the valid pages (R417). -/
def Cel.newPass (c : Cel) (f : Flash) : Cel := { c with pass := f.validPages.map (·.seq), corrMax := 0 }

/-- The cellar mounts the managed area: pages of bad blocks are gone, blocks with a blank page take no more, and the clock, BOOT and the
next sequence number follow from the pages. -/
def State.mount (s : State) : State :=
  match s.flash.desc with
  | none => { s with cel := { s.cel with st := .unformatted } }
  | some d =>
    let f := { s.flash with pages := s.flash.pages.filter fun p => !s.flash.bad.contains p.block }
    let f := { f with closed := f.good.filter fun b => f.used b && (f.closed.contains b || decide (f.fill b < f.perBlock)) }
    let boots := (f.validPages.filter fun p => p.region == .coffer && !p.lost).flatMap fun p =>
      (List.range (p.data.length / 32)).map fun i => (wordAt p.data (8 * i + 4)).toNat
    let hour := f.pages.foldl (fun a p => max a p.hour) 0
    let c := { s.cel with st := .ready, quad := d.1.getLsbD 2, plane := d.1.getLsbD 3, bigPage := d.1.getLsbD 0, ppb128 := d.1.getLsbD 1,
                          blocks := BitVec.ofNat 16 d.2.1, clock := BitVec.ofNat 32 hour, boot := BitVec.ofNat 32 (1 + boots.foldl max 0),
                          nextSeq := f.pages.foldl (fun a (p : FPage) => max a (p.seq + 1)) s.cel.nextSeq }
    ({ s with flash := f, cel := c.newPass f }).sealCheck

/-- Start-up of the part (R402, R403, R413): it answers, which ends NOT_RESPONDING, and is mounted, or it does not respond and the cellar
reports it. -/
def State.celStart (s : State) (id : Word) : State :=
  let s := { s with cel := { s.cel with id := id } }
  if id = 0 ∨ id = 0xFFFFFFFF then (s.send [.reset, .getFeature 0xC0, .readId]).post srcCellar 4 0x9F
  else
    let s := (s.send startOps).mount
    (s.send [.setFeature 0xB0 s.cel.featureB0]).endLive srcCellar 4

end Sys2Proof.Machine
end

