-- ==== Sys2Proof/Machine/Cellar.lean ====
section
/-! DEFINITION. The cellar family: host commands, read-back, the clock, the work queue, garbage collection and the patrol
(R399 … R431). -/

namespace Sys2Proof.Machine

/-! ### Commands (R424, R425, R430) -/

/-- A command ends with a result. -/
def Cel.finish (c : Cel) (cmd : BitVec 8) (r : CelResult) : Cel := { c with done := true, result := r, lastCmd := cmd }

/-- What refuses every command (R420, R424): the fence, another command, start-up, a missing descriptor, the seal. -/
def Cel.refusal (c : Cel) (cmd : BitVec 8) : Option CelResult :=
  match c.st with
  | .fenced => some .fenced
  | _ =>
    if c.busy then some .busy
    else match c.st with
      | .start | .mounting => some .busy
      | .unformatted => if cmd = 1 then none else some .unformatted
      | .sealed => if cmd = 7 then none else some .sealed
      | _ => none

/-- A host command at its boundary: refused at once, or BUSY until its work is done. -/
def State.celCommand (s : State) (cmd : BitVec 8) (own : Option CelResult) : State :=
  match (s.cel.refusal cmd).or own with
  | some r => { s with cel := s.cel.finish cmd r }
  | none => { s with cel := { s.cel with busy := true } }.celAsk (.command cmd)

/-- Bytes 0 … `n − 1` of the staging buffer. -/
def State.staged (s : State) (n : Nat) : List Byte := (List.range n).map fun a => readByte stageBackground s.img.stage a

/-- LENGTH of the staged image (R425). -/
def State.stagedLength (s : State) : Nat := (readMemWord stageBackground s.img.stage 0x0C).toNat

/-- Why a slot write is refused. -/
def State.slotRefusal (s : State) : Option CelResult :=
  let l := s.stagedLength
  if s.img.st = .boot ∨ s.img.st = .loading then some .busy
  else if 64 ≤ l ∧ l ≤ 262144 ∧ l % 4 = 0 then none else some .badLength

/-- FORMAT: the key, and every channel quiesced. -/
def execFormat (key : BitVec 8) (s : State) : Host.Outcome State Fault Refusal :=
  .next (s.hostAct fun s =>
    s.celCommand 1 (if key ≠ 0xA5 then some .badKey else if allChs.all fun n => (s.ch n).quiesced then none else some .notQuiescent))

/-- WRITE_SLOT_A. -/
def execWriteSlotA (s : State) : Host.Outcome State Fault Refusal := .next (s.hostAct fun s => s.celCommand 2 s.slotRefusal)

/-- WRITE_SLOT_B. -/
def execWriteSlotB (s : State) : Host.Outcome State Fault Refusal := .next (s.hostAct fun s => s.celCommand 3 s.slotRefusal)

/-- CLEAR_SLOT_A. -/
def execClearSlotA (s : State) : Host.Outcome State Fault Refusal := .next (s.hostAct fun s => s.celCommand 4 none)

/-- CLEAR_SLOT_B. -/
def execClearSlotB (s : State) : Host.Outcome State Fault Refusal := .next (s.hostAct fun s => s.celCommand 5 none)

/-- SAVE_LIBRARY. -/
def execSaveLibrary (s : State) : Host.Outcome State Fault Refusal := .next (s.hostAct fun s => s.celCommand 6 none)

/-- PATROL. -/
def execPatrol (s : State) : Host.Outcome State Fault Refusal := .next (s.hostAct fun s => s.celCommand 7 none)

/-- FLUSH. -/
def execFlush (s : State) : Host.Outcome State Fault Refusal := .next (s.hostAct fun s => s.celCommand 8 none)

/-! ### The work of a command (R410, R425, R427) -/

/-- Both copies of every locket as FORMAT writes them. -/
def State.formatLockets (s : State) : List Byte :=
  (List.range 2).flatMap fun _ => allCellIxs.flatMap fun k =>
    (match (s.cell k).locketSt with
      | .valid | .repaired | .single => (s.cell k).locket
      | _ => factoryLocket k).record

/-- FORMAT (R427): the managed area of the geometry in CEL_GEOM is erased, the descriptor and the lockets are written, and every cell
applies its locket again. -/
def State.format (s : State) : State :=
  let c := s.cel
  let geom : BitVec 4 := BitVec.ofNat 4 (bit c.bigPage + 2 * bit c.ppb128 + 4 * bit c.quad + 8 * bit c.plane)
  let n : Word := match s.flash.desc with
    | some d => d.2.2.1 + 1
    | none => 1
  let f : Flash := { s.flash with desc := some (geom, c.blocks.toNat, n, c.id), pages := [], closed := [] }
  let s := { s with flash := f, cel := { c with st := .ready } }
  let s := s.each f.good fun b s => s.eraseBlock b
  let s := s.send (Cel.eraseOps s.flash 0 ++ s.cel.programOps s.flash 0 0 0 ++ s.cel.programOps s.flash 0 1 0)
  let s := (s.writeSet .lockets s.formatLockets).sealCheck
  let s := s.each allCellIxs fun k s => s.applyLocket k
  { s with cel := s.cel.newPass s.flash }

/-- The work of a host command, with its result. -/
def State.runCommand (s : State) (cmd : BitVec 8) (o : FlashOutcome) : State × CelResult :=
  match cmd.toNat with
  | 1 => (s.format, .ok)
  | 2 => if o = .uncorrectable then (s, .verifyFailed) else (s.writeSet .slotA (s.staged s.stagedLength), .ok)
  | 3 => if o = .uncorrectable then (s, .verifyFailed) else (s.writeSet .slotB (s.staged s.stagedLength), .ok)
  | 4 => (s.writeSet .slotA [], .ok)
  | 5 => (s.writeSet .slotB [], .ok)
  | 6 => (s.writeSet .library s.libraryImage, .ok)
  | 7 => ({ s with cel := s.cel.newPass s.flash }, .ok)
  | _ => (s.persistAll, .ok)

/-- A host command ends; the seal may have come in between (R420). -/
def State.endCommand (s : State) (cmd : BitVec 8) (o : FlashOutcome) : State :=
  let r := if s.cel.st = .sealed ∧ cmd ≠ 7 then (s, CelResult.sealed) else s.runCommand cmd o
  { r.1 with cel := ({ r.1.cel with busy := false }).finish cmd r.2 }

/-! ### CELLAR_OPERATION_DONE (R415, R416) -/

/-- The region that a work programs. -/
def CelWork.region : CelWork → Option Region
  | .storeLocket _ _ _ => some .lockets
  | .persist => some .coffer
  | .writeRest => some .rest
  | .writeLibrary => some .library
  | .command c => match c.toNat with
    | 2 | 4 => some .slotA
    | 3 | 5 => some .slotB
    | 6 => some .library
    | 8 => some .coffer
    | _ => none
  | _ => none

/-- The order of waiting work (R416). -/
def CelWork.rank : CelWork → Nat
  | .confirm _ _ | .readLocket _ _ => 1
  | .storeLocket _ _ _ => 3
  | .persist => 4
  | _ => 5

/-- The first work of the highest order. -/
def firstWork : List CelWork → Option CelWork
  | [] => none
  | w :: l => match firstWork l with
    | some v => if v.rank < w.rank then some v else some w
    | none => some w

/-- The second half of work begun runs before other work of its order. -/
def State.celNext (s : State) (w : CelWork) : State := { s with cel := { s.cel with work := w :: s.cel.work } }

/-- The read of the page that holds copy `c` of cell `k`; one found uncorrectable is lost (R419). -/
def State.readLocketPage (s : State) (k : CellIx) (c : Nat) (o : FlashOutcome) : State :=
  match s.celReads, s.flash.locketPage k c with
  | true, some p => if p.lost then s else s.readPage p o
  | _, _ => s

/-- The session that asked for a store ends (R195). -/
def State.storeEnd (s : State) (n : Option Ch) (r : CalResult) : State :=
  match n with
  | some n => s.upCh n fun c => if c.meas.cal.st = .storing then c.calEnd r else c
  | none => s

/-- A stored update of cell `k` (R188, R195): the first copy is written and read back, and only then the other. -/
def State.storeDone (s : State) (k : CellIx) (n : Option Ch) (second : Option Nat) (o : FlashOutcome) : State :=
  if !s.celWrites then s.storeEnd n .notStored
  else match second with
    | some c => (s.writeLocket k c (s.cell k).locket).storeEnd n .ok
    | none =>
      if o = .uncorrectable then (s.storeBad k).celNext (.storeLocket k n none)
      else (s.storeFirst k).celNext (.storeLocket k n (some (1 - s.olderCopy k)))

/-- A piece of work is done. -/
def State.workDone (s : State) (w : CelWork) (o : FlashOutcome) : State :=
  match w with
  | .confirm b second =>
    match (s.mig b).runs, (s.mig b).newCell with
    | true, some k =>
      if second then ((s.readLocketPage k 1 o).applyLocket k).upMig b fun m => { m with confirmed := true }
      else (s.readLocketPage k 0 o).celNext (.confirm b true)
    | _, _ => s
  | .readLocket k second => if second then (s.readLocketPage k 1 o).applyLocket k else (s.readLocketPage k 0 o).celNext (.readLocket k true)
  | .storeLocket k n second => s.storeDone k n second o
  | .persist => (if s.celWrites then s.persistAll else s).persistEnd s.flt.grave
  | .writeRest => if s.celWrites then s.writeSet .rest s.restTable else s
  | .writeLibrary => if s.celWrites then s.writeSet .library s.libraryImage else s
  | .command c => s.endCommand c o

/-- The block that failed is retired and the work repeated in another (R415). -/
def State.programFailed (s : State) (w : CelWork) (o : FlashOutcome) : State :=
  match o, w.region.bind s.flash.target with
  | .failed, some b => s.retireBlock b
  | _, _ => s

/-- The next waiting work starts. -/
def State.nextWork (s : State) : State :=
  match firstWork s.cel.work with
  | some w => { s with cel := { s.cel with running := some w, work := s.cel.work.erase w } }
  | none => { s with cel := { s.cel with running := none } }

/-- CELLAR_OPERATION_DONE (R416): the work in progress ends as the flash reports it, and the next one starts. -/
def execCellarOperationDone (o : FlashOutcome) (s : State) : Host.Outcome State Fault Refusal :=
  .next (s.live fun s =>
    match s.cel.running with
    | some w => ((s.programFailed w o).workDone w o).nextWork
    | none => s.nextWork)

/-! ### Garbage collection and the patrol (R414, R417, R419) -/

/-- Blocks of a region. -/
def Flash.blocksOf (f : Flash) (r : Region) : List Nat := f.good.filter fun b => f.pages.any fun p => p.block == b && p.region == r

/-- Valid pages of a block. -/
def Flash.validIn (f : Flash) (b : Nat) : Nat := (f.validPages.filter fun p => p.block == b).length

/-- The block that garbage collection frees: of a region beyond its block count plus 1, the one with the fewest valid pages (R414). -/
def Flash.garbage (f : Flash) : Option Nat :=
  match allRegions.find? fun r => decide (f.regionBlocks r + 1 < (f.blocksOf r).length) with
  | some r => leastBy f.validIn (f.blocksOf r)
  | none => none

/-- The move of static levelling (R414): from the lowest-count block with data into the highest-count free one, once the counts lie more
than 256 apart. -/
def Flash.levelling (f : Flash) : Option (Nat × Nat) :=
  match leastBy f.eraseCount (f.good.filter f.used), leastBy (fun b => 2 ^ 32 - f.eraseCount b) f.free,
    leastBy f.eraseCount f.good, leastBy (fun b => 2 ^ 32 - f.eraseCount b) f.good with
  | some src, some dst, some lo, some hi => if f.eraseCount lo + 256 < f.eraseCount hi then some (src, dst) else none
  | _, _, _, _ => none

/-- The valid pages of a block move into another. -/
def State.moveBlock (s : State) (src dst : Nat) : State :=
  let ps := s.flash.validPages.filter fun p => p.block == src && !p.lost
  let s := s.each ps fun p s => s.programAt dst p.region p.lpage s.cel.nextSeq true p.data
  s.eraseBlock src

/-- GARBAGE_COLLECTION (R414). While a shadow runs the cellar starts no erase (R416). -/
def execGarbageCollection (s : State) : Host.Outcome State Fault Refusal :=
  .next (s.live fun s =>
    if !s.celWrites || s.flt.grave || allCellIxs.any (fun k => (s.cell k).role == .shadow) then s
    else match s.flash.garbage, s.flash.levelling with
      | some b, _ => (s.copyOut b).eraseBlock b
      | none, some m => s.moveBlock m.1 m.2
      | none, none => s)

/-- Corrected bits that a read reports. -/
def correctedBits : Sys2Proof.FlashOutcome → Nat
  | .corrected b => b
  | _ => 0

/-- PATROL_PAGE_READ (R417): the next page of the pass; a pass that has ended starts again. -/
def execPatrolPageRead (o : FlashOutcome) (s : State) : Host.Outcome State Fault Refusal :=
  .next (s.live fun s =>
    if !s.celReads then s
    else
      let c := if s.cel.pass = [] then s.cel.newPass s.flash else s.cel
      match c.pass with
      | [] => { s with cel := c }
      | q :: l =>
        let s := { s with cel := { c with pass := l, corrMax := BitVec.ofNat 8 (max c.corrMax.toNat (min (correctedBits o) 255)) } }
        match s.flash.pages.find? fun (p : FPage) => p.seq == q && s.flash.isValid p && !p.lost with
        | some p => s.readPage p o
        | none => s)

/-- NOT_RESPONDING (R403). -/
def execNotResponding (op : BitVec 8) (s : State) : Host.Outcome State Fault Refusal :=
  .next (s.live fun s => s.post srcCellar 4 op.toNat)

/-! ### Read-back and clock (R418, R426) -/

/-- A write to CEL_READ_SEL starts a fetch. -/
def State.readSel (s : State) (v : Word) : State :=
  { s with cel := { s.cel with readHistory := v.getLsbD 31, readBack := v.extractLsb' 0 16 } }.readBack

/-- CEL_READ_SEL_WRITE: served at Grave too (R377). -/
def execCelReadSelWrite (v : Word) (s : State) : Host.Outcome State Fault Refusal := .next (s.live fun s => s.readSel v)

/-- A write to CEL_CLOCK: a later hour is taken, an earlier one ignored. -/
def State.setClock (s : State) (v : Word) : State :=
  if s.cel.clock.toNat < v.toNat then { s with cel := { s.cel with clock := v } } else s

/-- CEL_CLOCK_WRITE. -/
def execCelClockWrite (v : Word) (s : State) : Host.Outcome State Fault Refusal := .next (s.hostAct fun s => s.setClock v)

/-- CELLAR_HOUR_TICK. -/
def execCellarHourTick (s : State) : Host.Outcome State Fault Refusal :=
  .next (s.live fun s => { s with cel := { s.cel with clock := s.cel.clock + 1 } })

end Sys2Proof.Machine
end

