-- ==== Sys2Proof/Machine/ImgParse.lean ====
section
/-! DEFINITION. The byte layout of a structure image and the whole-copy checks (R33 … R42). -/

namespace Sys2Proof.Machine

/-- A field record as it stands in a section body (R39). -/
structure ImgRec where
  fid : Nat
  inst : Nat
  data : List Byte
  deriving DecidableEq, Repr

/-- A copy that passes the checks of its layout: its sections with their records, in table order. -/
structure ImgCopy where
  part : Bool
  length : Nat
  crc : Word
  sections : List (Nat × List ImgRec)
  deriving DecidableEq, Repr

/-- A little-endian half word and word at an offset (R33). -/
def half (rd : Nat → Byte) (o : Nat) : Nat := (rd o).toNat + (rd (o + 1)).toNat * 256

def word32 (rd : Nat → Byte) (o : Nat) : Nat := half rd o + half rd (o + 2) * 65536

/-- The bytes from `o` on. -/
def bytesAt (rd : Nat → Byte) (o n : Nat) : List Byte := (List.range n).map fun i => rd (o + i)

/-- The records of a section body of `n` bytes at offset `o`; `none` when a record or its padded value extends past the body (R39, R42). -/
def parseRecords (rd : Nat → Byte) : Nat → Nat → Nat → Option (List ImgRec)
  | 0, _, n => if n = 0 then some [] else none
  | fuel + 1, o, n =>
    if n = 0 then some []
    else if n < 8 then none
    else
      let len := word32 rd (o + 4)
      let pad := (len + 3) / 4 * 4
      if n < 8 + pad then none
      else (parseRecords rd fuel (o + 8 + pad) (n - 8 - pad)).map fun l =>
        { fid := half rd (o + 2), inst := half rd o, data := bytesAt rd (o + 8) len } :: l

/-- One entry of the section table (R37): section ID, record count, offset and length of the body. -/
structure SectEntry where
  id : Nat
  count : Nat
  off : Nat
  len : Nat
  deriving DecidableEq, Repr

def sectEntries (rd : Nat → Byte) (count : Nat) : List SectEntry :=
  (List.range count).map fun i =>
    let o := 0x18 + 12 * i
    { id := (rd (o + 3)).toNat, count := half rd o, off := word32 rd (o + 4), len := word32 rd (o + 8) }

/-- Two bodies overlap. -/
def SectEntry.overlaps (a b : SectEntry) : Bool := decide (0 < a.len) && decide (0 < b.len) && decide (a.off < b.off + b.len) && decide (b.off < a.off + a.len)

/-- The section table is sound (R37, R42): known IDs without repetition, bodies aligned, behind the table, before the trailer and apart. -/
def tableOk (l : List SectEntry) (tableEnd dataEnd : Nat) : Bool :=
  (l.all fun e => decide (1 ≤ e.id) && decide (e.id ≤ 17) && decide (e.off % 4 = 0) && decide (tableEnd ≤ e.off) && decide (e.off + e.len ≤ dataEnd)) &&
    decide (l.Pairwise fun a b => a.id ≠ b.id ∧ a.overlaps b = false)

/-- The records of every section, or `none` when one overruns its body or disagrees with its record count. -/
def parseSections (rd : Nat → Byte) : List SectEntry → Option (List (Nat × List ImgRec))
  | [] => some []
  | e :: l =>
    match parseRecords rd (e.len / 8 + 1) e.off e.len, parseSections rd l with
    | some rs, some t => if rs.length = e.count then some ((e.id, rs) :: t) else none
    | _, _ => none

/-- MAGIC as a number. -/
def imgMagic : Nat := 0x4D494C50

/-- The header is good (R35): major version 1 and every reserved bit 0. -/
def headerOk (rd : Nat → Byte) : Bool :=
  decide (half rd 4 / 256 = 1) && decide (half rd 6 < 2) && decide (half rd 8 < 4096) && decide (half rd 10 < 4096) &&
    (List.range 6).all fun i => rd (0x12 + i) == 0

/-- The whole-copy checks in their order (R42): `avail` bytes are there, `id` is the device ID to match, and `bad` says that the copy holds
words that cannot be corrected (R355). -/
def parseImage (rd : Nat → Byte) (avail : Nat) (id : BitVec 12) (bad : Bool) : Except ImgResult ImgCopy :=
  let mask := half rd 10
  let len := word32 rd 0xC
  let count := half rd 0x10
  let tableEnd := 0x18 + 12 * count
  if word32 rd 0 ≠ imgMagic then .error .badMagic
  else if headerOk rd = false then .error .badHeader
  else if id.toNat &&& mask ≠ half rd 8 &&& mask then .error .deviceMismatch
  else if len < 64 ∨ 262144 < len ∨ len % 4 ≠ 0 ∨ avail < len then .error .badLength
  else if bad ∨ crc32 (bytesAt rd 0 (len - 4)) ≠ BitVec.ofNat 32 (word32 rd (len - 4)) then .error .badCrc
  else if count = 0 ∨ 17 < count ∨ len - 4 < tableEnd ∨ tableOk (sectEntries rd count) tableEnd (len - 4) = false then .error .badSectionTable
  else match parseSections rd (sectEntries rd count) with
    | none => .error .fieldOverrun
    | some ss =>
      let part := half rd 6 == 1
      if !part && !((ss.any fun x => x.1 == 1) && ss.any fun x => x.1 == 3) then .error .missingSection
      else .ok { part := part, length := len, crc := BitVec.ofNat 32 (word32 rd (len - 4)), sections := ss }

end Sys2Proof.Machine
end

