-- ==== Sys2Proof/Machine/ImgFields.lean ====
section
/-! DEFINITION. The fields of the structure image: their spans and defaults, the check of one value, the back-written fields and the closing
checks (R40, R44 … R48, R50 … R69). -/

namespace Sys2Proof.Machine

/-! ### The field tables (R40, R50 … R69) -/

/-- Instance kinds (R40). -/
inductive InstKind | g | b | c | e | m | w | s | t | p | o | f | q | x
  deriving DecidableEq, Repr

/-- The shape of a value: an unsigned or a signed word, a bit mask, a coefficient with its shift, text of at most `n` bytes, bead data. -/
inductive ValKind | word | signed | mask | coef | text (n : Nat) | beads
  deriving DecidableEq, Repr

/-- A row of a field table. -/
structure FSpec where
  fid : Nat
  kind : InstKind
  lo : Int := 0
  hi : Int := 0
  dflt : Nat := 0
  val : ValKind := .word
  deriving DecidableEq, Repr

/-- A field ID (R40). -/
def fieldId (sec no : Nat) : Nat := sec * 1024 + no

/-- Rows of word fields of section `sec`: field number, instance kind, span and default. -/
def wordRows (sec : Nat) (l : List (Nat × InstKind × Int × Int × Nat)) : List FSpec :=
  l.map fun r => { fid := fieldId sec r.1, kind := r.2.1, lo := r.2.2.1, hi := r.2.2.2.1, dflt := r.2.2.2.2 }

def fieldTable1 : List FSpec :=
  wordRows 0x01 [(1, .g, 0, 4294967295, 0), (2, .g, 0, 4294967295, 0)] ++
  [{ fid := fieldId 0x01 3, kind := .g, val := .text 64 }] ++
  wordRows 0x02 [(1, .b, 0, 1, 0), (2, .b, 2900000, 3100000, 3000000), (3, .b, 0, 1, 1), (4, .b, 0, 1, 1)] ++
  wordRows 0x03 [(1, .c, 0, 1, 0), (2, .c, 0, 8, 0), (3, .c, 0, 8, 0), (4, .c, 0, 1, 0)] ++
  [{ fid := fieldId 0x03 5, kind := .c, val := .text 16 }] ++
  wordRows 0x04 [(1, .c, 0, 2, 1), (2, .c, 0, 10, 7), (3, .c, 0, 3, 0), (4, .c, 0, 10, 7), (5, .c, 0, 10, 0), (6, .c, 1, 1024, 32),
    (7, .c, 1, 3000000000, 0), (8, .c, 1, 40000000, 0)] ++
  wordRows 0x05 [(1, .m, 0, 1, 0), (2, .m, 1000, 1000000000, 1000000), (3, .m, 20001, 3000000, 100000), (4, .c, 1500, 40000, 12000)]

def fieldTable2 : List FSpec :=
  ([1, 2, 3, 4, 5, 0x11, 0x12, 0x13, 0x14, 0x15].map fun k => { fid := fieldId 0x06 k, kind := .c, val := .coef }) ++
  wordRows 0x06 [(0x20, .c, 1, 1048575, 256), (0x21, .c, 10, 300, 300), (0x22, .c, 1, 1048575, 4096), (0x23, .c, 1, 256, 1)] ++
  wordRows 0x07 [(1, .c, 1, 5, 3), (2, .c, 1, 16, 2), (3, .e, 8, 1048576, 7680), (4, .e, 0, 5, 0), (5, .e, 1, 16, 1), (6, .c, 0, 1, 0)] ++
  wordRows 0x08 [(1, .w, 0, 4095, 4095), (2, .w, 0, 4095, 0), (3, .w, 0, 63, 8), (4, .w, 0, 2, 0), (5, .w, 0, 24, 0)] ++
  [{ fid := fieldId 0x08 6, kind := .w, hi := 3, val := .mask }] ++
  wordRows 0x09 [(1, .c, 492, 245760000, 24576), (2, .c, 0, 1, 1)] ++
  wordRows 0x0A [(1, .s, 0, 255, 255), (2, .s, 0, 65535, 0), (3, .s, 0, 5, 2)] ++
  [{ fid := fieldId 0x0A 4, kind := .x, val := .beads }]

def fieldTable3 : List FSpec :=
  wordRows 0x0B [(1, .c, 0, 65535, 0), (2, .c, 0, 65536, 1024), (3, .c, 0, 1, 0)] ++
  wordRows 0x0C [(1, .c, 0, 255, 0), (2, .t, 0, 1, 0), (3, .t, 0, 4, 0)] ++
  wordRows 0x0D [(1, .f, 1, 255, 4), (2, .f, 1, 65535, 32768), (3, .g, 1, 65535, 256), (4, .q, 0, 3, 0)] ++
  wordRows 0x0E [(1, .g, 0, 1, 0), (2, .p, 1, 1024, 0), (3, .p, 8, 65535, 0), (4, .p, 2, 64, 4), (5, .o, 0, 4, 0), (6, .o, 1, 1024, 1)] ++
  wordRows 0x0F [(1, .g, 0, 1, 0)] ++ [{ fid := fieldId 0x0F 2, kind := .g, hi := 15, dflt := 15, val := .mask }] ++
  wordRows 0x0F [(3, .g, 1, 65535, 32768)] ++
  wordRows 0x10 [(1, .g, 4, 11, 8), (2, .g, 30, 365, 365), (3, .g, 24, 720, 168)] ++
  wordRows 0x11 [(1, .c, 0, 1, 0), (2, .c, 0, 2, 0)] ++
  [{ fid := fieldId 0x11 3, kind := .c, lo := -524288, hi := 524287, val := .signed }] ++
  wordRows 0x11 [(4, .c, 1, 20000000, 1000)]

/-- Every field that this silicon knows. -/
def fieldTable : List FSpec := fieldTable1 ++ fieldTable2 ++ fieldTable3

def fieldSpec (fid : Nat) : Option FSpec := fieldTable.find? fun r => r.fid == fid

/-- An instance names an object of its kind (R40); a fault code must be a listed one (R368). -/
def InstKind.ok (k : InstKind) (i : Nat) : Bool := match k with
  | .g => i == 0
  | .b => decide (i < 8)
  | .c => decide (i < 64)
  | .e => decide (i < 1024)
  | .m => decide (i < 256) && i % 4 != 3
  | .w => decide (i < 128)
  | .s => decide (i < 1024)
  | .t => decide (1 ≤ i) && decide (i ≤ 255)
  | .p => decide (i < 2)
  | .o => decide (i < 4)
  | .f => decide (i < 1024)
  | .q => (codeInfo (BitVec.ofNat 10 (i / 64)) (i % 64)).isSome
  | .x => true

/-- The channel that an instance belongs to (R38). -/
def InstKind.channel (k : InstKind) (i : Nat) : Option Nat := match k with
  | .c => some i
  | .e => some (i / 16)
  | .m => some (i / 4)
  | .w => some (i / 2)
  | _ => none

/-! ### Working values (R45, R46) -/

/-- The values of a load: the first word of each field that the image or a check has set. -/
abbrev Vals := Table (List Word)

/-- M, N and P of a PLL by the declared reference (R65). -/
def ckDefault (refin p : Nat) : Nat × Nat × Nat :=
  match refin, p with
  | 0, 0 => (1, 80, 8)
  | 0, _ => (192, 15625, 4)
  | _, 0 => (125, 24576, 8)
  | _, _ => (1, 200, 4)

/-- A default that depends on nothing but the instance. -/
def plainDefault (fid inst : Nat) : Nat :=
  if fid = fieldId 0x03 2 then inst % 8
  else if fid = fieldId 0x0B 1 then inst * 1024
  else if fid = fieldId 0x07 4 then (if inst % 16 = 1 then 1 else 0)
  else if fid = fieldId 0x0E 4 ∧ inst = 0 then 8
  else if fid = fieldId 0x0D 4 then
    (match codeInfo (BitVec.ofNat 10 (inst / 64)) (inst % 64) with
      | some (c, _) => c.rank
      | none => 0)
  else match fieldSpec fid with
    | some r => r.dflt
    | none => 0

/-- A value, or its plain default. -/
def Vals.nat (v : Vals) (sec no inst : Nat) : Nat :=
  match findAt v (fieldKey (fieldId sec no) inst) with
  | some (w :: _) => w.toNat
  | _ => plainDefault (fieldId sec no) inst

def Vals.set (v : Vals) (fid inst : Nat) (ws : List Word) : Vals := insertAt v (fieldKey fid inst) ws

/-- CH_n is enabled; its CH_CLASP while it is (R53). -/
def Vals.en (v : Vals) (n : Nat) : Bool := v.nat 0x03 1 n == 1

def Vals.clasp (v : Vals) (n : Nat) : Nat := if v.en n then v.nat 0x03 3 n else 0

/-- The lead that CH_n's CH_CLASP names. -/
def Vals.leadOf (v : Vals) (n : Nat) : Nat := n / 8 * 8 + (v.clasp n - 1)

/-- CH_n is a member of a clasp that its lead heads (R21). -/
def Vals.member (v : Vals) (n : Nat) : Bool := v.clasp n != 0 && v.leadOf n != n && v.clasp (v.leadOf n) == v.clasp n

/-- The channels of the bay of CH_n. -/
def bayOf (n : Nat) : List Nat := (List.range 8).map fun j => n / 8 * 8 + j

/-- The size of the clasp that CH_n leads; 1 for every other channel (R22). -/
def Vals.claspM (v : Vals) (n : Nat) : Nat :=
  if v.clasp n = 0 ∨ v.leadOf n ≠ n then 1 else ((bayOf n).filter fun k => v.clasp k == v.clasp n).length

/-- Booster range 0x8 + m is declared (R54), and the highest declared range (R217). -/
def Vals.declared (v : Vals) (n m : Nat) : Bool := v.nat 0x05 1 (n * 4 + m) == 1

def Vals.highest (v : Vals) (n : Nat) : Nat :=
  if v.declared n 2 then 10 else if v.declared n 1 then 9 else if v.declared n 0 then 8 else 7

/-- The full scale of a current range in nA. -/
def Vals.fsI (v : Vals) (n i : Nat) : Nat :=
  if 8 ≤ i then v.nat 0x05 3 (n * 4 + (i - 8)) * 1000 else if i = 7 then v.claspM n * 20000000 else fsAmp i

/-- The largest full scale of a voltage range in µV (R56). -/
def Vals.fsV (v : Vals) (n r : Nat) : Nat :=
  if r = 2 ∧ v.declared n 0 then max 12000000 (v.nat 0x05 4 n * 1000) else fsVolt (BitVec.ofNat 4 r)

/-- The default of a field, from the values that it depends on. -/
def Vals.dflt (v : Vals) (fid inst : Nat) : Nat :=
  if fid = fieldId 0x04 7 then v.fsI inst (v.nat 0x04 2 inst)
  else if fid = fieldId 0x04 8 then v.fsV inst (v.nat 0x04 1 inst)
  else if fid = fieldId 0x0E 2 then (ckDefault (v.nat 0x0E 1 0) inst).1
  else if fid = fieldId 0x0E 3 then (ckDefault (v.nat 0x0E 1 0) inst).2.1
  else plainDefault fid inst

/-- The words of a field, its default included. -/
def Vals.get (v : Vals) (fid inst : Nat) : List Word :=
  match findAt v (fieldKey fid inst) with
  | some ws => ws
  | none => match (fieldSpec fid).map fun (f : FSpec) => f.val with
    | some .coef => [0, 0]
    | some (.text _) | some .beads => []
    | _ => [BitVec.ofNat 32 (v.dflt fid inst)]

def Vals.num (v : Vals) (sec no inst : Nat) : Nat := ((v.get (fieldId sec no) inst).headD 0).toNat

/-! ### The check of one value (R47, R50 … R69) -/

/-- An offered word held to its span, with the reason when that changes it. A span of codes counts as the span of its numbers; a code in a
gap and a reserved bit of a mask are a bad encoding (DEDUCED, see notes/assumptions). -/
def FSpec.span (r : FSpec) (inst : Nat) (x : Int) : Int × Option ClampReason :=
  let pllA := r.fid == fieldId 0x0E 4 && inst == 0
  let lo := if pllA then 8 else r.lo
  let hi := if pllA then 8 else r.hi
  if r.val = .mask then (if x ≤ hi then (x, none) else (r.dflt, some .badEncoding))
  else if x < lo then (lo, some .belowMin)
  else if r.fid = fieldId 0x0A 1 ∧ 63 < x ∧ x ≠ 255 then (255, some .badEncoding)
  else if hi < x then (hi, some .aboveMax)
  else if r.fid = fieldId 0x08 5 ∧ 1 ≤ x ∧ x ≤ 4 then (5, some .belowMin)
  else if r.fid = fieldId 0x07 3 ∧ x % 8 ≠ 0 then (x - x % 8, some .rounded)
  else if r.fid = fieldId 0x07 5 ∧ (x = 3 ∨ (4 < x ∧ x < 8) ∨ (8 < x ∧ x < 16)) then
    (if x = 3 then 2 else if x < 8 then 4 else 8, some .rounded)
  else (x, none)

/-- A value held to at most `m`. -/
def capAt (m x : Int) : Int × Option ClampReason := if x ≤ m then (x, none) else (m, some .dependency)

/-- The dependency check of a word field: the value, the reason when it changes, and whether BS_PRESENT of the same instance is
back-written to 0 (R54). A BS_IFS_UA that breaks its dependency at 3,000,000 already keeps its value (DESIGN CHOICE, see notes/assumptions). -/
def Vals.depend (v : Vals) (fid inst : Nat) (x : Int) : Int × Option ClampReason × Bool :=
  let plain (p : Int × Option ClampReason) : Int × Option ClampReason × Bool := (p.1, p.2, false)
  let zero : Int × Option ClampReason × Bool := (0, some .dependency, false)
  let same : Int × Option ClampReason × Bool := (x, none, false)
  match fid / 1024, fid % 1024 with
  | 0x03, 3 =>
    let lead := inst / 8 * 8 + (x.toNat - 1)
    if x = 0 ∨ v.en inst = false then same
    else if lead ≤ inst ∧ v.en lead = true ∧ (lead = inst ∨ v.clasp lead = x.toNat) then same else zero
  | 0x03, 4 =>
    if v.member inst then
      let l : Int := v.nat 0x03 4 (v.leadOf inst)
      if x = l then same else (l, some .dependency, false)
    else same
  | 0x05, 1 =>
    let n := inst / 4
    let m := inst % 4
    if x = 0 ∨ ((m = 0 ∨ v.declared n (m - 1) = true) ∧ v.en n = true ∧ v.member n = false) then same else zero
  | 0x05, 3 =>
    if v.nat 0x05 1 inst ≠ 1 then same
    else
      let low : Int := v.fsI (inst / 4) (7 + inst % 4) / 1000
      if low < x then same
      else if low + 1 ≤ 3000000 then (low + 1, some .dependency, false)
      else (3000000, some .dependency, true)
  | 0x04, 2 => if 7 < x ∧ v.declared inst (x.toNat - 8) = false then (7, some .dependency, false) else same
  | 0x04, 4 => plain (capAt (v.highest inst) x)
  | 0x04, 5 => plain (capAt (v.nat 0x04 4 inst) x)
  | 0x04, 7 => plain (capAt (v.fsI inst (v.nat 0x04 2 inst)) x)
  | 0x04, 8 => plain (capAt (v.fsV inst (v.nat 0x04 1 inst)) x)
  | 0x07, 5 => if (v.nat 0x07 4 inst = 1 ∨ v.nat 0x07 4 inst = 3) ∧ x ≠ 1 then (1, some .dependency, false) else same
  | 0x08, 2 => plain (capAt (v.nat 0x08 1 inst) x)
  | 0x0A, 1 => if x ≠ 255 ∧ (v.en x.toNat = false ∨ v.member x.toNat = true) then (255, some .dependency, false) else same
  | 0x0B, 2 => let m : Int := 65536 - v.nat 0x0B 1 inst; if x ≤ m then same else (m, some .resource, false)
  | 0x0C, 1 => if x ≠ 0 ∧ v.member inst = true then zero else same
  | 0x0D, 4 => let d : Int := plainDefault fid inst; if x < d then (d, some .dependency, false) else same
  | _, _ => same

/-- The words of a value, the last one padded with zero bytes. -/
def dataWords : Nat → List Byte → List Word
  | 0, _ => []
  | fuel + 1, l => if l = [] then [] else bytesWord (l.take 4) :: dataWords fuel (l.drop 4)

def ImgRec.words (r : ImgRec) : List Word := dataWords (r.data.length + 1) r.data

/-- What a record's check gives: the applied words, and the entry's changed word with its reason: index, offered and applied. -/
structure Checked where
  words : List Word
  entry : Option (Nat × Word × Word × ClampReason) := none
  unpresent : Bool := false
  deriving DecidableEq, Repr

/-- A disabled channel ignores its CH_CELL, CH_CLASP and CH_LOWPOWER without an entry (R53). -/
def Vals.ignores (v : Vals) (r : ImgRec) : Bool := r.fid / 1024 == 0x03 && 2 ≤ r.fid % 1024 && !v.en r.inst

/-- The check of a word field: one entry, with the reason of the last check that changed the value. A value that a check leaves as it was
offered has no entry, but for a value of a bad length: a BS_IFS_UA of exactly 3,000,000 has none although it breaks its dependency, and one
above it has DEPENDENCY (DESIGN CHOICE, see notes/assumptions). -/
def Vals.checkWord (v : Vals) (f : FSpec) (r : ImgRec) : Checked :=
  let w := r.words.headD 0
  let a : Int × Option ClampReason :=
    if r.data.length ≠ 4 then (v.dflt f.fid r.inst, some .length) else f.span r.inst (if f.val = .signed then w.toInt else w.toNat)
  let d := v.depend f.fid r.inst a.1
  let x : Word := BitVec.ofInt 32 d.1
  { words := [x], unpresent := d.2.2,
    entry := match d.2.1.or a.2 with
      | some q => if (x ≠ w || r.data.length != 4) && !v.ignores r then some (0, w, x, q) else none
      | none => none }

/-- The check of a record of a known field with a good instance. A text or bead value that is cut reports its first dropped word, with 0 as
applied; a value of a bad length its word 0 (DESIGN CHOICE, see notes/assumptions). -/
def Vals.check (v : Vals) (f : FSpec) (r : ImgRec) : Checked :=
  let ws := r.words
  match f.val with
  | .coef =>
    if r.data.length ≠ 8 then { words := [0, 0], entry := some (0, ws.headD 0, 0, .length) }
    else
      let s := ws.getD 1 0
      if 31 < s.toNat then { words := [ws.headD 0, 31], entry := some (1, s, 31, .aboveMax) } else { words := [ws.headD 0, s] }
  | .text n =>
    let kept := { r with data := r.data.take n }
    { words := BitVec.ofNat 32 kept.data.length :: kept.words,
      entry := if n < r.data.length then some (n / 4, ws.getD (n / 4) 0, 0, .length) else none }
  | .beads =>
    let k := min (r.data.length / 16) (65536 - r.inst)
    { words := ws.take (4 * k), entry := if 16 * k < r.data.length then some (4 * k, ws.getD (4 * k) 0, 0, .length) else none }
  | _ => v.checkWord f r

/-! ### The working copy (R45 … R49) -/

/-- The working copy of a load. -/
structure LoadWork where
  vals : Vals
  sets : List Nat := []
  beads : List (Nat × Word) := []
  clamps : List Clamp := []
  count : Nat := 0
  deriving DecidableEq, Repr

/-- One clamp report entry; the first 512 are kept (R48). -/
def LoadWork.clamp (k : LoadWork) (fid inst : Nat) (offered applied : Word) (q : ClampReason) (i : Nat) : LoadWork :=
  { k with clamps := if k.clamps.length < 512
                     then k.clamps ++ [{ field := BitVec.ofNat 16 fid, inst := BitVec.ofNat 16 inst, offered := offered, applied := applied, reason := q, index := i }]
                     else k.clamps,
           count := k.count + 1 }

/-- A field takes its words and counts as set by the load. -/
def LoadWork.put (k : LoadWork) (fid inst : Nat) (ws : List Word) : LoadWork :=
  { k with vals := k.vals.set fid inst ws, sets := fieldKey fid inst :: k.sets }

/-- A back-written field, or one that a closing check changes, with its own entry (R45). -/
def LoadWork.back (k : LoadWork) (sec no inst : Nat) (x : Nat) (q : ClampReason) : LoadWork :=
  let old := k.vals.num sec no inst
  if old = x then k
  else (k.put (fieldId sec no) inst [BitVec.ofNat 32 x]).clamp (fieldId sec no) inst (BitVec.ofNat 32 old) (BitVec.ofNat 32 x) q 0

/-- The first word in which two values differ: its index and the words. -/
def diffAt : Nat → List Word → List Word → Option (Nat × Word × Word)
  | i, a :: as, b :: bs => if a = b then diffAt (i + 1) as bs else some (i, a, b)
  | i, a :: _, [] => some (i, a, 0)
  | i, [], b :: _ => some (i, 0, b)
  | _, [], [] => none

/-- The word that a DUPLICATE entry shows; of two equal values, word 0 (DESIGN CHOICE, see notes/assumptions). -/
def firstDiff (as bs : List Word) : Nat × Word × Word := (diffAt 0 as bs).getD (0, as.headD 0, bs.headD 0)

/-- The record that a later one replaces is reported with the words that the later one applies (R47). -/
def LoadWork.duplicate (k : LoadWork) (r : ImgRec) (applied : List Word) : LoadWork :=
  let d := firstDiff r.words applied
  k.clamp r.fid r.inst d.2.1 d.2.2 .duplicate d.1

/-- One record is applied. -/
def LoadWork.apply (k : LoadWork) (f : FSpec) (r : ImgRec) : LoadWork :=
  let c := k.vals.check f r
  let k := if f.val = .beads then { k with beads := k.beads ++ c.words.mapIdx fun i w => (4 * r.inst + i, w) }
           else k.put r.fid r.inst c.words
  let k := match c.entry with
    | some (i, o, a, q) => k.clamp r.fid r.inst o a q i
    | none => k
  if c.unpresent then k.back 0x05 1 r.inst 0 .dependency else k

/-- The records of a section in their order of processing (R45); foreign and unknown fields and bad instances are ignored with their
entries (R40, R47). -/
def LoadWork.records (k : LoadWork) (sec : Nat) : List ImgRec → LoadWork
  | [] => k
  | r :: l =>
    let k := match (if r.fid / 1024 = sec then fieldSpec r.fid else none) with
      | none => k.clamp r.fid r.inst (r.words.headD 0) 0 .unknownField 0
      | some f =>
        if !f.kind.ok r.inst then k.clamp r.fid r.inst (r.words.headD 0) 0 .badInstance 0
        else match (l.filter fun (q : ImgRec) => q.fid == r.fid && q.inst == r.inst).getLast? with
          | some last => k.duplicate r (match f.val with
              | .text _ => (k.vals.check f last).words.tail
              | _ => (k.vals.check f last).words)
          | none => k.apply f r
    k.records sec l

/-- Insertion before the first record with a greater field number or, at the same one, a greater instance. -/
def insertRec (r : ImgRec) : List ImgRec → List ImgRec
  | [] => [r]
  | q :: l => if r.fid % 1024 < q.fid % 1024 ∨ (r.fid % 1024 = q.fid % 1024 ∧ r.inst < q.inst) then r :: q :: l else q :: insertRec r l

/-- Ascending field number, then ascending instance, records of one field and instance in body order (R45). -/
def sortRecs (l : List ImgRec) : List ImgRec := l.foldl (fun a r => insertRec r a) []

/-! ### Closing checks (R53, R55, R62, R66) -/

/-- Step 1 of R53 for one channel: its cell, or its enabling. -/
def LoadWork.closeCell (k : LoadWork) (n : Nat) : LoadWork :=
  let v := k.vals
  let same := (bayOf n).any fun m => decide (m < n) && v.en m && v.nat 0x03 2 m == v.nat 0x03 2 n
  if v.en n && same then
    match (List.range 9).find? fun c => !(bayOf n).any fun m => v.en m && v.nat 0x03 2 m == c with
    | some c => k.back 0x03 2 n c .dependency
    | none => k.back 0x03 1 n 0 .resource
  else k

/-- The closing check of CHANNELS on the bay of channels `ns` (R53). -/
def LoadWork.closeBay (k : LoadWork) (ns : List Nat) : LoadWork :=
  let k1 := ns.foldl LoadWork.closeCell k
  let gone (n : Nat) : Bool := k.vals.en n && !k1.vals.en n
  let k2 := ns.foldl (fun k n => if k.vals.clasp n ≠ 0 ∧ gone (k.vals.leadOf n) = true then k.back 0x03 3 n 0 .dependency else k) k1
  ns.foldl (fun k n => if k.vals.clasp n ≠ 0 ∧ k.vals.leadOf n = n ∧ k.vals.claspM n = 1 then k.back 0x03 3 n 0 .dependency else k) k2

/-- The closing check of BOOST on one channel (R55). -/
def LoadWork.closeBoost (k : LoadWork) (n : Nat) : LoadWork :=
  [1, 2].foldl (fun (k : LoadWork) m => if k.vals.declared n m && !k.vals.declared n (m - 1) then k.back 0x05 1 (n * 4 + m) 0 .dependency else k) k

/-- The size that partition `n` keeps beside the lower channels' partitions and the end of the larder (R62). -/
def Vals.larderFit (v : Vals) (n : Nat) : Nat :=
  let b := v.nat 0x0B 1 n
  (List.range n).foldl (fun w m =>
    let bm := v.nat 0x0B 1 m
    let sm := v.nat 0x0B 2 m
    if sm = 0 ∨ w = 0 then w else if bm ≤ b ∧ b < bm + sm then 0 else if b < bm ∧ bm < b + w then bm - b else w)
    (min (v.nat 0x0B 2 n) (65536 - b))

/-- The closing check of CLOCKS on one PLL (R66). -/
def LoadWork.closePll (k : LoadWork) (p : Nat) : LoadWork :=
  let v := k.vals
  let ref := v.nat 0x0E 1 0
  let khz := if ref = 0 then 24576 else 10000
  let m := v.num 0x0E 2 p
  let f := khz * v.num 0x0E 3 p
  if f < 1800000 * m ∨ (if p = 0 then 2160000 else 2200000) * m < f then
    let d := ckDefault ref p
    ((k.back 0x0E 2 p d.1 .dependency).back 0x0E 3 p d.2.1 .dependency).back 0x0E 4 p d.2.2 .dependency
  else k

/-- The closing check of a section. -/
def LoadWork.close (k : LoadWork) (sec : Nat) : LoadWork :=
  match sec with
  | 0x03 => (List.range 8).foldl (fun k b => k.closeBay ((List.range 8).map fun j => 8 * b + j)) k
  | 0x05 => (List.range 64).foldl LoadWork.closeBoost k
  | 0x0B => (List.range 64).foldl (fun k n => k.back 0x0B 2 n (k.vals.larderFit n) .resource) k
  | 0x0E => [0, 1].foldl LoadWork.closePll k
  | _ => k

/-- The order in which sections are processed (R38). -/
def sectionOrder : List Nat := [0x01, 0x0E, 0x0F, 0x02, 0x03, 0x05, 0x04, 0x06, 0x07, 0x08, 0x09, 0x0B, 0x0A, 0x0C, 0x0D, 0x10, 0x11]

/-- The fields whose default depends on other fields keep the value that a full load gives them (R46). -/
def LoadWork.freeze (k : LoadWork) : LoadWork :=
  let one (sec no : Nat) (k : LoadWork) (i : Nat) : LoadWork :=
    match findAt k.vals (fieldKey (fieldId sec no) i) with
    | some _ => k
    | none => { k with vals := k.vals.set (fieldId sec no) i (k.vals.get (fieldId sec no) i) }
  let k := (List.range 64).foldl (one 0x04 7) k
  let k := (List.range 64).foldl (one 0x04 8) k
  [0, 1].foldl (fun k p => one 0x0E 3 (one 0x0E 2 k p) p) k

/-- The values that a load starts from (R46): the present ones for a section load; for a full load the defaults, but for STRANDS and, when
the load does not carry REST, the REST fields. -/
def baseVals (old : Vals) (part rest : Bool) : Vals :=
  if part then old
  else old.filter fun x => x.1 / 65536 / 1024 == 0x0A || (x.1 / 65536 / 1024 == 0x11 && !rest)

/-- A load's sections are processed against a working copy of the values (R45, R49). -/
def loadWork (old : Vals) (c : ImgCopy) : LoadWork :=
  let k : LoadWork := { vals := baseVals old c.part (c.sections.any fun x => x.1 == 0x11) }
  let k := sectionOrder.foldl (fun (k : LoadWork) sec =>
    match c.sections.find? fun x => x.1 == sec with
    | some x => (k.records sec (sortRecs x.2)).close sec
    | none => k) k
  if c.part then k else k.freeze

end Sys2Proof.Machine
end

