-- ==== Sys2Proof/Machine/ImgSwap.lean ====
section
/-! DEFINITION. The swap of a structure image: quiescence, the mapping change, and what every field sets (R30, R38, R70 … R76, R115, R149, R201,
R241, R289, R311, R442). -/

namespace Sys2Proof.Machine

/-! ### Quiescence (R38, R70 … R72) -/

/-- The records of a section that name an object of this silicon. A record that the loader ignores names no channel (DESIGN CHOICE, see
notes/assumptions). -/
def validRecs (x : Nat × List ImgRec) : List (FSpec × ImgRec) :=
  x.2.filterMap fun r => match fieldSpec r.fid with
    | some f => if r.fid / 1024 = x.1 ∧ f.kind.ok r.inst = true then some (f, r) else none
    | none => none

/-- CH_n belongs to sync set `t` before or after a load with the values `v`. -/
def State.joins (s : State) (v : Vals) (t : Nat) (n : Ch) : Bool := t != 0 && ((s.ch n).decl.syncSet.toNat == t || v.nat 0x0C 1 n.val == t)

/-- CH_n owns strand `i` before or after a load with the values `v`. -/
def State.owns (s : State) (v : Vals) (r : FSpec × ImgRec) (n : Ch) : Bool :=
  ((findAt s.img.library r.2.inst).getD {}).channel.toNat == n.val || (r.2.fid == fieldId 0x0A 1 && v.nat 0x0A 1 r.2.inst == n.val)

/-- A section of a section load requires CH_n to be quiesced (R38). -/
def State.needsQuiet (s : State) (v : Vals) (x : Nat × List ImgRec) (n : Ch) : Bool :=
  let rs := validRecs x
  match x.1 with
  | 0x01 | 0x0D | 0x10 | 0x11 => false
  | 0x0E | 0x0F => true
  | 0x02 => rs.any fun r => r.2.inst == n.val / 8
  | 0x03 => rs.any fun r => r.2.inst / 8 == n.val / 8
  | 0x0A => rs.any fun r => r.1.kind == .s && s.owns v r n
  | 0x0C => rs.any fun r => s.joins v (if r.1.kind = .t then r.2.inst else v.nat 0x0C 1 r.2.inst) n
  | _ => rs.any fun r => r.1.kind.channel r.2.inst == some n.val

/-- The channels that a load requires to be quiesced; `sets` adds those whose partition the closing check of R62 changed. -/
def State.required (s : State) (v : Vals) (c : ImgCopy) (sets : List Nat) : List Ch :=
  if !c.part then allChs
  else allChs.filter fun n => c.sections.any fun x => s.needsQuiet v x n || (x.1 == 0x0B && sets.contains (fieldKey (fieldId 0x0B 2) n.val))

/-- The lowest of the channels that is not quiesced. -/
def State.firstUnquiet (s : State) (l : List Ch) : Option Ch := l.find? fun n => !(s.ch n).quiesced

/-! ### What a load sets (R46, R74) -/

/-- The load sets a field: every one in a full load, those carried or changed by a check in a section load. -/
def LoadJob.has (j : LoadJob) (sec no inst : Nat) : Bool := !j.part || j.sets.contains (fieldKey (fieldId sec no) inst)

/-- A value that the load sets replaces the present one. -/
def LoadJob.pick {α : Type} (j : LoadJob) (sec no inst : Nat) (f : Nat → α) (old : α) : α :=
  if j.has sec no inst then f (Vals.num j.vals sec no inst) else old

/-- The load carries a section. -/
def LoadJob.carries (j : LoadJob) (sec : Nat) : Bool := j.sections.contains sec

/-- The load sets some field of CH_n. -/
def LoadJob.touches (j : LoadJob) (n : Ch) : Bool :=
  !j.part || j.sets.any fun k => match fieldSpec (k / 65536) with
    | some f => f.kind.channel (k % 65536) == some n.val
    | none => false

/-- The load sets some MEASURE field of CH_n (R171). -/
def LoadJob.measures (j : LoadJob) (n : Ch) : Bool :=
  !j.part || j.sets.any fun k => k / 65536 / 1024 == 0x07 && match fieldSpec (k / 65536) with
    | some f => f.kind.channel (k % 65536) == some n.val
    | none => false

/-! ### Cells that the image names and that are fenced (R76) -/

/-- A cell cannot carry a channel again: it is fenced, or its fence waits for its mapping change. -/
def State.cellFenced (s : State) (k : CellIx) : Bool := (s.cell k).role == .fenced || (s.cell k).condemned || (s.flt.srcSt (srcCell k)).fenced

/-- The global number of cell `i` of the bay of CH_n. -/
def cellIn (n : Ch) (i : Nat) : CellIx := ⟨9 * (n.val / 8) + i % 9, by omega⟩

/-- CH_n's bay is mapped anew: in a full load every bay, otherwise one that a CHANNELS record names (R38). -/
def LoadJob.remaps (j : LoadJob) (n : Ch) : Bool :=
  j.carries 0x03 && (!j.part || j.sets.any fun k => k / 65536 / 1024 == 0x03 && k % 65536 / 8 == n.val / 8)

/-- CH_n stays on its present cell: the load does not set its CH_CELL, and it was and stays enabled and carried (DESIGN CHOICE, see notes/assumptions). -/
def State.keepsCell (s : State) (j : LoadJob) (n : Ch) : Bool :=
  let c := s.ch n
  !j.remaps n || (j.part && Vals.en j.vals n.val && !j.sets.contains (fieldKey (fieldId 0x03 2) n.val) && c.decl.enabled && c.map.cell.isSome &&
    !(c.map.bridged && Vals.clasp j.vals n.val != 0))

/-- A channel without a cell stays so until it is re-admitted (R350, R352, R381). -/
def ChFence.cellless : ChFence → Bool
  | .noCell | .clasp => true
  | _ => false

/-- R76 for one channel: the lowest spare of its bay, or none. -/
def State.fixFenced (s : State) (j : LoadJob) (n : Ch) : LoadJob :=
  let v : Vals := j.vals
  let i := v.nat 0x03 2 n.val
  if !v.en n.val || s.keepsCell j n || (s.ch n).fence.cellless || !s.cellFenced (cellIn n i) then j
  else
    let busy (c : Nat) : Bool := allChs.any fun m =>
      m != n && v.en m.val && (if s.keepsCell j m then (s.ch m).map.cell == some (cellIn n c)
        else !(s.ch m).fence.cellless && cellIn m (v.nat 0x03 2 m.val) == cellIn n c)
    let k : LoadWork := { vals := j.vals, sets := j.sets, clamps := j.clamps, count := j.count }
    let k := match (List.range 9).find? fun c => !s.cellFenced (cellIn n c) && !busy c with
      | some c => k.back 0x03 2 n.val c .fencedCell
      | none => k.back 0x03 1 n.val 0 .fencedCell
    { j with vals := k.vals, sets := k.sets, clamps := k.clamps, count := k.count }

/-! ### The mapping (R15, R18, R21, R30, R31) -/

/-- The cell that CH_n asks for after the swap. -/
def State.wantedCell (s : State) (j : LoadJob) (n : Ch) : Option CellIx :=
  if s.keepsCell j n then (s.ch n).map.cell
  else if Vals.en j.vals n.val && !(s.ch n).fence.cellless then some (cellIn n (Vals.nat j.vals 0x03 2 n.val)) else none

/-- The matrix refuses CH_n its cell (R15): a channel that stays where it is holds it. -/
def State.matrixRefuses (s : State) (j : LoadJob) (n : Ch) : Bool :=
  !s.keepsCell j n && match s.wantedCell j n with
    | some k => allChs.any fun m => s.keepsCell j m && (s.ch m).map.cell == some k
    | none => false

/-- CH_n's mapping after the swap. -/
def State.newMap (s : State) (j : LoadJob) (n : Ch) : ChMap :=
  let v : Vals := j.vals
  let c := s.ch n
  if !j.remaps n then c.map
  else
    let cell := if s.matrixRefuses j n then none else s.wantedCell j n
    let inClasp := v.clasp n.val != 0 && (v.member n.val || 1 < v.claspM n.val)
    let lead := if inClasp then v.leadOf n.val else n.val
    { avail := v.en n.val && cell.isSome && c.fence == .none, bridged := c.map.bridged && s.keepsCell j n, member := inClasp && lead != n.val,
      claspSize := if inClasp then BitVec.ofNat 3 (v.claspM lead - 1) else 0, claspLead := BitVec.ofNat 3 lead, gen := c.map.gen, cell := cell }

/-- The structure's declaration of CH_n's enabling and update rate; a clasp member follows its lead (R52). -/
def Vals.lowPower (v : Vals) (n : Nat) : Bool := v.en n && v.nat 0x03 4 (if v.member n then v.leadOf n else n) == 1

/-- A cell after the swap: the channel that it carries or lends to, fenced, or a spare (R18, R32). -/
def State.newCell (s : State) (j : LoadJob) (k : CellIx) (x : Cell) : Cell :=
  match allChs.find? fun n => (s.newMap j n).cell == some k with
  | some n =>
    let m := s.newMap j n
    let pins : Ch := if m.member then ⟨n.val / 8 * 8 + m.claspLead.toNat, by have := m.claspLead.isLt; omega⟩ else n
    { x with role := if m.member then .member else .active, channel := some pins, viaBridge := m.bridged, awake := (s.bay (CellIx.bay k)).awake }
  | none =>
    if x.role = .fenced ∨ x.role = .shadow then x else if x.role = .spare then { x with channel := none } else x.retire (s.cellFenced k)

/-- Nothing of the channel converts any more, and no pass, request or session waits: its result register keeps its value (R24). -/
def Chan.stopMeasure (c : Chan) : Chan :=
  let c := c.calInterrupt.abortConvs fun _ => true
  { c with meas := { c.meas with pass := none, redo := [], injHeld := none, freeRun := false } }

/-- A channel that the load disables, or that joins a clasp as a member, opens its switch, keeps no armed strand and measures nothing. -/
def State.leaveService (s : State) (n : Ch) : State :=
  ((s.endStrand n .stopped .abort .normal false).openSwitch n .opened).upCh n Chan.stopMeasure

/-- The mapping change of the swap. -/
def State.swapMap (s : State) (j : LoadJob) : State :=
  let old := s
  let s := s.each (allChs.filter fun n => old.matrixRefuses j n) fun n s =>
    s.post (srcBay (chBay n)) 0 (n.val * 256 + match old.wantedCell j n with
      | some k => k.val
      | none => 0x7F)
  let s := s.each (allChs.filter fun n => j.remaps n && ((old.newMap j n).cell.isNone || (old.newMap j n).member)) fun n s => s.leaveService n
  let s := s.each (allChs.filter fun n => old.ch n |>.map.bridged) fun n s => if (old.newMap j n).bridged then s else s.freeBridge n
  let s := s.allCh fun n c =>
    if j.remaps n then
      { c with map := old.newMap j n, decl := { c.decl with enabled := Vals.en j.vals n.val, lowPower := Vals.lowPower j.vals n.val } }
    else c
  let s := s.allCells fun k x => old.newCell j k x
  let s := s.upAtt fun a => { a with requests := a.requests.filter fun q => (s.ch q.ch).map.cell == (old.ch q.ch).map.cell }
  s.remapped old

/-! ### Channel registers (R74, R115, R149, R201, R241, R289, R311) -/

/-- The coefficients of one loop: field numbers from `b`. -/
def LoadJob.coefs (j : LoadJob) (n b : Nat) (c : Coefs) : Coefs :=
  let get (k : Nat) (old : Word × BitVec 5) : Word × BitVec 5 :=
    if j.has 0x06 (b + k) n then
      let ws := Vals.get j.vals (fieldId 0x06 (b + k)) n
      (ws.getD 0 0, (ws.getD 1 0).setWidth 5)
    else old
  let p := get 0 (c.kp, c.shP)
  let i := get 1 (c.ki, c.shI)
  let d := get 2 (c.kd, c.shD)
  let df := get 3 (c.kdf, c.shDf)
  let ff := get 4 (c.kff, c.shFf)
  { kp := p.1, ki := i.1, kd := d.1, kdf := df.1, kff := ff.1, shP := p.2, shI := i.2, shD := d.2, shDf := df.2, shFf := ff.2 }

/-- The gain code of MS_GAIN. -/
def gainCode (g : Nat) : BitVec 3 := if g = 2 then 1 else if g = 4 then 2 else if g = 8 then 3 else if g = 16 then 4 else 0

/-- Sequence entry `e`; inputs 1 and 3 run at gain 1 (R205). -/
def LoadJob.seqEntry (j : LoadJob) (n e : Nat) (q : SeqEntry) : SeqEntry :=
  let i := n * 16 + e
  let q : SeqEntry := { gain := j.pick 0x07 5 i gainCode q.gain, input := j.pick 0x07 4 i (BitVec.ofNat 3) q.input,
                        jM1 := j.pick 0x07 3 i (fun d => BitVec.ofNat 17 (d / 8 - 1)) q.jM1 }
  if q.input = 1 ∨ q.input = 3 then { q with gain := 0 } else q

def winModeOf (x : Nat) : WinMode := if x = 1 then .continuous else if x = 2 then .sampled else .off

/-- The registers of a window. -/
def LoadJob.winCfg (j : LoadJob) (i : Nat) (g : WinCfg) : WinCfg :=
  { mode := j.pick 0x08 4 i winModeOf g.mode, route := j.pick 0x08 6 i (BitVec.ofNat 2) g.route, tick := j.pick 0x08 5 i (BitVec.ofNat 5) g.tick,
    hyst := j.pick 0x08 3 i (BitVec.ofNat 6) g.hyst, hi := j.pick 0x08 1 i (BitVec.ofNat 12) g.hi, lo := j.pick 0x08 2 i (BitVec.ofNat 12) g.lo }

/-- The registers of CH_n that the image sets. -/
def LoadJob.chanCfg (j : LoadJob) (n : Nat) (g : ChanCfg) : ChanCfg :=
  { g with
    coefV := j.coefs n 0x01 g.coefV, coefI := j.coefs n 0x11 g.coefI,
    rampStep := j.pick 0x06 0x20 n (BitVec.ofNat 20) g.rampStep, capMw := j.pick 0x06 0x21 n (BitVec.ofNat 9) g.capMw,
    slewStep := j.pick 0x06 0x22 n (BitVec.ofNat 20) g.slewStep, slewRateM1 := j.pick 0x06 0x23 n (fun r => BitVec.ofNat 8 (r - 1)) g.slewRateM1,
    ilimitNa := j.pick 0x04 7 n (BitVec.ofNat 32) g.ilimitNa, vlimitUv := j.pick 0x04 8 n (BitVec.ofNat 32) g.vlimitUv,
    setV := j.pick 0x04 1 n (BitVec.ofNat 4) g.setV, setI := j.pick 0x04 2 n (BitVec.ofNat 4) g.setI,
    policy := j.pick 0x04 3 n policyOf g.policy, boundHi := j.pick 0x04 4 n (BitVec.ofNat 4) g.boundHi,
    boundLo := j.pick 0x04 5 n (BitVec.ofNat 4) g.boundLo, horizonM1 := j.pick 0x04 6 n (fun h => BitVec.ofNat 10 (h - 1)) g.horizonM1,
    order := j.pick 0x07 1 n (BitVec.ofNat 3) g.order, seqLen := j.pick 0x07 2 n (BitVec.ofNat 5) g.seqLen,
    seq := tabulate 16 fun e => j.seqEntry n e.val g.seq[e.val], demodEn := j.pick 0x07 6 n (· == 1) g.demodEn,
    winV := j.winCfg (2 * n) g.winV, winI := j.winCfg (2 * n + 1) g.winI,
    pulseWidth := j.pick 0x09 1 n (BitVec.ofNat 28) g.pulseWidth, tripEnd := j.pick 0x09 2 n (· == 1) g.tripEnd,
    larderRing := j.pick 0x0B 3 n (· == 1) g.larderRing }

/-- What the image declares of CH_n beside its mapping. -/
def LoadJob.chDecl (j : LoadJob) (n : Nat) (d : ChDecl) : ChDecl :=
  { d with
    syncSet := j.pick 0x0C 1 n (BitVec.ofNat 8) d.syncSet, vfsMv := j.pick 0x05 4 n id d.vfsMv,
    boost := tabulate 3 fun m =>
      let i := n * 4 + m.val
      let b := d.boost[m.val]
      (j.pick 0x05 1 i (· == 1) b.1, j.pick 0x05 2 i id b.2.1, j.pick 0x05 3 i id b.2.2),
    rsClose := if j.carries 0x11 then Vals.num j.vals 0x11 1 n == 1 else d.rsClose,
    rsRange := if j.carries 0x11 then BitVec.ofNat 2 (Vals.num j.vals 0x11 2 n) else d.rsRange,
    rsCode := if j.carries 0x11 then BitVec.ofNat 20 (Vals.num j.vals 0x11 3 n) else d.rsCode,
    rsIlimitNa := if j.carries 0x11 then Vals.num j.vals 0x11 4 n else d.rsIlimitNa,
    lpRampStep := j.pick 0x06 0x20 n id d.lpRampStep }

/-! ### Ranges, windows and conversions at the swap (R171, R184, R194, R219, R241, R300, R307) -/

/-- The active ranges become those of the image, held to a bridge's limits (R27), without a handover. A closed switch keeps its output in
volts (R69). -/
def Chan.swapRanges (c : Chan) (v0 i0 : BitVec 4) : Chan :=
  let was := c
  let v := if c.onBridge then c.holdV v0 else v0
  let i := if c.onBridge && decide (6 < i0.toNat) then 6 else i0
  let c := { c with range := { c.range.holdOff with hold := none, v := v, i := i, wantV := none, wantI := none, wantLevel := none,
                                                    limited := c.range.limited || v != v0 || i != i0 } }
  let r : Chan := was.rescaleCode was.fsv c.fsv
  let c : Chan := if was.moves && was.fsv != c.fsv then { c with force := r.force, loop := r.loop } else c
  let cur := was.range.i != i
  let vol := was.range.v != v
  let c := if (if c.eff.mode = .voltage then cur else vol) then c.rescaleCompl else c
  let c := if cur then (c.calRange true).disturb true else c
  let c := if vol then (c.calRange false).disturb false else c
  c.applyThr.reclamp

/-- Every conversion aborts when the update rate changes, and the sequence restarts (R184). -/
def Chan.newRate (c : Chan) : Chan :=
  let run := c.meas.pass.isSome
  let c := c.abortConvs fun _ => true
  let c := { c with meas := { c.meas with redo := [], lastOvl := none, pass := none, freeRun := false } }
  if run then c.beginPass else c

/-- Some field of window `w` of CH_n is set by the load; its thresholds are. -/
def LoadJob.winSet (j : LoadJob) (i : Nat) : Bool := [1, 2, 3, 4, 5, 6].any fun k => j.has 0x08 k i

/-- The comparators of the windows that the load arms. -/
def State.swapComparators (s : State) (j : LoadJob) : State :=
  s.each allChs fun n s => s.each [WinId.v, WinId.i] fun w s =>
    if j.winSet (2 * n.val + bit (w == .i)) then s.powerWindow n w else s

/-- A window at the swap: armed when the load sets any of its fields; new thresholds refer to the range of the image (R311). -/
def Chan.swapWin (c : Chan) (j : LoadJob) (n : Ch) (w : WinId) (now : Nat) : Chan :=
  let i := 2 * n.val + match w with
    | .v => 0
    | .i => 1
  let ref : BitVec 4 := BitVec.ofNat 4 (Vals.num j.vals 0x04 (match w with
    | .v => 1
    | .i => 2) n.val)
  let c := if j.has 0x08 1 i || j.has 0x08 2 i then c.upWin w fun x => { x with refRange := ref, refFs := c.winFs w ref } else c
  if j.winSet i then c.takeMode w now else c

/-- CH_n at the swap. -/
def Chan.swap (c : Chan) (j : LoadJob) (n : Ch) (rate : Bool) (now : Nat) : Chan :=
  let c := { c with cfg := j.chanCfg n.val c.cfg, decl := j.chDecl n.val c.decl,
                    larder := { c.larder with base := j.pick 0x0B 1 n.val id c.larder.base, size := j.pick 0x0B 2 n.val id c.larder.size },
                    range := { c.range with hist := [], upCnt := 0, dnCnt := 0 } }
  let c := c.sampled (now / 256)
  let c := if j.has 0x04 1 n.val || j.has 0x04 2 n.val then
      c.swapRanges (j.pick 0x04 1 n.val (BitVec.ofNat 4) c.range.v) (j.pick 0x04 2 n.val (BitVec.ofNat 4) c.range.i)
    else c
  let c := ((c.swapWin j n .v now).swapWin j n .i now).applyThr
  let c := if j.touches n then c.calInterrupt else c
  let c := if j.measures n then { c with meas := { c.meas with freeRun := false } } else c
  if rate then c.newRate else c

/-! ### The device's own registers (R51, R64, R67, R68, R442) -/

/-- A bay at the swap. -/
def BaySt.swap (b : BaySt) (j : LoadJob) (i : Nat) : BaySt :=
  { b with vrefExt := j.pick 0x02 1 i (· == 1) b.vrefExt, vrefUv := j.pick 0x02 2 i id b.vrefUv, sleepOk := j.pick 0x02 3 i (· == 1) b.sleepOk,
           lend := j.pick 0x02 4 i (· == 1) b.lend }

/-- Counts and coalesce counters of a source whose FT_N or FT_W changes restart (R64). -/
def Flt.swap (f : Flt) (changed : BitVec 10 → Bool) : Flt :=
  { f with srcs := f.srcs.map fun x => (x.1, if changed (BitVec.ofNat 10 x.1) then { x.2 with winCount := 0 } else x.2),
           coal := f.coal.filter fun c => !changed c.src }

/-- A CLKOUT output at the swap. -/
def ClkOut.swap (o : ClkOut) (j : LoadJob) (x : Nat) (held : Bool) : ClkOut :=
  let fmt := j.pick 0x0E 5 x outFmtOf o.fmt
  { o with fmt := fmt, divM1 := j.pick 0x0E 6 x (fun d => BitVec.ofNat 10 (d - 1)) o.divM1, running := fmt != .off && (o.running || held) }

/-- Shadow dividers at the swap. -/
def Pll.swap (l : Pll) (j : LoadJob) (p : Nat) : Pll :=
  { l with shM := j.pick 0x0E 2 p (fun m => BitVec.ofNat 10 (m - 1)) l.shM, shN := j.pick 0x0E 3 p (BitVec.ofNat 16) l.shN,
           shP := j.pick 0x0E 4 p (BitVec.ofNat 7) l.shP }

/-- The class that CK_REFIN declares. -/
def refinClass (ten : Bool) : RefClass := if ten then .mhz10 else .mhz24

/-- CLOCKS at the swap (R442): a PLL whose shadow values then differ is committed, unless CK_REFIN names another class. -/
def State.swapClocks (s : State) (j : LoadJob) : State :=
  let s := s.upClk fun k =>
    { k with pllA := k.pllA.swap j 0, pllB := k.pllB.swap j 1, ckRefin := j.pick 0x0E 1 0 (· == 1) k.ckRefin,
             outs := tabulate 4 fun x => k.outs[x.val].swap j x.val k.pllB.held }
  if !j.carries 0x0E then s
  else if refinClass s.clk.ckRefin ≠ s.clk.refClass then s.upClk fun k => { k with refMismatch := true }
  else
    let commit (p : PllId) (s : State) : State :=
      let l := s.clk.pll p
      if l.shM = l.actM ∧ l.shN = l.actN ∧ l.shP = l.actP then s else s.commitPll p
    commit .b (commit .a s)

/-- The device becomes the root and enumerates (R469, R473). -/
def State.becomeRoot (s : State) : State := if s.lnk.root then s else s.upLnk fun l => { l with root := true, enumBusy := true }

/-- LINK at the swap. -/
def State.swapLink (s : State) (j : LoadJob) : State :=
  let s := s.upLnk fun l =>
    { l with idStraps := j.pick 0x0F 1 0 (· == 1) l.idStraps, portEn := j.pick 0x0F 2 0 (BitVec.ofNat 4) l.portEn,
             epochTicks := j.pick 0x0F 3 0 id l.epochTicks }
  let s := s.portsEnable
  if s.lnk.portEn.getLsbD 0 then s else s.becomeRoot

/-- The library entries and beads that the load's records write (R46, R61). -/
def State.swapStrands (s : State) (j : LoadJob) : State :=
  let v : Vals := j.vals
  let keys := j.sets.filter fun k => k / 65536 / 1024 == 0x0A
  let entry (lib : Table LibEntry) (k : Nat) : Table LibEntry :=
    let i := k % 65536
    let e := (findAt lib i).getD {}
    let e : LibEntry := match k / 65536 % 1024 with
      | 1 => { e with channel := BitVec.ofNat 8 (v.nat 0x0A 1 i) }
      | 2 => { e with first := BitVec.ofNat 16 (v.nat 0x0A 2 i) }
      | _ => { e with type := strandTypeOf (v.nat 0x0A 3 i) }
    if e == ({} : LibEntry) then removeAt lib i else insertAt lib i e
  let s := { s with img := { s.img with library := keys.foldl entry s.img.library } }
  let s := s.each j.beads fun x s => s.setMemWord (0x100000 + 4 * x.1) x.2
  s.upAtt fun a => { a with ueBeads := a.ueBeads.filter fun b => !j.beads.any fun x => x.1 / 4 == b.toNat }

/-! ### The first rest sequence (R106, R108, R514) -/

/-- The rest sequence of a channel, with the ranges that it commands. -/
def State.restFirst (s : State) (n : Ch) : State := ((s.restStart n).startRanging n).refresh n

/-- Every awake bay measures the rails in span (R514). -/
def State.railsOk (s : State) : Bool :=
  allBayIxs.all fun b => !(s.bay b).awake || (decide (13500 ≤ (s.bay b).vposMv.toNat) && decide (13500 ≤ (s.bay b).vnegMv.toNat))

/-- The channels that wait run their first rest sequence. -/
def State.restWaiting (s : State) : State := { s with pwr := { s.pwr with waitRest := [] } }.each s.pwr.waitRest fun n s => s.restFirst n

/-- The rail gate acts once per reset: the first rest sequences wait behind it until the rails are in span. -/
def State.railGate (s : State) : State :=
  if s.pwr.waitRest = [] then s
  else if s.pwr.gateDone || s.railsOk then { s with pwr := { s.pwr with gateDone := true, railWait := false } }.restWaiting
  else { s with pwr := { s.pwr with railWait := true, railWaited := true } }

/-! ### The swap (R73) -/

/-- The image loader's registers after an accepted load (R82, R83). -/
def Img.accepted (g : Img) (j : LoadJob) : Img :=
  { g with st := .ready, done := true, firstCh := 0xFF, result := .ok, part := j.part, source := if j.part then g.source else j.src, crc := j.crc,
           clampCount := BitVec.ofNat 32 (min j.count 0xFFFFFFFF), clamps := j.clamps, vals := j.vals, job := none }

/-- Every field of the image acts on the unit that it sets. -/
def State.swapFields (s : State) (j : LoadJob) (old : State) : State :=
  let s := { s with img := s.img.accepted j }
  let s := s.allBays fun b x => x.swap j b.val
  let s := s.allCh fun n c => c.swap j n ((old.ch n).decl.lowPower != c.decl.lowPower) s.time
  let s := s.swapStrands j
  let s := s.upFlt fun f => f.swap fun src => s.ftN src != old.ftN src || s.ftW src != old.ftW src
  let s := (s.swapClocks j).swapLink j
  { s with cel := { s.cel with refreshBits := j.pick 0x10 1 0 id s.cel.refreshBits, maxAgeDays := j.pick 0x10 2 0 id s.cel.maxAgeDays,
                               passHours := j.pick 0x10 3 0 id s.cel.passHours } }

/-- What an accepted load reports, and what the cellar stores of it (R49, R69, R410, R453). -/
def State.swapReports (s : State) (j : LoadJob) (old : State) : State :=
  let s := s.when s.clk.unaligned fun s => s.each (s.localSpans.filter fun t => !old.localSpans.contains t) fun t s => s.post (srcLink 0) 2 t.toNat
  let s := s.when (decide (0 < j.count)) fun s => s.post srcImage 3 (min j.count 0xFFFFFFFF)
  let s := s.when (s.celWrites && j.carries 0x11) fun s => s.celAsk .writeRest
  s.when (s.celWrites && j.carries 0x0A) fun s => s.celAsk .writeLibrary

/-- Channels that the load enables wait for their first rest sequence (R108). -/
def State.swapRest (s : State) (old : State) : State :=
  let fresh := allChs.filter fun n => (s.ch n).canRest && !(old.ch n).decl.enabled
  let s := { s with pwr := { s.pwr with waitRest := (s.pwr.waitRest.filter fun n => (s.ch n).canRest && !fresh.contains n) ++ fresh } }
  if s.pwr.step = .done ∨ s.pwr.step = .rest then s.railGate else s

/-- The new structure takes effect in one loop period. -/
def State.swapImage (s : State) (j : LoadJob) : State :=
  let old := s
  let j := if j.carries 0x03 then allChs.foldl (fun j n => s.fixFenced j n) j else j
  let s := if j.carries 0x03 then s.swapMap j else s
  let s := ((s.swapFields j old).swapComparators j).swapReports j old
  (s.each allChs fun n s => (s.latchDac n).refresh n).swapRest old

end Sys2Proof.Machine
end

