-- ==== Sys2Proof/Machine/Flags.lean ====
section
/-! DEFINITION. The summaries and status words that are computed from other state: fault status, attention, loop, measure and clock flags
(R151, R203, R397, R455, R463, R488, R505 … R507). -/

namespace Sys2Proof.Machine

/-! ### Fault status of a source (R394, R397) -/

/-- The counting window of a source contains the present time. -/
def State.winOpen (s : State) (src : BitVec 10) : Bool :=
  let x := s.flt.srcSt src
  decide (0 < x.winCount) && decide (s.ticks < x.winStart + s.ftW src)

/-- FLT_SRC_STAT, CELL_FAULT_STAT and CH_FAULT_STAT. -/
def State.srcStatWord (s : State) (src : BitVec 10) : Word :=
  let x := s.flt.srcSt src
  fields [(31, bit x.fenced), (30, bit (x.live != 0)), (29, bit (x.sticky != 0)), (28, bit x.unackMajor), (27, bit x.unackMinor),
    (26, bit (s.flt.conseqTag src none s.ticks).isSome), (25, bit (s.flt.coal.any fun c => c.src == src)), (16, x.fences.toNat),
    (0, if s.winOpen src then min x.winCount 255 else 0)]

/-- Some source has an unacknowledged Major, Minor. -/
def Flt.anyMajor (f : Flt) : Bool := f.srcs.any fun x => x.2.unackMajor

def Flt.anyMinor (f : Flt) : Bool := f.srcs.any fun x => x.2.unackMinor

/-- FLT_STAT (R394). -/
def Flt.statWord (f : Flt) : Word :=
  fields [(31, bit f.grave), (30, bit (!f.coal.isEmpty)), (29, bit f.lost), (28, bit f.persistOff), (25, bit f.anyMajor), (24, bit f.anyMinor),
    (16, f.fifo.length), (0, f.coffer.length)]

/-! ### Channel attention (R506, R507) -/

/-- The larder holds at least half of the partition. -/
def LarderSt.halfFull (l : LarderSt) : Bool := decide (0 < l.size) && decide (l.size ≤ 2 * (l.wr - l.rd).toNat)

/-- A carrying cell has a sticky fault bit. -/
def State.carrierSticky (s : State) (n : Ch) : Bool :=
  match (s.ch n).map.cell with
  | some k => (s.flt.srcSt (srcCell k)).sticky != 0
  | none => false

/-- CH_ATTN_SRC. -/
def State.chAttnSrc (s : State) (n : Ch) : Word :=
  let c := s.ch n
  let x := s.flt.srcSt (srcCh n)
  fields [(31, bit x.fenced), (30, bit (x.sticky != 0 || s.carrierSticky n)), (29, bit (c.winV.tripHi || c.winV.tripLo)),
    (28, bit (c.winI.tripHi || c.winI.tripLo)), (27, bit c.force.tripped), (7, bit c.larder.halfFull), (6, bit c.loop.crossed),
    (5, bit c.range.changed), (4, bit c.meas.demod.new), (3, bit c.meas.cal.done), (2, bit (!c.meas.pairDone)), (1, bit c.meas.passDone),
    (0, bit c.strand.ended)]

/-- The sources that always count, and those that CH_ATTN_EN admits. -/
def State.chAttn (s : State) (n : Ch) : Bool :=
  s.chAttnSrc n &&& (0xF8000000 ||| (s.ch n).cfg.attnEn.setWidth 32) != 0

/-- CH_ATTN_LO and CH_ATTN_HI: the channels from `n0` on. -/
def State.chAttnWord (s : State) (n0 : Nat) : Word := fields (allChs.map fun n => (n.val - n0, if n0 ≤ n.val ∧ n.val < n0 + 32 then bit (s.chAttn n) else 0))

/-! ### Device attention (R488, R505) -/

/-- GLB_ATTN without its link bit. -/
def State.glbAttnLocal (s : State) : Word :=
  let k := s.clk
  fields [(31, bit s.flt.grave), (30, bit (s.img.st == .bare)), (8, bit (allChs.any s.chAttn)),
    (7, bit (s.host.crcErr || s.host.badFrame || s.host.unmapped)), (6, bit (s.att.bays.any (·.done) || s.att.ue || s.att.exhausted)),
    (5, bit (s.pwr.govHit || s.pwr.keeper || s.pwr.railWaited)), (3, bit s.cel.done),
    (2, bit (s.flt.anyMinor || s.flt.anyMajor || s.flt.lost)),
    (1, bit (k.pllA.lol || k.pllA.lor || k.pllA.done || k.pllB.lol || k.pllB.lor || k.pllB.done || k.refMismatch || k.xtalLost)),
    (0, bit s.img.done)]

/-- The device ID in force: the straps when LK_ID_SRC says so or no enumeration has given another (R472). -/
def Lnk.devId (l : Lnk) : BitVec 12 := if l.enumerated && !l.idStraps then l.treeId else l.strap

/-- The link bit of GLB_ATTN (R488, R505): off the root no other device's summary counts. -/
def Lnk.attnBit (l : Lnk) : Bool :=
  l.enumDone || l.fwdDone || (l.root && (l.attn.any (fun d => d != l.devId) || l.graves.any fun d => d != l.devId))

/-- GLB_ATTN. -/
def State.glbAttn (s : State) : Word := s.glbAttnLocal ||| fields [(4, bit s.lnk.attnBit)]

/-- The devices whose attention bit is set: on the root its own is included (R488). -/
def State.attnDevs (s : State) : List (BitVec 12) :=
  let l := s.lnk.attn.filter fun d => d != s.lnk.devId
  if s.lnk.root && s.glbAttnLocal != 0 then s.lnk.devId :: l else l

def State.graveDevs (s : State) : List (BitVec 12) :=
  let l := s.lnk.graves.filter fun d => d != s.lnk.devId
  if s.lnk.root && s.flt.grave then s.lnk.devId :: l else l

/-- Word `i` of LNK_ATTN or LNK_GRAVE. -/
def devBits (l : List (BitVec 12)) (i : Nat) : Word := l.foldl (fun w d => if d.toNat / 32 = i then w ||| (1#32 <<< (d.toNat % 32)) else w) 0

/-! ### Loop and measure flags (R151, R203) -/

/-- The compliance loop drives the command. -/
def LoopState.complDrives : LoopState → Bool
  | .confirmCmp | .compliance => true
  | _ => false

/-- CH_LOOP_STAT.ACTIVE: the current loop drives the command. -/
def Chan.activeI (c : Chan) : Bool :=
  (c.eff.mode == .current) != (if c.loop.st = .held then c.loop.before else c.loop.st).complDrives

/-- A modulator converts for the measure path; `any` counts settling too. -/
def MeasSt.busyOn (m : MeasSt) (d : Modulator) (any : Bool) : Bool := m.convs.any fun v => v.md == d && (any || !v.settling)

/-- INJ_BUSY of CH_MEAS_STAT: an injected conversion runs, in its input settling too (DESIGN CHOICE, see notes/assumptions). -/
def MeasSt.injBusy (m : MeasSt) : Bool := m.convs.any fun v => v.kind == .urgent || v.kind == .opp

/-- NEXT of CH_MEAS_STAT (R203): the entry that the pass starts next; with none left to start, the first entry of the pass to come
(DEDUCED). -/
def MeasSt.nextEntry (m : MeasSt) (first : BitVec 4) : Nat :=
  match m.pass with
  | some p => if p.next ≤ p.last then p.next % 16 else first.toNat
  | none => first.toNat

/-- CH_MEAS_STAT; `first` is FIRST of CH_MEAS_CTRL, `engaged` says that ranging holds the overlap modulator, which then converts (R173,
DEDUCED). -/
def MeasSt.statWord (m : MeasSt) (first : BitVec 4) (engaged : Bool) : Word :=
  fields [(31, bit (!m.pairDone)), (30, bit m.cal.isOpen), (29, bit m.passDone), (28, bit m.injBusy), (27, bit m.injHeld.isSome),
    (26, bit (m.busyOn .ovl true || engaged)), (25, bit (m.busyOn .i false)), (24, bit (m.busyOn .v false)),
    (0, m.nextEntry first)]

/-! ### Clock flags (R455, R463) -/

/-- The highest frequency of a format in kHz. -/
def OutFmt.limit : OutFmt → Nat
  | .lvds => 500000
  | .hcsl => 250000
  | _ => 125000

/-- CLK_OUT_x.TOO_FAST: f_B / (DIV_M1 + 1) lies above the format's limit. -/
def Clk.tooFast (k : Clk) (o : ClkOut) : Bool :=
  o.fmt != .off && decide (o.fmt.limit * (k.pllB.actM.toNat + 1) * k.pllB.actP.toNat * (o.divM1.toNat + 1) < k.refClass.khz * k.pllB.actN.toNat)

/-- BUSY of a PLL. -/
def PllPhase.busy : PllPhase → Bool
  | .startup | .committing | .measuring => true
  | _ => false

end Sys2Proof.Machine
end

