-- ==== Sys2Proof/Machine/Operands.lean ====
section
/-! DEFINITION. The address map as a host reads it: every region, block and page of R547 … R550 with its words, `none` for an unmapped
one. -/

namespace Sys2Proof.Machine

/-! ### Codes that only registers show -/

/-- CH_STRAND_STAT.STATE (R292). -/
def StrandState.code : StrandState → Nat
  | .idle => 0 | .armed => 1 | .running => 2 | .waitSet => 3 | .stalled => 4 | .done => 5 | .stopped => 6 | .error => 7

/-- CH_STRAND_STAT.REASON (R258, R263, R292). -/
def Reason.code : Reason → Nat
  | .none => 0 | .stop => 1 | .abort => 2 | .compliance => 3 | .trip => 4 | .fault => 5 | .badRange => 6 | .badFlag => 7 | .badLog => 8
  | .badTone => 9 | .notOwner => 10 | .wrongClass => 11 | .noChannel => 12 | .busy => 13

/-- CH_CAL_STAT.STATE and RESULT (R208). -/
def CalState.code : CalState → Nat
  | .idle => 0 | .wait => 1 | .zeroRun => 2 | .zeroDone => 3 | .fullRun => 4 | .ready => 5 | .storing => 6 | .forceRun => 7

def CalResult.code : CalResult → Nat
  | .ok => 0 | .wrongRange => 1 | .busy => 2 | .state => 3 | .refSmall => 4 | .outOfSpan => 5 | .clipped => 6 | .notStored => 7 | .order => 8
  | .discarded => 9 | .noCell => 10 | .interrupted => 11 | .badTarget => 12

/-- ATT_BAY_b.PHASE and RESULT (R359). -/
def MigPhase.code : MigPhase → Nat
  | .idle => 0 | .wake => 1 | .forceCheck => 2 | .mirror => 3 | .swap => 4 | .drain => 5

def MigResult.code : MigResult → Nat
  | .ok => 0 | .noSpare => 1 | .cold => 2 | .abandoned => 3 | .refused => 4 | .reshared => 5 | .claspFenced => 6

/-- FLT_READMIT_STAT.RESULT (R381). -/
def ReadmitResult.code : ReadmitResult → Nat
  | .ok => 0 | .grave => 1 | .notFenced => 2 | .live => 3 | .unacked => 4 | .noSpare => 5 | .badUnit => 6 | .busy => 7

/-- IMG_STAT.STATE and SOURCE (R82), and the result and clamp reason codes (R42, R47). -/
def ImgState.code : ImgState → Nat
  | .boot => 0 | .bare => 1 | .loading => 2 | .ready => 3

def ImgSource.code : ImgSource → Nat
  | .none => 0 | .slotA => 1 | .slotB => 2 | .host => 3

def ImgResult.code : ImgResult → Nat
  | .ok => 0 | .badMagic => 1 | .badHeader => 2 | .deviceMismatch => 3 | .badLength => 4 | .badCrc => 5 | .badSectionTable => 6
  | .fieldOverrun => 7 | .missingSection => 8 | .slotUnreadable => 9 | .notQuiescent => 10 | .aborted => 11 | .needsFull => 12

def ClampReason.code : ClampReason → Nat
  | .belowMin => 1 | .aboveMax => 2 | .badEncoding => 3 | .rounded => 4 | .dependency => 5 | .resource => 6 | .length => 7 | .duplicate => 8
  | .unknownField => 9 | .badInstance => 10 | .fencedCell => 11

/-- CLK_STAT.GUARD and REF_CLASS (R434, R447), CLK_PLLx_STAT.RESULT (R439, R441), CLK_OUT_x.FMT (R455). -/
def Guard.code : Guard → Nat
  | .ref => 0 | .vco16 => 1 | .vco8 => 2

def RefClass.code : RefClass → Nat
  | .unfinished => 0 | .mhz24 => 1 | .mhz10 => 2 | .unknown => 3

def PllResult.code : PllResult → Nat
  | .ok => 0 | .vcoRange => 1 | .pfdRange => 2 | .noBand => 3 | .notQuiescent => 4 | .badPost => 5 | .busy => 6 | .switchClosed => 7 | .noRef => 8

def OutFmt.code : OutFmt → Nat
  | .off => 0 | .lvcmos18 => 1 | .lvcmos33 => 2 | .lvds => 3 | .hcsl => 4

/-- LNK_PORT_p.STATE (R467) and LNK_FWD_STAT.ERROR (R493). -/
def PortState.code : PortState → Nat
  | .off => 0 | .idle => 1 | .training => 2 | .measuring => 3 | .up => 4 | .paused => 5 | .fenced => 6 | .refused => 7

def FwdError.code : FwdError → Nat
  | .none => 0 | .unreachable => 1 | .busy => 2 | .timeout => 3 | .link => 4

/-- CEL_STAT.STATE and RESULT (R430). -/
def CelState.code : CelState → Nat
  | .start => 0 | .unformatted => 1 | .mounting => 2 | .ready => 3 | .sealed => 4 | .fenced => 5

def CelResult.code : CelResult → Nat
  | .ok => 0 | .busy => 1 | .sealed => 2 | .fenced => 3 | .unformatted => 4 | .badLength => 5 | .notQuiescent => 6 | .badKey => 7
  | .badCommand => 8 | .verifyFailed => 9

/-- PWR_STAT.STEP (R513). -/
def BootStep.code : BootStep → Nat
  | .clocks => 1 | .cellar => 2 | .lockets => 3 | .library => 4 | .image => 5 | .rails => 6 | .rest => 7 | .done => 8

/-- CH_RANGE_CTRL.POLICY (R217), CH_WIN_CFG_w.MODE (R312). -/
def Policy.code : Policy → Nat
  | .off => 0 | .upOnly => 1 | .full => 2 | .bounded => 3

def WinMode.code : WinMode → Nat
  | .off => 0 | .continuous => 1 | .sampled => 2

/-- A cell's number, 0x7F for none (R31, R359). -/
def cellCode : Option CellIx → Nat
  | some k => k.val
  | none => 0x7F

/-! ### Channel pages (R549) -/

/-- CH_MAP (R31). -/
def ChMap.word (m : ChMap) : Word :=
  fields [(31, bit m.avail), (30, bit m.bridged), (29, bit m.member), (24, m.claspSize.toNat), (20, m.claspLead.toNat), (8, m.gen.toNat),
    (0, cellCode m.cell)]

/-- The driving of BOOST_DRV_n (R117). -/
def State.boostDriven (s : State) (n : Ch) : Bool :=
  match (s.ch n).map.cell with
  | some k => (s.cell k).boostOn
  | none => false

/-- The shifts of a loop (R155). -/
def Coefs.shiftWord (k : Coefs) : Word :=
  fields [(20, k.shFf.toNat), (15, k.shDf.toNat), (10, k.shD.toNat), (5, k.shI.toNat), (0, k.shP.toNat)]

/-- CH_RESULT_LO's layout (R180). -/
def ResultLo.word (r : ResultLo) : Word :=
  fields [(8, r.value.toNat), (7, bit r.overrun), (6, bit r.injected), (5, bit r.clip), (4, bit r.disturbed), (0, r.entry.toNat)]

/-- CH_SEQ_e (R205). -/
def SeqEntry.word (q : SeqEntry) : Word := fields [(24, q.gain.toNat), (20, q.input.toNat), (0, q.jM1.toNat)]

/-- The force, loop and limit registers, offsets 0x000 … 0x0EC. -/
def State.readForce (s : State) (n : Ch) (off : Nat) : Option Word :=
  let c := s.ch n
  let g := c.cfg
  match off with
  | 0x000 => some c.map.word
  | 0x040 => some (fields [(1, bit (g.cls == .stream)), (0, bit (g.mode == .current))])
  | 0x044 => some g.level
  | 0x048 => some c.force.applied
  | 0x04C => some (fields [(24, g.slewRateM1.toNat), (0, g.slewStep.toNat)])
  | 0x050 => some (fields [(31, bit (c.force.code != c.force.target)), (30, bit c.force.sat), (29, bit c.force.underrun), (0, c.force.code.toNat)])
  | 0x054 => some (fields [(31, bit c.force.tripped), (30, bit (c.force.out == .restHold)), (29, bit c.force.clampOn), (28, bit (s.boostDriven n)),
      (0, c.force.out.code)])
  | 0x058 => some (g.streamDivM1.setWidth 32)
  | 0x05C => some c.force.streamUnder
  | 0x080 => some 0
  | 0x084 => some (fields [(28, c.loop.st.code), (27, bit c.activeI), (26, bit c.loop.sign), (25, bit c.loop.ramping), (24, bit c.loop.spLimit),
      (23, bit c.loop.dcap), (1, bit c.loop.dcapHit), (0, bit c.loop.crossed)])
  | 0x088 => some (fields [(16, c.loop.satI.toNat), (0, c.loop.satV.toNat)])
  | 0x08C => some (c.loop.cmd.setWidth 32)
  | 0x090 => some c.loop.setpoint
  | 0x094 => some (g.rampStep.setWidth 32)
  | 0x098 => some g.compliance
  | 0x09C => some c.loop.complApplied
  | 0x0A0 => some c.loop.complEff
  | 0x0A4 => some g.ilimitNa
  | 0x0A8 => some g.vlimitUv
  | 0x0AC => some (fields [(16, c.loop.grantMw.toNat), (0, g.capMw.toNat)])
  | 0x0B0 => some c.loop.accV
  | 0x0B4 => some c.loop.accI
  | 0x0B8 => some g.coefV.kp
  | 0x0BC => some g.coefV.ki
  | 0x0C0 => some g.coefV.kd
  | 0x0C4 => some g.coefV.kdf
  | 0x0C8 => some g.coefV.kff
  | 0x0CC => some g.coefV.shiftWord
  | 0x0D0 => some g.coefI.kp
  | 0x0D4 => some g.coefI.ki
  | 0x0D8 => some g.coefI.kd
  | 0x0DC => some g.coefI.kdf
  | 0x0E0 => some g.coefI.kff
  | 0x0E4 => some g.coefI.shiftWord
  | 0x0E8 => some c.loop.coefIgnored
  | 0x0EC => some c.loop.crossCount
  | _ => none

/-- CH_DEMOD_STAT.WAITING: enabled, and no window is open until a wrap, or the accumulator does not wrap (R199, R209). -/
def Chan.demodWaits (c : Chan) : Bool := c.cfg.demodEn && (!c.meas.demod.open_ || c.eff.sineFreq == 0)

/-- The measure registers, offsets 0x100 … 0x1E0. -/
def State.readMeas (s : State) (n : Ch) (off : Nat) : Option Word :=
  let c := s.ch n
  let g := c.cfg
  let m := c.meas
  match off with
  | 0x100 => some (fields [(16, g.pubMask.toNat), (12, g.last.toNat), (8, g.first.toNat), (0, runCode g.run)])
  | 0x104 => some (m.statWord g.first c.range.ovl.isSome)
  | 0x108 => some (fields [(8, g.seqLen.toNat), (0, g.order.toNat)])
  | 0x110 => some m.res.word
  | 0x114 => some m.snap
  | 0x118 => some 0
  | 0x11C => some m.injDrop
  | 0x120 => some m.restarts
  | 0x124 => some m.overruns
  | 0x128 => some (fields [(16, g.calTarget.toNat)])
  | 0x12C => some g.calRef
  | 0x130 => some (fields [(28, m.cal.st.code), (16, m.cal.result.code), (0, bit m.cal.done)])
  | 0x134 => some m.cal.om
  | 0x138 => some m.cal.gm
  | 0x13C => some (g.calJM1.setWidth 32)
  | 0x1C0 => some (fields [(31, bit g.demodEn), (0, g.demodCycles.toNat)])
  | 0x1C4 => some (fields [(31, bit m.demod.new), (30, bit m.demod.disturbed), (29, bit c.demodWaits)])
  | 0x1C8 => some m.demod.vi
  | 0x1CC => some m.demod.snapVq
  | 0x1D0 => some m.demod.snapIi
  | 0x1D4 => some m.demod.snapIq
  | 0x1D8 => some m.demod.snapTime
  | 0x1DC => some c.loop.fastV
  | 0x1E0 => some c.loop.fastI
  | _ =>
    if h : off % 4 = 0 ∧ 0x140 ≤ off ∧ off < 0x180 then some (g.seq[(off - 0x140) / 4]'(by omega)).word
    else if h : off % 4 = 0 ∧ 0x180 ≤ off ∧ off < 0x1C0 then some (m.vals[(off - 0x180) / 4]'(by omega)).word
    else none

/-- CH_RANGE_SET differs from the active ranges and waits for a strobe (R244). -/
def Chan.rangePending (c : Chan) : Bool := c.cfg.setV != c.range.v || c.cfg.setI != c.range.i || c.range.waits

/-- Ranging, strands, sine, pulse, stream and larder, offsets 0x200 … 0x2D4. -/
def State.readStrand (s : State) (n : Ch) (off : Nat) : Option Word :=
  let c := s.ch n
  let g := c.cfg
  let r := c.range
  let t := c.strand
  match off with
  | 0x200 => some (fields [(16, g.horizonM1.toNat), (12, g.boundHi.toNat), (8, g.boundLo.toNat), (0, g.policy.code)])
  | 0x204 => some (fields [(4, g.setV.toNat), (0, g.setI.toNat)])
  | 0x208 => some (fields [(28, r.hst.code), (24, (r.ovl.getD 15).toNat), (23, bit c.rangePending), (22, bit (r.limited || r.waits)), (21, bit r.squashed),
      (20, bit r.changed), (16, r.complRange.toNat), (8, r.v.toNat), (0, r.i.toNat)])
  | 0x20C => some r.complRef
  | 0x210 => some r.changes
  | 0x214 => some r.specs
  | 0x218 => some r.squashes
  | 0x240 => some 0
  | 0x244 => some (fields [(31, bit g.cstop), (30, bit g.tstop), (24, g.type.code), (16, g.tout.toNat)])
  | 0x248 => some (fields [(28, t.st.code), (24, t.reason.code), (23, bit t.ended), (22, bit t.fixed), (0, t.bead.toNat)])
  | 0x24C => some (g.strandFirst.setWidth 32)
  | 0x250 => some (fields [(8, t.point % 32), (0, t.ahead.length % 16)])
  | 0x254 => some t.squashes
  | 0x258 => some t.lates
  | 0x260 => some g.msel[0]
  | 0x264 => some g.msel[1]
  | 0x268 => some g.msel[2]
  | 0x26C => some g.msel[3]
  | 0x280 => some (fields [(31, bit g.sineEn), (0, bit g.sineTable)])
  | 0x284 => some g.sineFreq
  | 0x288 => some g.sineAmpl
  | 0x28C => some c.phase
  | 0x290 => some (g.pulseWidth.setWidth 32)
  | 0x294 => some (fields [(31, bit g.tripEnd), (0, g.mdelay.toNat)])
  | 0x298 => some g.pulseBase
  | 0x29C => some (fields [(0, c.queue.length)])
  | 0x2A0 => some c.streamOver
  | 0x2C0 => some (fields [(31, bit g.larderRing), (0, c.larder.size)])
  | 0x2C4 => some (fields [(0, c.larder.base)])
  | 0x2C8 => some c.larder.wr
  | 0x2CC => some c.larder.rd
  | 0x2D0 => some c.larder.lost
  | 0x2D4 => some c.larder.stalls
  | _ => none

/-- A window's registers (R311 … R315). -/
def Chan.readWin (c : Chan) (w : WinId) (off : Nat) : Option Word :=
  let g := c.cfg.win w
  let x := c.win w
  match off with
  | 0x00 => some (fields [(30, g.mode.code), (24, g.route.toNat), (16, g.tick.toNat), (0, g.hyst.toNat)])
  | 0x04 => some (fields [(16, g.hi.toNat), (0, g.lo.toNat)])
  | 0x08 => some (fields [(31, bit x.hiOff), (16, x.appHi.toNat), (15, bit x.loOff), (0, x.appLo.toNat)])
  | 0x0C => some (fields [(31, bit (x.st == .outHi)), (30, bit (x.st == .outLo)), (29, bit (c.blanked w)), (28, bit x.arming.isSome),
      (25, bit x.tripHi), (24, bit x.tripLo), (16, x.refRange.toNat)])
  | 0x10 => some x.trips
  | 0x14 => some x.time
  | _ => none

/-- A word of a channel page (R549). -/
def State.readCh (s : State) (n : Ch) (off : Nat) : Option Word :=
  if off < 0x100 then s.readForce n off
  else if off < 0x200 then s.readMeas n off
  else if off < 0x300 then s.readStrand n off
  else if off < 0x320 then (s.ch n).readWin .v (off - 0x300)
  else if off < 0x340 then (s.ch n).readWin .i (off - 0x320)
  else match off with
    | 0x3C0 => some (s.srcStatWord (srcCh n))
    | 0x3E0 => some ((s.ch n).cfg.attnEn.setWidth 32)
    | 0x3E4 => some (s.chAttnSrc n)
    | _ => none

/-! ### Cell pages (R550) -/

/-- The selected word of the applied locket record (R210). -/
def Cell.locketWord (x : Cell) : Word := if x.locketSt = .notLoaded then 0 else wordAt x.locket.record x.locketSel.toNat

/-- CELL_ROLE (R32). -/
def Cell.roleWord (x : Cell) (k : CellIx) : Word :=
  fields [(29, x.role.code), (28, bit x.viaBridge), (16, match x.channel with
    | some n => n.val
    | none => 0xFF), (4, (CellIx.bay k).val), (0, CellIx.index k)]

/-- A word of a cell page. -/
def State.readCell (s : State) (k : CellIx) (off : Nat) : Option Word :=
  let x := s.cell k
  match off with
  | 0x000 => some (x.roleWord k)
  | 0x040 => some (fields [(24, x.stage.code), (23, bit x.gain2), (21, x.atten.code), (0, x.dac.toNat)])
  | 0x080 => some (fields [(31, bit x.keeper.armed), (30, bit x.keeper.hold), (29, bit x.keeper.held), (28, bit x.keeper.opened),
      (27, bit x.keeper.keep), (0, x.keeper.miss.toNat)])
  | 0x0C0 => some (fields [(28, x.locketSt.code)])
  | 0x0C4 => some x.locket.gen
  | 0x0C8 => some (fields [(8, x.temp.toNat)])
  | 0x0CC => some (x.locketSel.setWidth 32)
  | 0x0D0 => some x.locketWord
  | 0x100 => some (fields [(8, x.shunts.toNat), (4, x.ovlIn.toNat), (0, x.imainIn.toNat)])
  | 0x140 => some (fields [(5, bit x.iPow), (4, bit x.vPow), (3, bit x.iHi), (2, bit x.iLo), (1, bit x.vHi), (0, bit x.vLo)])
  | 0x180 => some (fields [(31, bit x.simplex), (30, bit x.survivorB), (0, x.takeovers.toNat)])
  | 0x184 => some (fields [(31, bit x.matched), (16, x.run.toNat), (0, x.diffUv.toNat)])
  | 0x1C0 => some (s.srcStatWord (srcCell k))
  | _ => none

/-! ### System blocks (R548) -/

/-- GLB (R3, R504 … R506). -/
def State.readGlb (s : State) (off : Nat) : Option Word :=
  match off with
  | 0x00 => some 0x64720B01
  | 0x04 => some s.glbAttn
  | 0x08 => some (s.chAttnWord 0)
  | 0x0C => some (s.chAttnWord 32)
  | 0x10 => some (timeLo s.time)
  | 0x14 => some s.host.timeHi
  | 0x80 => some 0
  | _ => none

/-- HOST (R509). -/
def HostPort.read (h : HostPort) (off : Nat) : Option Word :=
  match off with
  | 0x00 => some (fields [(31, bit h.crcReq)])
  | 0x04 => some (fields [(31, bit h.crcErr), (30, bit h.badFrame), (29, bit h.unmapped), (8, h.lastOp.toNat)])
  | 0x08 => some h.crcErrs
  | 0x0C => some h.badFrames
  | 0x10 => some h.defers
  | 0x14 => some h.scratch
  | _ => none

/-- A word of the selected clamp report entry; 0 beyond the count (R48, R83). -/
def Img.clampWord (g : Img) (i : Nat) : Word :=
  match g.clamps[g.clampSel.toNat]? with
  | some c => match i with
    | 0 => fields [(16, c.field.toNat), (0, c.inst.toNat)]
    | 1 => c.offered
    | 2 => c.applied
    | _ => fields [(24, c.reason.code), (0, c.index % 2 ^ 24)]
  | none => 0

/-- The quiesced channels from `n0` on (R70). -/
def State.quietWord (s : State) (n0 : Nat) : Word :=
  fields (allChs.map fun n => (n.val - n0, if n0 ≤ n.val ∧ n.val < n0 + 32 then bit (s.ch n).quiesced else 0))

/-- IMG (R82, R83). -/
def State.readImg (s : State) (off : Nat) : Option Word :=
  let g := s.img
  match off with
  | 0x00 => some 0
  | 0x04 => some (fields [(28, bit g.done), (25, bit g.rejB), (24, bit g.rejA), (16, g.firstCh.toNat), (8, g.result.code), (6, bit g.part),
      (4, g.source.code), (0, g.st.code)])
  | 0x08 => some (g.word.setWidth 32)
  | 0x0C => some 0
  | 0x10 => some (BitVec.ofNat 32 (s.fieldNat 0x0401 0 0))
  | 0x14 => some g.crc
  | 0x18 => some g.clampCount
  | 0x1C => some (g.clampSel.setWidth 32)
  | 0x20 => some (g.clampWord 0)
  | 0x24 => some (g.clampWord 1)
  | 0x28 => some (g.clampWord 2)
  | 0x2C => some (g.clampWord 3)
  | 0x30 => some (s.quietWord 0)
  | 0x34 => some (s.quietWord 32)
  | _ => none

/-- A PLL's five registers (R462, R463). -/
def Pll.read (l : Pll) (off : Nat) : Option Word :=
  match off with
  | 0x00 => some 0
  | 0x04 => some (fields [(16, l.shM.toNat), (0, l.shN.toNat)])
  | 0x08 => some (l.shP.setWidth 32)
  | 0x0C => some (fields [(31, bit l.locked), (30, bit l.refOk), (29, bit l.lol), (28, bit l.lor), (27, bit l.phase.busy), (26, bit l.done),
      (16, l.actP.toNat), (8, l.band.toNat), (0, l.result.code)])
  | 0x10 => some (fields [(16, l.actM.toNat), (0, l.actN.toNat)])
  | _ => none

/-- A band table entry (R464). -/
def Band.word (b : Band) : Word := fields [(31, bit b.valid), (16, b.hi.toNat), (0, b.lo.toNat)]

/-- CLK (R460 … R464). QUALIFYING reads 0, since the qualification of the crystal is no step of its own (see notes/assumptions). -/
def Clk.read (k : Clk) (off : Nat) : Option Word :=
  match off with
  | 0x00 => some (fields [(30, k.guard.code), (29, bit k.unaligned), (28, bit k.refMismatch), (26, k.refClass.code), (0, k.detect.toNat)])
  | 0x04 => some k.guardCount
  | 0x08 => some (fields [(31, bit k.xtal), (30, bit k.xtalLost)])
  | _ =>
    let out (o : ClkOut) : Word := fields [(31, bit o.coast), (30, bit (k.tooFast o)), (24, o.fmt.code), (0, o.divM1.toNat)]
    if off < 0x30 then k.pllA.read (off - 0x10)
    else if off < 0x50 then k.pllB.read (off - 0x30)
    else if h : off % 4 = 0 ∧ 0x50 ≤ off ∧ off < 0x60 then some (out (k.outs[(off - 0x50) / 4]'(by omega)))
    else if h : off % 4 = 0 ∧ 0x100 ≤ off ∧ off < 0x200 then some (k.pllA.bands[(off - 0x100) / 4]'(by omega)).word
    else if h : off % 4 = 0 ∧ 0x200 ≤ off ∧ off < 0x300 then some (k.pllB.bands[(off - 0x200) / 4]'(by omega)).word
    else none

/-- Word 0 of the selected coffer slot (R388). -/
def Flt.slot (f : Flt) : Option FRec := findAt f.coffer f.cofferSel.toNat

/-- FLT (R393 … R398). -/
def State.readFlt (s : State) (off : Nat) : Option Word :=
  let f := s.flt
  let x := f.srcSt f.srcSel
  match off with
  | 0x00 => some f.statWord
  | 0x04 => some f.seq
  | 0x08 => some (f.head.setWidth 32)
  | 0x0C => some f.persistSeq
  | 0x10 => some 0
  | 0x14 => some 0
  | 0x18 => some (fields [(31, bit f.readmitDone), (24, f.readmitRes.code), (20, f.readmitUnit.toNat), (0, f.readmitIndex.toNat)])
  | 0x1C => some (fields [(31, bit (f.conseqs.any fun w => w.isOpen s.ticks)), (0, f.tag.toNat)])
  | 0x20 => some (f.srcSel.setWidth 32)
  | 0x24 => some (x.sticky.extractLsb' 0 32)
  | 0x28 => some (x.sticky.extractLsb' 32 32)
  | 0x2C => some (x.live.extractLsb' 0 32)
  | 0x30 => some (x.live.extractLsb' 32 32)
  | 0x34 => some (s.srcStatWord f.srcSel)
  | 0x38 => some (timeLo x.winStart)
  | 0x40 => some (f.cofferSel.setWidth 32)
  | 0x44 => some (match f.slot with
    | some r => r.word0
    | none => 0)
  | 0x48 => some f.snap1
  | 0x4C => some f.snap2
  | 0x50 => some f.snap3
  | 0x60 => some f.lostCount
  | 0x64 => some f.coalCount
  | 0x68 => some f.overwrites
  | 0x70 => some 0
  | 0x74 => some 0
  | _ => none

/-- The lowest (`lo`) or highest erase count of the good blocks (R414, R431). -/
def Flash.eraseBound (f : Flash) (lo : Bool) : Nat :=
  match f.good.map f.eraseCount with
  | [] => 0
  | c :: l => l.foldl (fun a b => if lo then min a b else max a b) c

/-- CEL (R429 … R431). -/
def State.readCel (s : State) (off : Nat) : Option Word :=
  let c := s.cel
  let f := s.flash
  match off with
  | 0x00 => some 0
  | 0x04 => some (fields [(28, c.st.code), (27, bit c.busy), (26, bit c.done), (16, c.result.code), (8, c.lastCmd.toNat)])
  | 0x08 => some (fields [(31, bit c.quad), (28, bit c.plane), (24, bit c.bigPage), (20, bit c.ppb128), (0, c.blocks.toNat)])
  | 0x0C => some c.id
  | 0x10 => some (if s.celReads then
      fields [(20, if c.st = .sealed then 0 else min 1023 (f.good.length - (f.workingSet + 4))), (10, min 1023 f.free.length), (0, min 1023 f.good.length)]
      else 0)
  | 0x14 => some (if s.celReads then BitVec.ofNat 32 (f.eraseBound true) else 0)
  | 0x18 => some (if s.celReads then BitVec.ofNat 32 (f.eraseBound false) else 0)
  | 0x1C => some c.clock
  | 0x20 => some c.boot
  | 0x24 => some (fields [(24, c.corrMax.toNat), (0, min c.pass.length 65535)])
  | 0x28 => some c.refreshes
  | 0x2C => some c.retires
  | 0x30 => some c.ues
  | 0x40 => some (fields [(31, bit c.readHistory), (0, c.readBack.toNat)])
  | 0x44 => some (fields [(31, bit c.ready), (30, bit c.none_), (29, bit c.readUe)])
  | _ => if h : off % 4 = 0 ∧ 0x48 ≤ off ∧ off < 0x68 then some (c.data[(off - 0x48) / 4]'(by omega)) else none

/-- LNK_PORT_p (R493). -/
def PortSt.word (p : PortSt) : Word :=
  fields [(29, p.st.code), (28, bit p.peer.isSome), (16, (p.peer.getD 0).toNat), (0, p.lat.toNat)]

/-- LNK (R492, R493). -/
def State.readLnk (s : State) (off : Nat) : Option Word :=
  let l := s.lnk
  match off with
  | 0x00 => some 0
  | 0x04 => some (fields [(31, bit l.root), (30, bit l.enumBusy), (29, bit l.enumDone), (28, bit l.refusedFlag), (27, bit l.dup), (4, l.depth.toNat),
      (0, l.lead.toNat)])
  | 0x08 => some (fields [(31, bit l.idStraps), (16, l.strap.toNat), (0, l.devId.toNat)])
  | 0x0C => some (if l.root then fields [(16, l.maxDepth.toNat), (0, l.devices.toNat)] else 0)
  | 0x30 => some (l.rootLat.setWidth 32)
  | 0x34 => some (fields [(31, bit l.epochResync), (0, l.epochNo.toNat)])
  | 0x38 => some l.offset
  | 0x3C => some l.steps
  | 0x40 => some (fields [(31, bit l.fwdBusy), (30, bit l.fwdDone), (24, l.fwdError.code), (16, l.fwdCount.toNat), (0, l.fwdDev.toNat)])
  | _ =>
    if h : off % 4 = 0 ∧ 0x10 ≤ off ∧ off < 0x20 then some (l.ports[(off - 0x10) / 4]'(by omega)).word
    else if h : off % 4 = 0 ∧ 0x20 ≤ off ∧ off < 0x30 then some (l.ports[(off - 0x20) / 4]'(by omega)).errs
    else if h : off % 4 = 0 ∧ 0x100 ≤ off ∧ off < 0x200 then some (l.fwdBuf[(off - 0x100) / 4]'(by omega))
    else if off % 4 = 0 ∧ 0x400 ≤ off ∧ off < 0x600 then some (devBits s.attnDevs ((off - 0x400) / 4))
    else if off % 4 = 0 ∧ 0x600 ≤ off ∧ off < 0x800 then some (devBits s.graveDevs ((off - 0x600) / 4))
    else none

/-- The lowest value over the awake bays, 0 without one (R529). -/
def State.lowestAwake (s : State) (f : BaySt → Nat) : Nat :=
  match (allBayIxs.filter fun b => (s.bay b).awake).map fun b => f (s.bay b) with
  | [] => 0
  | x :: l => l.foldl min x

/-- One bit per bay. -/
def State.bayBits (s : State) (f : BaySt → Bool) : Nat := allBayIxs.foldl (fun a b => a + bit (f (s.bay b)) * 2 ^ b.val) 0

/-- PWR (R528, R529). -/
def State.readPwr (s : State) (off : Nat) : Option Word :=
  let p := s.pwr
  match off with
  | 0x00 => some (fields [(31, bit p.pllSleep), (0, p.holdAwake.toNat)])
  | 0x04 => some (fields [(31, bit p.govHit), (30, bit p.keeper), (29, bit p.railWait), (28, bit p.railWaited), (27, bit s.clk.pllOff),
      (0, p.step.code)])
  | 0x08 => some (p.limitMw.setWidth 32)
  | 0x0C => some (fields [(16, p.totalMw.toNat), (0, p.ceilMw.toNat)])
  | 0x10 => some (fields [(16, s.lowestAwake fun b => b.vposMv.toNat), (0, s.lowestAwake fun b => b.vnegMv.toNat)])
  | 0x14 => some (fields [(8, s.bayBits (·.waking)), (0, s.bayBits (·.awake))])
  | 0x18 => some p.startTicks
  | _ => none

/-- ATT_BAY_b (R359). -/
def BayMig.word (m : BayMig) : Word :=
  fields [(31, bit m.busy), (30, bit m.done), (24, m.phase.code), (20, m.result.code), (8, cellCode m.newCell), (0, cellCode m.oldCell)]

/-- ATT (R356 … R359). -/
def State.readAtt (s : State) (off : Nat) : Option Word :=
  let a := s.att
  match off with
  | 0x00 => some 0
  | 0x04 => some (fields [(31, bit a.homecoming), (30, bit a.useNominal), (0, a.tolUv.toNat)])
  | 0x08 => some (fields (allBayIxs.map fun b => (4 * b.val, (s.spares b).length)))
  | 0x0C => some (fields ((List.finRange 7).map fun g => (g.val, bit (a.bridge[g.val]).isSome)))
  | 0x10 => some a.migrations
  | 0x14 => some a.rejects
  | 0x18 => some a.arbLosses
  | 0x20 => some (fields [(31, bit a.ue), (30, bit a.exhausted), (0, a.spareRows)])
  | 0x24 => some (a.ueAddr.setWidth 32)
  | 0x28 => some a.ce
  | _ => if h : off % 4 = 0 ∧ 0x40 ≤ off ∧ off < 0x60 then some (a.bays[(off - 0x40) / 4]'(by omega)).word else none

/-! ### The whole map (R547) -/

/-- A word of a system block: the block in address bits [15:12]. -/
def State.readBlock (s : State) (blk off : Nat) : Option Word :=
  match blk with
  | 0 => s.readGlb off
  | 1 => s.host.read off
  | 2 => s.readImg off
  | 3 => s.clk.read off
  | 4 => s.readFlt off
  | 5 => s.readCel off
  | 6 => s.readLnk off
  | 7 => s.readPwr off
  | 8 => s.readAtt off
  | _ => none

/-- The word at a byte address as a host read returns it, without side effects; `none` where the address is unmapped (R551). -/
def State.readWord (s : State) (a : Addr) : Option Word :=
  let x := a.toNat
  if x < 0x010000 then s.readBlock (x / 0x1000) (x % 0x1000)
  else if h : x < 0x020000 then s.readCh ⟨(x - 0x010000) / 0x400, by omega⟩ (x % 0x400)
  else if h : x < 0x032000 then
    if hx : 0x020000 ≤ x then s.readCell ⟨(x - 0x020000) / 0x400, by omega⟩ (x % 0x400) else none
  else if x % 4 ≠ 0 then none
  else if 0x100000 ≤ x ∧ x < 0x308000 then some (s.memWord x)
  else if 0x308000 ≤ x ∧ x < 0x318000 then some 0
  else none

end Sys2Proof.Machine
end

