-- ==== Sys2Proof/Machine/ImgOps.lean ====
section
/-! DEFINITION. The image loader as shared operations: slots, judging a copy, rejecting it and the start of its swap (R42, R43, R71 … R82). -/

namespace Sys2Proof.Machine



/-- A slot write runs or waits in the cellar (R81, R425). -/
def Cel.slotWriting (c : Cel) : Bool :=
  let one (w : CelWork) : Bool := match w with
    | .command x => x == 2 || x == 3
    | _ => false
  c.work.any one || c.running.any one

/-- The staging buffer is in use: no staging action (R79, R81, R425). -/
def State.stagingBusy (s : State) : Bool := s.img.st == .boot || s.img.st == .loading || s.cel.slotWriting

def State.upImg (s : State) (f : Img → Img) : State := { s with img := f s.img }

/-! ### Slots (R78, R408, R425) -/

/-- The slot that a source names. -/
def slotRegion : ImgSource → Option Region
  | .slotA => some .slotA
  | .slotB => some .slotB
  | _ => none

/-- The bytes of a slot; `none` when the cellar cannot read it or its ECC cannot correct it, or when it holds nothing (R42). -/
def State.slotBytes (s : State) (r : Region) : Option (List Byte) :=
  if s.celReads then
    match s.flash.content r (262144 / s.flash.pageSize) 0 with
    | some [] => none
    | x => x
  else none

/-- A slot's bytes lie in the staging buffer, 0 behind them (R81). -/
def Img.stageBytes (g : Img) (b : List Byte) : Img :=
  let m : Memory := (b.zipIdx).foldl (fun (m : Memory) (x : Byte × Nat) => writeByte stageBackground m x.2 x.1) []
  { g with stage := m, written := b.length, stageUe := false }

/-! ### A load attempt (R42, R43, R71 … R73) -/

/-- The ends of a load attempt: a code with FIRST_CH, or a job that waits for its swap. -/
abbrev Verdict := Except (ImgResult × BitVec 8) LoadJob

/-- A copy that parses, judged against the structure in force (R42, R46, R71, R72). -/
def State.judgeCopy (s : State) (src : ImgSource) (c : ImgCopy) : Verdict :=
  if c.part && s.img.st != .ready then .error (.needsFull, 0xFF)
  else
    let k := loadWork s.img.vals c
    match s.firstUnquiet (s.required k.vals c []) with
    | some n => .error (.notQuiescent, BitVec.ofNat 8 n.val)
    | none => .ok { src := src, part := c.part, vals := k.vals, sets := k.sets, sections := c.sections.map (·.1), clamps := k.clamps,
                    count := k.count, crc := c.crc, required := s.required k.vals c k.sets, beads := k.beads }

/-- The copy in the staging buffer, of which `avail` bytes count, for the device ID `id`. -/
def State.judgeStaged (s : State) (src : ImgSource) (avail : Nat) (id : BitVec 12) : Verdict :=
  match parseImage (readByte stageBackground s.img.stage) avail id s.img.stageUe with
  | .error r => .error (r, 0xFF)
  | .ok c => s.judgeCopy src c

/-- A load attempt ends rejected: nothing changes but the loader's result (R42, R43, R82), and one message is raised (R367). -/
def State.rejectLoad (s : State) (src : ImgSource) (r : ImgResult) (first : BitVec 8) : State :=
  let s := s.upImg fun g => { g with result := r, done := true, firstCh := first, job := none }
  match src with
  | .slotA => s.post srcImage 0 (r.code * 2 ^ 24)
  | .slotB => s.post srcImage 0 (r.code * 2 ^ 24 + 1)
  | _ => s.post srcImage 2 (r.code * 2 ^ 24)

/-- An accepted copy waits for its swap with STATE at LOADING. -/
def State.startLoad (s : State) (j : LoadJob) : State :=
  s.upImg fun g => { g with before := g.st, st := .loading, job := some j }

/-- A host or slot load that the host commands (R79, R80): it waits for its swap, or is rejected. -/
def State.load (s : State) (src : ImgSource) : State :=
  match slotRegion src with
  | none =>
    match s.judgeStaged src s.img.written s.lnk.devId with
    | .ok j => s.startLoad j
    | .error e => s.rejectLoad src e.1 e.2
  | some r =>
    let s := s.send (s.regionReads r)
    match s.slotBytes r with
    | none => s.rejectLoad src .slotUnreadable 0xFF
    | some b =>
      let s := s.upImg fun g => g.stageBytes b
      match s.judgeStaged src 262144 s.lnk.devId with
      | .ok j => s.startLoad j
      | .error e => s.rejectLoad src e.1 e.2

/-- STATE returns to the one that the load left (R82). -/
def State.unload (s : State) : State := s.upImg fun g => if g.st = .loading then { g with st := g.before } else g

/-- The job that waits ends rejected. -/
def State.endLoad (s : State) (r : ImgResult) (first : BitVec 8) : State :=
  match s.img.job with
  | some j => s.unload.rejectLoad j.src r first
  | none => s

/-! ### The swap's turn (R72, R73, R75) -/

/-- A load with BAYS or CHANNELS waits for the migrations that run (R75). -/
def State.swapWaits (s : State) (j : LoadJob) : Bool :=
  (j.carries 0x02 || j.carries 0x03) && allBayIxs.any fun b => (s.mig b).busy

/-- The boundary at which a waiting load swaps, or fails the second quiescence check. -/
def State.swapNow (s : State) (j : LoadJob) : State :=
  match s.firstUnquiet j.required with
  | some n => s.endLoad .notQuiescent (BitVec.ofNat 8 n.val)
  | none => s.swapImage j

/-! ### IMG_CTRL (R80, R81) -/

/-- LOAD_HOST, LOAD_SLOT_A or LOAD_SLOT_B: ignored in BOOT and LOADING, and with a Note while a slot write runs. -/
def State.loadBit (s : State) (src : ImgSource) : State :=
  if s.img.st = .boot ∨ s.img.st = .loading then s
  else if s.cel.slotWriting then s.noteImg 0x2000
  else s.load src

/-- STAGE_CLEAR. -/
def State.stageClear (s : State) : State :=
  if s.stagingBusy then s.noteImg 0x2000 else s.upImg fun g => { g with stage := [], written := 0, word := 0, stageUe := false }

/-- ABORT: no effect without a load in progress. -/
def State.imageAbort (s : State) : State := if s.img.st = .loading then s.endLoad .aborted 0xFF else s

/-- A write to IMG_CTRL: one action, or ABORT with a load bit, which the state before the write judges: in LOADING only ABORT acts, otherwise
only the load. Other combinations are ignored with a Note. -/
def State.imgCtrl (s : State) (v : Word) : State :=
  let load := bits v 0 3
  let abort := v.getLsbD 3
  if (load ≠ 0 ∧ load ≠ 1 ∧ load ≠ 2 ∧ load ≠ 4) ∨ (v.getLsbD 4 = true ∧ (abort = true ∨ load ≠ 0)) then s.noteImg 0x2000
  else if v.getLsbD 4 then s.stageClear
  else if s.img.st = .loading then s.when abort State.imageAbort
  else match load with
  | 1 => s.loadBit .host
  | 2 => s.loadBit .slotA
  | 4 => s.loadBit .slotB
  | _ => s

/-- A write to IMG_STAGE_DATA (R79, R83). -/
def State.stageData (s : State) (v : Word) : State :=
  if s.stagingBusy then s.noteImg 0x200C
  else s.upImg fun g =>
    { g with stage := writeMemWord stageBackground g.stage (4 * g.word.toNat) v, written := max g.written (4 * g.word.toNat + 4), word := g.word + 1 }

end Sys2Proof.Machine
end

