-- ==== Sys2Proof/Machine/Boot.lean ====
section
/-! DEFINITION. Resets and the start-up sequence as shared operations (R44, R78, R106, R108, R390, R512 … R514, R554). -/

namespace Sys2Proof.Machine

def State.upPwr (s : State) (f : Pwr → Pwr) : State := { s with pwr := f s.pwr }

/-! ### Resets (R512, R554) -/

/-- A keeper as the logic's reset leaves it: an armed one holds, since the toggles end, and every flag reads its reset value. -/
def Keeper.atReset (k : Keeper) (sag : Bool) : Keeper := { hold := !sag && (k.armed || k.hold), clamp := k.clamp }

/-- A cell as the logic's reset leaves it: a keeper that holds keeps the switch as it is. -/
def Cell.atReset (x : Cell) (k : CellIx) (sag : Bool) : Cell :=
  let q := x.keeper.atReset sag
  { Cell.reset k with keeper := q, stage := if q.hold then .hold else .off, switchOn := x.switchOn && q.hold, boostOn := x.boostOn && q.hold }

/-- All logic resets and is held: every field at its reset value but those that R554 keeps. `sag`: an always-on power-on reset, which
resets always-on time and the crystal and before which every keeper has opened. -/
def State.logicReset (s : State) (source : BitVec 2) (sag : Bool) (jtag : Jtag) : State :=
  let r := State.reset
  { r with
    pending := s.pending, draws := s.draws, flash := s.flash, jtag := jtag,
    ticks := if sag then 0 else s.ticks, frac := if sag then 0 else s.frac,
    clk := if sag then r.clk else { r.clk with xtal := s.clk.xtal, xtalLost := s.clk.xtalLost },
    cells := tabulate 72 fun k => (s.cell k).atReset k sag,
    flt := { r.flt with coffer := [] },
    pwr := { r.pwr with inReset := true, source := source } }

/-- RESET_N and the JTAG reset do nothing while the Grave latch holds (R377). -/
def State.softReset (s : State) (source : BitVec 2) (jtag : Jtag) : State := if s.flt.grave then s else s.logicReset source false jtag

/-! ### Start-up (R513) -/

/-- A start-up load of one slot, judged against the straps (R78): the swap, or its rejection. -/
def State.bootSlot (s : State) (src : ImgSource) (r : Region) : State :=
  match s.slotBytes r with
  | none => s.rejectLoad src .slotUnreadable 0xFF
  | some b =>
    let s := s.upImg fun g => g.stageBytes b
    match s.judgeStaged src 262144 s.lnk.strap with
    | .ok j => s.swapImage j
    | .error e => s.rejectLoad src e.1 e.2

/-- Step IMAGE: slot A, then slot B, then bare structure, whose entry is reported (R43, R44, R78). -/
def State.bootImage (s : State) : State :=
  let s := s.bootSlot .slotA .slotA
  if s.img.st = .ready then s
  else
    let s := (s.upImg fun g => { g with rejA := true }).bootSlot .slotB .slotB
    if s.img.st = .ready then s else (s.upImg fun g => { g with rejB := true, st := .bare }).post srcImage 1 0

/-- Step REST ends, and start-up with it, when no rest sequence runs. -/
def State.bootDone (s : State) : State :=
  match s.pwr.boot with
  | some b =>
    if s.pwr.step = .rest && allChs.all fun n => !(s.ch n).force.resting then
      s.upPwr fun p => { p with step := .done, boot := none, startTicks := BitVec.ofNat 32 b.ticks }
    else s
  | none => s

/-- Step REST: every enabled channel runs the rest sequence. -/
def State.bootRest (s : State) : State := ((s.upPwr fun p => { p with step := .rest }).restWaiting).bootDone

/-- Step RAILS, which bare structure skips (R514). -/
def State.bootRails (s : State) : State :=
  if s.img.st = .bare then s.bootRest
  else if s.railsOk then (s.upPwr fun p => { p with gateDone := true, railWait := false }).bootRest
  else s.upPwr fun p => { p with step := .rails, railWait := true, railWaited := true }

/-- Every bay is awake from the start of the core clock (DEDUCED, see notes/assumptions), its supplies as the rails stand. -/
def State.wakeAll (s : State) (b : BootIn) : State :=
  let s := s.allBays fun _ x => { x with awake := true, waking := false, idle := 0, vposMv := b.vpos, vnegMv := b.vneg }
  s.allCells fun _ x => { x with awake := x.role == .active }

/-- Steps LOCKETS and LIBRARY, which an unformatted or missing cellar skips (R187, R410). -/
def State.bootCellar (s : State) : State :=
  if s.celReads then ((s.send (s.regionReads .lockets)).each allCellIxs fun k s => s.applyLocket k).restoreLibrary else s

/-- Start-up from step CELLAR on (R513). The rest table is read before the image, whose REST section replaces it where it carries one (R69). -/
def State.bootRun (s : State) (b : BootIn) : State :=
  let s := ((s.wakeAll b).celStart b.nandId).bootCellar
  let s := s.restoreRest.bootImage
  (s.each allChs fun n s => s.refresh n).bootRails

/-- Start-up goes on once both PLLs have held their lock (R436). -/
def State.bootNext (s : State) : State :=
  match s.pwr.boot with
  | some b => if s.pwr.step = .clocks && s.clk.pllA.held && s.clk.pllB.held then s.bootRun b else s
  | none => s

/-- A reset is released: keepers that hold open their switches, the straps are sampled, POWER_UP is written, and start-up runs as far as the
clocks allow (R390, R436, R472, R512, R513). -/
def State.release (s : State) (b : BootIn) : State :=
  let s := s.allCells fun k _ => Cell.reset k
  let s := { s with lnk := { s.lnk with strap := b.straps }, pwr := { s.pwr with inReset := false, boot := some b },
                    flt := { s.flt with coffer := [(0, { powerUpRecord (s.pwr.source.setWidth 32) with time := timeLo s.ticks })] } }
  match b.refEdges with
  | none => s
  | some e =>
    let s := s.detected e
    if b.locked then ((((s.lockAcquired .a).lockAcquired .b).lockHeld .a).lockHeld .b).bootNext else s

end Sys2Proof.Machine
end

