-- ==== Sys2Proof/Machine/Clock.lean ====
section
/-! DEFINITION. The clock family: detection, lock and loss, commits, band measurements, CLKOUT and the always-on crystal
(R434 … R457). -/

namespace Sys2Proof.Machine

/-- REF_DETECTION_END (R434 … R436): the count of REFIN edges ends in step CLOCKS. -/
def execRefDetectionEnd (edges : Nat) (s : State) : Host.Outcome State Fault Refusal :=
  .next (s.live fun s => if s.pwr.step = .clocks ∧ s.clk.refClass = .unfinished then s.detected edges else s)

/-- PLL_LOCK_ACQUIRED (R443). -/
def execPllLockAcquired (p : PllId) (s : State) : Host.Outcome State Fault Refusal := .next (s.live fun s => s.lockAcquired p)

/-- PLL_LOCK_LOST (R443, R447, R453, R456). -/
def execPllLockLost (p : PllId) (s : State) : Host.Outcome State Fault Refusal :=
  .next (s.live fun s =>
    let l := s.clk.pll p
    if l.locked then
      let quiet := l.phase == .committing || l.phase == .measuring
      let s := s.upPll p fun l => { l with locked := false, held := false, lol := l.lol || (l.refOk && !quiet) }
      match p with
      | .a => s.leaveVco8 .vco16
      | .b => (s.outsStop false).portsStop.unalign
    else s)

/-- LOCK_HOLD_END (R436, R440, R447): the guard enters VCO8, or the outputs and ports restart; in step CLOCKS start-up goes on once both
PLLs have held. -/
def execLockHoldEnd (p : PllId) (s : State) : Host.Outcome State Fault Refusal := .next (s.live fun s => (s.lockHeld p).bootNext)

/-- RELOCK_RETRY (R440): a commit that has not locked selects its band again. -/
def execRelockRetry (p : PllId) (s : State) : Host.Outcome State Fault Refusal :=
  .next (s.live fun s =>
    let l := s.clk.pll p
    if (l.phase = .committing ∨ l.phase = .measuring) ∧ l.locked = false then s.upPll p fun l => l.selectBand s.clk.refClass.khz else s)

/-- REF_LOST (R444, R451): both charge pumps float and both VCOs coast. -/
def execRefLost (s : State) : Host.Outcome State Fault Refusal :=
  .next (s.live fun s =>
    if s.clk.pllA.refOk || s.clk.pllB.refOk then
      let lose (l : Pll) : Pll := { l with refOk := false, lor := true, locked := false, held := false }
      (((s.upClk fun k => { k with pllA := lose k.pllA, pllB := lose k.pllB }).leaveVco8 .vco16).outsStop false).portsStop.unalign
    else s)

/-- REF_RETURN (R444, R452): the reference is accepted again. -/
def execRefReturn (s : State) : Host.Outcome State Fault Refusal :=
  .next (s.live fun s =>
    let back (l : Pll) : Pll := { l with refOk := l.refOk || l.phase != .off }
    if s.clk.refClass.khz = 0 then s else s.upClk fun k => { k with pllA := back k.pllA, pllB := back k.pllB })

/-- PLL_COMMIT: a COMMIT write is judged and acts at the boundary that samples it (R439, R440). -/
def execPllCommit (p : PllId) (s : State) : Host.Outcome State Fault Refusal := .next (s.hostAct fun s => s.commitPll p)

/-- PLL_BAND_MEASURE: a MEASURE write (R441), with the low and the high frequency in kHz that each band is found to have. -/
def execPllBandMeasure (p : PllId) (khz : List (Nat × Nat)) (s : State) : Host.Outcome State Fault Refusal :=
  .next (s.hostAct fun s => s.measureBands p khz)

/-- CLKOUT_WRITE (R455, R464). -/
def execClkoutWrite (x : Fin 4) (v : Word) (s : State) : Host.Outcome State Fault Refusal := .next (s.hostAct fun s => s.writeClkout x v)

/-- XTAL_QUALIFIED (R457): the crystal drives the always-on domain. -/
def execXtalQualified (s : State) : Host.Outcome State Fault Refusal := .next (s.upClk fun k => { k with xtal := true })

/-- XTAL_LOST (R457): the domain returns to the RC oscillator. -/
def execXtalLost (s : State) : Host.Outcome State Fault Refusal :=
  .next (if s.clk.xtal then s.upClk fun k => { k with xtal := false, xtalLost := true } else s)

end Sys2Proof.Machine
end

