-- ==== Sys2Proof/Machine/Fault.lean ====
section
/-! DEFINITION. The fault family: messages, reactions, the coffer, acknowledgement, re-admission, ALIVE and injection (R361 … R398). -/

namespace Sys2Proof.Machine

/-! ### Messages and conditions -/

/-- FAULT_MESSAGE (R369, R370). A code that is not listed is never sent (R368). -/
def execFaultMessage (src : BitVec 10) (kind : BitVec 6) (addr : Word) (s : State) : Host.Outcome State Fault Refusal :=
  .next (s.live fun s => s.collect { src := src, kind := kind, addr := addr })

/-- FAULT_CONDITION_END (R379): the condition behind a live kind ends. -/
def execFaultConditionEnd (src : BitVec 10) (kind : BitVec 6) (s : State) : Host.Outcome State Fault Refusal :=
  .next (s.live fun s => s.endLive src kind.toNat)

/-- CONSEQ_WINDOW_END (R378). -/
def execConseqWindowEnd (src : BitVec 10) (s : State) : Host.Outcome State Fault Refusal :=
  .next (s.live fun s => s.upFlt fun f => { f with conseqs := f.conseqs.filter fun w => w.src != src || w.isOpen s.ticks })

/-! ### Reactions (R374, R376) -/

/-- The channel that a cell carries or lends to, by CH_MAP. -/
def State.channelOf (s : State) (k : CellIx) : Option Ch := allChs.find? fun n => (s.ch n).map.cell == some k

/-- A channel goes to rest at once (R108). -/
def State.restNow (s : State) (n : Ch) : State :=
  (((s.endStrand n .stopped .fault .now true).restStart n).startRanging n).refresh n

/-- A cell that carries no enabled channel leaves service at once; its channel is left without a cell. -/
def State.fenceIdle (s : State) (k : CellIx) : State :=
  let old := s
  let s := s.upCell k fun x => x.retire true
  match old.channelOf k with
  | some n => (s.upCh n fun c => { c with map := { c.map with cell := none } }).remapped old
  | none => s

/-- The reaction on a cell (R332, R374): a spare or a shadow leaves at once; a carrying cell keeps its channel until the migration that is
requested now, with the channel's output open first for a cold kind. -/
def State.reactCell (s : State) (k : CellIx) (kind : BitVec 6) : State :=
  match (s.cell k).role with
  | .fenced => s
  | .spare | .shadow =>
    match allBayIxs.find? fun b => (s.mig b).runs && (s.mig b).newCell == some k with
    | some b => s.rejectSpare b none
    | none => s.upCell k fun x => x.retire true
  | .active | .member =>
    match s.channelOf k with
    | some n =>
      if (s.ch n).decl.enabled then
        let s := s.upCell k fun x => { x with condemned := true }
        let s := if coldKind kind then (s.endStrand (s.pins n) .stopped .fault .now true).openSwitch (s.pins n) .opened else s
        s.request { ch := n, cause := .fault, keepOld := false, cold := coldKind kind }
      else s.fenceIdle k
    | none => s.fenceIdle k

/-- The reaction on a channel (R374): it goes to rest and AVAIL reads 0; a migration of it is abandoned (R344). A failed matrix switch
fences it by R350. -/
def State.reactChannel (s : State) (n : Ch) (m : Msg) : State :=
  match srcGroup m.src with
  | .bay _ =>
    let s := s.abandonFor n
    if (s.ch n).map.claspSize = 0 then (s.loseChannel n .noCell 7 false).showResult n .noSpare (s.ch n).map.cell else s.fenceClasp n
  | _ =>
    if m.kind = 7 ∨ m.kind = 9 then s
    else (((s.abandonFor n).restNow n).upCh n fun c => { c with fence := .atRest, map := { c.map with avail := false } }).remapped s

/-- The reaction on a bay (R374): every available channel of it goes to rest as a fenced channel, and no migration involves the bay. -/
def State.reactBay (s : State) (b : Bay) : State :=
  let old := s
  let ns := (bayChs b).filter fun n => (s.ch n).map.avail
  let s := s.abandonMig b
  let s := s.each ns fun n s =>
    (((s.abandonFor n).restNow n).upCh n fun c => { c with fence := .atRest, map := { c.map with avail := false } }).upFlt fun f => f.fence (srcCh n)
  let s := s.each (allBayIxs.filter fun a => (s.mig a).runs && (s.mig a).lender == some b) fun a s => s.abandonMig a
  (s.upBay b fun x => { x with fenced := true, sent := ns }).remapped old

/-- The reaction on a bridge (R374): the channel it carries goes home, or is fenced by R350. -/
def State.reactBridge (s : State) (g : Fin 7) : State :=
  let s := s.each (allBayIxs.filter fun a => (s.mig a).runs && (s.mig a).bridge == some g) fun a s => s.abandonMig a
  match s.att.bridge[g.val] with
  | some n =>
    if (s.spares (chBay n)).isEmpty then (s.loseChannel n .noCell 7 false).showResult n .noSpare (s.ch n).map.cell
    else s.request { ch := n, cause := .homecoming, keepOld := true, cold := false }
  | none => s

/-- The reaction on the cellar (R374, R421): no further flash access; the confirmation of R338 passes on the applied copies. -/
def State.reactCellar (s : State) : State :=
  let s := { s with cel := { s.cel with st := .fenced, work := [], running := none, busy := false } }
  let s := s.upFlt fun f => { f with persistOff := true }
  s.upAtt fun a => { a with bays := a.bays.map fun m => { m with confirmed := m.confirmed || m.runs } }

/-- A Major reaction takes effect (R374, R375). -/
def State.reactMajor (s : State) (r : Reaction) : State :=
  let s := s.upFlt fun f => f.fence r.unit
  match srcGroup r.unit with
  | .cell k => s.reactCell k r.msg.kind
  | .channel n => s.reactChannel n r.msg
  | .bay b => s.reactBay b
  | .bridge g => s.reactBridge g
  | .cellar => s.reactCellar
  | .link p => { s with lnk := { s.lnk with ports := s.lnk.ports.set p.val { s.lnk.ports[p.val] with st := .fenced } } }
  | _ => s

/-- The boundary after the Grave latch (R344, R376): strands end with FAULT, every channel runs its rest sequence with its loops open, early
migrations are abandoned, and the cellar is left with the final persistence alone. -/
def State.reactGrave (s : State) : State :=
  let s := s.upAtt fun a => { a with requests := [] }
  let s := s.each allBayIxs fun b s => s.abandonMig b
  let s := s.each allChs fun n s => (s.restNow n).upCh n Chan.openLoops
  let keep (w : CelWork) : Bool := match w with
    | .confirm _ _ | .readLocket _ _ | .storeLocket _ _ (some _) => true
    | _ => false
  ({ s with cel := { s.cel with work := s.cel.work.filter keep } }).celAsk .persist

/-- A reaction takes effect. -/
def State.react (s : State) (r : Reaction) : State := if r.cls = .grave then s.reactGrave else s.reactMajor r

/-- FAULT_REACTION (R375): the reactions that wait take effect at this boundary, in the order in which they were classified. -/
def execFaultReaction (s : State) : Host.Outcome State Fault Refusal :=
  .next (s.live fun s => (s.upFlt fun f => { f with reactions := [] }).each s.flt.reactions fun r s => s.react r)

/-! ### The coffer (R383 … R390) -/

/-- A full coffer gives up a slot (R387): the persisted record with the lowest sequence number that is a Note or acknowledged, otherwise
the record with the lowest one of all. -/
def Flt.victim (f : Flt) : Nat :=
  let ok (x : Nat × FRec) : Bool := f.persisted.contains x.1 && (x.2.cls == .note || x.2.acked)
  match (f.coffer.filter ok).foldl (fun l x => insertSlot x l) [] with
  | x :: _ => x.1
  | [] => match f.coffer.foldl (fun l x => insertSlot x l) [] with
    | x :: _ => x.1
    | [] => 0

/-- The next sequence number: 0 is skipped (R386). -/
def nextSeqNo (q : Word) : Word := if q = 0xFFFFFFFF then 1 else q + 1

/-- A record is written into a slot with the next sequence number; its live flag is the live bit now (R379, R386). -/
def Flt.writeRecord (f : Flt) (r : FRec) : Flt :=
  let full := decide (4096 ≤ f.coffer.length)
  let slot := if full then f.victim else f.coffer.length
  let q := nextSeqNo f.seq
  let live := ((f.srcSt r.src).live).getLsbD r.kind.toNat
  { f with coffer := insertAt f.coffer slot { r with seq := q, live := live }, seq := q, head := BitVec.ofNat 12 slot,
           persisted := f.persisted.filter fun x => x != slot, overwrites := if full then satInc f.overwrites else f.overwrites }

/-- The counter with the earliest first time. -/
def earliest : List Coal → Option Coal
  | [] => none
  | c :: l => match earliest l with
    | some d => if d.first < c.first then some d else some c
    | none => some c

/-- A coalesce counter as a record (R384). -/
def Coal.toRec (c : Coal) : FRec :=
  { src := c.src, kind := c.kind, cls := c.cls, conseq := c.conseq, coalesced := true, escalated := c.escalated, live := false, acked := false,
    injected := false, tag := c.tag, addr := BitVec.ofNat 32 (c.count * 65536 + min (c.last - c.first) 65535), time := BitVec.ofNat 32 c.first, seq := 0 }

/-- While the FIFO holds fewer than 32 messages the earliest counter enters it and is freed (R384). -/
def Flt.drainCoal (f : Flt) : Flt :=
  if f.fifo.length < 32 then
    match earliest f.coal with
    | some c => { f with fifo := f.fifo ++ [c.toRec], coal := f.coal.filter fun d => !(d.src == c.src && d.kind == c.kind),
                         coalCount := satInc f.coalCount }
    | none => f
  else f

/-- When messages were lost and the FIFO has room again, one LOST record is written (R385). -/
def State.reportLost (s : State) : State :=
  if s.flt.lost && !s.flt.lostWritten && decide (s.flt.fifo.length < 56) then
    (s.upFlt fun f => { f with lostWritten := true }).post srcCollector 1 s.flt.lostCount.toNat
  else s

/-- COFFER_WRITE (R383): the collector writes the FIFO's first record. -/
def execCofferWrite (s : State) : Host.Outcome State Fault Refusal :=
  .next (s.live fun s =>
    let s := match s.flt.fifo with
      | r :: l => s.upFlt fun f => ({ f with fifo := l }).writeRecord r
      | [] => s
    (s.upFlt Flt.drainCoal).reportLost)

/-- A persistence is due (R389, R412): a record of class Minor or above or a history entry waits, 256 Notes have gathered, or the oldest is
3,600 s old. -/
def State.persistDue (s : State) : Bool :=
  let l := s.flt.unpersisted
  !s.att.history.isEmpty || (l.any fun x => x.2.cls != .note) || decide (256 ≤ l.length) ||
    match l with
    | x :: _ => decide (3600 * 32768 ≤ (BitVec.ofNat 32 s.ticks - x.2.time).toNat)
    | [] => false

/-- COFFER_PERSIST (R389). A sealed or fenced cellar persists nothing. -/
def execCofferPersist (s : State) : Host.Outcome State Fault Refusal :=
  .next (s.live fun s => if s.celWrites && !s.flt.persistOff && s.persistDue then s.persistAll.persistEnd s.flt.grave else s)

/-! ### Acknowledgement (R380, R395) -/

/-- What an FLT_ACK names: every code, a source's, or one. -/
def ackNames (v : Word) (src : BitVec 10) (kind : BitVec 6) : Bool :=
  v.getLsbD 31 || (src == v.extractLsb' 0 10 && (v.getLsbD 30 || kind == v.extractLsb' 16 6))

/-- The sticky bits of a source that an FLT_ACK leaves. -/
def ackMask (v : Word) (src : BitVec 10) : BitVec 64 :=
  if v.getLsbD 31 then 0
  else if src = v.extractLsb' 0 10 then (if v.getLsbD 30 then 0 else ~~~ (1#64 <<< bits v 16 6))
  else BitVec.allOnes 64

/-- A source after an acknowledgement: without a sticky bit its unacknowledged flags clear. -/
def SrcSt.ack (x : SrcSt) (mask : BitVec 64) : SrcSt :=
  let x := { x with sticky := x.sticky &&& mask }
  if x.sticky = 0 then { x with unackMinor := false, unackMajor := false } else x

/-- The acknowledgement of R380. -/
def Flt.acknowledge (f : Flt) (v : Word) : Flt :=
  { f with srcs := f.srcs.map fun x => (x.1, if ackMask v (BitVec.ofNat 10 x.1) = BitVec.allOnes 64 then x.2 else x.2.ack (ackMask v (BitVec.ofNat 10 x.1))),
           coffer := f.coffer.map fun x => (x.1, if ackNames v x.2.src x.2.kind then { x.2 with acked := true } else x.2) }

/-- FLT_ACK. It acts at Grave too (R377). -/
def execFltAck (v : Word) (s : State) : Host.Outcome State Fault Refusal := .next (s.live fun s => s.upFlt fun f => f.acknowledge v)

/-! ### Re-admission (R381, R382, R396) -/

/-- The source of the unit that a FLT_READMIT names. -/
def readmitUnit (v : Word) : Option (BitVec 10) :=
  let i := bits v 0 10
  match bits v 24 4 with
  | 0 => if i < 72 then some (BitVec.ofNat 10 i) else none
  | 1 => if i < 64 then some (BitVec.ofNat 10 (0x80 + i)) else none
  | 2 => if i < 8 then some (BitVec.ofNat 10 (0xC0 + i)) else none
  | 3 => if i < 7 then some (BitVec.ofNat 10 (0xC8 + i)) else none
  | 4 => some srcCellar
  | 5 => if i < 4 then some (BitVec.ofNat 10 (0x124 + i)) else none
  | _ => none

/-- A migration occupies the unit's bay, or a bridge that it uses (R381). -/
def State.unitBusy (s : State) (u : BitVec 10) : Bool :=
  match srcGroup u with
  | .cell k => (s.mig (CellIx.bay k)).busy
  | .channel n => (s.mig (chBay n)).busy
  | .bay b => (s.mig b).busy
  | .bridge g => allBayIxs.any fun b => (s.mig b).runs && (s.mig b).bridge == some g
  | _ => false

/-- A channel without a cell, whose bay has no eligible spare (R381). -/
def State.readmitNoSpare (s : State) (u : BitVec 10) : Bool :=
  match srcGroup u with
  | .channel n => (s.ch n).fence == .noCell && (s.spares (chBay n)).isEmpty
  | _ => false

/-- The result of a re-admission: the first condition of R381 that holds. -/
def State.readmitResult (s : State) (v : Word) : ReadmitResult :=
  if s.flt.grave then .grave
  else match readmitUnit v with
    | none => .badUnit
    | some u =>
      let x := s.flt.srcSt u
      if !x.fenced then .notFenced
      else if s.unitBusy u then .busy
      else if x.live ≠ 0 then .live
      else if x.sticky ≠ 0 then .unacked
      else if s.readmitNoSpare u then .noSpare
      else .ok

/-- A channel that its fence sent to rest is available again, if the structure in force enables it (R31); a carrying cell that was fenced meanwhile is replaced now. -/
def State.unrest (s : State) (n : Ch) : State :=
  let s := (s.upCh n fun c => if c.fence = .atRest then { c with fence := .none, map := { c.map with avail := c.decl.enabled && c.map.cell.isSome } } else c).remapped s
  match (s.ch n).map.cell with
  | some k => s.when (s.cell k).condemned fun s => s.request { ch := n, cause := .fault, keepOld := false, cold := false }
  | none => s

/-- A re-admitted cell (R382). One that still carries its channel goes on with it. -/
def Cell.readmit (x : Cell) : Cell :=
  let x := { x with rejected := false, condemned := false }
  if x.role = .fenced then x.retire false else x

/-- The effect of an accepted re-admission (R382, R421, R490). -/
def State.readmitEffect (s : State) (u : BitVec 10) : State :=
  let s := s.upFlt fun f => f.unfence u
  match srcGroup u with
  | .cell k => s.upCell k Cell.readmit
  | .channel n =>
    match (s.ch n).fence with
    | .noCell =>
      if (s.ch n).decl.enabled then s.request { ch := n, cause := .readmit, keepOld := false, cold := true }
      else s.upCh n fun c => { c with fence := .none }
    | .clasp => s.upCh n fun c => { c with fence := .none }
    | _ => s.unrest n
  | .bay b =>
    let ns := (s.bay b).sent
    let s := s.upBay b fun x => { x with fenced := false, sent := [] }
    s.each ns fun n s => (s.unrest n).upFlt fun f => f.unfence (srcCh n)
  | .cellar =>
    let s := s.upFlt fun f => { f with persistOff := false }
    { s with cel := { s.cel with st := .mounting } }.celStart s.cel.id
  | .link p => { s with lnk := { s.lnk with ports := s.lnk.ports.set p.val { s.lnk.ports[p.val] with st := .training } } }
  | _ => s

/-- A FLT_READMIT write with GO: it is decided at once, and acts when nothing refuses it. -/
def State.readmit (s : State) (v : Word) : State :=
  if v.getLsbD 31 then
    let r := s.readmitResult v
    let s := s.upFlt fun f => { f with readmitDone := true, readmitRes := r, readmitUnit := v.extractLsb' 24 4, readmitIndex := v.extractLsb' 0 10 }
    match r, readmitUnit v with
    | .ok, some u => s.readmitEffect u
    | _, _ => s
  else s

/-- FLT_READMIT. At Grave it is decided and refused (R377). -/
def execFltReadmit (v : Word) (s : State) : Host.Outcome State Fault Refusal := .next (s.live fun s => s.readmit v)

/-! ### ALIVE and injection (R391, R392) -/

/-- ALIVE_TOGGLE (R391): at a tick that is a multiple of 16, with its three checks. -/
def execAliveToggle (busAccepted slotWritten coreRan : Bool) (s : State) : Host.Outcome State Fault Refusal :=
  .next (s.live fun s =>
    if s.flt.grave || s.pwr.aonDown || !(busAccepted && slotWritten && coreRan) || s.ticks % 16 != 0 then s else s.upFlt fun f => { f with alive := !f.alive })

/-- A write of FLT_INJECT through JTAG: with GO it injects the message whose address word FLT_INJECT_ADDR holds. -/
def State.inject (s : State) (v : Word) : State :=
  if v.getLsbD 31 then s.collect { src := v.extractLsb' 0 10, kind := v.extractLsb' 10 6, addr := s.flt.injectAddr, injected := true } else s

/-- FLT_INJECT (R392): through JTAG in factory test mode alone, with the word that FLT_INJECT_ADDR takes before it. -/
def execFltInject (v : Word) (addr : Word) (s : State) : Host.Outcome State Fault Refusal :=
  .next (s.live fun s =>
    if s.jtag.factory && !s.flt.grave then (s.upFlt fun f => { f with injectAddr := addr }).inject v else s)

end Sys2Proof.Machine
end

