-- ==== Sys2Proof/Machine/Force.lean ====
section
/-! DEFINITION. The force family: load strobes, mode and class, the output switch, rest, the stream and the trip flag
(R94 … R101, R108 … R118, R279, R326). -/

namespace Sys2Proof.Machine

/-- Page offset of CH_FORCE_CTRL and its word with request bits (R113). -/
def Chan.forceWord (c : Chan) (req : Nat) : Word :=
  BitVec.ofNat 32 (req + 2 * bit (c.cfg.cls == .stream) + bit (c.cfg.mode == .current))

/-! ### Load strobe, mode and class -/

/-- The channel's own load strobe at its boundary (R94): refused in a sync set and while a strand runs or is armed. -/
def State.forceLoad (s : State) (n : Ch) : State :=
  let c := s.ch n
  if c.decl.syncSet ≠ 0 ∨ c.strand.st.active then s.noteCh n 0x040
  else ((s.upCh n fun c => c.strobe (s.sineNow n)).startRanging n).refresh n

/-- FORCE_LOAD. -/
def execForceLoad (n : Ch) (s : State) : Host.Outcome State Fault Refusal :=
  .next (s.chWrite n 0x040 ((s.ch n).forceWord 0x20) fun s => (s.sample n).forceLoad n)

/-- A MODE write as it lands (R97, R320 M1): ignored with a Note while a loop is closed or a strand runs or is armed. Every write to
CH_FORCE_CTRL carries a MODE bit; one that repeats the present value changes nothing and raises no Note (DESIGN CHOICE, see
notes/assumptions). -/
def State.modeLand (s : State) (n : Ch) (m : ForceMode) : State :=
  let c := s.ch n
  if c.cfg.mode = m then s
  else if c.loop.st.closed ∨ c.strand.st.active then s.noteCh n 0x040
  else s.upCh n fun c => { c with cfg := { c.cfg with mode := m } }

/-- FORCE_MODE_WRITE: MODE takes effect at the next boundary with the command held. -/
def execForceModeWrite (n : Ch) (m : ForceMode) (s : State) : Host.Outcome State Fault Refusal :=
  .next (s.chWrite n 0x040 (BitVec.ofNat 32 (2 * bit ((s.ch n).cfg.cls == .stream) + bit (m == .current))) fun s =>
    (s.modeLand n m).sample n)

/-- FORCE_CLASS_WRITE (R95): class 1 starts its stream count at the boundary that samples it. -/
def execForceClassWrite (n : Ch) (k : UpdateClass) (s : State) : Host.Outcome State Fault Refusal :=
  .next (s.chSet n 0x040 (BitVec.ofNat 32 (2 * bit (k == .stream) + bit ((s.ch n).cfg.mode == .current))) fun g => { g with cls := k })

/-! ### The output switch -/

/-- A rest sequence starts at this boundary. -/
def Chan.restStarts (c : Chan) (now : Nat) : Bool := c.force.out.atRest && c.force.restAt == some now || c.force.closeRest && c.force.restAt == some now

/-- A CLOSE is refused with a Note (R100). -/
def Chan.refusesSwitch (c : Chan) (now : Nat) : Bool :=
  !c.map.avail || c.force.tripped || c.map.member || c.force.out == .resting || c.force.out == .hold || c.force.out == .graveOpen ||
    c.restStarts now

/-- The CLOSE bit at its boundary (R99, R100). -/
def State.forceClose (s : State) (n : Ch) : State :=
  let c := s.ch n
  if c.refusesSwitch s.time then s.noteCh n 0x040
  else match c.force.out with
    | .opened | .restOpen | .tripOpen => (s.upCh n fun c => (c.startClosing s.time false).calKeep).refresh n
    | _ => s

/-- FORCE_CLOSE. -/
def execForceClose (n : Ch) (s : State) : Host.Outcome State Fault Refusal :=
  .next (s.chWrite n 0x040 ((s.ch n).forceWord 4) fun s => (s.sample n).forceClose n)

/-- The command preset to the pin voltage, the mean of 8 fast-path samples, saturated to the range, past the step limit (R99). -/
def State.pinCode (s : State) (n : Ch) (k : CellIx) (raw : Vector (BitVec 24) 8) : Int :=
  let sum := raw.toList.foldl (fun a x => a + sampleLevel (s.corrected k (entryV (s.ch n).range.v) x)) 0
  rha sum (8 * 4096)

/-- The switch closes at the preset (R99); a channel that closes out of REST_OPEN leaves rest (R110). `closeAt` stands until the next boundary
re-enables the target, and `closeRest` until the rest sequence ramps on there. -/
def Chan.closeAtPin (c : Chan) (x : Int) : Chan :=
  let p := c.stage2 x
  Chan.reclamp { c with
    force := { c.force with code := p.1, target := p.1, rateCnt := 0, sat := c.force.sat || p.2, out := .closed, fromRest := false,
                            restAt := if c.force.closeRest then c.force.restAt else none },
    loop := { c.loop with cmd := p.1 } }

/-- The nine loop periods of the closing sequence have passed (R99). -/
def Chan.closingDone (c : Chan) (now : Nat) : Bool :=
  c.force.out == .closing && match c.force.closeAt with
    | some t => decide (t + 8 * 256 ≤ now)
    | none => false

/-- SWITCH_CLOSE (R99); an output of a bay that still wakes is not yet closable (R522), nor one whose first rest sequence waits (R106). -/
def execSwitchClose (n : Ch) (raw : Vector (BitVec 24) 8) (s : State) : Host.Outcome State Fault Refusal :=
  .next (s.live fun s =>
    match (s.ch n).map.cell with
    | some k =>
      if (s.ch n).closingDone s.time && (s.bay (CellIx.bay k)).awake && !s.jtag.ir.holdsPins && !s.pwr.waitRest.contains n then
        ((s.upCh n fun c => c.closeAtPin (s.pinCode n k raw)).latchDac n).refresh n
      else s
    | none => s)

/-- The OPEN bit at its boundary (R100): refused with a Note while the rest sequence ranks above it, without effect on an open switch. -/
def State.forceOpen (s : State) (n : Ch) : State :=
  let c := s.ch n
  if c.force.out = .resting ∨ (c.force.out = .closed ∧ c.force.closeRest) ∨ c.restStarts s.time then s.noteCh n 0x040
  else match c.force.out with
    | .closed | .restHold | .hold => s.openSwitch n .opened
    | _ => s

/-- FORCE_OPEN. -/
def execForceOpen (n : Ch) (s : State) : Host.Outcome State Fault Refusal :=
  .next (s.chWrite n 0x040 ((s.ch n).forceWord 8) fun s => (s.sample n).forceOpen n)

/-! ### Rest -/

/-- The REST bit at its boundary (R108): refused with a Note where no rest sequence runs; a strand ends as by ABORT (R260). -/
def State.forceRest (s : State) (n : Ch) : State :=
  if (s.ch n).canRest then
    (((s.endBy n .stopped .abort .dropped true).restStart n).startRanging n).refresh n
  else s.noteCh n 0x040

/-- FORCE_REST. -/
def execForceRest (n : Ch) (s : State) : Host.Outcome State Fault Refusal :=
  .next (s.chWrite n 0x040 ((s.ch n).forceWord 0x10) fun s => (s.sample n).forceRest n)

/-- The code has reached RS_CODE on the rest range (R108). -/
def Chan.atRestCode (c : Chan) : Bool :=
  c.force.out == .resting && c.force.code == c.force.rsCode && c.range.wantV.isNone && c.range.hst != .vSwitch

/-- REST_HOLD_REACHED (R108); the last rest sequence of the start-up ends it (R513). -/
def execRestHoldReached (n : Ch) (s : State) : Host.Outcome State Fault Refusal :=
  .next (s.live fun s =>
    if (s.ch n).atRestCode then
      ((s.upCh n fun c => { c with force := { c.force with out := .restHold, target := c.force.rsCode }, loop := { c.loop with cmd := c.force.rsCode } }).refresh n).bootDone
    else s)

/-- At Grave the switch of a channel that runs a rest sequence opens once it has reached REST_HOLD, or 1,024 loop periods after its rest
sequence began (R109). -/
def State.graveDue (s : State) (n : Ch) : Bool :=
  let f := (s.ch n).force
  s.flt.grave && (s.ch n).canRest && f.out != .graveOpen && match f.restAt with
    | some t => f.out == .restHold || decide (t + 1024 * 256 ≤ s.time)
    | none => false

/-- GRAVE_OPEN_TIMEOUT (R109). -/
def execGraveOpenTimeout (n : Ch) (s : State) : Host.Outcome State Fault Refusal :=
  .next (s.live fun s => if s.graveDue n then s.openSwitch n .graveOpen else s)

/-! ### The stream -/

/-- A stream instant falls in this loop period (R95). -/
def Chan.streamInstant (c : Chan) (p : Nat) : Bool :=
  c.eff.cls == .stream && decide (c.force.streamStart ≤ p) && (p - c.force.streamStart) % (c.eff.streamDivM1.toNat + 1) == 0

/-- The sample, or the last one after an underrun, plus the sine becomes the applied level and the target (R95, R277). A stream sample is
no strobe: it restarts no ramp and leaves no rest. In low-power mode the target takes it at the next update (R326). -/
def Chan.streamTake (c : Chan) (sine : Int) : Chan :=
  let put (c : Chan) (x : Level) : Chan :=
    let c := { c with force := { c.force with streamLast := x, applied := sat32 (x.toInt + sine) } }
    if c.force.rests || c.decl.lowPower || c.loop.manualNow then c else c.openTarget 0
  let under (c : Chan) : Chan :=
    put { c with force := { c.force with underrun := true, streamUnder := satInc c.force.streamUnder } } c.force.streamLast
  match c.queue with
  | some x :: q => put { c with queue := q } x
  | none :: q => under { c with queue := q }
  | [] => under c

/-- STREAM_SAMPLE (R95). -/
def execStreamSample (n : Ch) (s : State) : Host.Outcome State Fault Refusal :=
  .next (s.live fun s =>
    if (s.ch n).streamInstant s.period then s.upCh n fun c => c.streamTake (s.sineNow n) else s)

/-- A sample is appended to the stream queue, or dropped and counted (R279). In class 1 a queue that is not empty holds the bay awake
(R328). -/
def State.streamAppend (s : State) (n : Ch) (v : Word) : State :=
  let s := s.upCh n fun c =>
    if c.queue.length < 256 then { c with queue := c.queue ++ [some v] } else { c with streamOver := satInc c.streamOver }
  if (s.ch n).cfg.cls = .stream then s.wake (chBay n) else s

/-- STREAM_QUEUE_APPEND. -/
def execStreamQueueAppend (n : Ch) (v : Word) (s : State) : Host.Outcome State Fault Refusal :=
  .next (s.hostAct fun s => s.streamAppend n v)

/-- STREAM_FLUSH (R293). -/
def execStreamFlush (n : Ch) (s : State) : Host.Outcome State Fault Refusal :=
  .next (s.chWrite n 0x29C 0x80000000 fun s => (s.sample n).upCh n fun c => { c with queue := [] })

/-! ### The trip flag -/

/-- A write of 1 to TRIPPED (R117): ignored while the window that tripped is still outside its thresholds. -/
def Chan.clearTripped (c : Chan) : Chan :=
  if c.winV.stage || c.winI.stage then c else { c with force := { c.force with tripped := false } }

/-- OUT_TRIPPED_CLEAR. -/
def execOutTrippedClear (n : Ch) (s : State) : Host.Outcome State Fault Refusal :=
  .next (s.chWrite n 0x054 0x80000000 fun s => s.upCh n Chan.clearTripped)

end Sys2Proof.Machine
end

