-- ==== Sys2Proof/Machine/Strand.lean ====
section
/-! DEFINITION. The strand family: starting, ending and squashing strands, commits, pulses, larder registers and sync sets
(R247 … R294). -/

namespace Sys2Proof.Machine

/-! ### Starting a strand (R257, R258) -/

/-- CH_STRAND_CTRL's word. -/
def strandWord (start stop abort direct : Bool) (strand : Nat) : Word :=
  fields [(31, bit start), (30, bit stop), (29, bit abort), (28, bit direct), (0, strand)]

/-- The owner, the first bead and the type that a START selects: the channel's own registers, or a library entry. -/
def State.strandOf (s : State) (n : Ch) (direct : Bool) (k : BitVec 10) : LibEntry :=
  if direct then { channel := BitVec.ofNat 8 n.val, first := (s.ch n).cfg.strandFirst, type := (s.ch n).cfg.type }
  else (findAt s.img.library k.toNat).getD {}

/-- The reason for which a START is refused, in the order of R258's table. -/
def Chan.startRefused (c : Chan) (n : Ch) (e : LibEntry) : Option Reason :=
  if e.channel.toNat ≠ n.val then some .notOwner
  else if (e.type == .stream) != (c.eff.cls == .stream) then some .wrongClass
  else if !c.map.avail || c.map.member then some .noChannel
  else if c.strand.st.active || c.meas.cal.isOpen then some .busy
  else none

/-- The strand runs, or is armed in a sync set; nothing is committed yet. -/
def Chan.startStrand (c : Chan) (e : LibEntry) (now : Nat) : Chan :=
  { c with
    cfg := { c.cfg with strandFirst := e.first, type := e.type }, eff := { c.eff with strandFirst := e.first, type := e.type },
    strand := { c.strand with
      st := if c.decl.syncSet = 0 then .running else .armed, reason := .none, ahead := [], committed := none, dwell := 0, last := false,
      cursor := e.first.toNat, cursorPt := 0, nextBead := e.first.toNat, nextPt := 0, noMore := false, holdUntil := now + 1, stopReq := false,
      squashReq := false, endReq := none, order := none, passAt := none, toneOn := false } }

/-- START at its boundary. -/
def State.strandStart (s : State) (n : Ch) (direct : Bool) (k : BitVec 10) : State :=
  let e := s.strandOf n direct k
  match (s.ch n).startRefused n e with
  | some r => s.upCh n fun c => { c with strand := { c.strand with reason := r, ended := true } }
  | none => s.upCh n fun c => c.startStrand e s.period

/-- STRAND_START. On a clasp member the write is ignored with a Note as R24 says, and REASON shows the refusal of R258. -/
def execStrandStart (n : Ch) (direct : Bool) (strand : BitVec 10) (s : State) : Host.Outcome State Fault Refusal :=
  .next (s.pageWrite (chBay n) (chAddr n 0x240) (strandWord true false false direct strand.toNat) fun s =>
    ((s.when (s.ch n).map.member fun s => s.noteCh n 0x240).sample n).strandStart n direct strand)

/-! ### Ending a strand (R260, R264) -/

/-- STOP at its boundary: before the first commit the strand ends there; otherwise run-ahead is squashed and the present bead runs out. -/
def State.strandStop (s : State) (n : Ch) : State :=
  let g := (s.ch n).strand
  if g.st.active then
    if g.committed.isNone then s.endBy n .stopped .stop .normal true
    else s.upCh n fun c => { c with strand := { c.strand with stopReq := true } }.squashAhead s.period
  else s

/-- STRAND_STOP. -/
def execStrandStop (n : Ch) (s : State) : Host.Outcome State Fault Refusal :=
  .next (s.chWrite n 0x240 (strandWord false true false false 0) fun s => (s.sample n).strandStop n)

/-- ABORT at its boundary. -/
def State.strandAbort (s : State) (n : Ch) : State := (s.endBy n .stopped .abort .dropped true).refresh n

/-- STRAND_ABORT. -/
def execStrandAbort (n : Ch) (s : State) : Host.Outcome State Fault Refusal :=
  .next (s.chWrite n 0x240 (strandWord false false true false 0) fun s => (s.sample n).strandAbort n)

/-- The dwell of the bead in force is over, and no later one follows: LAST or STOP (R260). -/
def Chan.endsAtDwell (c : Chan) (p : Nat) : Bool :=
  let g := c.strand
  g.st.runs && g.committed.isSome && (g.last || g.stopReq) && decide (c.dwellEnd ≤ p)

/-- STRAND_END_AT_DWELL (R260). -/
def execStrandEndAtDwell (n : Ch) (s : State) : Host.Outcome State Fault Refusal :=
  .next (s.live fun s =>
    let c := s.ch n
    if c.endsAtDwell s.period && c.strand.endReq.isNone then
      (if c.strand.stopReq then s.endBy n .stopped .stop .normal false else s.endBy n .done .none .normal false).refresh n
    else s)

/-- RUN_AHEAD_SQUASH (R264, R265): the boundary after a squash event. An event that ends the strand ends it here (R260), and the record of
a pulse that a trip cut is written here (R273). A squash on a member of a spanning set waits for an order that has arrived (R483). -/
def execRunAheadSquash (n : Ch) (s : State) : Host.Outcome State Fault Refusal :=
  .next (s.live fun s =>
    let s := s.when (((s.ch n).strand.rcd.map (·.fast)).getD false) fun s => s.writeRecord n
    let g := (s.ch n).strand
    match g.endReq with
    | some r => (s.endBy n .stopped r .now true).refresh n
    | none => if g.squashReq && g.order.isNone then (s.upCh n fun c => c.squashAhead s.period).refresh n else s)

/-! ### Commits (R259, R263, R266, R268 … R274, R286) -/

/-- The bead that a commit meets first, past the tone beads before it: a point, or a bead that ends the strand. -/
def Chan.front (c : Chan) : Option Prep :=
  c.strand.ahead.find? fun p => p.bad.isSome || p.ue || !isToneBead c.eff.type p.flags

/-- The tone that stands before it: the last of the tone beads (R256). -/
def Chan.frontTone (c : Chan) : Option (Word × Level) :=
  (c.strand.ahead.takeWhile fun p => p.bad.isNone && !p.ue && isToneBead c.eff.type p.flags).getLast?.map fun p => (p.level, p.compl)

/-- What stays prepared behind it. -/
def Chan.behindFront (c : Chan) : List Prep :=
  (c.strand.ahead.dropWhile fun p => p.bad.isNone && !p.ue && isToneBead c.eff.type p.flags).drop 1

/-- The larder lets the bead commit (R285 … R287): in stop-when-full mode there is room behind the records written and reserved. -/
def Chan.larderReady (c : Chan) (p : Prep) : Bool :=
  let reserved := match c.strand.rcd with
    | some b => !b.silent && !b.written
    | none => false
  p.isSilent || c.larder.size == 0 || c.cfg.larderRing || decide ((c.larder.wr - c.larder.rd).toNat + bit reserved < c.larder.size)

/-- The next bead is prepared and its dwell and holds are over, whatever the larder and the set say. -/
def Chan.commitDueNow (c : Chan) (p : Nat) : Bool :=
  let g := c.strand
  g.st.runs && !g.squashReq && g.endReq.isNone && !g.stopReq && decide (c.dwellEnd ≤ p) && decide (g.holdUntil ≤ p) && c.front.isSome

/-- The channel is ready to commit (R268). -/
def Chan.commitReady (c : Chan) (p : Nat) : Bool :=
  c.commitDueNow p && match c.front with
    | some q => q.bad.isSome || q.ue || c.larderReady q
    | none => false

/-- The members of a set that run a strand. -/
def State.runners (s : State) (t : BitVec 8) : List Ch := (s.setMembers t).filter fun m => (s.ch m).strand.st.runs

/-- The set waits for no external strobe, or an accepted edge is old enough (R270). -/
def State.strobeReady (s : State) (t : BitVec 8) : Bool :=
  s.setStrobe t == 0 || !(s.runners t).any (fun m => ((s.ch m).front.map Prep.isStrobe).getD false) ||
    s.strobes.any fun x => x.1 == t && decide (x.2 ≤ s.time)

/-- A set with a low-power member commits at update boundaries only (R327). -/
def State.lpBoundary (s : State) (ms : List Ch) : Bool := s.time % 1024 == 0 || !ms.any fun m => (s.ch m).decl.lowPower

/-- A conversion of the bead's own pass whose window has ended delivers ahead of the commit, to the bead that it belongs to (R281). -/
def Chan.passDelivered (c : Chan) (now : Nat) : Bool :=
  c.eff.run != .strand || !c.meas.convs.any fun v => v.kind == .seq && !v.settling && decide (v.tEnd ≤ now)

/-- The channel's commit may take place at this boundary: its own, or its set's (R268 … R271, R281, R288, R327, R329, R453, R481). -/
def State.mayCommit (s : State) (n : Ch) : Bool :=
  let t := (s.ch n).decl.syncSet
  if t = 0 then (s.ch n).commitReady s.period && (s.ch n).passDelivered s.time && s.lpBoundary [n]
  else
    let run := s.runners t
    let first := run.any fun m => (s.ch m).strand.committed.isNone
    (s.ch n).strand.st.runs && run.all (fun m => (s.ch m).commitReady s.period && (s.ch m).passDelivered s.time) && s.lpBoundary (s.setMembers t) &&
      (!first || (s.setMembers t).all fun m => (s.bay (chBay m)).awake) &&
      (if s.setSpans t then !s.clk.unaligned && run.all fun m => ((s.ch m).strand.order.map fun x => decide (x ≤ s.time)).getD false
       else s.strobeReady t)

/-- FIRST and LAST from the pass table (R251). -/
def ChanCfg.loadPass (g : ChanCfg) (sel : BitVec 4) : ChanCfg :=
  let b := (g.msel[sel.toNat / 4]).extractLsb' (8 * (sel.toNat % 4)) 8
  { g with first := b.extractLsb' 0 4, last := b.extractLsb' 4 4 }

/-- A point takes effect (R259, steps 1 to 5): ranges and level, compliance, a pending tone, FIRST and LAST. -/
def Chan.commitPoint (c : Chan) (p : Prep) (t : Nat) (sine : Int) : Chan :=
  let tone := c.frontTone
  let rest := c.behindFront
  let pulsed := c.eff.type == .pulsed
  let base (g : ChanCfg) : ChanCfg := if p.isPulse || c.eff.type == .stream then g else { g with pulseBase := p.level }
  let prep (c : Chan) : Chan :=
    { c with strand := { c.strand with pulse := if p.isPulse then some (t + c.eff.pulseWidth.toNat, p.level) else none, baseOn := pulsed },
             cfg := base c.cfg, eff := base c.eff }
  let c := (c.calInterrupt.strobeWith p.level p.v p.i prep sine).commandedBy p.v p.i true
  let c := c.setCompl p.compl
  let sineOf (g : ChanCfg) : ChanCfg := match tone with
    | some (f, a) => { g with sineEn := true, sineFreq := f, sineAmpl := a }
    | none => g
  let pass (g : ChanCfg) : ChanCfg := { g with first := (c.eff.loadPass p.sel).first, last := (c.eff.loadPass p.sel).last }
  let g := c.strand
  let g' := c.eff.loadPass p.sel
  { c with
    cfg := pass (sineOf c.cfg), eff := pass (sineOf c.eff), loop := { c.loop with complPend := false, complDrove := false },
    meas := { c.meas with freeRun := c.meas.freeRun && g'.first == c.eff.first && g'.last == c.eff.last },
    strand := { g with
      st := .running, bead := BitVec.ofNat 16 p.index, point := p.point, ahead := rest, committed := some t, dwell := p.dwell,
      last := p.isLast, nextBead := p.next.1, nextPt := p.next.2, order := none, fixed := g.fixed || p.fixed,
      toneOn := g.toneOn || tone.isSome } }

/-- The bead's record is reserved (R259, step 6) with the ranges in force at the commit. -/
def Chan.openRecord (c : Chan) (p : Prep) (t : Nat) (ranges : BitVec 8) : Chan :=
  let b : BeadRec :=
      { index := p.index, commit := t, silent := p.isSilent || c.larder.size == 0, limited := c.range.limited || c.range.waits, v := none, i := none,
        clip := false, disturbed := false, tripped := false, written := false, lastEnd := none, ranges := ranges }
  { c with strand := { c.strand with rcd := some b } }

/-- The bead's pass starts now, or after the measure delay of a pulse (R259, R272). -/
def State.beadPass (s : State) (n : Ch) (p : Prep) : State :=
  let c := s.ch n
  if c.eff.run = .strand then
    if p.isPulse && c.eff.mdelay != 0 && decide (c.eff.first.toNat ≤ c.lastEntry) then
      s.upCh n fun c => { c with strand := { c.strand with passAt := some (s.time + 256 * c.eff.mdelay.toNat) } }
    else s.startPass n
  else s

/-- MARK drives TRIG_OUT for 64 cycles (R259, R291). -/
def State.markOut (s : State) (n : Ch) (p : Prep) : State :=
  match p.isMark, (s.ch n).eff.tout.toNat with
  | true, 1 => { s with marks := s.marks ++ [(0, n, s.time + 64)] }
  | true, 2 => { s with marks := s.marks ++ [(1, n, s.time + 64)] }
  | true, 3 => { s with marks := s.marks ++ [(2, n, s.time + 64)] }
  | true, 4 => { s with marks := s.marks ++ [(3, n, s.time + 64)] }
  | _, _ => s

/-- The ranges in force in this loop period once ranging has acted at its boundary: a handover or a switch of G_b that is due there makes its
range active (R220, R232, R282). -/
def State.rangesHere (s : State) (n : Ch) : BitVec 8 :=
  let c := s.ch n
  match s.mayRange n && c.handoverDue, s.mayRange n, c.gainTarget with
  | true, _, _ => BitVec.ofNat 8 (c.range.v.toNat * 16 + (c.range.ovl.getD c.range.i).toNat)
  | false, true, some (i, _) => BitVec.ofNat 8 (c.range.v.toNat * 16 + i.toNat)
  | _, _, _ => c.rangesByte

/-- A point commits on channel `n` (R259): the record of the bead before is written first (R284). -/
def State.commitOn (s : State) (n : Ch) (p : Prep) : State :=
  let s := (s.writeRecord n).upCh n Chan.cutPass
  let s := (s.upCh n fun c => c.commitPoint p s.time (s.sineNow n)).startRanging n
  let s := s.upCh n fun c => c.openRecord p s.time (s.rangesHere n)
  let s := (s.beadPass n p).markOut n p
  let s := s.when p.fixed fun s => s.post (srcCh n) 2 p.index
  s.refresh n

/-- Kind of the fault of a bad bead (R263, R365). -/
def badKind : Reason → Nat
  | .badRange => 3
  | .badFlag => 4
  | .badLog => 5
  | _ => 6

/-- The next bead of channel `n` commits, or ends the strand (R259, R263, R355). -/
def State.commitNext (s : State) (n : Ch) : State :=
  match (s.ch n).front with
  | none => s
  | some p =>
    if p.ue then (s.endStrand n .stopped .fault .now true).refresh n
    else match p.bad with
      | some r => ((s.post (srcCh n) (badKind r) p.index).endBy n .error r .normal true).refresh n
      | none => s.commitOn n p

/-- BEAD_COMMIT (R259): the channel's next bead; in a sync set the beads of every member that runs a strand, at once (R268). -/
def execBeadCommit (n : Ch) (s : State) : Host.Outcome State Fault Refusal :=
  .next (s.live fun s =>
    if s.mayCommit n then
      let t := (s.ch n).decl.syncSet
      if t = 0 then s.commitNext n
      else
        let s := { s with strobes := s.strobes.filter fun x => x.1 != t }
        s.each (s.runners t) fun m s => s.commitNext m
    else s)

/-! ### Pulses (R272 … R274) -/

/-- PULSE_END (R272): the end instant falls in the present loop period or before it. -/
def execPulseEnd (n : Ch) (s : State) : Host.Outcome State Fault Refusal :=
  .next (s.live fun s =>
    match (s.ch n).strand.pulse with
    | some (t, _) => if t < s.time + 256 then s.pulseOver n else s
    | none => s)

/-- PULSE_PASS_START (R272): the pass of a pulse bead begins MDELAY loop periods after the commit. -/
def execPulsePassStart (n : Ch) (s : State) : Host.Outcome State Fault Refusal :=
  .next (s.live fun s =>
    match (s.ch n).strand.passAt with
    | some t =>
      if t ≤ s.time ∧ (s.ch n).eff.run = .strand then (s.upCh n fun c => { c with strand := { c.strand with passAt := none } }).startPass n else s
    | none => s)

/-- MARK_PULSE_END (R291): the channel's pulse on TRIG_OUT ends. -/
def execMarkPulseEnd (n : Ch) (s : State) : Host.Outcome State Fault Refusal :=
  .next (s.live fun s => { s with marks := s.marks.filter fun m => m.2.1 != n })

/-! ### The larder's registers (R285, R293) -/

/-- CH_LARDER_RD at its boundary: a value beyond CH_LARDER_WR is stored as CH_LARDER_WR. -/
def Chan.larderRd (c : Chan) (v : Word) : Chan :=
  let l := c.larder
  { c with larder := { l with rd := if (l.wr - l.rd).toNat < (v - l.rd).toNat then l.wr else v } }

/-- LARDER_RD_WRITE. -/
def execLarderRdWrite (n : Ch) (v : Word) (s : State) : Host.Outcome State Fault Refusal :=
  .next (s.chWrite n 0x2CC v fun s => s.upCh n fun c => c.larderRd v)

/-- CLEAR at its boundary (R293): ignored while a strand runs, as the write of the whole register is. -/
def State.larderClear (s : State) (n : Ch) : State :=
  if (s.ch n).strand.st.runs then s.noteCh n 0x2C0 else s.upCh n fun c => { c with larder := { c.larder with wr := 0, rd := 0 } }

/-- LARDER_CLEAR. -/
def execLarderClear (n : Ch) (s : State) : Host.Outcome State Fault Refusal :=
  .next (s.chWrite n 0x2C0 (fields [(31, bit (s.ch n).cfg.larderRing), (30, 1)]) fun s => (s.sample n).larderClear n)

/-! ### Sync sets (R269, R270, R294, R329, R482) -/

/-- The bays of the set's members wake (R329). -/
def State.wakeSet (s : State) (t : BitVec 8) : State := s.each (s.setMembers t) fun m s => s.wake (chBay m)

/-- START of a set on this device: its armed members commit first at the next boundary (R269). -/
def State.setStart (s : State) (t : BitVec 8) : State :=
  s.each ((s.setMembers t).filter fun m => (s.ch m).strand.st == .armed) fun m s =>
    s.upCh m fun c => { c with strand := { c.strand with st := .waitSet, holdUntil := s.period + 1 } }

/-- FIRE of a set on this device: the strobe of R94 to every member; ignored with a Note while a member runs a strand (R269). -/
def State.setFire (s : State) (t : BitVec 8) : State :=
  if (s.runners t) ≠ [] then s.noteImg 0x80
  else s.each (s.setMembers t) fun m s =>
    let s := s.sample m
    ((s.upCh m fun c => c.strobe (s.sineNow m)).startRanging m).refresh m

/-- ABORT of a set on this device (R260, R294). -/
def State.setAbort (s : State) (t : BitVec 8) : State := s.each (s.setMembers t) fun m s => s.strandAbort m

/-- A GLB_SYNC_CTRL action at its boundary: set 0 is ignored with a Note, a spanning set's action is passed to the root (R482), a set with a
sleeping member wakes it, and FIRE and ABORT wait for it; a START's first commit does (R329). -/
def State.syncAct (s : State) (a : SyncAct) (t : BitVec 8) : State :=
  if t = 0 then s.noteImg 0x80
  else
    let awake := (s.setMembers t).all fun m => (s.bay (chBay m)).awake
    let s := s.wakeSet t
    if s.setSpans t then { s with lnk := { s.lnk with waiting := s.lnk.waiting ++ [(a, t)] } }
    else match a with
      | .start => s.setStart t
      | .fire => if awake then s.setFire t else { s with landed := s.landed ++ [.syncFire t] }
      | .abort => if awake then s.setAbort t else { s with landed := s.landed ++ [.syncAbort t] }

/-- SYNC_START (R269). -/
def execSyncStart (set : BitVec 8) (s : State) : Host.Outcome State Fault Refusal := .next (s.hostAct fun s => s.syncAct .start set)

/-- SYNC_FIRE (R269). -/
def execSyncFire (set : BitVec 8) (s : State) : Host.Outcome State Fault Refusal := .next (s.hostAct fun s => s.syncAct .fire set)

/-- SYNC_ABORT (R294). -/
def execSyncAbort (set : BitVec 8) (s : State) : Host.Outcome State Fault Refusal := .next (s.hostAct fun s => s.syncAct .abort set)

/-- A member of the set waits on a bead with STROBE (R270). -/
def State.waitsStrobe (s : State) (t : BitVec 8) : Bool :=
  (s.runners t).any fun m => (s.ch m).commitDueNow s.period && ((s.ch m).front.map Prep.isStrobe).getD false

/-- An edge on TRIG_IN_x for set `t` (R270, R482): accepted while a member waits, for the commit 64 cycles later. Of a spanning set only the
root observes it, and LEAD is added. -/
def State.trigSet (s : State) (x : Fin 4) (cyc : Nat) (t : BitVec 8) : State :=
  if s.setStrobe t = x.val + 1 then
    if s.setSpans t then
      if s.lnk.root && s.lnk.reports.any fun r => r.set == t then
        { s with strobes := s.strobes ++ [(t, s.time + cyc + 64 + 256 * s.lnk.lead.toNat)] }
      else s
    else if s.waitsStrobe t && !s.strobes.any (fun y => y.1 == t) then { s with strobes := s.strobes ++ [(t, s.time + cyc + 64)] }
    else s
  else s

/-- The sync sets of the structure in force. -/
def allSets : List (BitVec 8) := (List.range 255).map fun i => BitVec.ofNat 8 (i + 1)

/-- TRIG_IN_EDGE (R270). -/
def execTrigInEdge (x : Fin 4) (cyc : Nat) (s : State) : Host.Outcome State Fault Refusal :=
  .next (s.live fun s => s.each allSets fun t s => s.trigSet x cyc t)

end Sys2Proof.Machine
end

