-- ==== Sys2Proof/Machine/Measure.lean ====
section
/-! DEFINITION. The measuring family: run modes, passes, conversions, injections, calibration and the demodulator (R157 … R210). -/

namespace Sys2Proof.Machine

/-! ### Run modes -/

/-- CH_MEAS_CTRL as it reads (R202). -/
def ChanCfg.measWord (g : ChanCfg) (run : RunMode) (start : Bool) : Word :=
  fields [(16, g.pubMask.toNat), (12, g.last.toNat), (8, g.first.toNat), (2, bit start), (0, runCode run)]

/-- The pass ends with the conversions whose windows end at `now`: it has started every entry and none waits or runs on. -/
def MeasSt.passEndsAt (m : MeasSt) (now : Nat) : Bool :=
  match m.pass with
  | some p => decide (p.last < p.next) && (m.convs.all fun v => v.kind != .seq || decide (v.tEnd ≤ now)) && !(m.redo.any fun e => e.1 == .seq)
  | none => false

/-- RUN = STOP at its boundary (R169): the conversions still running abort, except a calibration's; those whose windows end there deliver. A request in
the pending slot runs behind them (R177). -/
def Chan.stopRun (c : Chan) (now : Nat) : Chan :=
  let ends := c.meas.passEndsAt now
  let c := c.abortConvs fun v => v.kind != .cal && decide (now < v.tEnd)
  { c with meas := { c.meas with freeRun := false, pass := if ends then c.meas.pass else none, redo := c.meas.redo.filter fun e => e.1 == .cal } }

/-- A new run mode at its boundary (R169); a free run is CONTINUOUS only (R171). -/
def State.runAct (s : State) (n : Ch) : State :=
  match (s.ch n).eff.run with
  | .stop => s.upCh n fun c => c.stopRun s.time
  | .continuous => s.when ((s.ch n).meas.pass.isNone) fun s => s.startPass n
  | _ => s.upCh n fun c => { c with meas := { c.meas with freeRun := false } }

/-- MEAS_RUN_WRITE (R169). -/
def execMeasRunWrite (n : Ch) (m : RunMode) (s : State) : Host.Outcome State Fault Refusal :=
  .next (s.chWrite n 0x100 ((s.ch n).cfg.measWord m false) fun s =>
    ((s.upCh n fun c => { c with cfg := { c.cfg with run := m } }).sample n).runAct n)

/-- The START bit at its boundary (R169): refused with a Note outside SINGLE and while a single pass runs. -/
def State.measStart (s : State) (n : Ch) : State :=
  let c := s.ch n
  if c.eff.run ≠ .single ∨ c.meas.pass.isSome then s.noteCh n 0x100 else s.startPass n

/-- MEAS_START. -/
def execMeasStart (n : Ch) (s : State) : Host.Outcome State Fault Refusal :=
  .next (s.chWrite n 0x100 ((s.ch n).cfg.measWord (s.ch n).cfg.run true) fun s => (s.sample n).measStart n)

/-- CH_MEAS_CFG's fields from a word: SEQ_LEN 1 … 16, ORDER 1 … 5 (R204). -/
def ChanCfg.setMeasCfg (g : ChanCfg) (v : Word) : ChanCfg :=
  { g with seqLen := BitVec.ofNat 5 (max 1 (min 16 (bits v 8 5))), order := BitVec.ofNat 3 (max 1 (min 5 (bits v 0 3))) }

/-- A CH_MEAS_CFG write as it lands (R174). -/
def State.measCfgLand (s : State) (n : Ch) (v : Word) : State :=
  let c := s.ch n
  if c.cfg.run = .stop ∧ c.meas.convs = [] then s.upCh n fun c => { c with cfg := c.cfg.setMeasCfg v } else s.noteCh n 0x108

/-- MEAS_CFG_WRITE. -/
def execMeasCfgWrite (n : Ch) (v : Word) (s : State) : Host.Outcome State Fault Refusal :=
  .next (s.chWrite n 0x108 v fun s => (s.measCfgLand n v).sample n)

/-! ### Entries and conversions -/

/-- The DAC of a force session is driven directly, the force trims bypassed (R196). -/
def State.calDrive (s : State) (n : Ch) : State :=
  let c := s.ch n
  match c.map.cell, c.meas.cal.st with
  | some k, .forceRun =>
    let x : Int := if c.meas.cal.m1.isNone then -393216 else 393216
    s.upCell k fun y => { y with dac := (correctDac x 0 0 (s.bay (CellIx.bay k)).kRef).1 }
  | _, _ => s

/-- The channel's cell converts: its bay is awake and no clasp takes it (R24, R458). -/
def State.converts (s : State) (n : Ch) : Bool :=
  (match (s.ch n).map.cell with
    | some k => (s.bay (CellIx.bay k)).awake
    | none => false) && !(s.ch n).map.member

/-- SEQUENCE_ENTRY_START (R170): whatever may start at this boundary starts. In CONTINUOUS an empty pass is followed by another (R169). -/
def execSequenceEntryStart (n : Ch) (s : State) : Host.Outcome State Fault Refusal :=
  .next (s.live fun s =>
    if s.converts n then
      let s := s.when ((s.ch n).eff.run == .continuous && (s.ch n).meas.pass.isNone) fun s => s.startPass n
      (s.upCh n fun c => c.startNext s.time).calDrive n
    else s)

/-- The windows whose input settling is over open; the overlap modulator converts their input from now on (R172). -/
def Chan.openWindows (c : Chan) (now : Nat) : Chan :=
  let due (v : Conv) : Bool := v.settling && decide (v.tStart ≤ now)
  { c with meas := { c.meas with
      lastOvl := match c.meas.convs.find? fun v => due v && v.md == .ovl with
        | some v => some (v.input, v.gain)
        | none => c.meas.lastOvl
      convs := c.meas.convs.map fun v => if due v then { v with settling := false } else v } }

/-- INPUT_SETTLING_END (R172): the window opens. -/
def execInputSettlingEnd (n : Ch) (s : State) : Host.Outcome State Fault Refusal :=
  .next (s.live fun s => s.upCh n fun c => c.openWindows s.time)

/-- The conversion on a modulator whose window has ended (R162). -/
def Chan.endedConv (c : Chan) (m : Modulator) (cal : Bool) (now : Nat) : Option Conv :=
  c.meas.convs.find? fun v => v.md == m && !v.settling && decide (v.tEnd ≤ now) && ((v.kind == .cal) == cal)

/-- Every running conversion of the pass ends later than `now`: in a free run the pass is over (R171). -/
def Chan.freePassOver (c : Chan) (now : Nat) : Bool :=
  c.meas.freeRun && c.meas.convs.all fun v => decide (now < v.tEnd)

/-- A sequence conversion delivers (R181, R183, R284). -/
def State.deliverSeq (s : State) (n : Ch) (v : Conv) (r : ResultLo) : State :=
  let s := s.upCh n fun c =>
    ({ c with meas := c.meas.seqResult c.eff.pubMask r v.tEnd }.recordResult v.input r v.tEnd).leaveConv v
  let s := s.when ((s.ch n).freePassOver s.time) fun s => s.upCh n fun c => { c with meas := { c.meas with passDone := true } }
  s.when ((s.ch n).passOver && !(s.ch n).meas.freeRun) fun s => s.endPass n

/-- An injected conversion delivers to the register only (R179); the pending slot and a waiting calibration point follow, then the
sequence (R176, R177, R193). -/
def State.deliverInjected (s : State) (n : Ch) (v : Conv) (r : ResultLo) : State :=
  (s.upCh n fun c => ({ c with meas := c.meas.publish r v.tEnd }.leaveConv v).serveSlot s.time).calDrive n

/-- A result of input 4 is the cell's temperature (R210). It raises TEMP_HIGH as it reaches 135 °C, live from 130 °C (R364), and DIE_TEMP at
150 °C or more (R367). -/
def State.readTemp (s : State) (k : CellIx) (v : BitVec 24) : State :=
  let before := (s.cell k).temp.toInt
  let s := s.upCell k fun y => { y with temp := v }
  let s := if before < 135 * 32768 ∧ 135 * 32768 ≤ v.toInt then s.postCell k 0x0A 0x0A (v.toNat / 32768) else s
  let s := if v.toInt < 130 * 32768 then s.endLive (srcCell k) 0x0A else s.beginLive (srcCell k) 0x0A
  if 150 * 32768 ≤ v.toInt then s.post srcPower 2 (k.val + 256 * (v.toNat / 32768)) else s

/-- CONVERSION_COMPLETE (R162); a clasp member delivers nothing (R24). -/
def execConversionComplete (n : Ch) (m : Modulator) (x : ConvIn) (s : State) : Host.Outcome State Fault Refusal :=
  .next (s.live fun s =>
    match (if (s.ch n).map.member then none else (s.ch n).map.cell), (s.ch n).endedConv m false s.time with
    | some k, some v =>
      let r := s.resultOf n k v x
      let s := if v.input = 4 then s.readTemp k r.value else s
      if v.kind = .seq then s.deliverSeq n v r else s.deliverInjected n v r
    | _, _ => s)

/-! ### Injections (R175 … R178) -/

/-- CH_INJ's word (R206). -/
def injWord (urgent : Bool) (e : Entry) : Word := fields [(31, bit urgent), (30, bit !urgent), (0, e.val)]

/-- A request is dropped and counted. -/
def Chan.dropInj (c : Chan) : Chan := { c with meas := { c.meas with injDrop := satInc c.meas.injDrop } }

/-- An urgent request at its boundary (R176, R177). -/
def Chan.injUrgent (c : Chan) (now : Nat) (e : BitVec 4) : Chan :=
  if c.injRuns || c.calRuns then
    if c.meas.injHeld.isSome then c.dropInj else { c with meas := { c.meas with injHeld := some e } }
  else (c.pauseSeq).startEntry now .urgent e

/-- INJ_URGENT. -/
def execInjUrgent (n : Ch) (e : Entry) (s : State) : Host.Outcome State Fault Refusal :=
  .next (s.chWrite n 0x118 (injWord true e) fun s => (s.sample n).upCh n fun c => c.injUrgent s.time (BitVec.ofNat 4 e.val))

/-- A sequence conversion, or one that was put back, starts at this boundary: its modulator is free (R170, R173, R178). -/
def Chan.startsNow (c : Chan) : Bool :=
  let free (e : BitVec 4) : Bool :=
    let q := c.seqEntry e
    c.modFree (modOf q.input (effGain q.input q.gain)) q.input
  let seq := match c.meas.pass with
    | some p => decide (p.next ≤ p.last) && free (BitVec.ofNat 4 p.next)
    | none => false
  seq || c.meas.redo.any (fun e => free e.2) || c.meas.injHeld.isSome

/-- An opportunistic request at its boundary (R178): it runs when nothing runs, settles or starts there, a bead's pass included, and waits while
ranging holds its modulator (R322). -/
def State.injOpp (s : State) (n : Ch) (e : BitVec 4) : State :=
  let commits := (s.ch n).eff.run == .strand && s.mayCommit n
  s.upCh n fun c => if !c.meas.convs.isEmpty || c.startsNow || commits then c.dropInj else c.startEntry s.time .opp e

/-- INJ_OPPORTUNISTIC. -/
def execInjOpportunistic (n : Ch) (e : Entry) (s : State) : Host.Outcome State Fault Refusal :=
  .next (s.chWrite n 0x118 (injWord false e) fun s => (s.sample n).injOpp n (BitVec.ofNat 4 e.val))

/-! ### Calibration sessions -/

/-- A session is refused, or a request ends with a code, while no session is changed (R190, R208). -/
def Chan.calRefuse (c : Chan) (r : CalResult) : Chan :=
  { c with meas := { c.meas with cal := { c.meas.cal with result := r, done := true } } }

/-- The target names a range that is not the active one (R190). -/
def Chan.calWrongRange (c : Chan) (t : BitVec 5) : Bool :=
  let v := t.toNat
  let b := isBoost c.range.i
  if v ≤ 2 then decide (v ≠ c.range.v.toNat) || (b && v != 2)
  else if v ≤ 10 then b || decide (v - 3 ≠ c.range.i.toNat)
  else if v = 11 then !b
  else if v ≤ 19 then b || decide (v - 12 ≠ c.range.i.toNat)
  else if v ≤ 22 then b || decide (v - 20 ≠ c.range.v.toNat)
  else false

/-- The code of a refused ZERO, if any, in the order of R190's table. -/
def Chan.calCheck (c : Chan) (t : BitVec 5) : Option CalResult :=
  if c.calWrongRange t then some .wrongRange
  else if c.strand.st.runs || c.meas.cal.isOpen then some .busy
  else if t = 30 ∧ c.calForceOk = false then some .state
  else if !c.map.avail || c.map.member || (t = 10 ∧ c.map.claspSize ≠ 0) then some .noCell
  else if t = 31 then some .badTarget
  else none

/-- ZERO at its boundary (R190, R193, R224). -/
def State.calZero (s : State) (n : Ch) (t : BitVec 5) : State :=
  match (s.ch n).calCheck t with
  | some r => s.upCh n fun c => c.calRefuse r
  | none =>
    let s := s.upCh n fun c =>
      let c := c.squash
      { c with meas := { c.meas with cal := { c.meas.cal with target := t, clipped := false, z := 0, m1 := none } } }.calPoint s.time false
    s.calDrive n

/-- CAL_ZERO: ZERO latches TARGET. -/
def execCalZero (n : Ch) (target : BitVec 5) (s : State) : Host.Outcome State Fault Refusal :=
  .next (s.chWrite n 0x128 (fields [(16, target.toNat), (0, 1)]) fun s =>
    ((s.upCh n fun c => { c with cfg := { c.cfg with calTarget := target } }).sample n).calZero n target)

/-- FULL at its boundary (R191, R195): before ZERO_DONE, and for TARGET 29, the session ends with ORDER; so does a second FULL while the full
point converts (DESIGN CHOICE, see notes/assumptions). -/
def Chan.calFull (c : Chan) (now : Nat) : Chan :=
  match c.meas.cal.st with
  | .zeroDone => c.calPoint now true
  | .ready => if c.meas.cal.target = 29 ∨ c.meas.cal.target = 30 then c.calEnd .order else c.calPoint now true
  | .storing | .idle => c.calRefuse .order
  | _ => c.calEnd .order

/-- CAL_FULL. -/
def execCalFull (n : Ch) (s : State) : Host.Outcome State Fault Refusal :=
  .next (s.chWrite n 0x128 (fields [(16, (s.ch n).cfg.calTarget.toNat), (1, 1)]) fun s => (s.sample n).upCh n fun c => c.calFull s.time)

/-- The applied locket with a session's trims, its MODIFIED bit, time and temperature (R195). -/
def Cell.applyCal (x : Cell) (c : CalSt) (v : BitVec 4) (seconds : Nat) : Cell :=
  let l := { x.locket with calTime := BitVec.ofNat 32 seconds, calTemp := x.temp.setWidth 32 <<< 8 }
  if c.target = 30 then
    { x with locket := { l with force := l.force.set! (min v.toNat 2) (c.gm.setWidth 16, c.om.setWidth 16), modified := l.modified ||| 0x80000000 } }
  else
    { x with locket := { l with meas := l.meas.set! c.target.toNat (c.om, c.gm), modified := l.modified ||| (1#32 <<< c.target.toNat) } }

/-- COMMIT at its boundary (R195): the trims apply, and the cellar stores them where it can. -/
def State.calCommit (s : State) (n : Ch) : State :=
  let c := s.ch n
  match c.map.cell with
  | some k =>
    if c.meas.cal.st = .ready then
      let s := s.upCell k fun x => x.applyCal c.meas.cal c.range.v (s.ticks / 32768)
      if s.cel.st = .ready ∧ (s.cell k).locket.gen ≠ 0xFFFFFFFF then
        (s.upCh n fun c => { c with meas := { c.meas with cal := { c.meas.cal with st := .storing } } }).celAsk (.storeLocket k (some n) none)
      else s.upCh n fun c => c.calEnd .notStored
    else if c.meas.cal.st = .storing ∨ c.meas.cal.st = .idle then s.upCh n fun c => c.calRefuse .order
    else s.upCh n fun c => c.calEnd .order
  | none => s.upCh n fun c => c.calRefuse .order

/-- CAL_COMMIT. -/
def execCalCommit (n : Ch) (s : State) : Host.Outcome State Fault Refusal :=
  .next (s.chWrite n 0x128 (fields [(16, (s.ch n).cfg.calTarget.toNat), (2, 1)]) fun s => ((s.sample n).calCommit n).latchDac n)

/-- DISCARD at its boundary (R207): an open session ends without its trims; trims that are being stored have been applied. -/
def Chan.calDiscard (c : Chan) : Chan :=
  match c.meas.cal.st with
  | .idle | .storing => c
  | _ => c.calEnd .discarded

/-- CAL_DISCARD. -/
def execCalDiscard (n : Ch) (s : State) : Host.Outcome State Fault Refusal :=
  .next (s.chWrite n 0x128 (fields [(16, (s.ch n).cfg.calTarget.toNat), (3, 1)]) fun s => ((s.sample n).upCh n Chan.calDiscard).latchDac n)

/-- The gain trim of R192 from Z, F and the standard X. -/
def gainTrim (z f x : Int) : Int := rhaInt (2 ^ 30 * x) (f - z) - 2 ^ 30

/-- The point is complete with computed values; STATE is READY. -/
def CalSt.ready (c : CalSt) (om gm : Int) : CalSt :=
  { c with st := .ready, result := .ok, done := true, om := BitVec.ofInt 32 om, gm := BitVec.ofInt 32 gm }

/-- An om or a gm lies in the span of R186. -/
def omOk (x : Int) : Bool := decide (-(2 ^ 23) ≤ x) && decide (x ≤ 2 ^ 23 - 1)

def gmOk (x : Int) : Bool := decide (-(2 ^ 29) ≤ x) && decide (x ≤ 2 ^ 29)

/-- The zero point of a measure entry (R191, R192); for TARGET 29 the session is READY with om = Z − REF and the present gm. -/
def Chan.zeroPoint (c : Chan) (z : Int) (clip : Bool) (gmNow : Word) : Chan :=
  if clip then c.calEnd .clipped
  else if c.meas.cal.target = 29 then
    let om := z - c.eff.calRef.toInt
    if omOk om then { c with meas := { c.meas with cal := c.meas.cal.ready om gmNow.toInt } } else c.calEnd .outOfSpan
  else { c with meas := { c.meas with cal := { c.meas.cal with st := .zeroDone, result := .ok, done := true, z := z } } }

/-- The full point of a measure entry (R192). -/
def Chan.fullPoint (c : Chan) (f : Int) (clip : Bool) : Chan :=
  let x := c.eff.calRef.toInt
  let z := c.meas.cal.z
  let g : Int := 2 ^ (calInput c.meas.cal.target).2.toNat
  if (x.natAbs : Int) * g < 2 ^ 21 then c.calEnd .refSmall
  else if clip then c.calEnd .clipped
  else if f = z ∨ (decide (f - z < 0) != decide (x < 0)) ∨ ¬ gmOk (gainTrim z f x) ∨ ¬ omOk z then c.calEnd .outOfSpan
  else { c with meas := { c.meas with cal := c.meas.cal.ready z (gainTrim z f x) } }

/-- The force trims of R196 from the calibrated results at both points: (g, o). -/
def forceTrims (m1 m2 : Int) : Int × Int :=
  (rhaInt (2 ^ 24 * (16 * 786432 - (m2 - m1))) (m2 - m1), rhaInt (-((m1 + m2) * 393216)) (m2 - m1))

/-- A point of a force session (R196): the second conversion follows the first; after it g and o are judged. The first drive point is no
completed step of R208: DONE waits for the session's own point (DESIGN CHOICE, see notes/assumptions). -/
def Chan.forcePoint (c : Chan) (m : Int) (now : Nat) : Chan :=
  match c.meas.cal.m1 with
  | none => { c with meas := { c.meas with cal := { c.meas.cal with m1 := some m } } }.calStart now
  | some m1 =>
    let t := forceTrims m1 m
    if m = m1 ∨ 32767 < t.1.natAbs ∨ 32767 < t.2.natAbs then c.calEnd .outOfSpan
    else { c with meas := { c.meas with cal := c.meas.cal.ready t.2 t.1 } }

/-- CAL_CONVERSION_COMPLETE (R192, R196): the point's value is judged, then a waiting urgent request and the sequence follow (R193). -/
def execCalConversionComplete (n : Ch) (x : ConvIn) (s : State) : Host.Outcome State Fault Refusal :=
  .next (s.live fun s =>
    let c := s.ch n
    let t := c.meas.cal.target
    match c.map.cell, c.endedConv (calMod t) true s.time with
    | some k, some v =>
      let r := s.convValue n k v x (if t = 30 then none else some t.toNat)
      let clip := r.2 || x.overSpan
      let s := s.upCh n fun c =>
        let c := { c with meas := { c.meas with convs := c.meas.convs.erase v } }
        let c := match c.meas.cal.st with
          | .zeroRun => c.zeroPoint r.1 clip ((s.cell k).trim t.toNat).2
          | .fullRun => c.fullPoint r.1 clip
          | .forceRun => c.forcePoint r.1 s.time
          | _ => c
        if c.calRuns then c else c.serveSlot s.time
      (s.latchDac n).calDrive n
    | _, _ => s)

/-! ### The demodulator and the sine phase -/

/-- An output of R198. -/
def demodOut (sum : Int) (n : Nat) : Level := sat32 (rha sum (n * 1024))

/-- A window that has ended delivers (R198, R200): the outputs update without touching the snapshot. -/
def DemodSt.finish (d : DemodSt) : DemodSt :=
  match d.fin with
  | some (a, b, c, e, n, t) =>
    { d with vi := demodOut a n, vq := demodOut b n, ii := demodOut c n, iq := demodOut e n, time := timeLo t, new := true, fin := none }
  | none => d

/-- DEMOD_WINDOW_END (R198): the boundary behind the wrap that ended the window. -/
def execDemodWindowEnd (n : Ch) (s : State) : Host.Outcome State Fault Refusal :=
  .next (s.live fun s => s.upCh n fun c => { c with meas := { c.meas with demod := c.meas.demod.finish } })

/-- SINE_PHASE_WRITE (R278). -/
def execSinePhaseWrite (n : Ch) (v : Word) (s : State) : Host.Outcome State Fault Refusal :=
  .next (s.chWrite n 0x28C v fun s => (s.sample n).upCh n fun c => { c with phase := v })

end Sys2Proof.Machine
end

