-- ==== Sys2Proof/Machine/Range.lean ====
section
/-! DEFINITION. The ranging family: overlaps, handovers, squashes, voltage range changes, booster changes and the ranging registers
(R211 … R246, R262, R344). -/

namespace Sys2Proof.Machine

/-! ### What is asked for -/

/-- The boundary of the next commit as far as the strand knows it, in cycles: an order's (R481), the end of the dwell, or the next boundary
for a first bead (R257). An armed channel knows none. -/
def Chan.commitDue (c : Chan) (now : Nat) : Option Nat :=
  if c.strand.st = .armed then none
  else match c.strand.order, c.strand.committed with
    | some t, _ => some t
    | none, some t => some (max (t + 256 * c.dwellPeriods c.strand.dwell) (256 * c.strand.holdUntil))
    | none, none => some now

/-- The next prepared bead, past tone beads (R262). -/
def Chan.nextPoint (c : Chan) : Option Prep := c.strand.ahead.find? fun p => !(c.eff.type == .sine && p.isTone)

/-- The shunt that a due pre-arm asks for (R262): 9 boundaries before the commit, or at once when fewer remain. -/
def Chan.prearm (c : Chan) (now : Nat) : Option (BitVec 4) :=
  match c.strand.st.active, c.nextPoint, c.commitDue now with
  | true, some p, some t =>
    let i := c.holdI p.i
    if decide (t ≤ now + 9 * 256) && p.i != 15 && !isBoost i && !isBoost c.range.i && i != c.range.i then some i else none
  | _, _, _ => none

/-- The shunt to engage, and who asks: a commanded change first, then run-ahead, whose overlaps count as commanded, then the predictor
(R220, R233, R240, R320 M10). A change from an internal range below 0x7 to a booster range goes through 0x7. -/
def Chan.engageTarget (c : Chan) (now : Nat) : Option (BitVec 4 × Origin) :=
  let r := c.range
  if isBoost r.i then none
  else match r.wantI with
    | some w => if isBoost w then (if r.i = 7 then none else some (7, .command)) else some (w, .command)
    | none =>
      match c.prearm now, c.fired with
      | some i, _ => some (i, .prearm)
      | none, some f => if isBoost f then none else some (f, .predictor)
      | none, none => none

/-! ### Overlap and handover (R220 … R225) -/

/-- The overlap engages: ENGAGING begins and ranging takes the overlap modulator (R173, R220). -/
def Chan.engage (c : Chan) (o : BitVec 4) (w : Origin) : Chan :=
  let c := c.takeOverlap
  { c with range := { c.range with hst := .engaging, steps := 0, ovl := some o, origin := w, cross := 0, miss := 0, fire := none,
                                   specs := if w = .predictor then satInc c.range.specs else c.range.specs } }

/-- OVERLAP_ENGAGE (R220). -/
def execOverlapEngage (n : Ch) (s : State) : Host.Outcome State Fault Refusal :=
  .next (s.live fun s =>
    match s.mayRange n && (s.ch n).range.hst == .idle, (s.ch n).engageTarget s.time with
    | true, some (o, w) => (s.upCh n fun c => c.engage o w).refresh n
    | _, _ => s)

/-- The handover starts: the new range is active from this period and the feedback blends (R220 … R222). A level that came with the new
range of the forced quantity is applied (R216). -/
def Chan.handover (c : Chan) (sine : Int) : Chan :=
  match c.range.ovl with
  | some o =>
    let c := c.activateI o
    { c with range := { c.range with hst := .blend, steps := 0, cross := 0, miss := 0 } }.settleLevel sine
  | none => c

/-- HANDOVER_START (R220). -/
def execHandoverStart (n : Ch) (s : State) : Host.Outcome State Fault Refusal :=
  .next (s.live fun s =>
    if s.mayRange n && (s.ch n).handoverDue then (s.upCh n fun c => c.handover (s.sineNow n)).refresh n else s)

/-- An overlap has lost its cause (R224): its direction's firing condition failed in 16 consecutive updates, or no crossing occurred within
4 × h updates. One that a commanded change needs is kept (R240). -/
def Chan.squashDue (c : Chan) : Bool :=
  let r := c.range
  r.change.1 == .overlap && !r.needsOvl &&
    (decide (16 ≤ r.miss) || decide (4 * c.horizon ≤ r.change.2))

/-- OVERLAP_SQUASH (R224). -/
def execOverlapSquash (n : Ch) (s : State) : Host.Outcome State Fault Refusal :=
  .next (s.live fun s => if s.mayRange n && (s.ch n).squashDue then (s.upCh n Chan.squash).refresh n else s)

/-- HOLD_OFF_END (R219): after 16 updates the predictor may fire again. -/
def execHoldOffEnd (n : Ch) (s : State) : Host.Outcome State Fault Refusal :=
  .next (s.live fun s => s.upCh n fun c =>
    if c.range.ready then { c with range := { c.range with hold := none } } else c)

/-! ### Voltage ranges (R227, R228) -/

/-- The voltage range that switches now: period p of V_SWITCH has passed, and the limiter has moved the code into the new span where it
can. -/
def Chan.vSwitchDue (c : Chan) (now : Nat) : Option (BitVec 4) :=
  match c.range.hst, c.range.steps, c.range.wantV with
  | .vSwitch, 0, some v => if now < c.range.vAt + 256 || (c.moves && c.overSpan v) then none else some v
  | _, _, _ => none

/-- A shadow's count of R336 restarts with a voltage range change (R340). -/
def State.restartCheck (s : State) (n : Ch) : State :=
  match (s.migOf n).bind fun b => (s.mig b).newCell with
  | some j => s.upCell j fun x => { x with run := 0 }
  | none => s

/-- V_RANGE_SWITCH (R227): the range of period p + 1. -/
def execVRangeSwitch (n : Ch) (s : State) : Host.Outcome State Fault Refusal :=
  .next (s.live fun s =>
    match (s.ch n).vSwitchDue s.time with
    | some v =>
      ((((s.upCh n fun c => { (c.activateV v) with range := { (c.activateV v).range with steps := 2, vAt := s.time } }).latchDac n).restartCheck n).refresh n)
    | none => s)

/-! ### Booster ranges (R230 … R234) -/

/-- A change between 0x7 and the lowest booster range begins: the overlap modulator takes the 0x7 shunt. -/
def Chan.boostStart (c : Chan) (h : HState) (w : Origin) : Chan :=
  let c := c.takeOverlap
  { c with range := { c.range with hst := h, steps := 0, ovl := some 7, origin := w, fire := none, cross := 0, miss := 0, vSum := 0, boostC := 0 } }

/-- A change between 0x7 and the lowest booster range as it is asked for (R230, R233, R234): upward it starts, downward it starts below
16 mA and waits with LIMITED otherwise. -/
def Chan.boostChange (c : Chan) : Chan :=
  match c.range.hst, c.rangeAsked with
  | .idle, some (w, o) =>
    if c.range.i = 7 ∧ isBoost w then c.boostStart .boostMake o
    else if isBoost c.range.i ∧ c.range.i = c.lowBoost ∧ !isBoost w then
      (if c.below16mA then c.boostStart .boostBreak o
       else if o = .command then { c with range := { c.range with waits := true } } else c)
    else c
  | _, _ => c

/-- BOOSTER_RANGE_CHANGE (R230). -/
def execBoosterRangeChange (n : Ch) (s : State) : Host.Outcome State Fault Refusal :=
  .next (s.live fun s => if s.mayRange n then (s.upCh n Chan.boostChange).refresh n else s)

/-- BOOSTER_GAIN_SWITCH (R232): the new range is active at once, and the fast path repeats the last I sample for 3 updates. -/
def execBoosterGainSwitch (n : Ch) (s : State) : Host.Outcome State Fault Refusal :=
  .next (s.live fun s =>
    match s.mayRange n, (s.ch n).gainTarget with
    | true, some (t, o) =>
      (s.upCh n fun c =>
        let c := c.activateI t
        { c with range := { c.range with hst := .gainSwitch, steps := 0, origin := o, fire := none } }.settleLevel (s.sineNow n)).refresh n
    | _, _ => s)

/-- A change off a booster range that waits for the current to fall (R234). -/
def Chan.waitingChange (c : Chan) : Bool :=
  c.range.hst == .idle && isBoost c.range.i && c.range.i == c.lowBoost && c.below16mA && (match c.range.wantI with
    | some w => !isBoost w
    | none => false)

/-- WAITING_CHANGE_START (R234). -/
def execWaitingChangeStart (n : Ch) (s : State) : Host.Outcome State Fault Refusal :=
  .next (s.live fun s =>
    if s.mayRange n && (s.ch n).waitingChange then (s.upCh n fun c => c.boostStart .boostBreak .command).refresh n else s)

/-! ### Registers (R242, R243) -/

/-- CH_RANGE_CTRL's fields from a word. -/
def Chan.rangeCtrl (c : Chan) (v : Word) : ChanCfg :=
  let hi : BitVec 4 := if c.topRange.toNat < bits v 12 4 then c.topRange else v.extractLsb' 12 4
  let lo : BitVec 4 := if hi.toNat < bits v 8 4 then hi else v.extractLsb' 8 4
  { c.cfg with horizonM1 := v.extractLsb' 16 10, boundHi := hi, boundLo := lo, policy := policyOf (bits v 0 2) }

/-- RANGE_CTRL_WRITE (R242). -/
def execRangeCtrlWrite (n : Ch) (v : Word) (s : State) : Host.Outcome State Fault Refusal :=
  .next (s.chWrite n 0x200 v fun s => ((s.upCh n fun c => { c with cfg := c.rangeCtrl v }).sample n).refresh n)

/-- A CH_RANGE_SET write as it lands (R243): ignored with a Note when it names a range that the channel does not have. -/
def State.rangeSetLand (s : State) (n : Ch) (v : Word) : State :=
  let c := s.ch n
  let i : BitVec 4 := v.extractLsb' 0 4
  let w : BitVec 4 := v.extractLsb' 4 4
  if 2 < w.toNat ∨ 10 < i.toNat ∨ c.declared i = false then s.noteCh n 0x204
  else s.upCh n fun c => { c with cfg := { c.cfg with setV := w, setI := i } }

/-- RANGE_SET_WRITE (R243): the ranges wait for the next strobe (R215). -/
def execRangeSetWrite (n : Ch) (v : Word) (s : State) : Host.Outcome State Fault Refusal :=
  .next (s.chWrite n 0x204 v fun s => (s.rangeSetLand n v).sample n)

end Sys2Proof.Machine
end

