-- ==== Sys2Proof/Machine/Window.lean ====
section
/-! DEFINITION. The window family: crossings, samples, the first sample and the window registers (R295 … R316). -/

namespace Sys2Proof.Machine

/-- WINDOW_CROSSING (R299): the input of a continuous window crosses a band edge at cycle `cyc` of the present loop period. A clasp
member's own windows do not run. -/
def execWindowCrossing (n : Ch) (w : WinId) (x : WinIn) (cyc : Nat) (s : State) : Host.Outcome State Fault Refusal :=
  .next (s.live fun s =>
    if ((s.ch n).eff.win w).mode = .continuous ∧ (s.ch n).map.member = false then s.judge n w (x.own :: x.others) (s.time + cyc) true else s)

/-- A sample while the bay sleeps (R304): a trip reaches the output stages at once and wakes the bay; the rest waits for the wake, one trip
behind the other. -/
def State.sleepSample (s : State) (n : Ch) (w : WinId) (xs : List Int) (t : Nat) : State :=
  let c := s.ch n
  let g := c.eff.win w
  let st := (c.win w).st.next g.hyst.toNat (s.winOns n w xs)
  let s := (s.comparators n w false g.hyst.toNat xs).upCh n fun c => c.upWin w fun x => { x with st := st, stage := x.stage && st != .inside }
  if st = (c.win w).st ∨ st = .inside then s
  else
    let s := s.upCh n fun c => c.upWin w fun x => { x with late := x.late ++ [(st, t)] }
    let s := s.when (g.route.getLsbD 1) fun s => s.each (s.driveCells n) fun k s => s.upCell k Cell.tripStage
    s.wake (chBay n)

/-- WINDOW_SAMPLE (R303). -/
def execWindowSample (n : Ch) (w : WinId) (x : WinIn) (cyc : Nat) (s : State) : Host.Outcome State Fault Refusal :=
  .next (s.live fun s =>
    if ((s.ch n).eff.win w).mode = .sampled ∧ (s.ch n).map.member = false then
      if (s.bay (chBay n)).awake then s.judge n w (x.own :: x.others) (s.time + cyc) false
      else if ((s.ch n).eff.win w).tick = 0 then s.sleepSample n w (x.own :: x.others) (s.time + cyc)
      else s
    else s)

/-- WINDOW_FIRST_SAMPLE (R302): two loop periods after arming. -/
def execWindowFirstSample (n : Ch) (w : WinId) (x : WinIn) (s : State) : Host.Outcome State Fault Refusal :=
  .next (s.live fun s =>
    match ((s.ch n).win w).arming with
    | some b =>
      if b + 2 * 256 ≤ s.time ∧ (s.ch n).map.member = false then
        (s.upCh n fun c => c.upWin w fun x => { x with arming := none }).judge n w (x.own :: x.others) s.time true
      else s
    | none => s)

/-- CH_WIN_CFG_w's fields from a word (R312); in bare structure every window stays off (R301). -/
def WinCfg.setCfg (g : WinCfg) (v : Word) (bare : Bool) : WinCfg :=
  let tick := bits v 16 5
  { g with mode := if bare then .off else match bits v 30 2 with
             | 1 => .continuous
             | 2 => .sampled
             | _ => .off,
           route := v.extractLsb' 24 2, hyst := v.extractLsb' 0 6,
           tick := if tick = 0 then 0 else if tick < 5 then 5 else if 24 < tick then 24 else v.extractLsb' 16 5 }

/-- Offset of a window register (R311). -/
def winOff (w : WinId) (r : Nat) : Nat := (match w with
  | .v => 0x300
  | .i => 0x320) + r

/-- A CH_WIN_CFG_w write as it lands. Bare structure stays in force while a load runs on it (R301). -/
def State.winCfgLand (s : State) (n : Ch) (w : WinId) (v : Word) : State :=
  s.upCh n fun c => { c with cfg := c.cfg.upWin w fun g => g.setCfg v s.isBare }

/-- WIN_CFG_WRITE. A change of mode acts at once at the boundary; the bay wakes for it (R328). -/
def execWinCfgWrite (n : Ch) (w : WinId) (v : Word) (s : State) : Host.Outcome State Fault Refusal :=
  .next (s.chWrite n (winOff w 0) v fun s => ((s.winCfgLand n w v).sample n).winAct n w)

/-- CH_WIN_THR_w's fields from a word (R313): LO above HI stores LO = HI. -/
def WinCfg.setThr (g : WinCfg) (v : Word) : WinCfg :=
  let hi : BitVec 12 := v.extractLsb' 16 12
  let lo : BitVec 12 := v.extractLsb' 0 12
  { g with hi := hi, lo := if hi.toNat < lo.toNat then hi else lo }

/-- WIN_THR_WRITE (R307): the thresholds take the range in force at the boundary as their reference. -/
def execWinThrWrite (n : Ch) (w : WinId) (v : Word) (s : State) : Host.Outcome State Fault Refusal :=
  .next (s.chWrite n (winOff w 4) v fun s =>
    ((s.upCh n fun c => { c with cfg := c.cfg.upWin w fun g => g.setThr v }).sample n).upCh n fun c => c.refThr w)

end Sys2Proof.Machine
end

