-- ==== Sys2Proof/Machine/ChanWrite.lean ====
section
/-! DEFINITION. Host writes to a channel page as they land: fields that are stored, bits that a 1 clears, and requests that wait for the next
boundary (R6, R7, R9, R113 … R118, R149 … R155, R202 … R209, R242 … R245, R290 … R293, R311 … R315, R507). -/

namespace Sys2Proof.Machine

/-! ### Requests that wait for the boundary (R9) -/

/-- Requests wait behind those that have landed. -/
def State.land (s : State) (l : List Instr) : State := { s with landed := s.landed ++ l }

/-- A request that takes the place of the earlier ones that `p` names: of several writes in one loop period the last decides. -/
def State.landLast (s : State) (p : Instr → Bool) (l : List Instr) : State := { s with landed := s.landed.filter (fun i => !p i) ++ l }

/-- The registers of a channel changed as they land. -/
def State.upCfg (s : State) (n : Ch) (f : ChanCfg → ChanCfg) : State := s.upCh n fun c => { c with cfg := f c.cfg }

/-- A value held within bounds. -/
def within (lo hi x : Nat) : Nat := max lo (min hi x)

/-! ### Stored fields and bits that a 1 clears -/

/-- CH_SEQ_e's fields from a word (R205). -/
def SeqEntry.ofWord (v : Word) : SeqEntry :=
  let i := if bits v 20 3 < 6 then bits v 20 3 else 0
  { input := BitVec.ofNat 3 i, gain := if i = 1 ∨ i = 3 then 0 else BitVec.ofNat 3 (min 4 (bits v 24 3)), jM1 := v.extractLsb' 0 17 }

/-- The entry that a CH_SEQ offset names. -/
def seqOff (off : Nat) : Option (Fin 16) :=
  if h : off % 4 = 0 ∧ 0x140 ≤ off ∧ off < 0x180 then some ⟨(off - 0x140) / 4, by omega⟩ else none

/-- The registers whose fields are stored as they are written, held to their spans. -/
def ChanCfg.store (g : ChanCfg) (off : Nat) (v : Word) : ChanCfg :=
  match off with
  | 0x044 => { g with level := v }
  | 0x04C => { g with slewStep := BitVec.ofNat 20 (max 1 (bits v 0 20)), slewRateM1 := v.extractLsb' 24 8 }
  | 0x058 => { g with streamDivM1 := v.extractLsb' 0 16 }
  | 0x094 => { g with rampStep := BitVec.ofNat 20 (max 1 (bits v 0 20)) }
  | 0x0A4 => { g with ilimitNa := BitVec.ofNat 32 (within 1 3000000000 v.toNat) }
  | 0x0A8 => { g with vlimitUv := BitVec.ofNat 32 (within 1 40000000 v.toNat) }
  | 0x0AC => { g with capMw := BitVec.ofNat 9 (within 10 300 (bits v 0 9)) }
  | 0x12C => { g with calRef := v }
  | 0x13C => { g with calJM1 := v.extractLsb' 0 17 }
  | 0x1C0 => { g with demodEn := v.getLsbD 31, demodCycles := BitVec.ofNat 16 (max 1 (bits v 0 16)) }
  | 0x24C => { g with strandFirst := v.extractLsb' 0 16 }
  | 0x260 => { g with msel := g.msel.set 0 v }
  | 0x264 => { g with msel := g.msel.set 1 v }
  | 0x268 => { g with msel := g.msel.set 2 v }
  | 0x26C => { g with msel := g.msel.set 3 v }
  | 0x280 => { g with sineEn := v.getLsbD 31, sineTable := v.getLsbD 0 }
  | 0x284 => { g with sineFreq := v }
  | 0x288 => { g with sineAmpl := v }
  | 0x290 => { g with pulseWidth := BitVec.ofNat 28 (within 492 245760000 (bits v 0 28)) }
  | 0x294 => { g with tripEnd := v.getLsbD 31, mdelay := v.extractLsb' 0 24 }
  | 0x298 => { g with pulseBase := v }
  | _ => match seqOff off with
    | some e => { g with seq := g.seq.set e.val (SeqEntry.ofWord v) }
    | none => g

/-- The flags of a window after a write to CH_WIN_STAT_w (R314). -/
def WinSt.clear (w : WinSt) (v : Word) : WinSt := { w with tripHi := w.tripHi && !v.getLsbD 25, tripLo := w.tripLo && !v.getLsbD 24 }

/-- The W1C bits of a channel page. -/
def Chan.clear (c : Chan) (off : Nat) (v : Word) : Chan :=
  match off with
  | 0x050 => { c with force := { c.force with sat := c.force.sat && !v.getLsbD 30, underrun := c.force.underrun && !v.getLsbD 29 } }
  | 0x054 => if v.getLsbD 31 then c.clearTripped else c
  | 0x084 => { c with loop := { c.loop with dcapHit := c.loop.dcapHit && !v.getLsbD 1, crossed := c.loop.crossed && !v.getLsbD 0 } }
  | 0x088 => { c with loop := { c.loop with satI := c.loop.satI &&& ~~~(v.extractLsb' 16 10), satV := c.loop.satV &&& ~~~(v.extractLsb' 0 10) } }
  | 0x104 => { c with meas := { c.meas with passDone := c.meas.passDone && !v.getLsbD 29 } }
  | 0x130 => { c with meas := { c.meas with cal := { c.meas.cal with done := c.meas.cal.done && !v.getLsbD 0 } } }
  | 0x1C4 => { c with meas := { c.meas with demod :=
      { c.meas.demod with new := c.meas.demod.new && !v.getLsbD 31, disturbed := c.meas.demod.disturbed && !v.getLsbD 30 } } }
  | 0x208 => { c with range := { c.range with squashed := c.range.squashed && !v.getLsbD 21, changed := c.range.changed && !v.getLsbD 20 } }
  | 0x248 => { c with strand := { c.strand with ended := c.strand.ended && !v.getLsbD 23, fixed := c.strand.fixed && !v.getLsbD 22 } }
  | 0x30C => { c with winV := c.winV.clear v }
  | 0x32C => { c with winI := c.winI.clear v }
  | _ => c

/-! ### Registers with requests -/

/-- CH_FORCE_CTRL (R113). CLOSE with OPEN in one write is ignored with a Note (R100). -/
def State.forceCtrl (s : State) (n : Ch) (v : Word) : State :=
  let cls : UpdateClass := if v.getLsbD 1 then .stream else .strobed
  let s := (s.modeLand n (if v.getLsbD 0 then .current else .voltage)).upCfg n fun g => { g with cls := cls }
  let s := s.when (v.getLsbD 2 && v.getLsbD 3) fun s => s.noteCh n 0x040
  s.land ((if v.getLsbD 5 then [.forceLoad n] else []) ++ (if v.getLsbD 4 then [.forceRest n] else []) ++
    (if v.getLsbD 3 then [.forceOpen n] else if v.getLsbD 2 then [.forceClose n] else []))

/-- A close or open request of CH_n's loops waits. -/
def isLoopReq (n : Ch) : Instr → Bool
  | .loopClose m => m == n
  | .loopOpen m => m == n
  | _ => false

/-- CH_LOOP_CTRL (R141, R150): of two writes in one loop period the last decides; one that sets both bits is ignored with a Note. -/
def State.loopCtrl (s : State) (n : Ch) (v : Word) : State :=
  match v.getLsbD 1, v.getLsbD 0 with
  | true, true => s.noteCh n 0x080
  | true, false => s.landLast (isLoopReq n) [.loopOpen n]
  | false, true => s.landLast (isLoopReq n) [.loopClose n]
  | false, false => s

/-- A manual command of CH_n waits; so does a compliance, or a run mode. -/
def isCmdReq (n : Ch) : Instr → Bool
  | .loopCmdWrite m _ => m == n
  | _ => false

def isComplReq (n : Ch) : Instr → Bool
  | .complianceWrite m _ => m == n
  | _ => false

def isRunReq (n : Ch) : Instr → Bool
  | .measRunWrite m _ => m == n
  | _ => false

/-- CH_MEAS_CTRL (R169, R171, R202). -/
def State.measCtrl (s : State) (n : Ch) (v : Word) : State :=
  let g := (s.ch n).cfg
  let run := runOf (bits v 0 2)
  let s := s.when (decide (g.last ≠ v.extractLsb' 12 4) || decide (g.first ≠ v.extractLsb' 8 4)) fun s =>
    s.upCh n fun c => { c with meas := { c.meas with freeRun := false } }
  let s := s.upCfg n fun g => { g with pubMask := v.extractLsb' 16 16, last := v.extractLsb' 12 4, first := v.extractLsb' 8 4, run := run }
  let s := s.landLast (isRunReq n) (if run = (s.ch n).eff.run then [] else [.measRunWrite n run])
  s.land (if v.getLsbD 2 then [.measStart n] else [])

/-- CH_INJ (R175, R206); a write that sets both bits is ignored with a Note. -/
def State.injCtrl (s : State) (n : Ch) (v : Word) : State :=
  let e : Entry := ⟨bits v 0 4, Nat.mod_lt _ (by decide)⟩
  match v.getLsbD 31, v.getLsbD 30 with
  | true, true => s.noteCh n 0x118
  | true, false => s.land [.injUrgent n e]
  | false, true => s.land [.injOpportunistic n e]
  | false, false => s

/-- CH_CAL_CTRL (R207). -/
def State.calCtrl (s : State) (n : Ch) (v : Word) : State :=
  match bits v 0 4 with
  | 0 => s
  | 1 => (s.upCfg n fun g => { g with calTarget := v.extractLsb' 16 5 }).land [.calZero n (v.extractLsb' 16 5)]
  | 2 => s.land [.calFull n]
  | 4 => s.land [.calCommit n]
  | 8 => s.land [.calDiscard n]
  | _ => s.noteCh n 0x128

/-- CH_STRAND_CTRL (R290). -/
def State.strandCtrl (s : State) (n : Ch) (v : Word) : State :=
  match bits v 29 3 with
  | 0 => s
  | 4 => s.land [.strandStart n (v.getLsbD 28) (v.extractLsb' 0 10)]
  | 2 => s.land [.strandStop n]
  | 1 => s.land [.strandAbort n]
  | _ => s.noteCh n 0x240

/-- CH_STRAND_CFG (R291). -/
def State.strandCfg (s : State) (n : Ch) (v : Word) : State :=
  if (s.ch n).strand.st.active then s.noteCh n 0x244
  else s.upCfg n fun g =>
    { g with cstop := v.getLsbD 31, tstop := v.getLsbD 30, type := strandTypeOf (bits v 24 3),
             tout := if bits v 16 3 < 5 then v.extractLsb' 16 3 else 0 }

/-- CH_LARDER_CFG (R293). -/
def State.larderCfg (s : State) (n : Ch) (v : Word) : State :=
  if (s.ch n).strand.st.runs then s.noteCh n 0x2C0
  else (s.upCfg n fun g => { g with larderRing := v.getLsbD 31 }).land (if v.getLsbD 30 then [.larderClear n] else [])

/-- CH_WIN_THR_w (R307, R313): the register at once, the reference range at the boundary. -/
def State.winThrLand (s : State) (n : Ch) (w : WinId) (v : Word) : State :=
  (s.upCfg n fun g => g.upWin w fun x => x.setThr v).land [.winThrWrite n w v]

/-- The coefficient register at an offset (R149). -/
def coefAt (off : Nat) : Option (WinId × CoefReg) :=
  match off with
  | 0x0B8 => some (.v, .kp)
  | 0x0BC => some (.v, .ki)
  | 0x0C0 => some (.v, .kd)
  | 0x0C4 => some (.v, .kdf)
  | 0x0C8 => some (.v, .kff)
  | 0x0CC => some (.v, .shift)
  | 0x0D0 => some (.i, .kp)
  | 0x0D4 => some (.i, .ki)
  | 0x0D8 => some (.i, .kd)
  | 0x0DC => some (.i, .kdf)
  | 0x0E0 => some (.i, .kff)
  | 0x0E4 => some (.i, .shift)
  | _ => none

/-- A write that ends a free run (R171): one that changes an entry of the pass. -/
def Chan.seqChanged (c : Chan) (off : Nat) (v : Word) : Bool :=
  match seqOff off with
  | some e => decide (c.cfg.seq[e.val] ≠ SeqEntry.ofWord v) && decide (c.eff.first.toNat ≤ e.val) && decide (e.val ≤ c.lastEntry)
  | none => false

/-- The registers without a request: stored fields and bits that a 1 clears. EN stays 1 while a strand's tone drives the sine (R278). -/
def State.storeCh (s : State) (n : Ch) (off : Nat) (v : Word) : State :=
  s.upCh n fun c =>
    let free := c.meas.freeRun && !c.seqChanged off v
    let keepEn (g : ChanCfg) : ChanCfg := if off = 0x280 ∧ c.strand.toneOn then { g with sineEn := true } else g
    Chan.clear { c with cfg := keepEn (c.cfg.store off v), meas := { c.meas with freeRun := free } } off v

/-- A data-path register of a channel page as a write lands in it. -/
def State.writeCh (s : State) (n : Ch) (off : Nat) (v : Word) : State :=
  match coefAt off with
  | some (w, r) => s.coefLand n w r v
  | none =>
    match off with
    | 0x040 => s.forceCtrl n v
    | 0x080 => s.loopCtrl n v
    | 0x08C => s.landLast (isCmdReq n) [.loopCmdWrite n (v.extractLsb' 0 20)]
    | 0x098 => (s.upCfg n fun g => { g with compliance := v }).landLast (isComplReq n) [.complianceWrite n v]
    | 0x100 => s.measCtrl n v
    | 0x108 => s.measCfgLand n v
    | 0x118 => s.injCtrl n v
    | 0x128 => s.calCtrl n v
    | 0x200 => s.upCh n fun c => { c with cfg := c.rangeCtrl v }
    | 0x204 => s.rangeSetLand n v
    | 0x240 => s.strandCtrl n v
    | 0x244 => s.strandCfg n v
    | 0x28C => s.land [.sinePhaseWrite n v]
    | 0x29C => s.land (if v.getLsbD 31 then [.streamFlush n] else [])
    | 0x2C0 => s.larderCfg n v
    | 0x2CC => s.upCh n fun c => c.larderRd v
    | 0x300 => s.winCfgLand n .v v
    | 0x320 => s.winCfgLand n .i v
    | 0x304 => s.winThrLand n .v v
    | 0x324 => s.winThrLand n .i v
    | _ => s.storeCh n off v

/-- A register of a channel page that ignores every write without a message (R6): it has no writable field. -/
def roCh (off : Nat) : Bool :=
  [0x000, 0x048, 0x05C, 0x090, 0x09C, 0x0A0, 0x0B0, 0x0B4, 0x0E8, 0x0EC, 0x110, 0x114, 0x11C, 0x120, 0x124, 0x134, 0x138, 0x1C8, 0x1CC, 0x1D0,
   0x1D4, 0x1D8, 0x1DC, 0x1E0, 0x20C, 0x210, 0x214, 0x218, 0x250, 0x254, 0x258, 0x2A0, 0x2C4, 0x2C8, 0x2D0, 0x2D4, 0x308, 0x310, 0x314, 0x328,
   0x330, 0x334, 0x3C0, 0x3E4].contains off || (decide (0x180 ≤ off) && decide (off < 0x1C0))

/-- A host write to a word of a channel page; `off` names a mapped register. CH_ATTN_EN belongs to no data path and is written on a clasp
member too (R24); a START on a member is judged at its boundary (R258). -/
def State.hostWriteCh (s : State) (n : Ch) (off : Nat) (v : Word) : State :=
  if off = 0x3E0 then s.pageWrite (chBay n) (chAddr n off) v fun s => s.upCfg n fun g => { g with attnEn := v.extractLsb' 0 8 }
  else if roCh off then s.pageWrite (chBay n) (chAddr n off) v id
  else if off = 0x240 ∧ bits v 29 3 = 4 then s.pageWrite (chBay n) (chAddr n off) v fun s => s.strandCtrl n v
  else s.chWrite n off v fun s => s.writeCh n off v

end Sys2Proof.Machine
end

