-- ==== Sys2Proof/Machine/RegWrite.lean ====
section
/-! DEFINITION. A host write to any word of the map as it lands, and the side effects of a host read
(R6 … R9, R24, R182, R200, R377, R388, R500, R504, R547 … R551). -/

namespace Sys2Proof.Machine

/-! ### System blocks -/

/-- GLB_SYNC_CTRL (R294). -/
def State.writeGlb (s : State) (off : Nat) (v : Word) : State :=
  if off = 0x80 then
    let t : BitVec 8 := v.extractLsb' 0 8
    if t = 0 then s.noteImg 0x80
    else match bits v 29 3 with
      | 0 => s
      | 4 => s.land [.syncStart t]
      | 2 => s.land [.syncFire t]
      | 1 => s.land [.syncAbort t]
      | _ => s.noteImg 0x80
  else s

/-- HOST (R509). -/
def HostPort.write (h : HostPort) (off : Nat) (v : Word) : HostPort :=
  match off with
  | 0x00 => { h with crcReq := v.getLsbD 31 }
  | 0x04 => { h with crcErr := h.crcErr && !v.getLsbD 31, badFrame := h.badFrame && !v.getLsbD 30, unmapped := h.unmapped && !v.getLsbD 29 }
  | 0x14 => { h with scratch := v }
  | _ => h

/-- IMG (R80 … R83). -/
def State.writeImg (s : State) (off : Nat) (v : Word) : State :=
  match off with
  | 0x00 => s.imgCtrl v
  | 0x04 => s.upImg fun g => { g with done := g.done && !v.getLsbD 28 }
  | 0x08 => s.upImg fun g => { g with word := v.extractLsb' 0 16 }
  | 0x0C => s.stageData v
  | 0x1C => s.upImg fun g => { g with clampSel := v.extractLsb' 0 9 }
  | _ => s

/-- A PLL's shadow dividers and flags (R462, R463). -/
def Pll.write (l : Pll) (off : Nat) (v : Word) : Pll :=
  match off with
  | 0x04 => { l with shM := v.extractLsb' 16 10, shN := BitVec.ofNat 16 (max 8 (bits v 0 16)) }
  | 0x08 => { l with shP := v.extractLsb' 0 7 }
  | 0x0C => { l with lol := l.lol && !v.getLsbD 29, lor := l.lor && !v.getLsbD 28, done := l.done && !v.getLsbD 26 }
  | _ => l

/-- A PLL's registers; a CTRL write that sets both bits is ignored. -/
def State.writePll (s : State) (p : PllId) (off : Nat) (v : Word) : State :=
  if off = 0 then
    match v.getLsbD 31, v.getLsbD 30 with
    | true, false => s.land [.pllCommit p]
    | false, true => s.land [.pllBandMeasure p []]
    | _, _ => s
  else s.upPll p fun l => l.write off v

/-- CLK (R460 … R464). -/
def State.writeClk (s : State) (off : Nat) (v : Word) : State :=
  if off = 0x00 then s.upClk fun k => { k with refMismatch := k.refMismatch && !v.getLsbD 28 }
  else if off = 0x08 then s.upClk fun k => { k with xtalLost := k.xtalLost && !v.getLsbD 30 }
  else if off < 0x10 then s
  else if off < 0x30 then s.writePll .a (off - 0x10) v
  else if off < 0x50 then s.writePll .b (off - 0x30) v
  else if h : off % 4 = 0 ∧ 0x50 ≤ off ∧ off < 0x60 then s.writeClkout ⟨(off - 0x50) / 4, by omega⟩ v
  else if h : off % 4 = 0 ∧ 0x100 ≤ off ∧ off < 0x200 then
    s.upPll .a fun l => { l with bands := l.bands.set ((off - 0x100) / 4) (Band.ofWord v) (by omega) }
  else if h : off % 4 = 0 ∧ 0x200 ≤ off ∧ off < 0x300 then
    s.upPll .b fun l => { l with bands := l.bands.set ((off - 0x200) / 4) (Band.ofWord v) (by omega) }
  else s

/-- FLT (R393 … R398). FLT_INJECT and FLT_INJECT_ADDR take writes through JTAG in factory test mode alone (R392). -/
def State.writeFlt (s : State) (off : Nat) (v : Word) (jtag : Bool) : State :=
  match off with
  | 0x00 => s.upFlt fun f => { f with lost := f.lost && !v.getLsbD 29 }
  | 0x10 => s.upFlt fun f => f.acknowledge v
  | 0x14 => s.readmit v
  | 0x18 => s.upFlt fun f => { f with readmitDone := f.readmitDone && !v.getLsbD 31 }
  | 0x20 => s.upFlt fun f => { f with srcSel := v.extractLsb' 0 10 }
  | 0x40 => s.upFlt fun f => { f with cofferSel := v.extractLsb' 0 12 }
  | 0x70 => if jtag && s.jtag.factory then s.inject v else s
  | 0x74 => if jtag && s.jtag.factory then s.upFlt fun f => { f with injectAddr := v } else s
  | _ => s

/-- The command that a CEL_CMD code names (R424). -/
def celCmdOf (v : Word) : Option Instr :=
  match bits v 0 8 with
  | 1 => some (.format (v.extractLsb' 24 8))
  | 2 => some .writeSlotA
  | 3 => some .writeSlotB
  | 4 => some .clearSlotA
  | 5 => some .clearSlotB
  | 6 => some .saveLibrary
  | 7 => some .patrol
  | 8 => some .flush
  | _ => none

/-- CEL (R429 … R431); codes that name no command end with BAD_COMMAND. -/
def State.writeCel (s : State) (off : Nat) (v : Word) : State :=
  match off with
  | 0x00 => match celCmdOf v with
    | some i => s.land [i]
    | none => { s with cel := s.cel.finish (v.extractLsb' 0 8) .badCommand }
  | 0x04 => { s with cel := { s.cel with done := s.cel.done && !v.getLsbD 26 } }
  | 0x08 => { s with cel := { s.cel with quad := v.getLsbD 31, plane := v.getLsbD 28, bigPage := v.getLsbD 24, ppb128 := v.getLsbD 20,
                                         blocks := v.extractLsb' 0 16 } }
  | 0x1C => s.setClock v
  | 0x40 => s.readSel v
  | _ => s

/-- LNK (R492, R493): LNK_CTRL off the root is ignored. -/
def State.writeLnk (s : State) (off : Nat) (v : Word) : State :=
  match off with
  | 0x00 => if s.lnk.root then s.land ((if v.getLsbD 31 then [.lnkEnum] else []) ++ (if v.getLsbD 30 then [.epochNow] else [])) else s
  | 0x04 => s.upLnk fun l =>
      { l with enumDone := l.enumDone && !v.getLsbD 29, refusedFlag := l.refusedFlag && !v.getLsbD 28, dup := l.dup && !v.getLsbD 27 }
  | 0x40 => s.upLnk fun l => { l with fwdDone := l.fwdDone && !v.getLsbD 30 }
  | _ => s

/-- PWR (R527 … R529). -/
def Pwr.write (p : Pwr) (off : Nat) (v : Word) : Pwr :=
  match off with
  | 0x00 => { p with pllSleep := v.getLsbD 31, holdAwake := v.extractLsb' 0 8 }
  | 0x04 => { p with govHit := p.govHit && !v.getLsbD 31, keeper := p.keeper && !v.getLsbD 30, railWaited := p.railWaited && !v.getLsbD 28 }
  | 0x08 => { p with limitMw := BitVec.ofNat 16 (within 10000 30000 (bits v 0 16)) }
  | _ => p

/-- ATT (R357 … R359). -/
def State.writeAtt (s : State) (off : Nat) (v : Word) : State :=
  match off with
  | 0x00 => if v.getLsbD 31 then s.land [.attMigrate ⟨bits v 0 6, Nat.mod_lt _ (by decide)⟩ (v.getLsbD 30)] else s
  | 0x04 => s.upAtt fun a => { a with homecoming := v.getLsbD 31, useNominal := v.getLsbD 30, tolUv := BitVec.ofNat 16 (max 1 (bits v 0 16)) }
  | 0x20 => s.upAtt fun a => { a with ue := a.ue && !v.getLsbD 31, exhausted := a.exhausted && !v.getLsbD 30 }
  | _ =>
    if h : off % 4 = 0 ∧ 0x40 ≤ off ∧ off < 0x60 then
      s.upMig ⟨(off - 0x40) / 4, by omega⟩ fun m => { m with done := m.done && !v.getLsbD 30 }
    else s

/-- A word of a system block. -/
def State.writeBlock (s : State) (blk off : Nat) (v : Word) (jtag : Bool) : State :=
  match blk with
  | 0 => s.writeGlb off v
  | 1 => { s with host := s.host.write off v }
  | 2 => s.writeImg off v
  | 3 => s.writeClk off v
  | 4 => s.writeFlt off v jtag
  | 5 => s.writeCel off v
  | 6 => s.writeLnk off v
  | 7 => { s with pwr := s.pwr.write off v }
  | 8 => s.writeAtt off v
  | _ => s

/-- The registers that a host writes while the Grave latch holds (R377, R426). -/
def graveServes (a : Addr) : Bool := [0x4010, 0x4014, 0x4018, 0x4020, 0x4040, 0x5040].contains a.toNat

/-! ### Memories -/

/-- A prepared bead of the channel was prepared from bead `i` (R267). -/
def Chan.preparedFrom (c : Chan) (i : Nat) : Bool := c.strand.ahead.any fun p => p.index == i || p.endIndex == i

/-- A word of bead memory: channels that have prepared the bead squash (R267), and a rewritten bead loses its mark (R355). -/
def State.writeBead (s : State) (x : Nat) (v : Word) : State :=
  let i := (x - 0x100000) / 16
  let s := (s.hostMemWord x v).upAtt fun a => { a with ueBeads := a.ueBeads.filter fun b => b.toNat != i }
  s.allCh fun _ c => if c.preparedFrom i then c.askSquash else c

/-- The word that a memory keeps: bits [31:20] of a sine table entry are reserved (R547). -/
def sineWord (v : Word) : Word := v &&& 0xFFFFF

/-! ### The whole map -/

/-- The flags of CELL_KEEP_STAT that a 1 clears (R156). -/
def Keeper.clear (k : Keeper) (v : Word) : Keeper := { k with held := k.held && !v.getLsbD 29, opened := k.opened && !v.getLsbD 28 }

/-- A cell page: CELL_LOCKET_SEL is written (R550), and the flags of CELL_KEEP_STAT clear (R156, DEDUCED: see notes/assumptions). A write to
any of its words wakes the bay (R329). -/
def State.hostWriteCell (s : State) (k : CellIx) (off : Nat) (v : Word) : State :=
  s.pageWrite (CellIx.bay k) (cellReg k off) v fun s =>
    if off = 0x0CC then s.upCell k fun x => { x with locketSel := v.extractLsb' 0 7 }
    else if off = 0x080 then s.upCell k fun x => { x with keeper := x.keeper.clear v } else s

/-- A host write to a mapped word that is no register of a system block. -/
def State.writeMapped (s : State) (x : Nat) (v : Word) : State :=
  if h : 0x010000 ≤ x ∧ x < 0x020000 then s.hostWriteCh ⟨(x - 0x010000) / 0x400, by omega⟩ (x % 0x400) v
  else if h : 0x020000 ≤ x ∧ x < 0x032000 then s.hostWriteCell ⟨(x - 0x020000) / 0x400, by omega⟩ (x % 0x400) v
  else if 0x100000 ≤ x ∧ x < 0x200000 then s.writeBead x v
  else if 0x300000 ≤ x ∧ x < 0x308000 then s.hostMemWord x (sineWord v)
  else if h : 0x308000 ≤ x ∧ x < 0x318000 then s.streamAppend ⟨(x - 0x308000) / 0x400, by omega⟩ v
  else s

/-- The address accepts host writes at all: it is mapped, and lies outside the larder (R551). -/
def State.writable (s : State) (a : Addr) : Bool :=
  (s.readWord a).isSome && !(decide (0x200000 ≤ a.toNat) && decide (a.toNat < 0x300000))

/-- A written word lands (R501): an unmapped one is ignored (R551), and the Grave latch admits few (R377). `jtag`: through REG_ACCESS. -/
def State.landWord (s : State) (a : Addr) (v : Word) (jtag : Bool) : State :=
  if !s.writable a then s
  else if graveServes a then s.live fun s => s.writeBlock (a.toNat / 0x1000) (a.toNat % 0x1000) v jtag
  else s.hostAct fun s =>
    if a.toNat < 0x010000 then s.writeBlock (a.toNat / 0x1000) (a.toNat % 0x1000) v jtag else s.writeMapped a.toNat v

/-! ### Side effects of reads (R500) -/

/-- A read of CH_RESULT_LO latches the time; one of CH_RESULT_HI completes the pair (R182). -/
def MeasSt.readLo (m : MeasSt) : MeasSt := { m with snap := m.resTime, loRead := true }

def MeasSt.readHi (m : MeasSt) : MeasSt := if m.loRead then { m with pairDone := true, loRead := false } else m

/-- A read of CH_DEMOD_VI latches the other outputs (R200). -/
def DemodSt.readVi (d : DemodSt) : DemodSt := { d with snapVq := d.vq, snapIi := d.ii, snapIq := d.iq, snapTime := d.time }

/-- Counters and snapshots of a channel page. -/
def Chan.readSide (c : Chan) (off : Nat) : Chan :=
  match off with
  | 0x05C => { c with force := { c.force with streamUnder := 0 } }
  | 0x0E8 => { c with loop := { c.loop with coefIgnored := 0 } }
  | 0x0EC => { c with loop := { c.loop with crossCount := 0 } }
  | 0x110 => { c with meas := c.meas.readLo }
  | 0x114 => { c with meas := c.meas.readHi }
  | 0x11C => { c with meas := { c.meas with injDrop := 0 } }
  | 0x120 => { c with meas := { c.meas with restarts := 0 } }
  | 0x124 => { c with meas := { c.meas with overruns := 0 } }
  | 0x1C8 => { c with meas := { c.meas with demod := c.meas.demod.readVi } }
  | 0x210 => { c with range := { c.range with changes := 0 } }
  | 0x214 => { c with range := { c.range with specs := 0 } }
  | 0x218 => { c with range := { c.range with squashes := 0 } }
  | 0x254 => { c with strand := { c.strand with squashes := 0 } }
  | 0x258 => { c with strand := { c.strand with lates := 0 } }
  | 0x2A0 => { c with streamOver := 0 }
  | 0x2D0 => { c with larder := { c.larder with lost := 0 } }
  | 0x2D4 => { c with larder := { c.larder with stalls := 0 } }
  | 0x310 => { c with winV := { c.winV with trips := 0 } }
  | 0x330 => { c with winI := { c.winI with trips := 0 } }
  | _ => c

/-- A read of FLT_COFFER_W0 latches words 1 … 3 of the selected slot (R388). -/
def Flt.latchSlot (f : Flt) : Flt :=
  match f.slot with
  | some r => { f with snap1 := r.addr, snap2 := r.time, snap3 := r.seq }
  | none => { f with snap1 := 0, snap2 := 0, snap3 := 0 }

/-- Counters of FLT (R398). -/
def Flt.readSide (f : Flt) (off : Nat) : Flt :=
  match off with
  | 0x44 => f.latchSlot
  | 0x60 => { f with lostCount := 0 }
  | 0x64 => { f with coalCount := 0 }
  | 0x68 => { f with overwrites := 0 }
  | _ => f

/-- Counters of HOST, CEL and ATT (R358, R431, R509). -/
def HostPort.readSide (h : HostPort) (off : Nat) : HostPort :=
  match off with
  | 0x08 => { h with crcErrs := 0 }
  | 0x0C => { h with badFrames := 0 }
  | 0x10 => { h with defers := 0 }
  | _ => h

def Cel.readSide (c : Cel) (off : Nat) : Cel :=
  match off with
  | 0x28 => { c with refreshes := 0 }
  | 0x2C => { c with retires := 0 }
  | 0x30 => { c with ues := 0 }
  | _ => c

def Att.readSide (a : Att) (off : Nat) : Att :=
  match off with
  | 0x10 => { a with migrations := 0 }
  | 0x14 => { a with rejects := 0 }
  | 0x18 => { a with arbLosses := 0 }
  | 0x28 => { a with ce := 0 }
  | _ => a

/-- Counters of LNK (R493). -/
def Lnk.readSide (l : Lnk) (off : Nat) : Lnk :=
  if h : off % 4 = 0 ∧ 0x20 ≤ off ∧ off < 0x30 then
    { l with ports := l.ports.set ((off - 0x20) / 4) { l.ports[(off - 0x20) / 4]'(by omega) with errs := 0 } (by omega) }
  else if off = 0x3C then { l with steps := 0 } else l

/-- A read of GLB_TIME_LO latches the high half of system time (R504). -/
def State.latchTime (s : State) : State := { s with host := { s.host with timeHi := BitVec.ofNat 32 (s.time / 2 ^ 32) } }

/-- What a read of a system block changes. -/
def State.readSideBlock (s : State) (blk off : Nat) : State :=
  match blk with
  | 0 => if off = 0x10 then s.latchTime else s
  | 1 => { s with host := s.host.readSide off }
  | 3 => if off = 0x04 then s.upClk fun k => { k with guardCount := 0 } else s
  | 4 => s.upFlt fun f => f.readSide off
  | 5 => { s with cel := s.cel.readSide off }
  | 6 => s.upLnk fun l => l.readSide off
  | 8 => s.upAtt fun a => a.readSide off
  | _ => s

/-- What a read of the word at `a` changes: an RC field clears, a snapshot is latched. Other words have no side effect. -/
def State.readSide (s : State) (a : Addr) : State :=
  let x := a.toNat
  if x < 0x010000 then s.readSideBlock (x / 0x1000) (x % 0x1000)
  else if h : 0x010000 ≤ x ∧ x < 0x020000 then s.upCh ⟨(x - 0x010000) / 0x400, by omega⟩ fun c => c.readSide (x % 0x400)
  else if h : 0x020000 ≤ x ∧ x < 0x032000 then
    if x % 0x400 = 0x080 then s.upCell ⟨(x - 0x020000) / 0x400, by omega⟩ fun c => { c with keeper := { c.keeper with miss := 0 } } else s
  else s

end Sys2Proof.Machine
end

