-- ==== Sys2Proof/Machine/HostOps.lean ====
section
/-! DEFINITION. The host port's frames: CRC, the judgement of a frame, the words it reads and writes, forwarding and the effects of bad
frames (R485 … R487, R494 … R504, R551, R552). -/

namespace Sys2Proof.Machine

/-! ### The frame's CRC (R497) -/

/-- One byte of CRC-16/CCITT, unreflected. -/
def crc16Byte (c : BitVec 16) (b : Byte) : BitVec 16 :=
  (List.range 8).foldl (fun (c : BitVec 16) _ => if c.getLsbD 15 then (c <<< 1) ^^^ 0x1021#16 else c <<< 1) (c ^^^ (b.setWidth 16 <<< 8))

/-- The CRC of a list of bytes, from 0xFFFF. -/
def crc16 (l : List Byte) : BitVec 16 := l.foldl crc16Byte 0xFFFF#16

/-- The bytes of a value in the order in which they are sent, most significant first. -/
def sentBytes {w : Nat} (n : Nat) (x : BitVec w) : List Byte := ((List.range n).map fun i => x.extractLsb' (8 * i) 8).reverse

/-- Opcode, device ID and address, and LEN of a frame with C = 1. -/
def headerBytes (op : BitVec 8) (dev : BitVec 16) (a : Addr) (len : BitVec 8) : List Byte := op :: sentBytes 2 dev ++ sentBytes 3 a ++ [len]

/-- The bytes of data words. -/
def dataBytes (l : List Word) : List Byte := l.flatMap fun w => sentBytes 4 w

/-! ### The opcode (R495) -/

def opValid (op : BitVec 8) : Bool := op.extractLsb' 4 4 == 0xA

def opCrc (op : BitVec 8) : Bool := op.getLsbD 3

def opRead (op : BitVec 8) : Bool := op.getLsbD 0

def opFixed (op : BitVec 8) : Bool := op.getLsbD 1

/-- The address of the word behind `a` (R495, R552). -/
def nextAddr (op : BitVec 8) (a : Addr) : Addr := if opFixed op then a else a + 4

/-! ### Bad frames (R498) -/

/-- A flag of HOST_STAT with its counter and message: 0 CRC_ERROR, 1 BAD_FRAME, 2 UNMAPPED. -/
def State.frameError (s : State) (op : BitVec 8) (kind addr : Nat) : State :=
  let h := s.host
  let h := { h with lastOp := op, crcErr := h.crcErr || kind == 0, badFrame := h.badFrame || kind == 1, unmapped := h.unmapped || kind == 2,
                    crcErrs := if kind = 0 then satInc h.crcErrs else h.crcErrs, badFrames := if kind = 0 then h.badFrames else satInc h.badFrames }
  { s with host := h }.post srcHost kind addr

def State.badFrame (s : State) (op : BitVec 8) : State := s.frameError op 1 op.toNat

/-- Nothing is driven on the SIO lines. -/
def State.silent (s : State) : State := { s with host := { s.host with drove := false, out := [], outCrc := 0 } }

/-- What the header says of a frame. -/
inductive Header
  /-- The frame is bad. -/
  | bad
  /-- It names another device and is ignored (R487). -/
  | other
  /-- It names another device, and the root forwards it (R485). -/
  | forward (dev : BitVec 12)
  | own
  deriving DecidableEq, Repr

/-- The judgement of opcode, device ID and address. A refused device serves STRAP alone (R471). -/
def State.header (s : State) (op : BitVec 8) (dev : BitVec 16) (a : Addr) (done rd : Bool) : Header :=
  if !opValid op || opRead op != rd || !done || dev.extractLsb' 12 4 != 0 then .bad
  else
    let id : BitVec 12 := dev.extractLsb' 0 12
    if id ≠ s.lnk.devId ∧ s.lnk.root = false then .other
    else if a.extractLsb' 0 2 ≠ 0 then .bad
    else if id = s.lnk.devId then .own else .forward id

/-! ### Forwarding (R485, R486) -/

/-- The port that leads to a device is UP. -/
def State.pathUp (s : State) (dev : BitVec 12) : Bool :=
  match s.lnk.routes.find? fun r => r.1 == dev with
  | some r => s.lnk.ports[r.2.val].st == .up
  | none => false

/-- The root knows the device. -/
def Lnk.knows (l : Lnk) (dev : BitVec 12) : Bool := l.routes.any fun r => r.1 == dev

def State.fwdFails (s : State) (e : FwdError) : State := s.upLnk fun l => { l with fwdError := e }

/-- A write frame for another device: posted, or dropped. -/
def State.forwardWrite (s : State) (dev : BitVec 12) (f : WriteFrame) : State :=
  if s.lnk.knows dev then s.upLnk fun l => { l with outbox := l.outbox ++ [(dev, .write f)] } else s.fwdFails .unreachable

/-- A read frame for another device. -/
def State.forwardRead (s : State) (dev : BitVec 12) (f : ReadFrame) : State :=
  if s.lnk.fwdBusy then s.fwdFails .busy
  else if s.lnk.knows dev then
    s.upLnk fun l => { l with outbox := l.outbox ++ [(dev, .read f)], fwdBusy := true, fwdError := .none, fwdDev := dev }
  else s.fwdFails .unreachable

/-! ### Serving a frame -/

/-- The words read from `a` on: their values, the state after their side effects and the first unmapped address. -/
def State.readWords (s : State) (op : BitVec 8) (a : Addr) : Nat → State × List Word × Option Addr
  | 0 => (s, [], none)
  | k + 1 =>
    match s.readWord a with
    | some w =>
      let r := (s.readSide a).readWords op (nextAddr op a) k
      (r.1, w :: r.2.1, r.2.2)
    | none =>
      let r := s.readWords op (nextAddr op a) k
      (r.1, 0 :: r.2.1, some a)

/-- The words of a write land in order (R501). -/
def State.writeWords (s : State) (op : BitVec 8) (a : Addr) : List Word → State
  | [] => s
  | w :: l => (s.landWord a w false).writeWords op (nextAddr op a) l

/-- The first address of a write that no write reaches (R551). -/
def State.firstUnmapped (s : State) (op : BitVec 8) (a : Addr) : List Word → Option Addr
  | [] => none
  | _ :: l => if s.writable a then s.firstUnmapped op (nextAddr op a) l else some a

/-- The effect of unmapped words, once for the frame. -/
def State.noteUnmapped (s : State) (op : BitVec 8) (a : Option Addr) : State :=
  match a with
  | some a => s.frameError op 2 a.toNat
  | none => s

/-- The device drives the words, and their CRC behind them when C = 1. -/
def State.drive (s : State) (op : BitVec 8) (l : List Word) (good : Bool) : State :=
  let c := crc16 (dataBytes l)
  { s with host := { s.host with drove := true, out := l, outCrc := if opCrc op then (if good then c else ~~~c) else 0 } }

/-- The words of a frame that carries LEN. -/
def readCount (f : ReadFrame) : Nat := if opCrc f.opcode then f.len.toNat + 1 else f.count

/-- A read frame that names this device. -/
def State.serveRead (s : State) (f : ReadFrame) : State :=
  let r := s.readWords f.opcode f.addr (readCount f)
  (r.1.drive f.opcode r.2.1 true).noteUnmapped f.opcode r.2.2

/-- A read frame as the host port receives it. -/
def State.readFrame (s : State) (f : ReadFrame) : State :=
  let s := s.silent
  let zeros := List.replicate (readCount f) (0 : Word)
  match s.header f.opcode f.devId f.addr f.headerDone true with
  | .bad => s.badFrame f.opcode
  | .other => s
  | h =>
    if opCrc f.opcode && f.headerCrc != crc16 (headerBytes f.opcode f.devId f.addr f.len) then
      (s.drive f.opcode zeros false).frameError f.opcode 0 f.opcode.toNat
    else match h with
      | .forward d => (s.drive f.opcode zeros true).forwardRead d f
      | _ => s.serveRead f

/-- What refuses the words of a write frame before any lands: the kind of its error. -/
def State.writeBad (s : State) (f : WriteFrame) : Option Nat :=
  if opCrc f.opcode then
    if f.words.length ≠ f.len.toNat + 1 ∨ f.tail ≠ 0 then some 1
    else if f.crc ≠ crc16 (headerBytes f.opcode f.devId f.addr f.len ++ dataBytes f.words) then some 0 else none
  else if s.host.crcReq then some 1 else none

/-- The words of a write that names this device land. At Grave an ignored write raises no message (R377). -/
def State.serveWrite (s : State) (f : WriteFrame) : State :=
  let bad := if s.flt.grave then none else s.firstUnmapped f.opcode f.addr f.words
  let s := s.when f.collide fun s => { s with host := { s.host with defers := satInc s.host.defers } }
  (s.writeWords f.opcode f.addr f.words).noteUnmapped f.opcode bad

/-- A write frame as the host port receives it. -/
def State.writeFrame (s : State) (f : WriteFrame) : State :=
  let s := s.silent
  match s.header f.opcode f.devId f.addr f.headerDone false with
  | .bad => s.badFrame f.opcode
  | .other => s
  | h =>
    match s.writeBad f with
    | some k => s.frameError f.opcode k f.opcode.toNat
    | none =>
      let s := match h with
        | .forward d => s.forwardWrite d f
        | _ => s.serveWrite f
      s.when (decide (f.tail ≠ 0)) fun s => s.badFrame f.opcode

end Sys2Proof.Machine
end

