-- ==== Sys2Proof/Machine/Host.lean ====
section
/-! DEFINITION. The host port family: frames, single register writes and the reads with a side effect (R6 … R9, R182, R200, R388,
R494 … R504). -/

namespace Sys2Proof.Machine

/-- HOST_READ_FRAME (R499). -/
def execHostReadFrame (f : ReadFrame) (s : State) : Host.Outcome State Fault Refusal := .next (s.live fun s => s.readFrame f)

/-- HOST_WRITE_FRAME (R501). -/
def execHostWriteFrame (f : WriteFrame) (s : State) : Host.Outcome State Fault Refusal := .next (s.live fun s => s.writeFrame f)

/-- REGISTER_WRITE (R6): one word lands. -/
def execRegisterWrite (a : Addr) (v : Word) (s : State) : Host.Outcome State Fault Refusal := .next (s.live fun s => s.landWord a v false)

/-- READ_CLEAR_COUNTER (R6): a read of one word with its side effect. -/
def execReadClearCounter (a : Addr) (s : State) : Host.Outcome State Fault Refusal := .next (s.live fun s => s.readSide a)

/-- GLB_TIME_LO_READ (R504). -/
def execGlbTimeLoRead (s : State) : Host.Outcome State Fault Refusal := .next (s.live State.latchTime)

/-- RESULT_LO_READ (R182). -/
def execResultLoRead (n : Ch) (s : State) : Host.Outcome State Fault Refusal :=
  .next (s.live fun s => s.upCh n fun c => { c with meas := c.meas.readLo })

/-- RESULT_HI_READ (R182). -/
def execResultHiRead (n : Ch) (s : State) : Host.Outcome State Fault Refusal :=
  .next (s.live fun s => s.upCh n fun c => { c with meas := c.meas.readHi })

/-- DEMOD_VI_READ (R200). -/
def execDemodViRead (n : Ch) (s : State) : Host.Outcome State Fault Refusal :=
  .next (s.live fun s => s.upCh n fun c => { c with meas := { c.meas with demod := c.meas.demod.readVi } })

/-- COFFER_W0_READ (R388). -/
def execCofferW0Read (s : State) : Host.Outcome State Fault Refusal := .next (s.live fun s => s.upFlt Flt.latchSlot)

end Sys2Proof.Machine
end

