-- ==== Sys2Proof/Machine/Image.lean ====
section
/-! DEFINITION. The image family: the staging buffer, loads and the swap (R33 … R83). -/

namespace Sys2Proof.Machine

/-- STAGE_DATA_WRITE (R79, R83). -/
def execStageDataWrite (v : Word) (s : State) : Host.Outcome State Fault Refusal := .next (s.hostAct fun s => s.stageData v)

/-- STAGE_CLEAR (R80, R81). -/
def execStageClear (s : State) : Host.Outcome State Fault Refusal := .next (s.hostAct fun s => s.imgCtrl 0x10)

/-- IMAGE_ABORT (R80). -/
def execImageAbort (s : State) : Host.Outcome State Fault Refusal := .next (s.hostAct fun s => s.imgCtrl 8)

/-- LOAD_HOST (R79 … R81). -/
def execLoadHost (s : State) : Host.Outcome State Fault Refusal := .next (s.hostAct fun s => s.imgCtrl 1)

/-- LOAD_SLOT_A (R80, R81). -/
def execLoadSlotA (s : State) : Host.Outcome State Fault Refusal := .next (s.hostAct fun s => s.imgCtrl 2)

/-- LOAD_SLOT_B (R80, R81). -/
def execLoadSlotB (s : State) : Host.Outcome State Fault Refusal := .next (s.hostAct fun s => s.imgCtrl 4)

/-- IMAGE_SWAP (R72, R73, R75): the load in progress swaps at this boundary once the migrations that it waits for have ended. At Grave a
load that runs already goes on. -/
def execImageSwap (s : State) : Host.Outcome State Fault Refusal :=
  .next (s.live fun s =>
    match s.img.job with
    | some j => if s.swapWaits j then s else s.swapNow j
    | none => s)

end Sys2Proof.Machine
end

