-- ==== Sys2Proof/Machine/LinkOps.lean ====
section
/-! DEFINITION. The Brorno link as shared operations: ports, packets, summaries, markers and time steps, commit orders and the requests of
spanning sync sets (R465 … R493). -/

namespace Sys2Proof.Machine

/-! ### Ports (R467, R468, R489) -/

def State.port (s : State) (p : Port) : PortSt := s.lnk.ports[p.val]

def State.upPort (s : State) (p : Port) (f : PortSt → PortSt) : State :=
  s.upLnk fun l => { l with ports := l.ports.set p.val (f l.ports[p.val]) }

/-- A forwarded read whose path has left UP ends with LINK (R486). -/
def State.checkPath (s : State) : State :=
  if s.lnk.fwdBusy && !s.pathUp s.lnk.fwdDev then
    s.upLnk fun l => { l with fwdBusy := false, fwdDone := true, fwdError := .link, fwdCount := 0 }
  else s

/-- A port takes state `st`; one that leaves UP changes the tree (R473). -/
def State.portTo (s : State) (p : Port) (st : PortState) : State :=
  let was := (s.port p).st == .up
  let s := s.upPort p fun x => { x with st := st }
  s.when (was && st != .up) fun s => s.treeChanged.checkPath

/-- LINK_DOWN (R468). -/
def State.linkDown (s : State) (p : Port) : State := s.post (srcLink p) 1 0

/-- A code error or a refused packet is counted; the first of an epoch raises CODE_ERROR (R489). -/
def State.lineError (s : State) (p : Port) : State :=
  let s := s.upPort p fun x => { x with errs := satInc x.errs }
  if (s.port p).coded then s else (s.post (srcLink p) 0 (s.port p).errs.toNat).upPort p fun x => { x with coded := true }

/-- A port reaches UP (R468, R469, R473). An up port that has been UP ends the root. -/
def State.portUp (s : State) (p : Port) (lat : BitVec 16) : State :=
  let s := s.upPort p fun x => { x with st := .up, lat := lat, wasUp := true, sends := 0 }
  if p = 0 then s.upLnk fun l => { l with root := false, enumBusy := false, devices := 0, maxDepth := 0, routes := [] } else s.treeChanged

/-! ### Enumeration (R470 … R475) -/

/-- The commit lead (R475) of the largest latency in 125 ps units. -/
def leadOf (lat : Nat) : Nat := max 2 ((3 * lat + 12000 + 24999) / 25000)

/-- A port after the walk: refused, admitted again, and with the ID of the device beyond it. -/
def PortSt.walked (x : PortSt) (refused : Bool) (peer : Option (BitVec 12)) : PortSt :=
  { x with st := if refused then .refused else if x.st = .refused then .up else x.st, peer := peer }

/-- This device was refused (R471): STRAP is its ID again, and its up port reads REFUSED. -/
def State.refuseSelf (s : State) : State :=
  s.upLnk fun l =>
    { l with refused := true, refusedFlag := true, enumerated := false, ports := l.ports.set 0 { l.ports[0] with st := .refused } }

/-- The walk's result for this device. -/
def Lnk.walk (l : Lnk) (x : EnumIn) : Lnk :=
  { l with treeId := x.id, enumerated := true, refused := false, depth := BitVec.ofNat 4 x.depth, rootLat := x.rootLat,
           lead := BitVec.ofNat 4 (min 15 (leadOf x.maxLat)), refusedFlag := l.refusedFlag || x.refused || !x.refusedPorts.isEmpty, dup := l.dup || x.dup,
           ports := tabulate 4 fun p => l.ports[p.val].walked (x.refusedPorts.contains p) ((x.peers.find? fun y => y.1 == p).map (·.2)),
           devices := if l.root then BitVec.ofNat 13 x.devices else 0, maxDepth := if l.root then BitVec.ofNat 4 x.maxDepth else 0,
           routes := if l.root then x.routes else [], enumBusy := false, enumDone := l.enumDone || l.root }

/-! ### Forwarded reads, packets and summaries (R485 … R488) -/

/-- The forwarded read has been answered: its first 64 words. -/
def State.readAnswered (s : State) (w : List Word) : State :=
  if s.lnk.fwdBusy then
    s.upLnk fun l => { l with fwdBusy := false, fwdDone := true, fwdError := .none, fwdCount := BitVec.ofNat 7 (min 64 w.length),
                              fwdBuf := tabulate 64 fun i => w.getD i.val l.fwdBuf[i.val] }
  else s

/-- A device ID set or cleared in a rising list. -/
def markDev (l : List (BitVec 12)) (d : BitVec 12) (on : Bool) : List (BitVec 12) :=
  let low := l.filter fun x => decide (x.toNat < d.toNat)
  let high := l.filter fun x => decide (d.toNat < x.toNat)
  low ++ (if on then [d] else []) ++ high

/-- A summary reaches the root. -/
def State.summary (s : State) (d : BitVec 12) (attn grave : Bool) : State :=
  if s.lnk.root then s.upLnk fun l => { l with attn := markDev l.attn d attn, graves := markDev l.graves d grave } else s

/-- A packet travels on to another device, or up to the root as ID 0. -/
def State.relay (s : State) (d : BitVec 12) (k : Packet) : State := s.upLnk fun l => { l with outbox := l.outbox ++ [(d, k)] }

/-- A forwarded read acts here: its words go back to the root. -/
def State.serveForwarded (s : State) (f : ReadFrame) : State :=
  let r := s.readWords f.opcode f.addr (readCount f)
  (r.1.noteUnmapped f.opcode r.2.2).relay 0 (.data r.2.1)

/-- A packet whose CRC holds. -/
def State.packet (s : State) (k : Packet) : State :=
  match k with
  | .write f => if f.devId.extractLsb' 0 12 = s.lnk.devId then s.serveWrite f else s.relay (f.devId.extractLsb' 0 12) k
  | .read f => if f.devId.extractLsb' 0 12 = s.lnk.devId then s.serveForwarded f else s.relay (f.devId.extractLsb' 0 12) k
  | .data w => if s.lnk.root then s.readAnswered w else s.relay 0 k
  | .summary d a g => if s.lnk.root then s.summary d a g else s.relay 0 k

/-! ### Markers (R453, R477 … R479) -/

/-- What aligns a device at a marker (R453). -/
def State.mayAlign (s : State) : Bool := s.clk.guard == .vco8 && s.clk.pllB.held

/-- An epoch begins: its number and flag, and CODE_ERROR may be raised again. -/
def Lnk.epoch (l : Lnk) (m : Marker) : Lnk :=
  { l with epochNo := m.number, epochResync := m.resync, sent := some m, ports := l.ports.map fun x => { x with coded := false } }

/-- The marker that the root sends at this boundary. -/
def State.nextMarker (s : State) : Marker :=
  { time := s.time, residence := 0, number := s.lnk.epochNo + 1, resync := s.lnk.resyncNext, arrival := 64 * s.time }

/-- A marker is due: EPOCH_NOW, or LK_EPOCH ticks after the last. -/
def State.markerDue (s : State) : Bool := s.lnk.root && (s.lnk.epochReq || decide (s.lnk.lastMarker + s.lnk.epochTicks ≤ s.ticks))

def State.sendMarker (s : State) : State :=
  let m := s.nextMarker
  let s := s.when (s.clk.unaligned && s.mayAlign) State.align
  s.upLnk fun l => { (l.epoch m) with epochReq := false, lastMarker := s.ticks, resyncNext := s.clk.unaligned }

/-- e of R478 in 1/64 cycle. -/
def markerError (m : Marker) (lat : Nat) : Int := rha ((((m.time * 64 + m.residence : Nat) : Int) - m.arrival) * 3125 + lat * 6144) 3125

/-- The cycles by which a step lengthens loop periods (R479). -/
def stepLen (e : Int) : Nat := ((-e) % 1024).toNat

/-- A step begins, the rest of `e64` becomes a trim (R479). -/
def State.startStep (s : State) (e64 : Int) : State :=
  let e := e64 / 64
  s.markAll.upLnk fun l => { l with step := some (e, stepLen e), steps := satInc l.steps, trim := e64 - 64 * e }

def State.startTrim (s : State) (e64 : Int) : State := s.upLnk fun l => { l with trim := e64 }

/-- A marker arrives on the up port (R478). -/
def State.takeMarker (s : State) (m : Marker) : State :=
  let e := markerError m s.lnk.rootLat.toNat
  let big := decide (128 < e.natAbs)
  let s := s.upLnk fun l => { (l.epoch m) with offset := sat32 e }
  if s.clk.unaligned then
    if s.mayAlign then (if big then s.startStep e else s.startTrim e).align else s
  else if !big then s.startTrim e
  else if m.resync then s.startStep e else (s.startStep e).unalign

/-! ### The end of a time step (R479): this device's own timers keep their distance from the present -/

/-- A time moved by `d` cycles. -/
def moved (d : Int) (t : Nat) : Nat := ((t : Int) + d).toNat

def Conv.moved (v : Conv) (d : Int) : Conv :=
  { v with tStart := Machine.moved d v.tStart, tEnd := Machine.moved d v.tEnd, distAt := v.distAt.map (Machine.moved d),
           clipAt := v.clipAt.map (Machine.moved d), ovl := v.ovl.map fun x => (x.1, Machine.moved d x.2) }

def MeasSt.moved (m : MeasSt) (d : Int) : MeasSt := { m with convs := m.convs.map fun v => v.moved d, resAt := Machine.moved d m.resAt }

def ForceSt.moved (f : ForceSt) (d : Int) : ForceSt :=
  { f with closeAt := f.closeAt.map (Machine.moved d), restAt := f.restAt.map (Machine.moved d), streamStart := Machine.moved (d / 256) f.streamStart,
           stepAt := f.stepAt.map (Machine.moved (d / 256)) }

def StrandSt.moved (g : StrandSt) (d : Int) : StrandSt :=
  { g with committed := g.committed.map (Machine.moved d), holdUntil := Machine.moved (d / 256) g.holdUntil,
           pulse := g.pulse.map fun x => (Machine.moved d x.1, x.2), passAt := g.passAt.map (Machine.moved d), endAt := g.endAt.map (Machine.moved d),
           rcd := g.rcd.map fun b => { b with commit := Machine.moved d b.commit, lastEnd := b.lastEnd.map (Machine.moved d) } }

def WinSt.moved (w : WinSt) (d : Int) : WinSt := { w with arming := w.arming.map (Machine.moved d), late := w.late.map fun x => (x.1, Machine.moved d x.2) }

def Chan.moved (c : Chan) (d : Int) : Chan :=
  { c with meas := c.meas.moved d, force := c.force.moved d, range := { c.range with vAt := Machine.moved d c.range.vAt }, strand := c.strand.moved d, winV := c.winV.moved d, winI := c.winI.moved d }

def BayMig.moved (m : BayMig) (d : Int) : BayMig :=
  { m with sinceVI := Machine.moved d m.sinceVI, sinceOvl := Machine.moved d m.sinceOvl, swapAt := Machine.moved d m.swapAt }

/-- System time and every timer move by `d` cycles. -/
def State.shiftTime (s : State) (d : Int) : State :=
  { (s.allCh fun _ c => c.moved d) with
    time := moved d s.time, marks := s.marks.map fun x => (x.1, x.2.1, moved d x.2.2), strobes := s.strobes.map fun x => (x.1, moved d x.2),
    att := { s.att with bays := s.att.bays.map fun m => m.moved d } }

/-- The last lengthened period has ended: e_int + d is added. -/
def State.endStep (s : State) : State :=
  match s.lnk.step with
  | some (e, 0) => (s.shiftTime (e + stepLen e)).upLnk fun l => { l with step := none }
  | _ => s

/-! ### Spanning sync sets (R481 … R484) -/

/-- The first boundary that lies LEAD loop periods after an event of this loop period. -/
def State.leadBoundary (s : State) : Nat := s.period + 1 + s.lnk.lead.toNat

/-- A readiness report reaches the root: the device's latest replaces its earlier one. -/
def State.report (s : State) (r : Readiness) : State :=
  if s.lnk.root then
    s.upLnk fun l => { l with reports := (l.reports.filter fun x => !(x.dev == r.dev && x.set == r.set)) ++ [{ r with boundary := max r.boundary s.leadBoundary }] }
  else s

/-- A commit order: the set's members commit at loop period `b`; members that are armed take part when none runs. -/
def State.order (s : State) (t : BitVec 8) (b : Nat) : State :=
  let run := s.runners t
  let s := if run.isEmpty then s.setStart t else s
  s.each (s.runners t) fun m s => s.upCh m fun c => { c with strand := { c.strand with order := some (256 * b) } }

/-- An action on a spanning set at its boundary (R482). -/
def State.spanAct (s : State) (a : SyncAct) (t : BitVec 8) : State :=
  match a with
  | .start => s.setStart t
  | .fire => s.setFire t
  | .abort => s.setAbort t

/-- A request reaches the root: START and FIRE wait while system time is unaligned (R453). -/
def State.syncRequest (s : State) (a : SyncAct) (t : BitVec 8) : State :=
  if s.clk.unaligned && a != .abort then s.upLnk fun l => { l with waiting := l.waiting ++ [(a, t)] }
  else s.upLnk fun l => { l with acts := l.acts ++ [(a, t, 256 * s.leadBoundary)] }

/-- Nothing holds the root's commit orders for a set (R484): it is aligned, no enumeration runs, and every path to a device that reports
is UP. -/
def State.mayOrder (s : State) (t : BitVec 8) : Bool :=
  !s.clk.unaligned && !s.lnk.enumBusy && (s.lnk.reports.filter fun r => r.set == t).all fun r => r.dev == s.lnk.devId || s.pathUp r.dev

/-- The loop period in which a running member will be ready, as far as its dwell and its run-ahead let it be known (R271, R481): a member behind
whose bead none follows leaves the set there. -/
def Chan.readyFrom (c : Chan) (p : Nat) : Option Nat :=
  let b := max p (max c.dwellEnd c.strand.holdUntil)
  if c.strand.last || c.strand.stopReq || c.commitReady b then some b else none

/-- The root's own members report as soon as the boundary is known at which all of them will be ready, and again when it moves later
(R271, R481). -/
def State.ownReport (s : State) (t : BitVec 8) : State :=
  let run := s.runners t
  let known := run.map fun m => (s.ch m).readyFrom s.period
  let goes := run.any fun m => !(s.ch m).strand.last && !(s.ch m).strand.stopReq
  if goes && known.all Option.isSome && run.all (fun m => (s.ch m).strand.order.isNone) then
    let b := known.foldl (fun a x => max a (x.getD 0)) 0
    if s.lnk.reports.any fun r => r.set == t && r.dev == s.lnk.devId && decide (b ≤ r.boundary) then s
    else s.upLnk fun l =>
      { l with reports := (l.reports.filter fun r => !(r.set == t && r.dev == l.devId)) ++
          [{ dev := l.devId, set := t, boundary := max b (s.period + l.lead.toNat),
             lowPower := (s.setMembers t).any fun m => (s.ch m).decl.lowPower }] }
  else s

/-- The commit boundary that the reports of a set ask for: the latest one, on an update boundary with a low-power member (R327), behind the
accepted edge of a bead that waits for its strobe (R482). -/
def State.commitBoundary (s : State) (t : BitVec 8) (l : List Readiness) : Option Nat :=
  let b := l.foldl (fun a r => max a r.boundary) 0
  let waits := (s.runners t).any fun m => ((s.ch m).front.map Prep.isStrobe).getD false
  let edge := s.strobes.find? fun x => x.1 == t
  let b := match edge with
    | some x => max b ((x.2 + 255) / 256)
    | none => b
  let b := if l.any (·.lowPower) then (b + 3) / 4 * 4 else b
  if waits && edge.isNone && s.setStrobe t != 0 then none else some b

/-- The root sends the order of a set LEAD loop periods before its commit. -/
def State.sendOrder (s : State) (t : BitVec 8) : State :=
  let l := s.lnk.reports.filter fun r => r.set == t
  let run := s.runners t
  let own := run.isEmpty || l.any fun r => r.dev == s.lnk.devId
  match (if l.isEmpty || !own || !s.mayOrder t then none else s.commitBoundary t l) with
  | some b =>
    if b ≤ s.period + s.lnk.lead.toNat then
      let b := max b (s.period + s.lnk.lead.toNat)
      let b := if l.any (·.lowPower) then (b + 3) / 4 * 4 else b
      let s := { s with strobes := s.strobes.filter fun x => x.1 != t }
      (s.order t b).upLnk fun k => { k with reports := k.reports.filter fun r => r.set != t, orders := (k.orders.filter fun x => x.1 != t) ++ [(t, b)] }
    else s
  | none => s

/-- The root's work of one loop period for its spanning sets: own reports, orders, requests that waited and actions that are due. -/
def State.rootSets (s : State) : State :=
  let spans := (List.range 256).map (BitVec.ofNat 8) |>.filter fun t => s.setSpans t
  let s := s.each spans fun t s => (s.ownReport t).sendOrder t
  let w := if s.clk.unaligned then [] else s.lnk.waiting
  let s := s.when (!s.clk.unaligned) fun s => s.upLnk fun l => { l with waiting := [] }
  s.each w fun x s => s.syncRequest x.1 x.2

/-- Actions of spanning sets whose boundary has come; one whose set has a member in a sleeping bay wakes it and waits for it (R329). -/
def State.dueActs (s : State) : State :=
  let awake (t : BitVec 8) : Bool := (s.setMembers t).all fun m => (s.bay (chBay m)).awake
  let acts := s.lnk.acts
  let due := acts.filter fun x => decide (x.2.2 ≤ s.time) && awake x.2.1
  let s := s.upLnk fun l => { l with acts := acts.filter fun x => !(decide (x.2.2 ≤ s.time) && awake x.2.1) }
  let s := s.each (acts.filter fun x => decide (x.2.2 ≤ s.time) && !awake x.2.1) fun x s => s.wakeSet x.2.1
  s.each due fun x s => s.spanAct x.1 x.2.1

end Sys2Proof.Machine
end

