-- ==== Sys2Proof/Machine/PowerOps.lean ====
section
/-! DEFINITION. Sleep and wake, keepers, sags and the governor as shared operations (R148, R328, R514 … R526). -/

namespace Sys2Proof.Machine

/-! ### What holds a bay awake (R328) -/

/-- A window that runs only with its bay awake (R304). -/
def WinCfg.needsBay (g : WinCfg) : Bool := g.mode == .continuous || (g.mode == .sampled && g.tick != 0)

/-- Something of the channel holds its bays awake. -/
def Chan.holdsAwake (c : Chan) : Bool :=
  c.loop.st != .opened || c.strand.st.active || c.cfg.run != .stop || !c.meas.convs.isEmpty || !c.meas.redo.isEmpty || c.meas.injHeld.isSome ||
    c.meas.cal.isOpen || c.cfg.demodEn || c.cfg.sineEn || c.cfg.winV.needsBay || c.cfg.winI.needsBay || c.range.hst != .idle ||
    (c.cfg.cls == .stream && !c.queue.isEmpty)

/-- Some condition of R328 holds the bay awake. -/
def State.bayHeld (s : State) (b : Bay) : Bool :=
  (bayCells b).any (fun k => (s.cell k).keeper.armed || (s.cell k).role == .shadow) || (s.mig b).busy ||
    allChs.any fun n => (s.chBays n).contains b && (s.ch n).holdsAwake

/-- The cells of a bay run while it is awake, but for those of the attic (R458). -/
def State.gates (s : State) (b : Bay) (on : Bool) : State :=
  s.each (bayCells b) fun k s => s.upCell k fun x => { x with awake := on && (x.role == .active || x.role == .member || x.role == .shadow) }

/-- The channels whose pins or cell lie in the bay; a clasp's lead stands for its members. -/
def State.bayUsers (s : State) (b : Bay) : List Ch := allChs.filter fun n => (s.chBays n).contains b && !(s.ch n).map.member

/-- The bay sleeps: its gates close and its modulators, output stages and comparators are powered down (R521). -/
def State.sleepBay (s : State) (b : Bay) : State :=
  let s := (s.upBay b fun x => { x with awake := false, idle := 0 }).gates b false
  let s := s.each (bayCells b) fun k s => s.upCell k fun x => (x.comparator .v false false false).comparator .i false false false
  s.each (s.bayUsers b) fun n s => (s.upCh n fun c => { c with meas := { c.meas with lastOvl := none } }).refresh n

/-- The bay may sleep (R51, R521). -/
def State.maySleep (s : State) (b : Bay) : Bool :=
  let x := s.bay b
  x.awake && x.sleepOk && !s.pwr.holdAwake.getLsbD b.val && !s.bayHeld b && decide (1024 ≤ x.idle)

/-- Both PLLs have restarted (R523). -/
def Clk.started (k : Clk) : Bool := !k.pllOff && k.pllA.phase != .startup && k.pllB.phase != .startup && k.pllA.phase != .off && k.pllB.phase != .off

/-- The trips that the sleeping bay kept for the wake, in their order (R304, R310). -/
def State.lateTrip (s : State) (n : Ch) (w : WinId) : State :=
  ((s.upCh n fun c => c.upWin w fun x => { x with late := [] }).each ((s.ch n).win w).late fun x s => s.trip n w x.1 x.2).stageOpen n

/-- The bay is awake (R522): a wake of more than 96 loop periods is reported, trips and writes that waited take effect. -/
def State.wakeBay (s : State) (b : Bay) : State :=
  let late := (s.bay b).wakePeriods
  let held := (s.bay b).held
  let s := (s.upBay b fun x => { x with awake := true, waking := false, idle := 0, held := [] }).gates b true
  let s := s.when (decide (96 < late)) fun s => s.post (srcBay b) 3 late
  let s := s.each (s.bayUsers b) fun n s => s.upCh n fun c => { c with force := { c.force with closeAt := c.force.closeAt.map fun _ => s.time } }
  let s := s.each (bayChs b) fun n s => (s.lateTrip n .v).lateTrip n .i
  let s := s.each held fun x s => s.landWord x.1 x.2 false
  s.each (s.bayUsers b) fun n s => s.refresh n

/-- What stops both PLLs (R523). -/
def State.mayStopPlls (s : State) : Bool :=
  s.pwr.pllSleep && !s.clk.pllOff && allBayIxs.all (fun b => !(s.bay b).awake && !(s.bay b).waking) &&
    allChs.all (fun n => (s.ch n).eff.winV.mode == .off && (s.ch n).eff.winI.mode == .off) && s.lnk.ports.all (fun p => p.st == .off) &&
    s.cel.running.isNone && s.cel.work.isEmpty

/-- Both PLLs stop, and the reference runs the core (R447, R523). -/
def State.stopPlls (s : State) : State :=
  let stop (l : Pll) : Pll := { l with phase := .off, locked := false, held := false, refOk := false }
  ((s.leaveVco8 .ref).outsStop true).unalign.upClk fun k => { k with pllOff := true, pllA := stop k.pllA, pllB := stop k.pllB }

/-! ### Keepers (R515 … R517) -/

/-- The channel whose output cell `k` drives. -/
def State.carried (s : State) (k : CellIx) : Option Ch := allChs.find? fun n => (s.ch n).map.cell == some k && !(s.ch n).map.member

/-- A keeper enters hold while the logic runs. -/
def State.keeperHolds (s : State) (k : CellIx) : State :=
  let s := s.upCell k fun x => { x with stage := .hold, keeper := { x.keeper with hold := true, held := true } }
  let s := s.upPwr fun p => { p with keeper := true }
  let s := match s.carried k with
    | some n => s.upCh n fun c => { c with force := { c.force with out := .hold } }
    | none => s
  s.postCell k 1 2 (s.cell k).keeper.miss.toNat

/-- The switch of a cell opens by its own keeper, which disarms. -/
def Cell.keeperOpens (x : Cell) (flag : Bool) : Cell :=
  { x with switchOn := false, boostOn := false, stage := if x.awake then .internal else .off,
           keeper := { x.keeper with hold := false, armed := false, opened := x.keeper.opened || flag } }

/-- A keeper opens its switch on its own while the logic runs: OPENED, KEEPER_OPENED, and the channel's output is open. -/
def State.keeperOpened (s : State) (k : CellIx) : State :=
  let s := (s.upCell k fun x => x.keeperOpens true).endLive (srcCell k) 1
  let s := match s.carried k with
    | some n => s.openSwitch n .opened
    | none => s
  s.postCell k 2 2 0

/-- AONVDD falls (R518): every keeper opens its switch, armed or not, and always-on time stops. -/
def State.aonFalls (s : State) : State :=
  let s := s.upPwr fun p => { p with aonDown := true }
  s.each allCellIxs fun k s =>
    if (s.cell k).switchOn || (s.cell k).boostOn || (s.cell k).keeper.hold then
      (if s.pwr.inReset then s.upCell k fun x => x.keeperOpens false else s.keeperOpened k)
    else s

/-! ### The governor (R524 … R526) -/

/-- What a cell adds to the estimate, in mW. -/
def State.cellMw (s : State) (k : CellIx) : Nat :=
  let x := s.cell k
  if !x.awake then 2
  else
    let shadow := if x.role = .shadow then 15 else 0
    match x.channel with
    | some n =>
      let c := s.ch n
      let base := if c.decl.lowPower then 22 else 65
      let stage := if x.role = .shadow || isBoost c.range.i then 0 else (s.ch (if c.map.member then s.lead n else n)).loop.dissMw
      base + stage + shadow + if x.role = .active ∧ c.range.ovl.isSome ∧ c.range.hst ≠ .idle then 15 else 0
    | none => 65 + shadow

/-- P_tot (R524). -/
def State.totalMw (s : State) : Nat := allCellIxs.foldl (fun a k => a + s.cellMw k) 3500

/-- The ceiling after a loop period (R525). -/
def nextCeiling (g total limit : Nat) : Nat := if limit < total then max 10 (g - 10) else if total + 500 < limit then min 300 (g + 1) else g

/-- GRANT_MW of every channel (R525). -/
def State.grantAll (s : State) : State :=
  s.allCh fun _ c => { c with loop := { c.loop with grantMw := if c.eff.capMw.toNat < s.pwr.ceilMw.toNat then c.eff.capMw else s.pwr.ceilMw } }

/-- The smallest grant of a channel. -/
def State.lowestGrant (s : State) : Nat := allChs.foldl (fun a n => min a (s.ch n).loop.grantMw.toNat) 300

/-- One loop period of the governor; GOV_LIMIT is live below 300 mW (R367). -/
def State.govern (s : State) : State :=
  let t := s.totalMw
  let g := s.pwr.ceilMw.toNat
  let g' := nextCeiling g t s.pwr.limitMw.toNat
  let above := g' == 10 && decide (s.pwr.limitMw.toNat < t)
  let s := s.upPwr fun p =>
    { p with totalMw := BitVec.ofNat 16 (min t 65535), ceilMw := BitVec.ofNat 9 g', govHit := p.govHit || decide (g' < 300),
             overCount := if above then p.overCount + 1 else 0 }
  let s := s.grantAll
  if g' < 300 ∧ 300 ≤ g then s.post srcPower 0 s.lowestGrant
  else if 300 ≤ g' ∧ g < 300 then s.endLive srcPower 0 else s

/-! ### Rails (R514) -/

/-- The rails of every awake bay are measured again, and start-up or the rail gate goes on. -/
def State.railsMeasured (s : State) (vpos vneg : BitVec 16) : State :=
  let s := s.allBays fun _ x => if x.awake then { x with vposMv := vpos, vnegMv := vneg } else x
  if s.pwr.step = .rails then (if s.railsOk then s.bootRails else s) else s.railGate

end Sys2Proof.Machine
end

