-- ==== Sys2Proof/Machine/Jtag.lean ====
section
/-! DEFINITION. The JTAG family: the instruction register and what each instruction does (R392, R512, R553). -/

namespace Sys2Proof.Machine

def State.upJtag (s : State) (f : Jtag → Jtag) : State := { s with jtag := f s.jtag }

/-- An instruction is loaded. -/
def State.loadIr (s : State) (i : JtagIr) : State := s.upJtag fun j => { j with ir := i }

/-- The digital output pins: ALIVE, TRIG_OUT_0 … 3, the SIO drive, LOCK_A and LOCK_B. -/
def State.pinLevels (s : State) : BitVec 8 :=
  BitVec.ofNat 8 (bit s.flt.alive + (List.finRange 4).foldl (fun a x => a + bit (s.marks.any fun m => m.1 == x) * 2 ^ (x.val + 1)) 0 +
    32 * bit s.host.drove + 64 * bit s.clk.pllA.lockPin + 128 * bit s.clk.pllB.lockPin)

/-- EXTEST. -/
def execExtest (s : State) : Host.Outcome State Fault Refusal := .next ((s.loadIr .extest).live State.pinsOpen)

/-- SAMPLE/PRELOAD: the boundary register takes the pins. -/
def execSamplePreload (s : State) : Host.Outcome State Fault Refusal :=
  .next ((s.loadIr .samplePreload).upJtag fun j => { j with boundary := s.pinLevels })

/-- IDCODE. -/
def execIdcode (s : State) : Host.Outcome State Fault Refusal := .next ((s.loadIr .idcode).upJtag fun j => { j with dr := 0x264729AB })

/-- CLAMP. -/
def execClamp (s : State) : Host.Outcome State Fault Refusal := .next ((s.loadIr .clamp).live State.pinsOpen)

/-- HIGHZ. -/
def execHighz (s : State) : Host.Outcome State Fault Refusal := .next ((s.loadIr .highz).live State.pinsOpen)

/-- CHIP_RESET (R377, R512): the JTAG reset is asserted until another instruction is loaded. -/
def execChipReset (s : State) : Host.Outcome State Fault Refusal :=
  .next ((s.loadIr .chipReset).softReset 3 (s.loadIr .chipReset).jtag)

/-- FACTORY_TEST (R392): BYPASS while TESTEN is low. -/
def execFactoryTest (testen : Bool) (s : State) : Host.Outcome State Fault Refusal :=
  .next (s.upJtag fun j => { j with testen := testen, factory := testen, ir := if testen then .factoryTest else .bypass })

/-- The register path: a write lands as a host write lands, a read has the side effects of a host read. -/
def State.regAccess (s : State) (write : Bool) (a : Addr) (v : Word) : State :=
  if write then (s.landWord a v true).upJtag fun j => { j with dr := v }
  else (s.readSide a).upJtag fun j => { j with dr := (s.readWord a).getD 0 }

/-- REG_ACCESS: BYPASS outside factory test mode. -/
def execRegAccess (write : Bool) (a : Addr) (v : Word) (s : State) : Host.Outcome State Fault Refusal :=
  .next (if s.jtag.factory then (s.loadIr .regAccess).live fun s => s.regAccess write a v else s.loadIr .bypass)

/-- BYPASS. -/
def execBypass (s : State) : Host.Outcome State Fault Refusal := .next (s.loadIr .bypass)

/-- TESTEN_LOW (R392): factory test mode ends in this cycle. -/
def execTestenLow (s : State) : Host.Outcome State Fault Refusal := .next (s.upJtag fun j => { j with testen := false, factory := false })

end Sys2Proof.Machine
end

