-- ==== Sys2Proof/Machine/Link.lean ====
section
/-! DEFINITION. The link family: ports, packets, enumeration, markers, spanning sync sets and forwarded reads (R465 … R493). -/

namespace Sys2Proof.Machine

/-! ### Ports -/

/-- ROOT_TIMEOUT (R469): 10 ms after PLL-B first locked, a device whose up port has not been UP becomes the root. -/
def execRootTimeout (s : State) : Host.Outcome State Fault Refusal :=
  .next (s.live fun s => if (s.port 0).wasUp || s.lnk.refused || !s.clk.pllB.locked then s else s.becomeRoot)

/-- PARTNER_DETECTED (R467, R468): an enabled port without a partner, or one that a stop has paused, trains. -/
def execPartnerDetected (p : Port) (s : State) : Host.Outcome State Fault Refusal :=
  .next (s.live fun s => match (s.port p).st with
    | .idle | .paused => s.portTo p .training
    | _ => s)

/-- PORT_TRAINING_DONE (R467). -/
def execPortTrainingDone (p : Port) (s : State) : Host.Outcome State Fault Refusal :=
  .next (s.live fun s => if (s.port p).st = .training then s.portTo p .measuring else s)

/-- HOP_MEASURE_DONE (R474): the port is UP. -/
def execHopMeasureDone (p : Port) (lat : BitVec 16) (s : State) : Host.Outcome State Fault Refusal :=
  .next (s.live fun s => if (s.port p).st = .measuring then s.portUp p lat else s)

/-- PAUSE_RECEIVED (R468): no fault. -/
def execPauseReceived (p : Port) (s : State) : Host.Outcome State Fault Refusal :=
  .next (s.live fun s => if (s.port p).st = .up then s.portTo p .paused else s)

/-- LINK_ALIGNMENT_LOST (R468): a port that has been UP loses character alignment without a PAUSE. -/
def execLinkAlignmentLost (p : Port) (s : State) : Host.Outcome State Fault Refusal :=
  .next (s.live fun s =>
    match (s.port p).st with
    | .up | .training | .measuring => (s.when (s.port p).wasUp fun s => s.linkDown p).portTo p .idle
    | _ => s)

/-- PAUSE_TIMEOUT (R468): 100 ms in PAUSED. -/
def execPauseTimeout (p : Port) (s : State) : Host.Outcome State Fault Refusal :=
  .next (s.live fun s => if (s.port p).st = .paused ∧ (s.port p).wasUp then s.linkDown p else s)

/-- LINK_CODE_ERROR (R489). -/
def execLinkCodeError (p : Port) (s : State) : Host.Outcome State Fault Refusal :=
  .next (s.live fun s => if (s.port p).st = .up then s.lineError p else s)

/-! ### Packets and summaries -/

/-- PACKET_RECEIVE (R466, R489): a packet whose CRC fails is refused, and its fourth sending takes the link down. -/
def execPacketReceive (p : Port) (k : Packet) (crcOk : Bool) (s : State) : Host.Outcome State Fault Refusal :=
  .next (s.live fun s =>
    if (s.port p).st = .up then
      if crcOk then (s.upPort p fun x => { x with sends := 0 }).packet k
      else
        let s := (s.lineError p).upPort p fun x => { x with sends := x.sends + 1 }
        if 4 ≤ (s.port p).sends then (s.linkDown p).upPort p fun x => { x with sends := 0 } else s
    else s)

/-- SUMMARY_RECEIVE (R488). -/
def execSummaryReceive (dev : BitVec 12) (attn grave : Bool) (s : State) : Host.Outcome State Fault Refusal :=
  .next (s.live fun s => s.summary dev attn grave)

/-- FORWARDED_READ_DONE (R486). -/
def execForwardedReadDone (words : List Word) (s : State) : Host.Outcome State Fault Refusal := .next (s.live fun s => s.readAnswered words)

/-- FORWARDED_READ_TIMEOUT (R486). -/
def execForwardedReadTimeout (s : State) : Host.Outcome State Fault Refusal :=
  .next (s.live fun s =>
    if s.lnk.fwdBusy then s.upLnk fun l => { l with fwdBusy := false, fwdDone := true, fwdError := .timeout, fwdCount := 0 } else s)

/-! ### Enumeration -/

/-- LNK_ENUM (R473, R493): ignored off the root. -/
def execLnkEnum (s : State) : Host.Outcome State Fault Refusal :=
  .next (s.hostAct fun s => if s.lnk.root then s.upLnk fun l => { l with enumBusy := true } else s)

/-- ENUMERATION_DONE (R470): on the root an enumeration has to run. -/
def execEnumerationDone (x : EnumIn) (s : State) : Host.Outcome State Fault Refusal :=
  .next (s.live fun s =>
    if s.lnk.root then (if s.lnk.enumBusy then s.upLnk fun l => l.walk x else s)
    else if x.refused then s.refuseSelf else s.upLnk fun l => l.walk x)

/-! ### Time -/

/-- EPOCH_NOW (R477, R493): ignored off the root. -/
def execEpochNow (s : State) : Host.Outcome State Fault Refusal :=
  .next (s.hostAct fun s => if s.lnk.root then s.upLnk fun l => { l with epochReq := true } else s)

/-- EPOCH_MARKER_SEND (R477). -/
def execEpochMarkerSend (s : State) : Host.Outcome State Fault Refusal := .next (s.live fun s => if s.markerDue then s.sendMarker else s)

/-- EPOCH_MARKER_RECEIVE (R478): on a device that the tree admits. -/
def execEpochMarkerReceive (m : Marker) (s : State) : Host.Outcome State Fault Refusal :=
  .next (s.live fun s => if s.lnk.root || s.lnk.refused || (s.port 0).st != .up then s else s.takeMarker m)

/-- TIME_STEP_END (R479). -/
def execTimeStepEnd (s : State) : Host.Outcome State Fault Refusal := .next (s.live State.endStep)

/-! ### Spanning sync sets -/

/-- READINESS_REPORT_RECEIVE (R481). -/
def execReadinessReportReceive (r : Readiness) (s : State) : Host.Outcome State Fault Refusal := .next (s.live fun s => s.report r)

/-- COMMIT_ORDER_RECEIVE (R481, R482): on a member device. -/
def execCommitOrderReceive (set : BitVec 8) (boundary : Nat) (s : State) : Host.Outcome State Fault Refusal :=
  .next (s.live fun s => if s.lnk.root || s.lnk.refused then s else s.order set boundary)

/-- SYNC_REQUEST_RECEIVE (R482). -/
def execSyncRequestReceive (a : SyncAct) (set : BitVec 8) (s : State) : Host.Outcome State Fault Refusal := .next (s.live fun s => s.syncRequest a set)

end Sys2Proof.Machine
end

