-- ==== Sys2Proof/Machine/Power.lean ====
section
/-! DEFINITION. The power family: resets, sags, sleep and wake, keepers, rails and the governor (R510 … R529). -/

namespace Sys2Proof.Machine

/-! ### Resets and sags -/

/-- ALWAYS_ON_POWER_ON_RESET (R512, R554): it resets the logic too. -/
def execAlwaysOnPowerOnReset (s : State) : Host.Outcome State Fault Refusal := .next (s.logicReset 1 true {})

/-- POWER_ON_RESET (R512): DVDD rises; it clears the Grave latch too (R377). -/
def execPowerOnReset (s : State) : Host.Outcome State Fault Refusal := .next (s.logicReset 1 false {})

/-- RESET_N_ASSERT (R377, R512). -/
def execResetNAssert (s : State) : Host.Outcome State Fault Refusal := .next (s.softReset 2 s.jtag)

/-- A release starts the device: from a reset, unless CHIP_RESET still holds it, or from the state right after reset (R513, R553). -/
def State.mayRelease (s : State) : Bool :=
  s.jtag.ir != .chipReset && (s.pwr.inReset || (s.pwr.step == .clocks && s.pwr.boot.isNone))

/-- RESET_RELEASE (R513). -/
def execResetRelease (b : BootIn) (s : State) : Host.Outcome State Fault Refusal := .next (if s.mayRelease then s.release b else s)

/-- AVDD_SAG (R518): the gate drive fails, every output switch opens and BOOST_DRV_n falls; the logic runs on unaware. -/
def execAvddSag (s : State) : Host.Outcome State Fault Refusal :=
  .next (s.allCells fun _ x => { x with switchOn := false, boostOn := false })

/-- AONVDD_SAG (R518). -/
def execAonvddSag (s : State) : Host.Outcome State Fault Refusal := .next s.aonFalls

/-! ### Sleep and wake -/

/-- PLL_STOP (R523). -/
def execPllStop (s : State) : Host.Outcome State Fault Refusal := .next (s.live fun s => if s.mayStopPlls then s.stopPlls else s)

/-- BAY_SLEEP (R521). -/
def execBaySleep (b : Bay) (s : State) : Host.Outcome State Fault Refusal := .next (s.live fun s => if s.maySleep b then s.sleepBay b else s)

/-- BAY_AWAKE (R522). -/
def execBayAwake (b : Bay) (s : State) : Host.Outcome State Fault Refusal :=
  .next (s.live fun s => if (s.bay b).waking && s.clk.started then s.wakeBay b else s)

/-! ### Keepers -/

/-- KEEPER_HOLD (R515, R516): the timer of an armed keeper has run out. -/
def execKeeperHold (k : CellIx) (s : State) : Host.Outcome State Fault Refusal :=
  .next (s.live fun s => if (s.cell k).keeper.armed && !(s.cell k).keeper.hold then s.keeperHolds k else s)

/-- KEEPER_OPEN (R517): a hold has lasted 1.0 ms. While the logic is in reset its flags stay at reset. -/
def execKeeperOpen (k : CellIx) (s : State) : Host.Outcome State Fault Refusal :=
  .next (if (s.cell k).keeper.hold then (if s.pwr.inReset then s.upCell k fun x => x.keeperOpens false else s.keeperOpened k) else s)

/-! ### Rails and the governor -/

/-- RAILS_IN_SPAN (R514). -/
def execRailsInSpan (vpos vneg : BitVec 16) (s : State) : Host.Outcome State Fault Refusal := .next (s.live fun s => s.railsMeasured vpos vneg)

/-- GOVERNOR_UPDATE (R525). -/
def execGovernorUpdate (s : State) : Host.Outcome State Fault Refusal := .next (s.live State.govern)

/-- GOV_FAIL (R526). -/
def execGovFail (s : State) : Host.Outcome State Fault Refusal :=
  .next (s.live fun s => if 1024 ≤ s.pwr.overCount then (s.upPwr fun p => { p with overCount := 0 }).post srcPower 1 s.pwr.totalMw.toNat else s)

end Sys2Proof.Machine
end

