-- ==== Sys2Proof/Machine/Dispatch.lean ====
section
/-! DEFINITION. The meaning of each command: one arm per constructor of Instr. -/

namespace Sys2Proof.Machine

def exec (i : Instr) (s : State) : Host.Outcome State Fault Refusal :=
  match i with
  | .alwaysOnPowerOnReset => Sys2Proof.Machine.execAlwaysOnPowerOnReset s
  | .powerOnReset => Sys2Proof.Machine.execPowerOnReset s
  | .resetNAssert => Sys2Proof.Machine.execResetNAssert s
  | .resetRelease b => Sys2Proof.Machine.execResetRelease b s
  | .avddSag => Sys2Proof.Machine.execAvddSag s
  | .aonvddSag => Sys2Proof.Machine.execAonvddSag s
  | .refDetectionEnd edges => Sys2Proof.Machine.execRefDetectionEnd edges s
  | .pllLockAcquired p => Sys2Proof.Machine.execPllLockAcquired p s
  | .pllLockLost p => Sys2Proof.Machine.execPllLockLost p s
  | .lockHoldEnd p => Sys2Proof.Machine.execLockHoldEnd p s
  | .relockRetry p => Sys2Proof.Machine.execRelockRetry p s
  | .refLost => Sys2Proof.Machine.execRefLost s
  | .refReturn => Sys2Proof.Machine.execRefReturn s
  | .pllCommit p => Sys2Proof.Machine.execPllCommit p s
  | .pllBandMeasure p khz => Sys2Proof.Machine.execPllBandMeasure p khz s
  | .clkoutWrite x v => Sys2Proof.Machine.execClkoutWrite x v s
  | .xtalQualified => Sys2Proof.Machine.execXtalQualified s
  | .xtalLost => Sys2Proof.Machine.execXtalLost s
  | .pllStop => Sys2Proof.Machine.execPllStop s
  | .hostReadFrame f => Sys2Proof.Machine.execHostReadFrame f s
  | .hostWriteFrame f => Sys2Proof.Machine.execHostWriteFrame f s
  | .registerWrite a v => Sys2Proof.Machine.execRegisterWrite a v s
  | .readClearCounter a => Sys2Proof.Machine.execReadClearCounter a s
  | .glbTimeLoRead => Sys2Proof.Machine.execGlbTimeLoRead s
  | .resultLoRead n => Sys2Proof.Machine.execResultLoRead n s
  | .resultHiRead n => Sys2Proof.Machine.execResultHiRead n s
  | .demodViRead n => Sys2Proof.Machine.execDemodViRead n s
  | .cofferW0Read => Sys2Proof.Machine.execCofferW0Read s
  | .stageDataWrite v => Sys2Proof.Machine.execStageDataWrite v s
  | .stageClear => Sys2Proof.Machine.execStageClear s
  | .imageAbort => Sys2Proof.Machine.execImageAbort s
  | .loadHost => Sys2Proof.Machine.execLoadHost s
  | .loadSlotA => Sys2Proof.Machine.execLoadSlotA s
  | .loadSlotB => Sys2Proof.Machine.execLoadSlotB s
  | .imageSwap => Sys2Proof.Machine.execImageSwap s
  | .loopUpdate n x => Sys2Proof.Machine.execLoopUpdate n x s
  | .slewLimiterStep n => Sys2Proof.Machine.execSlewLimiterStep n s
  | .forceLoad n => Sys2Proof.Machine.execForceLoad n s
  | .forceModeWrite n m => Sys2Proof.Machine.execForceModeWrite n m s
  | .forceClassWrite n c => Sys2Proof.Machine.execForceClassWrite n c s
  | .forceClose n => Sys2Proof.Machine.execForceClose n s
  | .switchClose n raw => Sys2Proof.Machine.execSwitchClose n raw s
  | .forceOpen n => Sys2Proof.Machine.execForceOpen n s
  | .forceRest n => Sys2Proof.Machine.execForceRest n s
  | .restHoldReached n => Sys2Proof.Machine.execRestHoldReached n s
  | .graveOpenTimeout n => Sys2Proof.Machine.execGraveOpenTimeout n s
  | .streamSample n => Sys2Proof.Machine.execStreamSample n s
  | .streamQueueAppend n v => Sys2Proof.Machine.execStreamQueueAppend n v s
  | .streamFlush n => Sys2Proof.Machine.execStreamFlush n s
  | .outTrippedClear n => Sys2Proof.Machine.execOutTrippedClear n s
  | .loopClose n => Sys2Proof.Machine.execLoopClose n s
  | .loopOpen n => Sys2Proof.Machine.execLoopOpen n s
  | .loopCmdWrite n c => Sys2Proof.Machine.execLoopCmdWrite n c s
  | .coefficientWrite n w r v => Sys2Proof.Machine.execCoefficientWrite n w r v s
  | .complianceWrite n v => Sys2Proof.Machine.execComplianceWrite n v s
  | .keeperHold k => Sys2Proof.Machine.execKeeperHold k s
  | .keeperOpen k => Sys2Proof.Machine.execKeeperOpen k s
  | .measRunWrite n m => Sys2Proof.Machine.execMeasRunWrite n m s
  | .measStart n => Sys2Proof.Machine.execMeasStart n s
  | .measCfgWrite n v => Sys2Proof.Machine.execMeasCfgWrite n v s
  | .sequenceEntryStart n => Sys2Proof.Machine.execSequenceEntryStart n s
  | .inputSettlingEnd n => Sys2Proof.Machine.execInputSettlingEnd n s
  | .conversionComplete n m x => Sys2Proof.Machine.execConversionComplete n m x s
  | .injUrgent n e => Sys2Proof.Machine.execInjUrgent n e s
  | .injOpportunistic n e => Sys2Proof.Machine.execInjOpportunistic n e s
  | .calZero n target => Sys2Proof.Machine.execCalZero n target s
  | .calFull n => Sys2Proof.Machine.execCalFull n s
  | .calCommit n => Sys2Proof.Machine.execCalCommit n s
  | .calDiscard n => Sys2Proof.Machine.execCalDiscard n s
  | .calConversionComplete n x => Sys2Proof.Machine.execCalConversionComplete n x s
  | .demodWindowEnd n => Sys2Proof.Machine.execDemodWindowEnd n s
  | .sinePhaseWrite n v => Sys2Proof.Machine.execSinePhaseWrite n v s
  | .overlapEngage n => Sys2Proof.Machine.execOverlapEngage n s
  | .handoverStart n => Sys2Proof.Machine.execHandoverStart n s
  | .overlapSquash n => Sys2Proof.Machine.execOverlapSquash n s
  | .holdOffEnd n => Sys2Proof.Machine.execHoldOffEnd n s
  | .vRangeSwitch n => Sys2Proof.Machine.execVRangeSwitch n s
  | .boosterRangeChange n => Sys2Proof.Machine.execBoosterRangeChange n s
  | .boosterGainSwitch n => Sys2Proof.Machine.execBoosterGainSwitch n s
  | .waitingChangeStart n => Sys2Proof.Machine.execWaitingChangeStart n s
  | .rangeCtrlWrite n v => Sys2Proof.Machine.execRangeCtrlWrite n v s
  | .rangeSetWrite n v => Sys2Proof.Machine.execRangeSetWrite n v s
  | .strandStart n direct strand => Sys2Proof.Machine.execStrandStart n direct strand s
  | .strandStop n => Sys2Proof.Machine.execStrandStop n s
  | .strandAbort n => Sys2Proof.Machine.execStrandAbort n s
  | .beadCommit n => Sys2Proof.Machine.execBeadCommit n s
  | .strandEndAtDwell n => Sys2Proof.Machine.execStrandEndAtDwell n s
  | .runAheadSquash n => Sys2Proof.Machine.execRunAheadSquash n s
  | .markPulseEnd n => Sys2Proof.Machine.execMarkPulseEnd n s
  | .pulseEnd n => Sys2Proof.Machine.execPulseEnd n s
  | .pulsePassStart n => Sys2Proof.Machine.execPulsePassStart n s
  | .larderRdWrite n v => Sys2Proof.Machine.execLarderRdWrite n v s
  | .larderClear n => Sys2Proof.Machine.execLarderClear n s
  | .syncStart set => Sys2Proof.Machine.execSyncStart set s
  | .syncFire set => Sys2Proof.Machine.execSyncFire set s
  | .syncAbort set => Sys2Proof.Machine.execSyncAbort set s
  | .trigInEdge x cyc => Sys2Proof.Machine.execTrigInEdge x cyc s
  | .windowCrossing n w x cyc => Sys2Proof.Machine.execWindowCrossing n w x cyc s
  | .windowSample n w x cyc => Sys2Proof.Machine.execWindowSample n w x cyc s
  | .windowFirstSample n w x => Sys2Proof.Machine.execWindowFirstSample n w x s
  | .winCfgWrite n w v => Sys2Proof.Machine.execWinCfgWrite n w v s
  | .winThrWrite n w v => Sys2Proof.Machine.execWinThrWrite n w v s
  | .baySleep b => Sys2Proof.Machine.execBaySleep b s
  | .bayAwake b => Sys2Proof.Machine.execBayAwake b s
  | .attMigrate n keepOld => Sys2Proof.Machine.execAttMigrate n keepOld s
  | .migrationGrant => Sys2Proof.Machine.execMigrationGrant s
  | .shadowAwake b => Sys2Proof.Machine.execShadowAwake b s
  | .forceCheckEnd b => Sys2Proof.Machine.execForceCheckEnd b s
  | .spareReject b => Sys2Proof.Machine.execSpareReject b s
  | .migrationSwap b => Sys2Proof.Machine.execMigrationSwap b s
  | .migrationEnd b => Sys2Proof.Machine.execMigrationEnd b s
  | .sramPatrolRead r e => Sys2Proof.Machine.execSramPatrolRead r e s
  | .faultMessage src kind addr => Sys2Proof.Machine.execFaultMessage src kind addr s
  | .faultReaction => Sys2Proof.Machine.execFaultReaction s
  | .conseqWindowEnd src => Sys2Proof.Machine.execConseqWindowEnd src s
  | .cofferWrite => Sys2Proof.Machine.execCofferWrite s
  | .cofferPersist => Sys2Proof.Machine.execCofferPersist s
  | .fltAck v => Sys2Proof.Machine.execFltAck v s
  | .fltReadmit v => Sys2Proof.Machine.execFltReadmit v s
  | .aliveToggle busAccepted slotWritten coreRan => Sys2Proof.Machine.execAliveToggle busAccepted slotWritten coreRan s
  | .fltInject v addr => Sys2Proof.Machine.execFltInject v addr s
  | .format key => Sys2Proof.Machine.execFormat key s
  | .writeSlotA => Sys2Proof.Machine.execWriteSlotA s
  | .writeSlotB => Sys2Proof.Machine.execWriteSlotB s
  | .clearSlotA => Sys2Proof.Machine.execClearSlotA s
  | .clearSlotB => Sys2Proof.Machine.execClearSlotB s
  | .saveLibrary => Sys2Proof.Machine.execSaveLibrary s
  | .patrol => Sys2Proof.Machine.execPatrol s
  | .flush => Sys2Proof.Machine.execFlush s
  | .celReadSelWrite v => Sys2Proof.Machine.execCelReadSelWrite v s
  | .celClockWrite v => Sys2Proof.Machine.execCelClockWrite v s
  | .cellarHourTick => Sys2Proof.Machine.execCellarHourTick s
  | .cellarOperationDone o => Sys2Proof.Machine.execCellarOperationDone o s
  | .garbageCollection => Sys2Proof.Machine.execGarbageCollection s
  | .patrolPageRead o => Sys2Proof.Machine.execPatrolPageRead o s
  | .notResponding op => Sys2Proof.Machine.execNotResponding op s
  | .rootTimeout => Sys2Proof.Machine.execRootTimeout s
  | .portTrainingDone p => Sys2Proof.Machine.execPortTrainingDone p s
  | .hopMeasureDone p lat => Sys2Proof.Machine.execHopMeasureDone p lat s
  | .pauseReceived p => Sys2Proof.Machine.execPauseReceived p s
  | .linkAlignmentLost p => Sys2Proof.Machine.execLinkAlignmentLost p s
  | .pauseTimeout p => Sys2Proof.Machine.execPauseTimeout p s
  | .packetReceive p k crcOk => Sys2Proof.Machine.execPacketReceive p k crcOk s
  | .lnkEnum => Sys2Proof.Machine.execLnkEnum s
  | .enumerationDone x => Sys2Proof.Machine.execEnumerationDone x s
  | .epochNow => Sys2Proof.Machine.execEpochNow s
  | .epochMarkerSend => Sys2Proof.Machine.execEpochMarkerSend s
  | .epochMarkerReceive m => Sys2Proof.Machine.execEpochMarkerReceive m s
  | .timeStepEnd => Sys2Proof.Machine.execTimeStepEnd s
  | .readinessReportReceive r => Sys2Proof.Machine.execReadinessReportReceive r s
  | .commitOrderReceive set boundary => Sys2Proof.Machine.execCommitOrderReceive set boundary s
  | .syncRequestReceive a set => Sys2Proof.Machine.execSyncRequestReceive a set s
  | .summaryReceive dev attn grave => Sys2Proof.Machine.execSummaryReceive dev attn grave s
  | .forwardedReadDone words => Sys2Proof.Machine.execForwardedReadDone words s
  | .forwardedReadTimeout => Sys2Proof.Machine.execForwardedReadTimeout s
  | .governorUpdate => Sys2Proof.Machine.execGovernorUpdate s
  | .govFail => Sys2Proof.Machine.execGovFail s
  | .extest => Sys2Proof.Machine.execExtest s
  | .samplePreload => Sys2Proof.Machine.execSamplePreload s
  | .idcode => Sys2Proof.Machine.execIdcode s
  | .clamp => Sys2Proof.Machine.execClamp s
  | .highz => Sys2Proof.Machine.execHighz s
  | .chipReset => Sys2Proof.Machine.execChipReset s
  | .factoryTest testen => Sys2Proof.Machine.execFactoryTest testen s
  | .regAccess write a v => Sys2Proof.Machine.execRegAccess write a v s
  | .bypass => Sys2Proof.Machine.execBypass s
  | .testenLow => Sys2Proof.Machine.execTestenLow s
  | .faultConditionEnd src kind => Sys2Proof.Machine.execFaultConditionEnd src kind s
  | .partnerDetected p => Sys2Proof.Machine.execPartnerDetected p s
  | .linkCodeError p => Sys2Proof.Machine.execLinkCodeError p s
  | .railsInSpan vpos vneg => Sys2Proof.Machine.execRailsInSpan vpos vneg s

end Sys2Proof.Machine
end

