-- ==== Sys2Proof/Machine/Tick.lean ====
section
/-! DEFINITION. What one loop period brings without a command: the clocks move on, the data path samples its registers, and the counters that
run by loop periods count (R4, R9, R286, R328, R433, R478, R479, R515, R521, R522). -/

namespace Sys2Proof.Machine

/-! ### Clocks -/

/-- Length of one loop period in units of 1/937,500 tick, by the source of the core clock (R4, R447, R434): 256 cycles of 245.76 MHz,
of half that at VCO16, of the reference itself at REF. -/
def State.periodUnits (s : State) : Nat :=
  match s.clk.guard with
  | .vco8 => 32000
  | .vco16 => 64000
  | .ref => if s.clk.refClass = .mhz10 then 786432 else 320000

/-- Always-on time moves on by `u` units (R4), unless AONVDD has fallen (R518). -/
def State.advanceTicks (s : State) (u : Nat) : State :=
  if s.pwr.aonDown then s
  else { s with ticks := s.ticks + (s.frac + u) / 937500, frac := (s.frac + u) % 937500 }

/-- Cycles by which a time step lengthens the present loop period (R479). -/
def State.extra (s : State) : Nat :=
  match s.lnk.step with
  | some (_, k) => min 256 k
  | none => 0

/-- A REFIN count of 1,024 cycles ends in this loop period (R478): 40 loop periods at 24.576 MHz, 98.304 at 10 MHz. -/
def State.trimDue (s : State) : Bool :=
  match s.clk.refClass with
  | .mhz24 => s.period % 40 == 0
  | .mhz10 => s.period * 1000 / 98304 != (s.period - 1) * 1000 / 98304
  | _ => false

/-- One step of a trim. -/
def trimStep (x : Int) : Int := if 0 < x then x - 1 else if x < 0 then x + 1 else 0

/-- A loop period passes on the link's own clocks. -/
def Lnk.pass (l : Lnk) (extra : Nat) (due : Bool) : Lnk :=
  { l with step := l.step.map fun x => (x.1, x.2 - extra), trim := if due then trimStep l.trim else l.trim }

/-- The next loop period begins; the data path takes the memory words that host writes have changed (R9). -/
def State.nextPeriod (s : State) : State :=
  let e := s.extra
  let s := (s.advanceTicks (s.periodUnits * (256 + e) / 256)).upLnk fun l => l.pass e s.trimDue
  { s with time := s.time + 256, fresh := [], cel := { s.cel with sent := [] } }

/-! ### Strands (R268, R286) -/

/-- CH_STRAND_STAT.STATE of a strand whose commit is due at this boundary, and the stall count where the larder has no room: a ready channel
of a set waits for it, one that is not ready stalls in this loop period. -/
def Chan.waited (c : Chan) (p : Nat) : Chan :=
  if c.commitDueNow p then
    if c.commitReady p then (if c.decl.syncSet = 0 then c else { c with strand := { c.strand with st := .waitSet } })
    else { c with strand := { c.strand with st := .stalled }, larder := { c.larder with stalls := satInc c.larder.stalls } }
  else c

/-- Run-ahead of a low-power channel prepares once in every loop period, whether or not the channel updates in it (R261). -/
def State.slowPrepares (s : State) : State := s.each (allChs.filter fun n => (s.ch n).decl.lowPower) fun n s => s.prepare n

/-! ### Keepers (R148, R156) -/

/-- An armed keeper counts the loop period, or the low-power update, that ends without a toggle; one that holds is armed until it opens
(R156, R517). -/
def Keeper.pass (k : Keeper) : Keeper :=
  if k.armed then { k with quiet := k.quiet + 1, miss := if k.quiet = 0 then k.miss else satInc k.miss } else k

/-- The cell's loop runs in low-power mode. -/
def State.slowCell (s : State) (x : Cell) : Bool :=
  match x.channel with
  | some n => (s.ch n).decl.lowPower
  | none => false

def State.keepersPass (s : State) : State :=
  s.allCells fun _ x => if s.slowCell x && s.time % 1024 != 0 then x else { x with keeper := x.keeper.pass }

/-! ### Bays (R521, R522) -/

/-- A bay's loop period: a waking one counts its wake, an awake one the time in which nothing holds it. -/
def BaySt.pass (x : BaySt) (held : Bool) : BaySt :=
  { x with wakePeriods := if x.waking then x.wakePeriods + 1 else x.wakePeriods, idle := if x.awake && !held then x.idle + 1 else 0 }

/-- Bays count, and one that something holds, or that HOLD_AWAKE names (R528, DEDUCED), wakes. -/
def State.baysPass (s : State) : State :=
  s.each allBayIxs fun b s =>
    let held := s.bayHeld b
    let s := s.upBay b fun x => x.pass (held || s.pwr.holdAwake.getLsbD b.val)
    s.when (held || s.pwr.holdAwake.getLsbD b.val) fun s => s.wake b

/-! ### The data path's sampling (R9) -/

/-- Every channel's registers are sampled, windows are armed and grants take effect. -/
def State.sampleAll (s : State) : State :=
  let s := s.allCh fun n c => (c.sampled s.period).reTarget (s.sineNow n)
  let s := s.each allChs fun n s => (s.winAct n .v).winAct n .i
  s.grantAll

/-- The part of a loop period before the landed requests act. -/
def State.tickBegin (s : State) : State :=
  if s.pwr.inReset then s.advanceTicks s.periodUnits
  else
    let s := s.nextPeriod
    (s.allCh fun _ c => c.afterClosing.endV s.time).each allChs fun n s => s.stageOpen n

/-- A frame that has been forwarded has left the device, unless an enumeration holds it (R473, R485). -/
def State.sendOut (s : State) : State := if s.lnk.enumBusy then s else s.upLnk fun l => { l with outbox := [] }

/-- The part behind them. -/
def State.tickEnd (s : State) : State :=
  if s.pwr.inReset then s
  else
    let s := s.sampleAll.dueActs
    let s := (s.when s.lnk.root State.rootSets).sendOut.checkPath
    let s := s.slowPrepares.allCh fun _ c => c.waited s.period
    let s := s.when s.jtag.ir.holdsPins State.pinsOpen
    s.keepersPass.baysPass.bootDone

end Sys2Proof.Machine
end

