-- ==== Sys2Proof/Machine/Period.lean ====
section
/-! DEFINITION. One loop period: the landed requests act between the two parts of Tick (R9, R139). -/

namespace Sys2Proof.Machine

/-- Commands run one after another, each on the state that the one before it left; one that stops leaves the state. -/
def runAll (l : List Instr) (s : State) : State :=
  l.foldl (fun s i => match exec i s with
    | .next t => t
    | .fault _ => s
    | .refused _ => s) s

/-- The rank of a landed request among those that one boundary samples: a rest sequence stands above the switch and the loops (R100, R111); a
close of the loops acts ahead of the strobes, which then find the loops closed (R96, DEDUCED); so does a compliance, which a strobe of the
boundary takes with it (R130); a manual command acts behind them (R139). The users of a modulator follow R322: an urgent request behind a
calibration's, a single pass behind it, and an opportunistic request last. -/
def landRank : Instr → Nat
  | .forceRest _ => 0
  | .loopClose _ => 1
  | .complianceWrite _ _ => 2
  | .loopCmdWrite _ _ | .injUrgent _ _ => 4
  | .measStart _ => 5
  | .injOpportunistic _ _ => 6
  | _ => 3

/-- The landed requests in the order in which they act. -/
def landOrder (l : List Instr) : List Instr := (List.range 7).flatMap fun r => l.filter fun i => landRank i == r

/-- One loop period passes: the clocks move on, the requests that landed before the boundary act, and the registers are sampled (R9). -/
def tick (s : State) : State :=
  let l := landOrder s.landed
  let s := { s with landed := [] }.tickBegin
  (runAll l s).tickEnd

end Sys2Proof.Machine
end

