-- ==== Sys2Proof/Safety.lean ====
section
/-! DEFINITION. The terms of the statements: sound states, when a command acts, and what a command leaves as it was. -/

namespace Sys2Proof.Machine

/-- The memories are in their canonical form. -/
def State.memSound (s : State) : Prop := Memory.wf memBackground s.mem = true ∧ Memory.wf stageBackground s.img.stage = true

/-! ### When a command acts -/

/-- No reset holds the logic (R512). -/
def State.runs (s : State) : Prop := s.pwr.inReset = false

/-- The logic runs and the Grave latch does not hold (R377): host writes act. -/
def State.serves (s : State) : Prop := s.pwr.inReset = false ∧ s.flt.grave = false

/-- A host write to a data-path register of channel `n` acts: its bay is awake (R329) and no clasp has taken it (R24). -/
def State.takes (s : State) (n : Ch) : Prop := s.serves ∧ (s.bay (chBay n)).awake = true ∧ (s.ch n).map.member = false

/-- The commands that need the running logic: all but the resets and their release, the sags, the crystal's changes, the opening of a keeper
by its own timer, and the instructions of the test access port. -/
def needsLogic : Instr → Bool
  | .alwaysOnPowerOnReset | .powerOnReset | .resetNAssert | .resetRelease _ | .avddSag | .aonvddSag | .xtalQualified | .xtalLost
  | .keeperOpen _ | .extest | .samplePreload | .idcode | .clamp | .highz | .chipReset | .factoryTest _ | .regAccess _ _ _ | .bypass
  | .testenLow => false
  | _ => true

/-- The commands that are host writes to a channel page, through the gate of R24 and R329. -/
def pageChannel : Instr → Option Ch
  | .forceLoad n | .forceModeWrite n _ | .forceClassWrite n _ | .forceClose n | .forceOpen n | .forceRest n | .streamFlush n
  | .outTrippedClear n | .loopClose n | .loopOpen n | .loopCmdWrite n _ | .coefficientWrite n _ _ _ | .complianceWrite n _
  | .measRunWrite n _ | .measStart n | .measCfgWrite n _ | .injUrgent n _ | .injOpportunistic n _ | .calZero n _ | .calFull n
  | .calCommit n | .calDiscard n | .sinePhaseWrite n _ | .rangeCtrlWrite n _ | .rangeSetWrite n _ | .strandStart n _ _ | .strandStop n
  | .strandAbort n | .larderRdWrite n _ | .larderClear n | .winCfgWrite n _ _ | .winThrWrite n _ _ => some n
  | _ => none

/-- The other commands that are host writes which the Grave latch refuses (R377). -/
def blockWrite : Instr → Bool
  | .pllCommit _ | .pllBandMeasure _ _ | .clkoutWrite _ _ | .stageDataWrite _ | .stageClear | .imageAbort | .loadHost | .loadSlotA
  | .loadSlotB | .streamQueueAppend _ _ | .syncStart _ | .syncFire _ | .syncAbort _ | .attMigrate _ _ | .format _ | .writeSlotA
  | .writeSlotB | .clearSlotA | .clearSlotB | .saveLibrary | .patrol | .flush | .celClockWrite _ | .lnkEnum | .epochNow => true
  | _ => false

/-! ### What a command leaves as it was -/

/-- Nothing but channel `n` differs. -/
def State.chOnly (s t : State) (n : Ch) : Prop := t = s.setCh n (t.ch n)

/-- `t` is the device as a reset leaves and holds it (R512, R554): every register, memory and queue at its reset value, the flash as it was. -/
structure State.heldReset (s t : State) : Prop where
  held : t.pwr.inReset = true
  grave : t.flt.grave = false
  pending : t.pending = s.pending
  flash : t.flash = s.flash
  chans : t.chans = State.reset.chans
  bays : t.bays = State.reset.bays
  mem : t.mem = []
  fresh : t.fresh = []
  img : t.img = State.reset.img
  cel : t.cel = State.reset.cel
  lnk : t.lnk = State.reset.lnk
  att : t.att = State.reset.att
  host : t.host = State.reset.host
  landed : t.landed = []
  marks : t.marks = []
  strobes : t.strobes = []
  time : t.time = 0

/-- Nothing but the collector differs. -/
def State.fltOnly (s t : State) : Prop := t = { s with flt := t.flt }

/-- Nothing differs but channel `n`, its mapping excepted, and the cells that carry it: its own and, on a clasp's lead, its members'. -/
structure State.pathOnly (s t : State) (n : Ch) : Prop where
  rest : t = { s with chans := t.chans, cells := t.cells }
  ch : ∀ m, m ≠ n → t.ch m = s.ch m
  map : (t.ch n).map = (s.ch n).map
  cell : ∀ k, (s.ch n).map.cell ≠ some k → k ∉ s.memberCells n → t.cell k = s.cell k

/-- As `pathOnly`, but live bits and records of the collector may differ too. -/
structure State.pathFlt (s t : State) (n : Ch) : Prop where
  rest : t = { s with chans := t.chans, cells := t.cells, flt := t.flt }
  ch : ∀ m, m ≠ n → t.ch m = s.ch m
  map : (t.ch n).map = (s.ch n).map
  cell : ∀ k, (s.ch n).map.cell ≠ some k → k ∉ s.memberCells n → t.cell k = s.cell k

end Sys2Proof.Machine
end

