-- ==== Sys2Proof/Certificates/Slice0/Obligations.lean ====
section
/-! DEFINITION. The statements for the provers. Each speaks of `exec` or `step` on every state that meets its hypotheses; `cfg` is a channel's
registers as the host reads them, `eff` as the data path last sampled them. -/

open Sys2Proof Sys2Proof.Machine

/-! ### The block as a whole -/

/-- A step takes the command at the front of the queue and runs it on the rest of the queue. -/
def Obligations.StepRunsTheFrontCommand : Prop :=
  ∀ (s : State) (c : Instr) (rest : List Instr), step { s with pending := c :: rest } = exec c { s with pending := rest }

/-- Log entry 1: on an empty queue one loop period passes. System time moves on by 256 cycles (R4, R433); always-on time moves on by the
length of the loop period at the present source of the core clock, unless AONVDD has fallen. Nothing enters the queue. -/
def Obligations.AnEmptyQueueLetsALoopPeriodPass : Prop :=
  ∀ s : State, s.runs → s.pending = [] → s.landed = [] →
    ∃ t, step s = .next t ∧ t.pending = [] ∧ t.time = s.time + 256 ∧ t.runs ∧ t.lnk.strap = s.lnk.strap ∧ t.jtag = s.jtag ∧
      (s.pwr.aonDown = true → t.ticks = s.ticks ∧ t.frac = s.frac) ∧
      (s.pwr.aonDown = false → s.clk.guard = .vco8 → s.lnk.step = none →
        t.ticks * 937500 + t.frac = s.ticks * 937500 + s.frac + 32000)

/-- The memories stay in their canonical form through every step from every state that has it. -/
def Obligations.EveryStepKeepsTheMemoriesSound : Prop :=
  ∀ s t : State, s.memSound → step s = .next t → t.memSound

/-- The state right after reset has the memories in their canonical form, an empty queue, the core on REFIN, every output open and every
loop open, no channel available, and the bare mapping of R19, R31 and R32. -/
def Obligations.ResetStateIsTheBareMachine : Prop :=
  State.reset.memSound ∧ State.reset.pending = [] ∧ State.reset.clk.guard = .ref ∧ State.reset.clk.refClass = .unfinished ∧
    State.reset.clk.unaligned = true ∧ State.reset.flt.grave = false ∧ State.reset.img.st = .boot ∧ State.reset.cel.st = .start ∧
    (∀ n : Ch, (State.reset.ch n).map.avail = false ∧ (State.reset.ch n).map.member = false ∧ (State.reset.ch n).map.claspSize = 0 ∧
      (State.reset.ch n).map.gen = 0 ∧ (∃ k, (State.reset.ch n).map.cell = some k ∧ k.val = 9 * (n.val / 8) + n.val % 8) ∧
      (State.reset.ch n).force.out = .opened ∧ (State.reset.ch n).force.applied = 0 ∧ (State.reset.ch n).cfg.level = 0 ∧
      (State.reset.ch n).cfg.slewStep = 0x1000 ∧ (State.reset.ch n).cfg.slewRateM1 = 0 ∧ (State.reset.ch n).loop.st = .opened ∧
      (State.reset.ch n).strand.st = .idle ∧ (State.reset.ch n).queue = []) ∧
    ∀ k : CellIx, (CellIx.index k = 8 → (State.reset.cell k).role = .spare ∧ (State.reset.cell k).channel = none) ∧
      (CellIx.index k < 8 → (State.reset.cell k).role = .active ∧
        ∃ n, (State.reset.cell k).channel = some n ∧ n.val = (CellIx.bay k).val * 8 + CellIx.index k)

/-- The Grave latch ends by a power-on reset alone (R377, R554): every other command leaves it set. -/
def Obligations.OnlyAPowerOnResetClearsTheGraveLatch : Prop :=
  ∀ (c : Instr) (s t : State), exec c s = .next t → s.flt.grave = true → c ≠ .powerOnReset → c ≠ .alwaysOnPowerOnReset → t.flt.grave = true

/-- No command touches the queue of waiting commands, and none but the resets, the release and an epoch marker's time step moves either
time. -/
def Obligations.NoCommandTouchesTheQueue : Prop :=
  ∀ (c : Instr) (s t : State), exec c s = .next t → t.pending = s.pending ∧
    (c ≠ .powerOnReset → c ≠ .alwaysOnPowerOnReset → c ≠ .resetNAssert → c ≠ .chipReset → c ≠ .timeStepEnd →
      t.time = s.time ∧ t.ticks = s.ticks ∧ t.frac = s.frac)

/-! ### When commands act -/

/-- While a reset holds the logic, no command that needs the logic does anything (R512, DEDUCED: log entry 2). -/
def Obligations.NothingActsWhileAResetHolds : Prop :=
  ∀ (c : Instr) (s : State), s.pwr.inReset = true → needsLogic c = true → exec c s = .next s

/-- While the Grave latch holds, a host write changes nothing and raises no message; a register write through REGISTER_WRITE outside the
registers that R377 and R426 except changes nothing either. -/
def Obligations.GraveIgnoresHostWrites : Prop :=
  ∀ s : State, s.runs → s.flt.grave = true →
    (∀ c : Instr, (pageChannel c).isSome ∨ blockWrite c = true → exec c s = .next s) ∧
    (∀ (a : Addr) (v : Word), a.toNat ∉ [0x4010, 0x4014, 0x4018, 0x4020, 0x4040, 0x5040] → exec (.registerWrite a v) s = .next s) ∧
    (∀ v : Word, v.getLsbD 31 = true → ∃ t, exec (.fltReadmit v) s = .next t ∧ s.fltOnly t ∧ t.flt.readmitDone = true ∧
      t.flt.readmitRes = .grave ∧ t.flt.grave = true)

/-- A host write to a data-path register of a clasp member is ignored, and raises a Note from that channel (R24). A START is no exception:
it raises the Note and starts nothing, and REASON shows NO_CHANNEL where the strand is the channel's own and of its class (R258). -/
def Obligations.AMembersRegistersIgnoreWrites : Prop :=
  (∀ (c : Instr) (n : Ch) (s : State), pageChannel c = some n → (∀ d k, c ≠ .strandStart n d k) → s.serves → (s.bay (chBay n)).awake = true →
    (s.ch n).map.member = true → ∃ t off, exec c s = .next t ∧ t = s.noteCh n off ∧ t.chans = s.chans ∧ t.cells = s.cells) ∧
  ∀ (n : Ch) (d : Bool) (k : BitVec 10) (s : State), s.serves → (s.bay (chBay n)).awake = true → (s.ch n).map.member = true →
    ∃ t, exec (.strandStart n d k) s = .next t ∧ t = { s with chans := t.chans, flt := (s.noteCh n 0x240).flt } ∧ (∀ m, m ≠ n → t.ch m = s.ch m) ∧
      (t.ch n).strand.st = (s.ch n).strand.st ∧ (t.ch n).cfg = (s.ch n).cfg ∧
      ((s.strandOf n d k).channel.toNat = n.val → ((s.strandOf n d k).type = .stream ↔ (s.ch n).cfg.cls = .stream) →
        (t.ch n).strand.reason = .noChannel)

/-- A host write to a channel page of a sleeping bay wakes the bay and waits, last of those held, for the end of the wake (R329); the
channels, the cells and the collector stay as they were. -/
def Obligations.ASleepingBayHoldsAWrite : Prop :=
  ∀ (c : Instr) (n : Ch) (s : State), pageChannel c = some n → s.serves → (s.bay (chBay n)).awake = false →
    ∃ t x, exec c s = .next t ∧ (t.bay (chBay n)).held = (s.bay (chBay n)).held ++ [x] ∧ (t.bay (chBay n)).awake = false ∧
      (t.bay (chBay n)).waking = true ∧ (∀ b, b ≠ chBay n → t.bay b = s.bay b) ∧
      t = { s with bays := t.bays, clk := t.clk } ∧ (s.clk.pllOff = false → t.clk = s.clk)

/-! ### Resets, release and sags -/

/-- The three resets (R512, R554). Each takes the whole logic to its reset values and holds it; the flash keeps its contents. A DVDD power-on
reset and RESET_N or CHIP_RESET keep always-on time and the crystal's state, and every armed keeper enters hold; an always-on power-on reset
resets them. While the Grave latch holds, RESET_N does nothing, and CHIP_RESET nothing but load its instruction (R377). -/
def Obligations.ResetsTakeTheLogicToItsResetValues : Prop :=
  ∀ s : State,
    (∃ t, exec .alwaysOnPowerOnReset s = .next t ∧ s.heldReset t ∧ t.ticks = 0 ∧ t.frac = 0 ∧ t.clk = State.reset.clk) ∧
    (∃ t, exec .powerOnReset s = .next t ∧ s.heldReset t ∧ t.ticks = s.ticks ∧ t.frac = s.frac ∧
      t.clk = { State.reset.clk with xtal := s.clk.xtal, xtalLost := s.clk.xtalLost }) ∧
    (s.flt.grave = false →
      (∃ t, exec .resetNAssert s = .next t ∧ s.heldReset t ∧ t.ticks = s.ticks ∧ t.jtag = s.jtag ∧
        (∀ k, (s.cell k).keeper.armed = true → (t.cell k).keeper.hold = true ∧ (t.cell k).switchOn = (s.cell k).switchOn) ∧
        ∀ k, (s.cell k).keeper.armed = false → (s.cell k).keeper.hold = false → t.cell k = { Cell.reset k with keeper := { clamp := (s.cell k).keeper.clamp } }) ∧
      ∃ t, exec .chipReset s = .next t ∧ s.heldReset t ∧ t.ticks = s.ticks ∧ t.jtag = { s.jtag with ir := .chipReset }) ∧
    (s.flt.grave = true → exec .resetNAssert s = .next s ∧
      exec .chipReset s = .next { s with jtag := { s.jtag with ir := .chipReset } })

/-- The release of a reset (R512, R513): the logic runs, every keeper that held opens its switch, the straps are sampled, the coffer starts
with POWER_UP and the reset's source as its address (R390), and, while REFIN shows no edges to count, start-up stays in step CLOCKS. No
release acts while CHIP_RESET stays loaded. -/
def Obligations.AReleaseStartsTheDevice : Prop :=
  ∀ (b : BootIn) (s : State),
    (s.jtag.ir ≠ .chipReset → s.pwr.inReset = true →
      (∃ t, exec (.resetRelease b) s = .next t ∧ t.runs ∧ t.lnk.strap = b.straps ∧ t.time = s.time ∧ t.ticks = s.ticks ∧ t.pending = s.pending) ∧
      (b.refEdges = none → ∃ t, exec (.resetRelease b) s = .next t ∧ t.pwr = { s.pwr with inReset := false, boot := some b } ∧
        (∀ k, t.cell k = Cell.reset k) ∧ t.chans = s.chans ∧ t.clk = s.clk ∧ t.lnk = { s.lnk with strap := b.straps } ∧
        t.flt.coffer = [(0, { powerUpRecord (s.pwr.source.setWidth 32) with time := BitVec.ofNat 32 s.ticks })])) ∧
    (s.jtag.ir = .chipReset → exec (.resetRelease b) s = .next s)

/-- A falling AVDD opens every output switch and drops every BOOST_DRV_n, and the logic runs on unaware; a falling AONVDD makes every keeper
open its switch, armed or not, and stops ticks and ALIVE (R518). -/
def Obligations.SagsOpenEverySwitch : Prop :=
  ∀ s : State,
    (∃ t, exec .avddSag s = .next t ∧ t = { s with cells := t.cells } ∧
      ∀ k, t.cell k = { s.cell k with switchOn := false, boostOn := false }) ∧
    (∃ t, exec .aonvddSag s = .next t ∧ t = { s with chans := t.chans, cells := t.cells, flt := t.flt, pwr := { s.pwr with aonDown := true } } ∧
      ∀ k, (t.cell k).switchOn = false ∧ (t.cell k).boostOn = false ∧ (t.cell k).keeper.hold = false)

/-! ### The test access port -/

/-- The instructions of the test access port (R392, R553): each loads itself; IDCODE selects the identification, SAMPLE/PRELOAD takes the pins, of
which LOCK_A and LOCK_B are low without a reference and in a commit until LOCKED (R446); EXTEST, CLAMP and HIGHZ open every output switch and every
loop, with each command held; FACTORY_TEST is BYPASS while TESTEN is low, REG_ACCESS is BYPASS outside factory test mode, and TESTEN_LOW ends that
mode. The places of the pins in the boundary register are the model's choice (log entry 69). -/
def Obligations.JtagInstructionsLoadThemselvesAndHoldThePins : Prop :=
  ∀ s : State,
    exec .idcode s = .next { s with jtag := { s.jtag with ir := .idcode, dr := 0x264729AB } } ∧
    exec .bypass s = .next { s with jtag := { s.jtag with ir := .bypass } } ∧
    (∃ t, exec .samplePreload s = .next t ∧ t = { s with jtag := { s.jtag with ir := .samplePreload, boundary := t.jtag.boundary } } ∧
      t.jtag.boundary.getLsbD 0 = s.flt.alive ∧
      t.jtag.boundary.getLsbD 6 = (s.clk.pllA.refOk && (s.clk.pllA.phase != .committing || s.clk.pllA.locked)) ∧
      t.jtag.boundary.getLsbD 7 = (s.clk.pllB.refOk && (s.clk.pllB.phase != .committing || s.clk.pllB.locked))) ∧
    exec (.factoryTest true) s = .next { s with jtag := { s.jtag with testen := true, factory := true, ir := .factoryTest } } ∧
    exec (.factoryTest false) s = .next { s with jtag := { s.jtag with testen := false, factory := false, ir := .bypass } } ∧
    exec .testenLow s = .next { s with jtag := { s.jtag with testen := false, factory := false } } ∧
    (∀ w a v, s.jtag.factory = false → exec (.regAccess w a v) s = .next { s with jtag := { s.jtag with ir := .bypass } }) ∧
    (∀ a v, s.jtag.factory = true → s.runs →
      (∃ t, exec (.regAccess false a v) s = .next t ∧ t.jtag.ir = .regAccess ∧
        t.jtag.dr = (({ s with jtag := { s.jtag with ir := .regAccess } } : State).readWord a).getD 0 ∧
        ∃ u, exec (.readClearCounter a) { s with jtag := { s.jtag with ir := .regAccess } } = .next u ∧ t = { u with jtag := t.jtag }) ∧
      ∃ t, exec (.regAccess true a v) s = .next t ∧ t.jtag.ir = .regAccess ∧ t.jtag.dr = v ∧
        ∃ u : State, u = State.landWord { s with jtag := { s.jtag with ir := .regAccess } } a v true ∧ t = { u with jtag := t.jtag }) ∧
    (s.runs → ∀ c : Instr, c = .extest ∨ c = .clamp ∨ c = .highz →
      ∃ t, exec c s = .next t ∧ t.jtag.ir.holdsPins = true ∧
        t = { s with chans := t.chans, cells := t.cells, flt := t.flt, jtag := t.jtag } ∧
        ∀ n, (t.ch n).force.out.switchClosed (t.ch n).force.tripped = false ∧ (t.ch n).force.out ≠ .closing ∧ (t.ch n).loop.st = .opened ∧
          (t.ch n).force.code = (s.ch n).force.code ∧ ((s.ch n).loop.st ≠ .opened → (t.ch n).loop.cmd = (s.ch n).force.code))

/-! ### Clocks -/

/-- The end of detection in step CLOCKS (R434, R436): the count and its class are stored; a supported class loads its defaults into both PLLs,
which start to acquire lock; any other class leaves the PLLs as they are. -/
def Obligations.DetectionPicksTheClassAndItsDefaults : Prop :=
  ∀ (e : Nat) (s : State), s.runs → s.pwr.step = .clocks → s.clk.refClass = .unfinished →
    ∃ t, exec (.refDetectionEnd e) s = .next t ∧ t = { s with clk := t.clk } ∧ t.clk.detect = BitVec.ofNat 16 (min e 0xFFFF) ∧
      t.clk.guard = s.clk.guard ∧ t.clk.outs = s.clk.outs ∧ t.clk.unaligned = s.clk.unaligned ∧
      (43200 ≤ e → e ≤ 52800 → t.clk.refClass = .mhz24 ∧ t.clk.pllA.actM = 0 ∧ t.clk.pllA.actN = 80 ∧ t.clk.pllA.actP = 8 ∧
        t.clk.pllB.actM = 191 ∧ t.clk.pllB.actN = 15625 ∧ t.clk.pllB.actP = 4) ∧
      (17578 ≤ e → e ≤ 21484 → t.clk.refClass = .mhz10 ∧ t.clk.pllA.actM = 124 ∧ t.clk.pllA.actN = 24576 ∧ t.clk.pllA.actP = 8 ∧
        t.clk.pllB.actM = 0 ∧ t.clk.pllB.actN = 200 ∧ t.clk.pllB.actP = 4) ∧
      ((43200 ≤ e ∧ e ≤ 52800) ∨ (17578 ≤ e ∧ e ≤ 21484) → ∀ p, (t.clk.pll p).refOk = true ∧ (t.clk.pll p).locked = false ∧
        (t.clk.pll p).phase = .startup ∧ (t.clk.pll p).shM = (t.clk.pll p).actM ∧ (t.clk.pll p).shN = (t.clk.pll p).actN) ∧
      (e < 17578 ∨ (21484 < e ∧ e < 43200) ∨ 52800 < e →
        t.clk = { s.clk with refClass := .unknown, detect := BitVec.ofNat 16 (min e 0xFFFF) })

/-- LOCKED is set on a PLL that has its reference (R443). When it has held for 1,024 REFIN cycles, the guard enters VCO8 for PLL-A, and for
PLL-B every output with a format starts; a commit or a measurement that ran ends with OK and DONE (R436, R440, R447, R455). -/
def Obligations.LockAndItsHoldStartTheClocks : Prop :=
  ∀ s : State, s.runs →
    (∀ p, (s.clk.pll p).refOk = true → (s.clk.pll p).locked = false → (s.clk.pll p).phase ≠ .off →
      exec (.pllLockAcquired p) s = .next (s.upPll p fun l => { l with locked := true, held := false })) ∧
    (s.clk.pllA.locked = true → s.clk.pllA.held = false → s.pwr.boot = none →
      ∃ t, exec (.lockHoldEnd .a) s = .next t ∧ t = { s with clk := t.clk, chans := t.chans } ∧ t.clk.guard = .vco8 ∧
        t.clk.pllA.held = true ∧ t.clk.pllA.phase = .running ∧ t.clk.pllB = s.clk.pllB ∧ t.clk.outs = s.clk.outs ∧
        t.clk.unaligned = s.clk.unaligned ∧ t.clk.guardCount = s.clk.guardCount ∧
        (s.clk.pllA.phase = .committing ∨ s.clk.pllA.phase = .measuring → t.clk.pllA.result = .ok ∧ t.clk.pllA.done = true) ∧
        (∀ n, t.ch n = if s.clk.guard = .vco8 then s.ch n else (s.ch n).markWindows s.time)) ∧
    (s.clk.pllB.locked = true → s.clk.pllB.held = false → s.pwr.boot = none →
      ∃ t, exec (.lockHoldEnd .b) s = .next t ∧ t = { s with clk := t.clk, lnk := t.lnk } ∧ t.clk.pllB.held = true ∧
        t.clk.pllB.phase = .running ∧ t.clk.pllA = s.clk.pllA ∧ t.clk.guard = s.clk.guard ∧ t.clk.unaligned = s.clk.unaligned ∧
        (∀ x : Fin 4, t.clk.outs[x.val].running = (s.clk.outs[x.val].fmt != .off) ∧ t.clk.outs[x.val].fmt = s.clk.outs[x.val].fmt ∧
          t.clk.outs[x.val].divM1 = s.clk.outs[x.val].divM1) ∧
        (s.clk.pllB.phase = .committing ∨ s.clk.pllB.phase = .measuring → t.clk.pllB.result = .ok ∧ t.clk.pllB.done = true)) ∧
    ∀ p, ∃ t, exec (.lockHoldEnd p) s = .next t ∧ t.runs ∧ t.time = s.time ∧ t.jtag = s.jtag

/-- A clearing of LOCKED, a lost reference, its return, and the retry of a commit that has not locked (R440, R443, R444, R447, R450 … R453,
R456). With the core on VCO8 and system time aligned, each loss marks system time unaligned; a loss of PLL-A's lock or of the reference takes
the guard to VCO16 and counts the entry. No band, no divider and no output that coasts changes. -/
def Obligations.LossesTakeTheCoreToVco16 : Prop :=
  ∀ s : State, s.runs →
    (s.clk.pllA.locked = true → s.clk.guard = .vco8 →
      ∃ t, exec (.pllLockLost .a) s = .next t ∧ t = { s with clk := t.clk, chans := t.chans, lnk := t.lnk, flt := t.flt } ∧
        t.clk.guard = .vco16 ∧ t.clk.unaligned = true ∧ t.clk.guardCount = satInc s.clk.guardCount ∧ t.clk.pllB = s.clk.pllB ∧
        t.clk.outs = s.clk.outs ∧ t.lnk.ports = s.lnk.ports ∧
        t.clk.pllA = { s.clk.pllA with locked := false, held := false, lol := t.clk.pllA.lol } ∧
        (s.clk.pllA.refOk = true → s.clk.pllA.phase = .running → t.clk.pllA.lol = true) ∧
        ∀ n, t.ch n = ((s.ch n).markWindows s.time).calInterrupt) ∧
    (s.clk.pllB.locked = true →
      ∃ t, exec (.pllLockLost .b) s = .next t ∧ t = { s with clk := t.clk, lnk := t.lnk, flt := t.flt } ∧ t.clk.guard = s.clk.guard ∧
        t.clk.unaligned = true ∧ t.clk.pllA = s.clk.pllA ∧
        t.clk.pllB = { s.clk.pllB with locked := false, held := false, lol := t.clk.pllB.lol } ∧
        ∀ x : Fin 4, t.clk.outs[x.val].running = (s.clk.outs[x.val].running && s.clk.outs[x.val].coast)) ∧
    (s.clk.pllA.refOk = true ∨ s.clk.pllB.refOk = true → s.clk.guard = .vco8 →
      ∃ t, exec .refLost s = .next t ∧ t = { s with clk := t.clk, chans := t.chans, lnk := t.lnk, flt := t.flt } ∧
        t.clk.guard = .vco16 ∧ t.clk.unaligned = true ∧ t.clk.guardCount = satInc s.clk.guardCount ∧
        t.clk.pllA = { s.clk.pllA with refOk := false, lor := true, locked := false, held := false } ∧
        t.clk.pllB = { s.clk.pllB with refOk := false, lor := true, locked := false, held := false } ∧
        ∀ x : Fin 4, t.clk.outs[x.val].running = (s.clk.outs[x.val].running && s.clk.outs[x.val].coast)) ∧
    (s.clk.refClass = .mhz24 ∨ s.clk.refClass = .mhz10 →
      ∃ t, exec .refReturn s = .next t ∧ t = { s with clk := { s.clk with pllA := t.clk.pllA, pllB := t.clk.pllB } } ∧
        ∀ p, t.clk.pll p = { s.clk.pll p with refOk := (s.clk.pll p).refOk || (s.clk.pll p).phase != .off }) ∧
    (∀ p, ((s.clk.pll p).phase = .committing ∨ (s.clk.pll p).phase = .measuring) → (s.clk.pll p).locked = false →
      ∃ t, exec (.relockRetry p) s = .next t ∧ t = s.upPll p fun l => { l with band := (t.clk.pll p).band })

/-- A COMMIT (R439, R440): the first condition that refuses it gives its RESULT with DONE, and nothing else changes; one that changes no
divider ends with OK; one that passes loads the shadow dividers and the selected band, unlocks the PLL, and takes PLL-A's core to VCO16 or
stops PLL-B's outputs. -/
def Obligations.ACommitIsRefusedOrAppliesTheShadows : Prop :=
  ∀ (p : PllId) (s : State), s.serves →
    (∀ r, (s.commitCheck p).1 = r → r ≠ .ok →
      exec (.pllCommit p) s = .next (s.upPll p fun l => { l with result := r, done := true })) ∧
    ((s.commitCheck p).1 = .ok → (s.clk.pll p).shM = (s.clk.pll p).actM → (s.clk.pll p).shN = (s.clk.pll p).actN →
      (s.clk.pll p).shP = (s.clk.pll p).actP → exec (.pllCommit p) s = .next (s.upPll p fun l => { l with result := .ok, done := true })) ∧
    ((s.commitCheck p).1 = .ok → (s.clk.pll p).shN ≠ (s.clk.pll p).actN →
      ∃ t, exec (.pllCommit p) s = .next t ∧ t = { s with clk := t.clk, chans := t.chans, lnk := t.lnk, flt := t.flt } ∧
        t.clk.pll p = { s.clk.pll p with actM := (s.clk.pll p).shM, actN := (s.clk.pll p).shN, actP := (s.clk.pll p).shP,
                                         band := (s.commitCheck p).2, locked := false, held := false, phase := .committing } ∧
        (p = .a → s.clk.guard = .vco8 → t.clk.guard = .vco16 ∧ t.clk.unaligned = true ∧ t.clk.outs = s.clk.outs ∧ t.clk.pllB = s.clk.pllB) ∧
        (p = .b → t.clk.guard = s.clk.guard ∧ t.clk.unaligned = true ∧ t.clk.pllA = s.clk.pllA ∧
          ∀ x : Fin 4, t.clk.outs[x.val].running = false)) ∧
    (s.clk.pllBusy = true → (s.commitCheck p).1 = .busy) ∧
    (s.clk.pllBusy = false → (s.clk.pll p).refOk = false → (s.commitCheck p).1 = .noRef) ∧
    (s.clk.pllBusy = false → (s.clk.pll p).refOk = true → p = .a → (s.clk.pll p).shP ≠ 8 → (s.commitCheck p).1 = .badPost)

/-- A MEASURE (R441): refused while a PLL is busy, without a reference, and on PLL-A with a channel that is not quiesced or a closed switch.
Otherwise every band of the table takes its measured frequencies, the low one rounded up and the high one down to whole MHz, and the PLL
locks again on its active dividers; PLL-A's core runs on REF. -/
def Obligations.AMeasurementRewritesTheBandTable : Prop :=
  ∀ (p : PllId) (khz : List (Nat × Nat)) (s : State), s.serves →
    (s.clk.pllBusy = true → exec (.pllBandMeasure p khz) s = .next (s.upPll p fun l => { l with result := .busy, done := true })) ∧
    (s.clk.pllBusy = false → (s.clk.pll p).refOk = false →
      exec (.pllBandMeasure p khz) s = .next (s.upPll p fun l => { l with result := .noRef, done := true })) ∧
    (s.clk.pllBusy = false → s.clk.pllA.refOk = true → s.allQuiet = false →
      exec (.pllBandMeasure .a khz) s = .next (s.upPll .a fun l => { l with result := .notQuiescent, done := true })) ∧
    (s.clk.pllBusy = false → s.clk.pllA.refOk = true → s.allQuiet = true → s.allSwitchesOpen = false →
      exec (.pllBandMeasure .a khz) s = .next (s.upPll .a fun l => { l with result := .switchClosed, done := true })) ∧
    (s.clk.pllBusy = false → (s.clk.pll p).refOk = true → (p = .a → s.allQuiet = true ∧ s.allSwitchesOpen = true) →
      ∃ t, exec (.pllBandMeasure p khz) s = .next t ∧
        t = { s with clk := t.clk, chans := t.chans, lnk := t.lnk, flt := t.flt, draws := t.draws } ∧
        (t.clk.pll p).phase = .measuring ∧ (t.clk.pll p).locked = false ∧ (t.clk.pll p).held = false ∧
        (t.clk.pll p).actN = (s.clk.pll p).actN ∧ (t.clk.pll p).actM = (s.clk.pll p).actM ∧
        (∀ i : Fin 64, ∀ x, khz[i.val]? = some x → (t.clk.pll p).bands[i.val] =
          { valid := decide ((x.1 + 999) / 1000 ≤ x.2 / 1000), hi := BitVec.ofNat 12 (x.2 / 1000), lo := BitVec.ofNat 12 ((x.1 + 999) / 1000) }) ∧
        (p = .a → t.clk.guard = .ref ∧ t.clk.guardCount = s.clk.guardCount) ∧ (p = .b → t.clk.unaligned = true))

/-- A write of CLK_OUT_x changes that output alone; XTAL_QUALIFIED and XTAL_LOST change the crystal's bits alone (R455, R457). -/
def Obligations.OutputsAndCrystalChangeAlone : Prop :=
  ∀ s : State,
    (s.serves → ∀ (x : Fin 4) (v : Word), ∃ t, exec (.clkoutWrite x v) s = .next t ∧ t = { s with clk := { s.clk with outs := t.clk.outs } } ∧
      (∀ y : Fin 4, y ≠ x → t.clk.outs[y.val] = s.clk.outs[y.val]) ∧ t.clk.outs[x.val].coast = v.getLsbD 31 ∧
      t.clk.outs[x.val].divM1 = v.extractLsb' 0 10 ∧
      (4 < (v.toNat / 2 ^ 24 % 8) ∨ v.toNat / 2 ^ 24 % 8 = 0 → t.clk.outs[x.val].fmt = .off ∧ t.clk.outs[x.val].running = false) ∧
      (v.toNat / 2 ^ 24 % 8 = 3 → t.clk.outs[x.val].fmt = .lvds ∧ t.clk.outs[x.val].running = (s.clk.outs[x.val].running || s.clk.pllB.held))) ∧
    exec .xtalQualified s = .next { s with clk := { s.clk with xtal := true } } ∧
    (s.clk.xtal = true → exec .xtalLost s = .next { s with clk := { s.clk with xtal := false, xtalLost := true } }) ∧
    (s.clk.xtal = false → exec .xtalLost s = .next s)

/-! ### The host port -/

/-- R504: a read of GLB_TIME_LO returns the low half of system time and latches the high half, which GLB_TIME_HI returns from then on. Both
ignore writes and read 0 after reset. -/
def Obligations.TimeReadsLatchTheHighHalf : Prop :=
  (∀ s : State, s.runs →
    s.readWord 0x10 = some (BitVec.ofNat 32 s.time) ∧ s.readWord 0x14 = some s.host.timeHi ∧
    ∃ t, exec .glbTimeLoRead s = .next t ∧ t = { s with host := { s.host with timeHi := BitVec.ofNat 32 (s.time / 2 ^ 32) } } ∧
      t.readWord 0x14 = some (BitVec.ofNat 32 (s.time / 2 ^ 32)) ∧ exec (.readClearCounter 0x10) s = .next t ∧
      exec (.readClearCounter 0x14) s = .next s ∧ ∀ v, exec (.registerWrite 0x10 v) s = .next s ∧ exec (.registerWrite 0x14 v) s = .next s) ∧
  State.reset.readWord 0x10 = some 0 ∧ State.reset.readWord 0x14 = some 0

/-- The other reads with a side effect (R182, R200, R388): each latches its snapshot and changes nothing else. -/
def Obligations.ReadsLatchTheirSnapshots : Prop :=
  ∀ s : State, s.runs →
    (∀ n, ∃ t, exec (.resultLoRead n) s = .next t ∧ s.chOnly t n ∧
      t.ch n = { s.ch n with meas := { (s.ch n).meas with snap := (s.ch n).meas.resTime, loRead := true } }) ∧
    (∀ n, (s.ch n).meas.loRead = true → ∃ t, exec (.resultHiRead n) s = .next t ∧ s.chOnly t n ∧
      t.ch n = { s.ch n with meas := { (s.ch n).meas with pairDone := true, loRead := false } }) ∧
    (∀ n, (s.ch n).meas.loRead = false → exec (.resultHiRead n) s = .next s) ∧
    (∀ n, ∃ t, exec (.demodViRead n) s = .next t ∧ s.chOnly t n ∧
      t.ch n = { s.ch n with meas := { (s.ch n).meas with demod := { (s.ch n).meas.demod with
        snapVq := (s.ch n).meas.demod.vq, snapIi := (s.ch n).meas.demod.ii, snapIq := (s.ch n).meas.demod.iq,
        snapTime := (s.ch n).meas.demod.time } } }) ∧
    ∃ t, exec .cofferW0Read s = .next t ∧ t = { s with flt := { s.flt with snap1 := t.flt.snap1, snap2 := t.flt.snap2, snap3 := t.flt.snap3 } } ∧
      (∀ r, findAt s.flt.coffer s.flt.cofferSel.toNat = some r → t.flt.snap1 = r.addr ∧ t.flt.snap2 = r.time ∧ t.flt.snap3 = r.seq) ∧
      (findAt s.flt.coffer s.flt.cofferSel.toNat = none → t.flt.snap1 = 0 ∧ t.flt.snap2 = 0 ∧ t.flt.snap3 = 0)

/-- Read frames (R495 … R499, R551). A frame of one word for this device drives the word, and its side effect takes place; an unmapped
word reads 0 and is reported once; a failed header CRC drives zeros behind a wrong CRC and has no side effect; a frame with a bad opcode is
ignored and counted, and a frame for another device is ignored off the root. -/
def Obligations.ReadFramesDriveTheirWords : Prop :=
  ∀ (f : ReadFrame) (s u : State), s.runs → u = { s with host := { s.host with drove := false, out := [], outCrc := 0 } } →
    (f.opcode = 0xA1 ∨ f.opcode = 0xA3 ∨ f.opcode = 0xA5 ∨ f.opcode = 0xA7 → f.headerDone = true → f.devId = s.lnk.devId.setWidth 16 →
      f.addr.extractLsb' 0 2 = 0 →
      (f.count = 0 → exec (.hostReadFrame f) s = .next { u with host := { u.host with drove := true } }) ∧
      (f.count = 1 → ∀ w, s.readWord f.addr = some w → ∃ t, exec (.hostReadFrame f) s = .next t ∧
        t.host.drove = true ∧ t.host.out = [w] ∧ t.host.outCrc = 0 ∧ t = { u.readSide f.addr with host := t.host }) ∧
      (f.count = 1 → s.readWord f.addr = none → ∃ t, exec (.hostReadFrame f) s = .next t ∧ t = { s with host := t.host, flt := t.flt } ∧
        t.host.drove = true ∧ t.host.out = [0] ∧ t.host.unmapped = true ∧ t.host.badFrames = satInc s.host.badFrames) ∧
      ∃ t, exec (.hostReadFrame f) s = .next t ∧ t.host.drove = true ∧ t.host.out.length = f.count) ∧
    (f.opcode = 0xA9 ∨ f.opcode = 0xAB ∨ f.opcode = 0xAD ∨ f.opcode = 0xAF → f.headerDone = true → f.devId = s.lnk.devId.setWidth 16 →
      f.addr.extractLsb' 0 2 = 0 →
      (f.headerCrc ≠ crc16 (headerBytes f.opcode f.devId f.addr f.len) →
        ∃ t, exec (.hostReadFrame f) s = .next t ∧ t = { s with host := t.host, flt := t.flt } ∧ t.host.drove = true ∧
          t.host.out = List.replicate (f.len.toNat + 1) 0 ∧ t.host.outCrc = ~~~ crc16 (dataBytes (List.replicate (f.len.toNat + 1) 0)) ∧
          t.host.crcErr = true ∧ t.host.crcErrs = satInc s.host.crcErrs ∧ t.host.badFrames = s.host.badFrames) ∧
      (f.headerCrc = crc16 (headerBytes f.opcode f.devId f.addr f.len) →
        ∃ t, exec (.hostReadFrame f) s = .next t ∧ t.host.drove = true ∧ t.host.out.length = f.len.toNat + 1 ∧
          t.host.outCrc = crc16 (dataBytes t.host.out))) ∧
    (f.opcode.toNat < 0xA0 ∨ 0xB0 ≤ f.opcode.toNat →
      ∃ t, exec (.hostReadFrame f) s = .next t ∧ t = { s with host := t.host, flt := t.flt } ∧ t.host.drove = false ∧ t.host.out = [] ∧
        t.host.badFrame = true ∧ t.host.badFrames = satInc s.host.badFrames ∧ t.host.lastOp = f.opcode) ∧
    (f.opcode = 0xA1 → f.headerDone = true → s.lnk.root = false → f.devId.extractLsb' 12 4 = 0 → f.devId.extractLsb' 0 12 ≠ s.lnk.devId →
      exec (.hostReadFrame f) s = .next u)

/-- Write frames (R495 … R498, R501, R502, R551). The words of a whole frame for this device land in order, at rising addresses or at one;
a failed CRC, and a frame without CRC where CRC_REQ asks for one, apply no word; the address after 0xFF_FFFC is 0 (R552). -/
def Obligations.WriteFramesLandTheirWords : Prop :=
  ∀ (f : WriteFrame) (s u : State), s.serves → u = { s with host := { s.host with drove := false, out := [], outCrc := 0 } } →
    f.headerDone = true → f.devId = s.lnk.devId.setWidth 16 → f.addr.extractLsb' 0 2 = 0 → f.collide = false →
    (f.opcode = 0xA0 ∨ f.opcode = 0xA4 → s.host.crcReq = false → f.tail = 0 →
      (f.words = [] → exec (.hostWriteFrame f) s = .next u) ∧
      (∀ v, f.words = [v] → s.writable f.addr = true → exec (.hostWriteFrame f) s = .next (u.landWord f.addr v false)) ∧
      (∀ v w, f.words = [v, w] → s.writable f.addr = true → s.writable (f.addr + 4) = true →
        exec (.hostWriteFrame f) s = .next ((u.landWord f.addr v false).landWord (f.addr + 4) w false)) ∧
      (∀ v, f.words = [v] → s.writable f.addr = false → ∃ t, exec (.hostWriteFrame f) s = .next t ∧ t = { s with host := t.host, flt := t.flt } ∧
        t.host.unmapped = true ∧ t.host.badFrames = satInc s.host.badFrames)) ∧
    (f.opcode = 0xA2 ∨ f.opcode = 0xA6 → s.host.crcReq = false → f.tail = 0 → ∀ v w, f.words = [v, w] → s.writable f.addr = true →
      exec (.hostWriteFrame f) s = .next ((u.landWord f.addr v false).landWord f.addr w false)) ∧
    (f.opcode.extractLsb' 3 5 = 0b10100 → f.opcode.getLsbD 0 = false → s.host.crcReq = true →
      ∃ t, exec (.hostWriteFrame f) s = .next t ∧ t = { s with host := t.host, flt := t.flt } ∧ t.host.badFrame = true ∧
        t.host.badFrames = satInc s.host.badFrames ∧ t.host.crcReq = true) ∧
    (f.opcode = 0xA8 → f.words.length = f.len.toNat + 1 → f.tail = 0 →
      f.crc ≠ crc16 (headerBytes f.opcode f.devId f.addr f.len ++ dataBytes f.words) →
      ∃ t, exec (.hostWriteFrame f) s = .next t ∧ t = { s with host := t.host, flt := t.flt } ∧ t.host.crcErr = true ∧
        t.host.crcErrs = satInc s.host.crcErrs ∧ t.host.badFrames = s.host.badFrames)

/-- R552: the address behind a word of an incrementing frame is 4 higher, and 0 behind 0xFF_FFFC; each word of a frame is read at, and lands
at, its own address. -/
def Obligations.IncrementingFramesJudgeEachWord : Prop :=
  (∀ (op : BitVec 8) (a : Addr), op.getLsbD 1 = false → nextAddr op a = a + 4) ∧ (∀ op : BitVec 8, op.getLsbD 1 = false → nextAddr op 0xFFFFFC = 0) ∧
  (∀ (s : State) (op : BitVec 8) (a : Addr) (v : Word) (l : List Word), op.getLsbD 1 = false →
    s.writeWords op a (v :: l) = (s.landWord a v false).writeWords op (a + 4) l) ∧
  ∀ (s : State) (op : BitVec 8) (a : Addr) (k : Nat), op.getLsbD 1 = false →
    (∀ w, s.readWord a = some w → (s.readWords op a (k + 1)).2.1 = w :: ((s.readSide a).readWords op (a + 4) k).2.1) ∧
    (s.readWord a = none → (s.readWords op a (k + 1)).2.1 = 0 :: (s.readWords op (a + 4) k).2.1 ∧ (s.readWords op a (k + 1)).2.2 = some a)

/-- Single writes and reads (R6, R9, R113, R500, R509, R551): HOST_SCRATCH keeps a written word; a level is stored and the data path has not
sampled it yet; a LOAD request waits for the boundary; an unmapped word and the larder ignore a write; a read of CH_STREAM_UNDER or of
HOST_CRC_ERROR_COUNT clears it, and a read of a memory has no side effect. -/
def Obligations.SingleWordsLandAndReadsClear : Prop :=
  ∀ s : State, s.serves →
    (∀ v, exec (.registerWrite 0x1014 v) s = .next { s with host := { s.host with scratch := v } }) ∧
    (∀ a v, s.readWord a = none → exec (.registerWrite a v) s = .next s) ∧
    (∀ (a : Addr) v, 0x200000 ≤ a.toNat → a.toNat < 0x300000 → exec (.registerWrite a v) s = .next s) ∧
    (∀ n v, s.takes n → ∃ t, exec (.registerWrite (chAddr n 0x044) v) s = .next t ∧ s.chOnly t n ∧
      t.ch n = { s.ch n with cfg := { (s.ch n).cfg with level := v } }) ∧
    (∀ n v, s.takes n → v.getLsbD 2 = false → v.getLsbD 3 = false → v.getLsbD 4 = false → v.getLsbD 5 = true →
      v.getLsbD 0 = ((s.ch n).cfg.mode == .current) →
      ∃ t, exec (.registerWrite (chAddr n 0x040) v) s = .next t ∧ t.landed = s.landed ++ [.forceLoad n] ∧
        t.ch n = { s.ch n with cfg := { (s.ch n).cfg with cls := if v.getLsbD 1 then .stream else .strobed } } ∧
        t = { s with chans := t.chans, landed := t.landed }) ∧
    (∀ n, ∃ t, exec (.readClearCounter (chAddr n 0x05C)) s = .next t ∧ s.chOnly t n ∧
      t.ch n = { s.ch n with force := { (s.ch n).force with streamUnder := 0 } }) ∧
    exec (.readClearCounter 0x1008) s = .next { s with host := { s.host with crcErrs := 0 } } ∧
    ∀ a : Addr, 0x32000 ≤ a.toNat → exec (.readClearCounter a) s = .next s

/-! ### The force path -/

/-- A load strobe (R94, R96, R127): on a channel of a sync set, and while a strand runs or is armed, it is ignored with a Note. Otherwise, with
the ranges kept, class 0 applies the level: with the switch closed and the loops open in force-voltage mode the bounded level becomes the
limiter's target through stage 2, but for a manual command of the same boundary (R139); with the switch open, or the loops closed, target and
code stay, and so they do while a rest sequence runs (R111). A class 1 channel keeps its level pending. -/
def Obligations.ALoadStrobeAppliesTheLevel : Prop :=
  ∀ (n : Ch) (s u : State), s.takes n → u = s.sample n →
    ((s.ch n).decl.syncSet ≠ 0 ∨ (s.ch n).strand.st.active = true → exec (.forceLoad n) s = .next (u.noteCh n 0x040)) ∧
    ((s.ch n).decl.syncSet = 0 → (s.ch n).strand.st.active = false → (s.ch n).strand.pulse = none → (s.ch n).loop.complPend = false →
      (s.ch n).cfg.setV = 15 → (s.ch n).cfg.setI = 15 → (u.ch n).range.wantV = none → (u.ch n).range.wantI = none → (u.ch n).range.hst ≠ .vSwitch →
      ∃ t, exec (.forceLoad n) s = .next t ∧ s.pathOnly t n ∧
        ((s.ch n).cfg.cls = .stream → (t.ch n).force = (u.ch n).force) ∧
        ((s.ch n).cfg.cls = .strobed → (t.ch n).force.applied = (s.ch n).cfg.level ∧ (t.ch n).force.code = (s.ch n).force.code ∧
          ((s.ch n).cfg.mode = .voltage → (s.ch n).loop.st = .opened → (s.ch n).force.out = .closed →
            (s.ch n).force.closeRest = false → (s.ch n).loop.manualNow = false → (t.ch n).force.target = ((u.ch n).stage2 (rha (clampMag (sat32 ((s.ch n).cfg.level.toInt + u.sineNow n)).toInt
              (u.ch n).primaryBound) 4096)).1 ∧ (t.ch n).loop.cmd = (t.ch n).force.target) ∧
          ((s.ch n).force.out = .opened ∨ (s.ch n).loop.st = .primary ∨ (s.ch n).force.out = .resting → (t.ch n).force.target = (s.ch n).force.target ∧
            (t.ch n).loop.cmd = (s.ch n).loop.cmd)))

/-- Stage 2 (R86, R103): a code within the span passes, one beyond it becomes the span's end and sets SAT. On an internal range the span is
−524,288 … 524,287. The DAC converts the corrected code in offset binary, u = dac + 524,288, with COARSE in u[19:10] and FINE in u[9:0] (R89). -/
def Obligations.StageTwoSaturatesToTheSpan : Prop :=
  (∀ d : Code, ((dacWord d).toNat : Int) = d.toInt + 524288 ∧ (dacWord d).toNat = (dacCoarse d).toNat * 1024 + (dacFine d).toNat) ∧
  ∀ (c : Chan) (x : Int), isBoost c.range.i = false →
    (-524288 ≤ x → x ≤ 524287 → ((c.toLimiter x).force.target.toInt = x ∧ (c.toLimiter x).force.sat = c.force.sat)) ∧
    (524287 < x → (c.toLimiter x).force.target.toInt = 524287 ∧ (c.toLimiter x).force.sat = true) ∧
    (x < -524288 → (c.toLimiter x).force.target.toInt = -524288 ∧ (c.toLimiter x).force.sat = true)

/-- MODE and CLASS (R9, R95, R97): a write of another MODE on a channel with a closed loop or a strand is ignored with a Note, and one that repeats
the MODE changes nothing (the model's choice: log entry 39); otherwise the data path takes it with the command held. A channel that enters class 1
starts its stream count. -/
def Obligations.ModeAndClassTakeEffectWithTheCommandHeld : Prop :=
  ∀ (n : Ch) (s : State), s.takes n →
    (∀ m, (s.ch n).cfg.mode ≠ m → ((s.ch n).loop.st.closed = true ∨ (s.ch n).strand.st.active = true) →
      exec (.forceModeWrite n m) s = .next ((s.noteCh n 0x040).sample n)) ∧
    (∀ m, (s.ch n).cfg.mode = m → exec (.forceModeWrite n m) s = .next (s.sample n)) ∧
    (∀ m, (s.ch n).loop.st.closed = false → (s.ch n).strand.st.active = false →
      ∃ t, exec (.forceModeWrite n m) s = .next t ∧ s.chOnly t n ∧ (t.ch n).cfg = { (s.ch n).cfg with mode := m } ∧ (t.ch n).eff.mode = m ∧
        (t.ch n).force.code = (s.ch n).force.code ∧ (t.ch n).force.target = (s.ch n).force.target ∧ (t.ch n).loop = (s.ch n).loop) ∧
    (∀ k, ∃ t, exec (.forceClassWrite n k) s = .next t ∧ s.chOnly t n ∧ (t.ch n).cfg = { (s.ch n).cfg with cls := k } ∧ (t.ch n).eff.cls = k ∧
      (t.ch n).force.code = (s.ch n).force.code ∧ (t.ch n).force.target = (s.ch n).force.target ∧ (t.ch n).loop = (s.ch n).loop ∧
      (k = .stream → (s.ch n).eff.cls = .strobed → (t.ch n).force.streamStart = s.period ∧ (t.ch n).force.streamLast = (s.ch n).force.applied))

/-- The output switch (R99, R100, R117). A CLOSE is refused with a Note or has no effect where R100 says so, and starts the closing sequence
otherwise; the sequence ends with the command at the pin voltage and the switch closed, and a rest sequence ramps from the loop period behind
it; an OPEN opens switch and loops with the code held;
TRIPPED clears unless the window that tripped is still outside. -/
def Obligations.TheSwitchClosesAtThePinVoltage : Prop :=
  ∀ (n : Ch) (s u : State), u = s.sample n →
    (s.takes n → (s.ch n).map.avail = false ∨ (s.ch n).force.tripped = true ∨ (s.ch n).force.out = .resting ∨ (s.ch n).force.out = .hold ∨
      (s.ch n).force.out = .graveOpen → exec (.forceClose n) s = .next (u.noteCh n 0x040)) ∧
    (s.takes n → (u.ch n).refusesSwitch s.time = false →
      ((s.ch n).force.out = .closing ∨ (s.ch n).force.out = .closed ∨ (s.ch n).force.out = .restHold → exec (.forceClose n) s = .next u) ∧
      ((s.ch n).force.out = .opened ∨ (s.ch n).force.out = .restOpen ∨ (s.ch n).force.out = .tripOpen →
        ∃ t, exec (.forceClose n) s = .next t ∧ s.pathOnly t n ∧ (t.ch n).force.out = .closing ∧ (t.ch n).force.closeAt = some s.time ∧
          (t.ch n).force.code = (s.ch n).force.code ∧ (t.ch n).loop = (s.ch n).loop)) ∧
    (s.runs → ∀ raw k t0, (s.ch n).map.cell = some k → (s.bay (CellIx.bay k)).awake = true → s.jtag.ir.holdsPins = false → n ∉ s.pwr.waitRest →
      (s.ch n).force.out = .closing → (s.ch n).force.closeAt = some t0 → t0 + 2048 ≤ s.time →
      ∃ t, exec (.switchClose n raw) s = .next t ∧ s.pathOnly t n ∧
        (t.ch n).force.out = .closed ∧ (t.ch n).force.closeRest = (s.ch n).force.closeRest ∧
        (t.ch n).afterClosing.force.out = (if (s.ch n).force.closeRest then .resting else .closed) ∧
        (t.ch n).force.code = ((s.ch n).stage2 (s.pinCode n k raw)).1 ∧ (t.ch n).force.target = (t.ch n).force.code ∧
        (t.ch n).loop.cmd = (t.ch n).force.code) ∧
    (s.takes n → (s.ch n).force.out = .resting ∨ ((s.ch n).force.out = .closed ∧ (s.ch n).force.closeRest = true) ∨ (u.ch n).restStarts s.time = true →
      exec (.forceOpen n) s = .next (u.noteCh n 0x040)) ∧
    (s.takes n → (u.ch n).restStarts s.time = false →
      (((s.ch n).force.out = .closed ∧ (s.ch n).force.closeRest = false) ∨ (s.ch n).force.out = .restHold ∨ (s.ch n).force.out = .hold →
        ∃ t, exec (.forceOpen n) s = .next t ∧ s.pathFlt t n ∧ (t.ch n).force.out = .opened ∧ (t.ch n).loop.st = .opened ∧
          (t.ch n).force.code = (s.ch n).force.code) ∧
      ((s.ch n).force.out = .opened ∨ (s.ch n).force.out = .closing ∨ (s.ch n).force.out = .restOpen ∨ (s.ch n).force.out = .tripOpen ∨
        (s.ch n).force.out = .graveOpen → exec (.forceOpen n) s = .next u)) ∧
    (s.takes n → ∃ t, exec (.outTrippedClear n) s = .next t ∧ s.chOnly t n ∧ t.ch n = { s.ch n with force := { (s.ch n).force with
      tripped := (s.ch n).force.tripped && ((s.ch n).winV.stage || (s.ch n).winI.stage) } })

/-- Rest (R108, R109). A REST where no rest sequence runs is ignored with a Note; otherwise the loops open and the switch opens (RS_MODE 0)
or the output ramps to rest, with the rest values as they stand (R69); the end of the ramp holds RS_CODE; at Grave the switch opens once the
channel is in REST_HOLD or 1,024 periods have passed. -/
def Obligations.RestTakesTheOutputToItsRestValue : Prop :=
  ∀ (n : Ch) (s u : State), u = s.sample n →
    (s.takes n → (s.ch n).decl.enabled = false ∨ (s.ch n).map.cell = none → exec (.forceRest n) s = .next (u.noteCh n 0x040)) ∧
    (s.takes n → (s.ch n).decl.enabled = true → (s.ch n).map.cell.isSome = true → (s.ch n).strand.st.active = false →
      (s.ch n).strand.endAt ≠ some s.time → (s.ch n).force.out ≠ .graveOpen → (s.ch n).force.out ≠ .hold → n ∉ s.pwr.waitRest →
      ∃ t, exec (.forceRest n) s = .next t ∧
        t = { s with chans := t.chans, cells := t.cells, flt := t.flt, bays := t.bays, clk := t.clk } ∧ (∀ m, m ≠ n → t.ch m = s.ch m) ∧
        (t.ch n).loop.st = .opened ∧ (t.ch n).force.code = (s.ch n).force.code ∧ (t.ch n).force.restAt = some s.time ∧ (t.ch n).force.rsCode = (s.ch n).decl.rsCode ∧
        (t.ch n).force.rsIlimitNa = (s.ch n).decl.rsIlimitNa ∧
        ((s.ch n).decl.rsClose = false ∨ (s.ch n).force.tripped = true → (t.ch n).force.out = .restOpen) ∧
        ((s.ch n).decl.rsClose = true → (s.ch n).force.tripped = false → (s.ch n).force.out = .closed → (t.ch n).force.out = .resting) ∧
        ((s.ch n).decl.rsClose = true → (s.ch n).force.tripped = false → (s.ch n).force.out = .opened →
          (t.ch n).force.out = .closing ∧ (t.ch n).force.closeRest = true)) ∧
    (s.runs → (s.ch n).force.out = .resting → (s.ch n).force.code = (s.ch n).force.rsCode → (s.ch n).range.wantV = none →
      (s.ch n).range.hst ≠ .vSwitch → s.pwr.boot = none →
      ∃ t, exec (.restHoldReached n) s = .next t ∧ s.pathOnly t n ∧ (t.ch n).force.out = .restHold ∧
        (t.ch n).force.target = (s.ch n).force.rsCode ∧ (t.ch n).force.code = (s.ch n).force.code ∧ (t.ch n).loop.cmd = (s.ch n).force.rsCode) ∧
    (s.runs → s.flt.grave = true → ∀ t0, (s.ch n).force.restAt = some t0 → (s.ch n).force.out ≠ .graveOpen →
      (s.ch n).canRest = true → (s.ch n).force.out = .restHold ∨ t0 + 262144 ≤ s.time →
      ∃ t, exec (.graveOpenTimeout n) s = .next t ∧ s.pathFlt t n ∧ (t.ch n).force.out = .graveOpen ∧ (t.ch n).loop.st = .opened ∧
        (t.ch n).force.code = (s.ch n).force.code)

/-- R279: a word write anywhere in the channel's window appends one sample; a write to a full queue is dropped and counted; reads of the
window return 0; CH_STREAM_FILL shows the number of samples; a stream instant takes the sample at the head. FLUSH empties the queue (R293). -/
def Obligations.TheStreamQueueIsAFifo : Prop :=
  ∀ (n : Ch) (s : State), s.serves →
    (∀ (j : Fin 256) v, exec (.registerWrite (BitVec.ofNat 24 (0x308000 + n.val * 0x400 + 4 * j.val)) v) s = exec (.streamQueueAppend n v) s ∧
      s.readWord (BitVec.ofNat 24 (0x308000 + n.val * 0x400 + 4 * j.val)) = some 0) ∧
    s.readWord (chAddr n 0x29C) = some (BitVec.ofNat 32 (s.ch n).queue.length) ∧
    (∀ v, ∃ t, exec (.streamQueueAppend n v) s = .next t ∧ t = { s with chans := t.chans, bays := t.bays, clk := t.clk } ∧
      (∀ m, m ≠ n → t.ch m = s.ch m) ∧
      ((s.ch n).queue.length < 256 → t.ch n = { s.ch n with queue := (s.ch n).queue ++ [some v] }) ∧
      (256 ≤ (s.ch n).queue.length → t.ch n = { s.ch n with streamOver := satInc (s.ch n).streamOver })) ∧
    (∀ x q, (s.ch n).streamInstant s.period = true → (s.ch n).queue = some x :: q →
      ∃ t, exec (.streamSample n) s = .next t ∧ s.chOnly t n ∧ (t.ch n).queue = q ∧ (t.ch n).force.streamLast = x ∧
        (t.ch n).force.applied = sat32 (x.toInt + s.sineNow n) ∧ (t.ch n).force.code = (s.ch n).force.code) ∧
    ((s.ch n).streamInstant s.period = true → (s.ch n).queue = [] →
      ∃ t, exec (.streamSample n) s = .next t ∧ s.chOnly t n ∧ (t.ch n).queue = [] ∧ (t.ch n).force.underrun = true ∧
        (t.ch n).force.streamUnder = satInc (s.ch n).force.streamUnder ∧
        (t.ch n).force.applied = sat32 ((s.ch n).force.streamLast.toInt + s.sineNow n)) ∧
    ((s.bay (chBay n)).awake = true → (s.ch n).map.member = false →
      ∃ t, exec (.streamFlush n) s = .next t ∧ s.chOnly t n ∧ (t.ch n).queue = [] ∧ (t.ch n).streamOver = (s.ch n).streamOver)

/-- Keepers (R515 … R517). An armed keeper that misses its toggles holds: HELD, KEEPER, the channel's output reads HOLD and its switch stays;
a hold that lasts opens the switch, disarms the keeper and sets OPENED, but no flag while the logic is in reset. -/
def Obligations.KeepersHoldThenOpen : Prop :=
  ∀ (k : CellIx) (s : State),
    (s.runs → (s.cell k).keeper.armed = true → (s.cell k).keeper.hold = false →
      ∃ t, exec (.keeperHold k) s = .next t ∧ t = { s with chans := t.chans, cells := t.cells, flt := t.flt, pwr := { s.pwr with keeper := true } } ∧
        t.cell k = { s.cell k with stage := .hold, keeper := { (s.cell k).keeper with hold := true, held := true } } ∧
        (∀ j, j ≠ k → t.cell j = s.cell j) ∧
        (∀ n, s.carried k = some n → t.ch n = { s.ch n with force := { (s.ch n).force with out := .hold } } ∧ ∀ m, m ≠ n → t.ch m = s.ch m) ∧
        (s.carried k = none → t.chans = s.chans)) ∧
    (s.pwr.inReset = true → (s.cell k).keeper.hold = true →
      ∃ t, exec (.keeperOpen k) s = .next t ∧ t = { s with cells := t.cells } ∧ (∀ j, j ≠ k → t.cell j = s.cell j) ∧ (t.cell k).switchOn = false ∧
        (t.cell k).keeper.hold = false ∧ (t.cell k).keeper.armed = false ∧ (t.cell k).keeper.opened = (s.cell k).keeper.opened) ∧
    (s.runs → (s.cell k).keeper.hold = true → s.carried k = none →
      ∃ t, exec (.keeperOpen k) s = .next t ∧ t = { s with cells := t.cells, flt := t.flt } ∧ (∀ j, j ≠ k → t.cell j = s.cell j) ∧
        (t.cell k).switchOn = false ∧ (t.cell k).keeper.hold = false ∧ (t.cell k).keeper.armed = false ∧ (t.cell k).keeper.opened = true) ∧
    (s.runs → (s.cell k).keeper.hold = true → ∀ n, s.carried k = some n →
      ∃ t, exec (.keeperOpen k) s = .next t ∧ s.pathFlt t n ∧ (t.ch n).force.out = .opened ∧ (t.ch n).loop.st = .opened ∧
        (t.ch n).force.code = (s.ch n).force.code) ∧
    ((s.cell k).keeper.hold = false → exec (.keeperOpen k) s = .next s)

/-! ### The loop engine -/

/-- One update of a channel whose engines agree, outside a voltage range change (R120, R136, R147): no other channel changes; the loops' state
moves only along R136, and CH_CROSS_COUNT counts exactly the completed crossovers; on an open switch the code holds (R111); with no range
change under way the code moves by at most STEP per loop period (R91). -/
def Obligations.ALoopUpdateFollowsTheStateTable : Prop :=
  ∀ (n : Ch) (x : LoopIn) (s : State) (k : CellIx), s.runs → (s.ch n).map.cell = some k → s.updates n = true → x.check = .agree →
    (∀ q ∈ x.memberChecks, q = .agree) →
    s.migOf n = none → (s.ch n).range.hst ≠ .vSwitch → (s.ch n).range.wantV = none → (s.ch n).range.wantLevel = none →
    ∃ t, exec (.loopUpdate n x) s = .next t ∧ (∀ m, m ≠ n → t.ch m = s.ch m) ∧ (t.ch n).map = (s.ch n).map ∧ t.flt = s.flt ∧ t.clk = s.clk ∧
      t.mem = s.mem ∧
      ((s.ch n).loop.st = .opened ∨ (s.ch n).loop.st = .pending → (t.ch n).loop.st = (s.ch n).loop.st ∧
        (t.ch n).loop.crossCount = (s.ch n).loop.crossCount ∧ (t.ch n).loop.accV = (s.ch n).loop.accV ∧
        (t.ch n).loop.accI = (s.ch n).loop.accI) ∧
      ((s.ch n).loop.st = .preset → (t.ch n).loop.st = .preset ∨ (t.ch n).loop.st = .primary) ∧
      ((s.ch n).loop.st = .primary → (t.ch n).loop.st = .primary ∨ (t.ch n).loop.st = .confirmCmp) ∧
      ((s.ch n).loop.st = .confirmCmp → (t.ch n).loop.st = .compliance ∨ (t.ch n).loop.st = .primary ∨ (t.ch n).loop.st = .confirmCmp) ∧
      ((s.ch n).loop.st = .compliance → (t.ch n).loop.st = .compliance ∨ (t.ch n).loop.st = .confirmPri) ∧
      ((s.ch n).loop.st = .confirmPri → (t.ch n).loop.st = .primary ∨ (t.ch n).loop.st = .compliance ∨ (t.ch n).loop.st = .confirmPri) ∧
      ((s.ch n).loop.st ≠ .held → (t.ch n).loop.crossCount =
        if ((s.ch n).loop.st = .confirmCmp ∧ (t.ch n).loop.st = .compliance) ∨ ((s.ch n).loop.st = .confirmPri ∧ (t.ch n).loop.st = .primary)
        then satInc (s.ch n).loop.crossCount else (s.ch n).loop.crossCount) ∧
      ((s.ch n).range.hst = .idle →
        ((s.ch n).force.out = .opened → (t.ch n).force.code = (s.ch n).force.code) ∧
        (t.ch n).force.code.toInt - (s.ch n).force.code.toInt ≤ (s.ch n).eff.slewStep.toNat * (s.ch n).lpStep ∧
        (s.ch n).force.code.toInt - (t.ch n).force.code.toInt ≤ (s.ch n).eff.slewStep.toNat * (s.ch n).lpStep)

/-- A step of the limiter alone (R91, R93, R111). It steps once in a loop period in which the channel updates, and not again; on a closed
switch the code moves toward the target by at most STEP, and only when its RATE count is due; it never passes the target. On an open switch it
holds. In low-power mode the four periods' steps act at once, by at most 4 × STEP. -/
def Obligations.TheLimiterStepsTowardItsTarget : Prop :=
  ∀ (n : Ch) (s : State), s.runs →
    (s.updates n = false ∨ (s.ch n).force.stepAt = some s.period → exec (.slewLimiterStep n) s = .next s) ∧
    (s.updates n = true → (s.ch n).force.stepAt ≠ some s.period →
    ∃ t, exec (.slewLimiterStep n) s = .next t ∧ s.pathOnly t n ∧ (t.ch n).force.target = (s.ch n).force.target ∧ (t.ch n).loop = (s.ch n).loop ∧
      (t.ch n).force.stepAt = some s.period ∧
      ((s.ch n).force.out.switchClosed (s.ch n).force.tripped = false → (t.ch n).force.code = (s.ch n).force.code) ∧
      (t.ch n).force.code.toInt - (s.ch n).force.code.toInt ≤ (s.ch n).eff.slewStep.toNat * (s.ch n).lpStep ∧
      (s.ch n).force.code.toInt - (t.ch n).force.code.toInt ≤ (s.ch n).eff.slewStep.toNat * (s.ch n).lpStep ∧
      ((s.ch n).decl.lowPower = false → (s.ch n).force.out = .closed →
        ((s.ch n).force.code = (s.ch n).force.target → (t.ch n).force.code = (s.ch n).force.target ∧ (t.ch n).force.rateCnt = 0) ∧
        ((s.ch n).force.code ≠ (s.ch n).force.target → (s.ch n).force.rateCnt ≠ 0 → (t.ch n).force.code = (s.ch n).force.code) ∧
        ((s.ch n).force.rateCnt = 0 → ∀ d : Int, d = (s.ch n).force.target.toInt - (s.ch n).force.code.toInt →
          (-((s.ch n).eff.slewStep.toNat : Int) ≤ d → d ≤ (s.ch n).eff.slewStep.toNat → (t.ch n).force.code = (s.ch n).force.target) ∧
          ((s.ch n).eff.slewStep.toNat < d → (t.ch n).force.code.toInt = (s.ch n).force.code.toInt + (s.ch n).eff.slewStep.toNat) ∧
          (d < -((s.ch n).eff.slewStep.toNat : Int) → (t.ch n).force.code.toInt = (s.ch n).force.code.toInt - (s.ch n).eff.slewStep.toNat))))

/-- The loop registers (R130, R136, R139 … R143). A CLOSE is refused with a Note, does nothing past OPEN, presets the loops on a closed
switch and waits in PENDING otherwise; an OPEN holds the limiter's code as the command and keeps the integrators; a manual command and a
coefficient are accepted in OPEN alone; a compliance acts at once only when it tightens. -/
def Obligations.LoopRegistersActByState : Prop :=
  ∀ (n : Ch) (s u : State), s.takes n → u = s.sample n →
    ((s.ch n).map.avail = false ∨ (s.ch n).force.tripped = true ∨ (s.ch n).force.out = .resting ∨ (s.ch n).force.out = .graveOpen →
      exec (.loopClose n) s = .next (u.noteCh n 0x080)) ∧
    ((u.ch n).refusesClose = false → (s.ch n).loop.st ≠ .opened → exec (.loopClose n) s = .next u) ∧
    ((u.ch n).refusesClose = false → (s.ch n).loop.st = .opened → s.jtag.ir.holdsPins = false →
      (((s.ch n).force.out = .closed ∧ (s.ch n).force.closeRest = false) ∨ (s.ch n).force.out = .restHold → ∃ t, exec (.loopClose n) s = .next t ∧ s.pathOnly t n ∧
        (t.ch n).loop.st = .preset ∧ (t.ch n).force.out = .closed ∧ (t.ch n).force.code = (s.ch n).force.code) ∧
      (((s.ch n).force.out = .closed → (s.ch n).force.closeRest = true) → (s.ch n).force.out ≠ .restHold → ∃ t, exec (.loopClose n) s = .next t ∧ s.chOnly t n ∧
        (t.ch n).loop.st = .pending ∧ (t.ch n).force = (u.ch n).force)) ∧
    (∃ t, exec (.loopOpen n) s = .next t ∧ s.pathOnly t n ∧ (t.ch n).loop.st = .opened ∧ (t.ch n).force.code = (s.ch n).force.code ∧
      ((s.ch n).loop.st ≠ .opened → (t.ch n).loop.cmd = (s.ch n).force.code ∧ (t.ch n).force.target = (s.ch n).force.code) ∧
      (t.ch n).loop.accV = (s.ch n).loop.accV ∧ (t.ch n).loop.accI = (s.ch n).loop.accI ∧ (t.ch n).cfg = (s.ch n).cfg) ∧
    (∀ x, (s.ch n).loop.st = .opened → ∃ t, exec (.loopCmdWrite n x) s = .next t ∧ s.chOnly t n ∧
      (t.ch n).force.target = ((u.ch n).stage2 x.toInt).1 ∧ (t.ch n).loop.cmd = (t.ch n).force.target ∧
      (t.ch n).force.code = (s.ch n).force.code) ∧
    (∀ x, (s.ch n).loop.st ≠ .opened → exec (.loopCmdWrite n x) s = .next (u.noteCh n 0x08C)) ∧
    (∀ w r v, (s.ch n).loop.st = .opened → ∃ t, exec (.coefficientWrite n w r v) s = .next t ∧ s.chOnly t n ∧
      (w = .v → (t.ch n).cfg = { (s.ch n).cfg with coefV := (s.ch n).cfg.coefV.write r v } ∧ (t.ch n).eff.coefV = (s.ch n).cfg.coefV.write r v) ∧
      (w = .i → (t.ch n).cfg = { (s.ch n).cfg with coefI := (s.ch n).cfg.coefI.write r v } ∧ (t.ch n).eff.coefI = (s.ch n).cfg.coefI.write r v)) ∧
    (∀ w r v, (s.ch n).loop.st ≠ .opened → exec (.coefficientWrite n w r v) s = .next (((s.upCh n fun c =>
      { c with loop := { c.loop with coefIgnored := satInc c.loop.coefIgnored } }).post (srcCh n) 1 (coefOff w r)).sample n)) ∧
    (∀ v, mag (s.ch n).loop.complApplied ≤ mag v → ∃ t, exec (.complianceWrite n v) s = .next t ∧ s.chOnly t n ∧
      (t.ch n).cfg.compliance = v ∧ (t.ch n).loop = { (s.ch n).loop with complPend := true }) ∧
    ∀ v, mag v < mag (s.ch n).loop.complApplied → (s.ch n).range.wantI = none → ∃ t, exec (.complianceWrite n v) s = .next t ∧ s.chOnly t n ∧
      (t.ch n).cfg.compliance = v ∧ (t.ch n).loop = { (s.ch n).loop with complApplied := v, complPend := false }

/-! ### Measuring -/

/-- Run modes and passes (R169, R170, R174). STOP aborts every conversion but a calibration's and those that end at that boundary; a request in the
pending slot stays; CONTINUOUS and a START in SINGLE begin a pass of FIRST … min(LAST, SEQ_LEN − 1), an empty one sets PASS_DONE; a START anywhere
else and CH_MEAS_CFG outside STOP raise a Note and change nothing. The next entry of a pass starts when its modulator is free and waits otherwise. -/
def Obligations.RunModesStartAndStopPasses : Prop :=
  ∀ (n : Ch) (s u : State),
    (s.takes n → u = s.sample n →
      (∃ t, exec (.measRunWrite n .stop) s = .next t ∧ s.chOnly t n ∧ (t.ch n).cfg = { (s.ch n).cfg with run := .stop } ∧
        (t.ch n).meas.convs = (s.ch n).meas.convs.filter (fun v => v.kind == .cal || decide (v.tEnd ≤ s.time)) ∧
        (t.ch n).meas.freeRun = false ∧ (t.ch n).meas.injHeld = (s.ch n).meas.injHeld ∧ (t.ch n).meas.vals = (s.ch n).meas.vals ∧
        (t.ch n).meas.res = (s.ch n).meas.res) ∧
      (∀ m, m ≠ .stop → ∃ t, exec (.measRunWrite n m) s = .next t ∧ s.chOnly t n ∧ (t.ch n).cfg = { (s.ch n).cfg with run := m } ∧
        (t.ch n).meas.convs = (s.ch n).meas.convs ∧ (t.ch n).meas.vals = (s.ch n).meas.vals ∧
        (m ≠ .continuous ∨ (s.ch n).meas.pass ≠ none → (t.ch n).meas.pass = (s.ch n).meas.pass) ∧
        (m = .continuous → (s.ch n).meas.pass = none →
          ((s.ch n).cfg.first.toNat ≤ min (s.ch n).cfg.last.toNat ((s.ch n).cfg.seqLen.toNat - 1) → (t.ch n).meas.pass =
            some { next := (s.ch n).cfg.first.toNat, last := min (s.ch n).cfg.last.toNat ((s.ch n).cfg.seqLen.toNat - 1) }) ∧
          (min (s.ch n).cfg.last.toNat ((s.ch n).cfg.seqLen.toNat - 1) < (s.ch n).cfg.first.toNat →
            (t.ch n).meas.pass = none ∧ (t.ch n).meas.passDone = true))) ∧
      ((s.ch n).cfg.run ≠ .single ∨ (s.ch n).meas.pass ≠ none → exec (.measStart n) s = .next (u.noteCh n 0x100)) ∧
      ((s.ch n).cfg.run = .single → (s.ch n).meas.pass = none → ∃ t, exec (.measStart n) s = .next t ∧ s.chOnly t n ∧
        (t.ch n).cfg = (s.ch n).cfg ∧ (t.ch n).meas.convs = (s.ch n).meas.convs ∧
        ((s.ch n).cfg.first.toNat ≤ min (s.ch n).cfg.last.toNat ((s.ch n).cfg.seqLen.toNat - 1) → (t.ch n).meas.pass =
          some { next := (s.ch n).cfg.first.toNat, last := min (s.ch n).cfg.last.toNat ((s.ch n).cfg.seqLen.toNat - 1) }) ∧
        (min (s.ch n).cfg.last.toNat ((s.ch n).cfg.seqLen.toNat - 1) < (s.ch n).cfg.first.toNat →
          (t.ch n).meas.pass = none ∧ (t.ch n).meas.passDone = true)) ∧
      (∀ v, (s.ch n).cfg.run = .stop → (s.ch n).meas.convs = [] → ∃ t, exec (.measCfgWrite n v) s = .next t ∧ s.chOnly t n ∧
        (t.ch n).cfg = { (s.ch n).cfg with seqLen := (t.ch n).cfg.seqLen, order := (t.ch n).cfg.order } ∧
        (t.ch n).cfg.seqLen.toNat = max 1 (min 16 ((v >>> 8).toNat % 32)) ∧ (t.ch n).cfg.order.toNat = max 1 (min 5 (v.toNat % 8)) ∧
        (t.ch n).meas = (s.ch n).meas) ∧
      ∀ v, (s.ch n).cfg.run ≠ .stop ∨ (s.ch n).meas.convs ≠ [] → exec (.measCfgWrite n v) s = .next ((s.noteCh n 0x108).sample n)) ∧
    (s.runs → ∃ t, exec (.sequenceEntryStart n) s = .next t ∧ s.pathOnly t n ∧
      (t.ch n).meas.vals = (s.ch n).meas.vals ∧ (t.ch n).meas.res = (s.ch n).meas.res ∧ (s.converts n = false → t = s) ∧
      ∀ p, s.converts n = true → (s.ch n).meas.cal.st ≠ .wait → (s.ch n).meas.cal.st ≠ .forceRun → (s.ch n).meas.injHeld = none →
        (s.ch n).meas.redo = [] → (s.ch n).meas.convs.all (fun v => v.kind == .seq) = true →
        (s.ch n).meas.pass = some p → p.next ≤ p.last →
        ∀ q, q = (s.ch n).seqEntry (BitVec.ofNat 4 p.next) →
          ((s.ch n).modFree (modOf q.input (effGain q.input q.gain)) q.input = true → ∃ v, v ∈ (t.ch n).meas.convs ∧ v.kind = .seq ∧
            v.entry = BitVec.ofNat 4 p.next ∧ v.input = q.input ∧ v.md = modOf q.input (effGain q.input q.gain) ∧
            v.tEnd = v.tStart + v.len ∧ v.len = (s.ch n).windowLen q.jM1 ∧ (v.settling = false → v.tStart = s.time) ∧
            (v.settling = true → v.tStart = s.time + (s.ch n).settleLen)) ∧
          ((s.ch n).modFree (modOf q.input (effGain q.input q.gain)) q.input = false → t = s))

/-- Conversions deliver (R162, R165, R179 … R183, R198, R278). A sequence result enters CH_SEQ_VAL of its entry, and the result register
when PUB_MASK publishes it; an injected result enters the register alone, with INJECTED; a register whose pair was not read shows OVERRUN, and
of the results of one boundary it keeps the highest entry's, an injected one's last. The input settling ends at the window's start; a
demodulator window ends at its last wrap, where the next one opens, and rounds its sums half away from zero; CH_SINE_PHASE loads the phase. -/
def Obligations.ConversionsDeliverTheirResults : Prop :=
  ∀ (n : Ch) (s : State), s.runs →
    (∃ t, exec (.inputSettlingEnd n) s = .next t ∧ s.chOnly t n ∧
      (t.ch n) = { s.ch n with meas := { (s.ch n).meas with convs := (t.ch n).meas.convs, lastOvl := (t.ch n).meas.lastOvl } } ∧
      (t.ch n).meas.convs.length = (s.ch n).meas.convs.length ∧
      (∀ v, v ∈ (t.ch n).meas.convs → v.tStart ≤ s.time → v.settling = false) ∧
      ((∀ v, v ∈ (s.ch n).meas.convs → v.settling = false ∨ s.time < v.tStart) → t = s) ∧
      ∀ v, v ∈ (s.ch n).meas.convs → v.settling = false ∨ s.time < v.tStart → v ∈ (t.ch n).meas.convs) ∧
    (∀ m k x v r, (s.ch n).map.cell = some k → (s.ch n).map.member = false → (s.ch n).endedConv m false s.time = some v → r = s.resultOf n k v x →
      ∃ t, exec (.conversionComplete n m x) s = .next t ∧ (∀ j, j ≠ n → t.ch j = s.ch j) ∧ (t.ch n).cfg = (s.ch n).cfg ∧
        (v.input ≠ 4 → (s.ch n).eff.run ≠ .strand → s.pathOnly t n) ∧ (v.input = 4 → (t.cell k).temp = r.value) ∧
        (v.kind = .seq → (t.ch n).meas.vals = (s.ch n).meas.vals.set r.entry.toNat r) ∧
        (v.kind ≠ .seq → (t.ch n).meas.vals = (s.ch n).meas.vals ∧ r.injected = true) ∧
        (v.kind ≠ .seq ∨ (s.ch n).eff.pubMask.getLsbD r.entry.toNat = true → (t.ch n).meas.snap = (s.ch n).meas.snap ∧
          (t.ch n).meas.pairDone = false ∧
          (¬ ((s.ch n).meas.resAt = v.tEnd ∧ (s.ch n).meas.pairDone = false ∧ r.rank < (s.ch n).meas.res.rank) →
            (t.ch n).meas.res = { r with overrun := !(s.ch n).meas.pairDone } ∧ (t.ch n).meas.resTime = BitVec.ofNat 32 v.tEnd ∧
            (t.ch n).meas.overruns = if (s.ch n).meas.pairDone then (s.ch n).meas.overruns else satInc (s.ch n).meas.overruns) ∧
          ((s.ch n).meas.resAt = v.tEnd → (s.ch n).meas.pairDone = false → r.rank < (s.ch n).meas.res.rank →
            (t.ch n).meas.res = { (s.ch n).meas.res with overrun := true } ∧ (t.ch n).meas.resTime = (s.ch n).meas.resTime ∧
            (t.ch n).meas.overruns = satInc (s.ch n).meas.overruns)) ∧
        (v.kind = .seq → (s.ch n).eff.pubMask.getLsbD r.entry.toNat = false →
          (t.ch n).meas.res = (s.ch n).meas.res ∧ (t.ch n).meas.overruns = (s.ch n).meas.overruns)) ∧
    (∀ k x v om gm, v.input = 0 → v.md = .v → v.gain = 0 → x.overSpan = false → (s.bay (CellIx.bay k)).vrefExt = false →
      (om, gm) = (s.cell k).trim (min (s.ch n).range.v.toNat 2) →
      (s.resultOf n k v x).value = sat24 (rha ((x.raw.toInt - om.toInt) * (2 ^ 30 + gm.toInt)) (2 ^ 30)) ∧
      (s.resultOf n k v x).clip = (v.clip || satHit 24 (rha ((x.raw.toInt - om.toInt) * (2 ^ 30 + gm.toInt)) (2 ^ 30)))) ∧
    (∀ (d : DemodSt) en cyc mixed t0, d.open_ = true → cyc.toNat ≤ d.wraps + 1 →
      (d.wrap en cyc mixed t0).fin = some (d.sVi, d.sVq, d.sIi, d.sIq, d.n, t0) ∧ (d.wrap en cyc mixed t0).open_ = (en && !mixed) ∧
      (d.wrap en cyc mixed t0).n = 0 ∧ (d.wrap en cyc mixed t0).sVi = 0 ∧ (d.wrap en cyc mixed t0).vi = d.vi) ∧
    (∀ a b c e m t0, (s.ch n).meas.demod.fin = some (a, b, c, e, m, t0) →
      ∃ t, exec (.demodWindowEnd n) s = .next t ∧ s.chOnly t n ∧ (t.ch n).meas = { (s.ch n).meas with demod := (t.ch n).meas.demod } ∧
        (t.ch n).meas.demod.vi = sat32 (rha a (m * 1024)) ∧ (t.ch n).meas.demod.vq = sat32 (rha b (m * 1024)) ∧
        (t.ch n).meas.demod.ii = sat32 (rha c (m * 1024)) ∧ (t.ch n).meas.demod.iq = sat32 (rha e (m * 1024)) ∧
        (t.ch n).meas.demod.time = BitVec.ofNat 32 t0 ∧ (t.ch n).meas.demod.new = true ∧ (t.ch n).meas.demod.fin = none ∧
        (t.ch n).meas.demod.n = (s.ch n).meas.demod.n ∧ (t.ch n).meas.demod.sVi = (s.ch n).meas.demod.sVi ∧
        (t.ch n).meas.demod.snapVq = (s.ch n).meas.demod.snapVq) ∧
    ((s.ch n).meas.demod.fin = none → exec (.demodWindowEnd n) s = .next s) ∧
    ∀ v, s.takes n → ∃ t, exec (.sinePhaseWrite n v) s = .next t ∧ s.chOnly t n ∧ (t.ch n).phase = v ∧ (t.ch n).cfg = (s.ch n).cfg ∧
      (t.ch n).meas = (s.ch n).meas

/-- Injections (R175 … R178, R193). An urgent request aborts every conversion, counted, and its entry starts, unless an injected or a
calibration conversion runs: then it waits in the one slot, and with the slot full it is dropped and counted. An opportunistic one runs
only where nothing converts and nothing starts at its boundary, a bead's pass included, and is dropped and counted otherwise. -/
def Obligations.InjectionsFollowTheSlotOfDepthOne : Prop :=
  ∀ (n : Ch) (e : Entry) (s u : State) (c : Chan), s.takes n → u = s.sample n → c = u.ch n →
    (c.injRuns = false → c.calRuns = false → ∃ t, exec (.injUrgent n e) s = .next t ∧ s.chOnly t n ∧
      (t.ch n).meas.restarts = satAdd c.meas.restarts c.meas.convs.length ∧ (t.ch n).meas.injDrop = c.meas.injDrop ∧
      (t.ch n).meas.vals = c.meas.vals ∧ (t.ch n).meas.res = c.meas.res ∧
      (c.range.ovl = none → ∃ v, (t.ch n).meas.convs = [v] ∧ (t.ch n).meas.redo = [] ∧ v.kind = .urgent ∧ v.entry = BitVec.ofNat 4 e.val ∧
        (v.settling = false → v.tStart = s.time) ∧ (v.settling = true → v.tStart = s.time + c.settleLen)) ∧
      ((t.ch n).meas.convs = [] → (t.ch n).meas.redo = [(.urgent, BitVec.ofNat 4 e.val)])) ∧
    (c.injRuns = true ∨ c.calRuns = true → c.meas.injHeld = none → ∃ t, exec (.injUrgent n e) s = .next t ∧ s.chOnly t n ∧
      t.ch n = { c with meas := { c.meas with injHeld := some (BitVec.ofNat 4 e.val) } }) ∧
    (c.injRuns = true ∨ c.calRuns = true → c.meas.injHeld ≠ none → ∃ t, exec (.injUrgent n e) s = .next t ∧ s.chOnly t n ∧
      t.ch n = { c with meas := { c.meas with injDrop := satInc c.meas.injDrop } }) ∧
    (c.meas.convs ≠ [] ∨ c.startsNow = true ∨ (c.eff.run = .strand ∧ u.mayCommit n = true) → ∃ t, exec (.injOpportunistic n e) s = .next t ∧ s.chOnly t n ∧
      t.ch n = { c with meas := { c.meas with injDrop := satInc c.meas.injDrop } }) ∧
    (c.meas.convs = [] → c.startsNow = false → c.eff.run ≠ .strand ∨ u.mayCommit n = false → c.range.ovl = none →
      ∃ t v, exec (.injOpportunistic n e) s = .next t ∧ s.chOnly t n ∧ (t.ch n).meas.convs = [v] ∧ v.kind = .opp ∧
        v.entry = BitVec.ofNat 4 e.val ∧ (t.ch n).meas.injDrop = c.meas.injDrop ∧ (t.ch n).meas.restarts = c.meas.restarts)

/-- Calibration sessions (R190 … R196, R207). ZERO latches TARGET; a refusal changes only RESULT and DONE; an admitted session aborts the conversions,
or waits in WAIT behind an injected one. FULL converts after ZERO_DONE and ends the session with ORDER before it, and while the full point converts
(the model's choice: log entry 42); COMMIT puts the computed trims into the applied locket and ends with NOT_STORED on a sealed cellar; DISCARD leaves
the trims out; the points follow R192 with om = Z and gm = round(2³⁰·X / (F − Z)) − 2³⁰. -/
def Obligations.CalibrationSessionsFollowTheirSteps : Prop :=
  ∀ (n : Ch) (s u : State) (c : Chan),
    (s.takes n → u = s.sample n → c = u.ch n →
      (∀ g d, d = ((s.upCh n fun x => { x with cfg := { x.cfg with calTarget := g } }).sample n).ch n →
        (∀ r, d.calCheck g = some r → ∃ t, exec (.calZero n g) s = .next t ∧ s.chOnly t n ∧
          t.ch n = { d with meas := { d.meas with cal := { d.meas.cal with result := r, done := true } } }) ∧
        (d.calCheck g = none → ∃ t, exec (.calZero n g) s = .next t ∧ s.pathOnly t n ∧ (t.ch n).meas.cal.target = g ∧
          (t.ch n).meas.res = c.meas.res ∧ (t.ch n).cfg = { c.cfg with calTarget := g } ∧
          (c.injRuns = true ∨ c.meas.injHeld ≠ none → (t.ch n).meas.cal.st = .wait ∧ (t.ch n).meas.convs = c.meas.convs) ∧
          (c.injRuns = false → c.meas.injHeld = none → c.calRuns = false →
            (t.ch n).meas.cal.st = (if g = 30 then .forceRun else .zeroRun) ∧ (∀ v, v ∈ (t.ch n).meas.convs → v.kind = .cal) ∧
            (t.ch n).meas.restarts = satAdd c.meas.restarts c.meas.convs.length))) ∧
      (c.meas.cal.st = .zeroDone → c.injRuns = false → c.meas.injHeld = none → c.meas.cal.target ≠ 30 →
        ∃ t, exec (.calFull n) s = .next t ∧ s.chOnly t n ∧ (t.ch n).meas.cal = { c.meas.cal with st := .fullRun, waitFull := false }) ∧
      (c.meas.cal.st = .zeroRun ∨ c.meas.cal.st = .wait ∨ c.meas.cal.st = .fullRun →
        (∃ t, exec (.calFull n) s = .next t ∧ s.chOnly t n ∧ (t.ch n).meas.cal.st = .idle ∧ (t.ch n).meas.cal.result = .order ∧
          (t.ch n).meas.cal.done = true) ∧
        ∀ k, (s.ch n).map.cell = some k → ∃ t, exec (.calCommit n) s = .next t ∧ s.pathOnly t n ∧ (t.ch n).meas.cal.st = .idle ∧
          (t.ch n).meas.cal.result = .order ∧ (t.cell k).locket = (s.cell k).locket) ∧
      (c.meas.cal.st = .ready → ∀ k, (s.ch n).map.cell = some k → c.meas.cal.target ≠ 30 → s.cel.st ≠ .ready →
        ∃ t, exec (.calCommit n) s = .next t ∧ s.pathOnly t n ∧ (t.ch n).meas.cal.st = .idle ∧ (t.ch n).meas.cal.result = .notStored ∧
          (t.cell k).locket.meas = (s.cell k).locket.meas.set! c.meas.cal.target.toNat (c.meas.cal.om, c.meas.cal.gm) ∧
          (t.cell k).locket.modified = (s.cell k).locket.modified ||| (1#32 <<< c.meas.cal.target.toNat)) ∧
      (c.meas.cal.st ≠ .idle → c.meas.cal.st ≠ .storing → ∃ t, exec (.calDiscard n) s = .next t ∧ s.pathOnly t n ∧
        (t.ch n).meas.cal.st = .idle ∧ (t.ch n).meas.cal.result = .discarded ∧ (∀ k, (t.cell k).locket = (s.cell k).locket))) ∧
    (s.runs → c = s.ch n → ∀ k v x r, c.map.cell = some k → c.endedConv (calMod c.meas.cal.target) true s.time = some v →
      c.meas.cal.target.toNat < 29 → r = (s.convValue n k v x (some c.meas.cal.target.toNat)) → r.2 = false → x.overSpan = false →
      (c.meas.cal.st = .zeroRun → ∃ t, exec (.calConversionComplete n x) s = .next t ∧ s.pathOnly t n ∧ (t.ch n).meas.cal =
        { c.meas.cal with st := .zeroDone, result := .ok, done := true, z := r.1 }) ∧
      (c.meas.cal.st = .fullRun → (2 : Int) ^ 21 ≤ (c.eff.calRef.toInt.natAbs : Int) * 2 ^ (calInput c.meas.cal.target).2.toNat →
        (r.1 ≠ c.meas.cal.z ∧ (r.1 - c.meas.cal.z < 0 ↔ c.eff.calRef.toInt < 0) → gmOk (gainTrim c.meas.cal.z r.1 c.eff.calRef.toInt) = true →
          omOk c.meas.cal.z = true → ∃ t, exec (.calConversionComplete n x) s = .next t ∧ s.pathOnly t n ∧ (t.ch n).meas.cal.st = .ready ∧
            (t.ch n).meas.cal.result = .ok ∧ (t.ch n).meas.cal.om = BitVec.ofInt 32 c.meas.cal.z ∧
            (t.ch n).meas.cal.gm = BitVec.ofInt 32 (rhaInt (2 ^ 30 * c.eff.calRef.toInt) (r.1 - c.meas.cal.z) - 2 ^ 30)) ∧
        (r.1 = c.meas.cal.z → ∃ t, exec (.calConversionComplete n x) s = .next t ∧ s.pathOnly t n ∧ (t.ch n).meas.cal.st = .idle ∧
          (t.ch n).meas.cal.result = .outOfSpan)))

/-! ### Ranging without a step -/

/-- Overlaps between internal ranges (R218 … R225). A commanded change engages its shunt, and the predictor's range engages counted; the
conversions on the overlap modulator abort and wait. A handover whose crossing held twice makes the new range active with every current
level re-expressed by FS_old / FS_new and the command where it was. A predicted overlap that lost its cause is squashed and leaves the
range codes, levels, loops and results alone. The hold-off ends after 16 updates. -/
def Obligations.OverlapsEngageHandOverAndSquash : Prop :=
  ∀ (n : Ch) (s : State) (c : Chan), s.runs → s.mayRange n = true → c = s.ch n →
    (∀ o w, c.range.hst = .idle → isBoost c.range.i = false → isBoost o = false →
      (c.range.wantI = some o ∧ w = .command) ∨ (c.range.wantI = none ∧ c.prearm s.time = none ∧ c.fired = some o ∧ w = .predictor) →
      ∃ t, exec (.overlapEngage n) s = .next t ∧ s.pathOnly t n ∧ (t.ch n).range.hst = .engaging ∧ (t.ch n).range.ovl = some o ∧
        (t.ch n).range.origin = w ∧ (t.ch n).range.steps = 0 ∧ (t.ch n).range.v = c.range.v ∧ (t.ch n).range.i = c.range.i ∧
        (t.ch n).range.wantI = c.range.wantI ∧ (t.ch n).range.specs = (if w = .predictor then satInc c.range.specs else c.range.specs) ∧
        (t.ch n).force = c.force ∧ (t.ch n).loop = c.loop ∧ (t.ch n).meas.convs = c.meas.convs.filter (fun v => v.md != .ovl || v.input == 3) ∧
        (t.ch n).meas.restarts = satAdd c.meas.restarts (c.meas.convs.filter (fun v => v.md == .ovl && v.input != 3)).length) ∧
    (c.range.hst ≠ .idle → exec (.overlapEngage n) s = .next s) ∧
    (∀ o, c.range.hst = .overlap → c.range.ovl = some o → isBoost c.range.i = false → isBoost o = false → c.range.wantLevel = none →
      (c.range.wantI = some o ∧ 1 ≤ c.range.steps) ∨ (c.range.origin = .predictor ∧ 2 ≤ c.range.cross) →
      ∃ t, exec (.handoverStart n) s = .next t ∧ s.pathOnly t n ∧ (t.ch n).range.hst = .blend ∧ (t.ch n).range.steps = 0 ∧
        (t.ch n).range.i = o ∧ (t.ch n).range.old = c.range.i ∧ (t.ch n).range.v = c.range.v ∧ (t.ch n).range.ovl = some o ∧
        (t.ch n).force.code = c.force.code ∧ (t.ch n).force.target = c.force.target ∧ (t.ch n).loop.st = c.loop.st ∧
        (t.ch n).loop.cmd = c.loop.cmd ∧ (t.ch n).loop.dPrevI = 0 ∧ (t.ch n).loop.presetI = c.loop.st.closed ∧
        (t.ch n).loop.fastV = c.loop.fastV ∧ (t.ch n).loop.fastI = rescale c.loop.fastI c.fsi (c.fsI o) ∧
        (t.ch n).loop.yPrevI = rescale c.loop.yPrevI c.fsi (c.fsI o) ∧
        (c.eff.mode = .current → (t.ch n).loop.setpoint = rescale c.loop.setpoint c.fsi (c.fsI o)) ∧
        (c.eff.mode = .voltage → (t.ch n).loop.setpoint = c.loop.setpoint ∧
          (t.ch n).loop.complApplied = rescale c.range.complRef c.range.complFs (c.fsI o))) ∧
    (c.range.hst ≠ .overlap → exec (.handoverStart n) s = .next s) ∧
    (c.range.hst = .overlap → c.range.origin = .predictor → c.range.wantI = none →
      (16 ≤ c.range.miss ∨ 4 * c.horizon ≤ c.range.steps → ∃ t, exec (.overlapSquash n) s = .next t ∧ s.pathOnly t n ∧
        t.ch n = { c with range :=
          { c.range with hst := .squashing, steps := 0, squashes := satInc c.range.squashes, squashed := true, cross := 0, miss := 0, ovlOn := true } }) ∧
      (c.range.miss < 16 → c.range.steps < 4 * c.horizon → exec (.overlapSquash n) s = .next s)) ∧
    (c.range.hst = .blend ∨ c.range.hst = .resettle ∨ c.range.hst = .release → exec (.overlapSquash n) s = .next s) ∧
    (∀ k, c.range.hold = some k →
      (16 ≤ k → ∃ t, exec (.holdOffEnd n) s = .next t ∧ s.chOnly t n ∧ t.ch n = { c with range := { c.range with hold := none } }) ∧
      (k < 16 → exec (.holdOffEnd n) s = .next s))

/-- Voltage range changes, boosters and the ranging registers (R227, R228, R230 … R234, R242, R243). The code of the new voltage range is
round(c × FS_old / FS_new), saturated; between boosters the range switches at once; a change off the lowest booster range waits at 16 mA
or more; CH_RANGE_CTRL holds BOUND_HI to the highest declared range and BOUND_LO to BOUND_HI; CH_RANGE_SET refuses a range the channel
does not have. -/
def Obligations.RangeChangesFollowTheirSequences : Prop :=
  ∀ (n : Ch) (s : State) (c : Chan), c = s.ch n →
    (s.runs → ∀ v, c.range.hst = .vSwitch → c.range.steps = 0 → c.range.vAt + 256 ≤ s.time → c.range.wantV = some v →
      c.force.out.switchClosed c.force.tripped = false ∨ c.overSpan v = false →
      ∃ t, exec (.vRangeSwitch n) s = .next t ∧ (∀ m, m ≠ n → t.ch m = s.ch m) ∧ t.flt = s.flt ∧ (t.ch n).map = c.map ∧
        (t.ch n).range.v = v ∧ (t.ch n).range.wantV = none ∧ (t.ch n).range.steps = 2 ∧ (t.ch n).range.vAt = s.time ∧ (t.ch n).range.hst = .vSwitch ∧
        (t.ch n).range.i = c.range.i ∧ (t.ch n).force.code = sat20 (rha (c.force.code.toInt * c.fsv) (c.fsVOn v c.range.i)) ∧
        (t.ch n).force.target = (t.ch n).force.code ∧ (t.ch n).loop.cmd = (t.ch n).force.code ∧ (t.ch n).force.out = c.force.out ∧
        (t.ch n).loop.fastV = rescale c.loop.fastV c.fsv (c.fsVOn v c.range.i) ∧ (t.ch n).loop.fastI = c.loop.fastI ∧
        (t.ch n).loop.st = c.loop.st) ∧
    (s.runs → c.range.hst ≠ .vSwitch ∨ s.time < c.range.vAt + 256 → exec (.vRangeSwitch n) s = .next s) ∧
    (s.runs → s.mayRange n = true → c.range.hst = .idle → ∀ w, c.range.wantI = some w →
      (c.range.i = 7 → isBoost w = true → ∃ t, exec (.boosterRangeChange n) s = .next t ∧ s.pathOnly t n ∧ (t.ch n).range.hst = .boostMake ∧
        (t.ch n).range.steps = 0 ∧ (t.ch n).range.ovl = some 7 ∧ (t.ch n).range.i = 7 ∧ (t.ch n).force = c.force ∧ (t.ch n).loop = c.loop) ∧
      (isBoost c.range.i = true → c.range.i = c.lowBoost → isBoost w = false →
        (c.below16mA = true → ∃ t, exec (.boosterRangeChange n) s = .next t ∧ exec (.waitingChangeStart n) s = .next t ∧ s.pathOnly t n ∧
          (t.ch n).range.hst = .boostBreak ∧ (t.ch n).range.steps = 0 ∧ (t.ch n).range.ovl = some 7 ∧ (t.ch n).range.i = c.range.i ∧
          (t.ch n).force = c.force ∧ (t.ch n).loop = c.loop) ∧
        (c.below16mA = false → exec (.waitingChangeStart n) s = .next s ∧ ∃ t, exec (.boosterRangeChange n) s = .next t ∧ s.pathOnly t n ∧
          t.ch n = { c with range := { c.range with waits := true } })) ∧
      (isBoost c.range.i = true → isBoost w = true → w ≠ c.range.i → c.range.wantLevel = none →
        ∃ t, exec (.boosterGainSwitch n) s = .next t ∧ s.pathOnly t n ∧ (t.ch n).range.hst = .gainSwitch ∧ (t.ch n).range.steps = 0 ∧
          (t.ch n).range.i = w ∧ (t.ch n).range.wantI = none ∧ (t.ch n).loop.st = c.loop.st ∧ (t.ch n).force.code = c.force.code ∧
          (t.ch n).loop.fastI = rescale c.loop.fastI c.fsi (c.fsI w) ∧ (t.ch n).loop.fastV = c.loop.fastV)) ∧
    (s.takes n → ∀ (v : Word) (hi : Nat), hi = min c.topRange.toNat ((v >>> 12).toNat % 16) → ∃ t, exec (.rangeCtrlWrite n v) s = .next t ∧ s.pathOnly t n ∧
      (t.ch n).cfg =
        { c.cfg with
          horizonM1 := v.extractLsb' 16 10, boundHi := BitVec.ofNat 4 hi
          boundLo := BitVec.ofNat 4 (min hi ((v >>> 8).toNat % 16)), policy := policyOf (v.toNat % 4) } ∧
      (t.ch n).eff.policy = policyOf (v.toNat % 4) ∧ (t.ch n).range.i = c.range.i ∧ (t.ch n).loop = c.loop) ∧
    (s.takes n → ∀ v : Word,
      (2 < (v.extractLsb' 4 4).toNat ∨ 10 < (v.extractLsb' 0 4).toNat ∨ c.declared (v.extractLsb' 0 4) = false →
        exec (.rangeSetWrite n v) s = .next ((s.noteCh n 0x204).sample n)) ∧
      ((v.extractLsb' 4 4).toNat ≤ 2 → c.declared (v.extractLsb' 0 4) = true → ∃ t, exec (.rangeSetWrite n v) s = .next t ∧ s.chOnly t n ∧
        (t.ch n).cfg = { c.cfg with setV := v.extractLsb' 4 4, setI := v.extractLsb' 0 4 } ∧ (t.ch n).range.v = c.range.v ∧
        (t.ch n).range.i = c.range.i ∧ (t.ch n).range.wantI = c.range.wantI ∧ (t.ch n).force.code = c.force.code))

/-! ### Strands -/

/-- START, STOP and ABORT (R257, R258, R260). A refused START shows the first code of R258's table and changes nothing else; an accepted one
takes the entry's first bead and type and runs, or arms in a sync set, with nothing committed and the output untouched. STOP before the
first commit ends the strand at once and later lets the present bead run out; ABORT ends it without the record, and a fault whose reaction
acts at the same boundary stands before it (R324). -/
def Obligations.StrandsStartAndEndOnCommand : Prop :=
  ∀ (n : Ch) (s u : State) (c : Chan), s.takes n → u = s.sample n → c = u.ch n →
    (∀ d k e, e = u.strandOf n d k →
      (∀ r, (e.channel.toNat ≠ n.val ∧ r = .notOwner) ∨
          (e.channel.toNat = n.val ∧ (e.type = .stream) ≠ (c.eff.cls = .stream) ∧ r = .wrongClass) ∨
          (e.channel.toNat = n.val ∧ (e.type = .stream) = (c.eff.cls = .stream) ∧ c.map.avail = false ∧ r = .noChannel) ∨
          (e.channel.toNat = n.val ∧ (e.type = .stream) = (c.eff.cls = .stream) ∧ c.map.avail = true ∧
            (c.strand.st.active = true ∨ c.meas.cal.st ≠ .idle) ∧ r = .busy) →
        ∃ t, exec (.strandStart n d k) s = .next t ∧ s.chOnly t n ∧ t.ch n = { c with strand := { c.strand with reason := r, ended := true } }) ∧
      (e.channel.toNat = n.val → (e.type = .stream) = (c.eff.cls = .stream) → c.map.avail = true → c.strand.st.active = false →
        c.meas.cal.st = .idle → ∃ t, exec (.strandStart n d k) s = .next t ∧ s.chOnly t n ∧
          (t.ch n).cfg = { c.cfg with strandFirst := e.first, type := e.type } ∧ (t.ch n).force = c.force ∧ (t.ch n).loop = c.loop ∧
          (t.ch n).range = c.range ∧ (t.ch n).meas = c.meas ∧
          (t.ch n).strand.st = (if c.decl.syncSet = 0 then .running else .armed) ∧ (t.ch n).strand.committed = none ∧
          (t.ch n).strand.ahead = [] ∧ (t.ch n).strand.cursor = e.first.toNat ∧ (t.ch n).strand.holdUntil = s.time / 256 + 1)) ∧
    (c.strand.st.active = false → exec (.strandStop n) s = .next u) ∧
    (c.strand.st.active = true → c.strand.committed = none → c.strand.endReq = none → u.faultDue n = false → ∃ t, exec (.strandStop n) s = .next t ∧ s.chOnly t n ∧
      (t.ch n).strand.st = .stopped ∧ (t.ch n).strand.reason = .stop ∧ (t.ch n).strand.ended = true ∧ (t.ch n).strand.ahead = [] ∧
      (t.ch n).force.code = c.force.code ∧ (t.ch n).larder = c.larder) ∧
    (c.strand.st.active = true → c.strand.committed ≠ none → ∃ t, exec (.strandStop n) s = .next t ∧ s.chOnly t n ∧
      (t.ch n).strand.st = c.strand.st ∧ (t.ch n).strand.stopReq = true ∧ (t.ch n).strand.ahead = [] ∧
      (t.ch n).strand.squashes = satInc c.strand.squashes ∧ (t.ch n).strand.committed = c.strand.committed ∧ (t.ch n).force = c.force ∧
      (t.ch n).loop = c.loop ∧ (t.ch n).larder = c.larder) ∧
    (c.strand.st.active = true → c.strand.endReq = none → u.faultDue n = false → ∃ t, exec (.strandAbort n) s = .next t ∧ s.pathOnly t n ∧
      (t.ch n).strand.st = .stopped ∧ (t.ch n).strand.reason = .abort ∧ (t.ch n).strand.ended = true ∧ (t.ch n).strand.ahead = [] ∧
      (c.strand.committed ≠ none → (t.ch n).strand.rcd = none) ∧ (t.ch n).force.code = c.force.code ∧ (t.ch n).larder = c.larder) ∧
    (c.strand.st.active = true → u.faultDue n = true → ∃ t, exec (.strandAbort n) s = .next t ∧ (t.ch n).strand.st = .stopped ∧
      (t.ch n).strand.reason = .fault ∧ (t.ch n).strand.ended = true) ∧
    (c.strand.st.active = false → c.strand.endAt ≠ some s.time → ∃ t, exec (.strandAbort n) s = .next t ∧ s.pathOnly t n ∧ t.ch n = c) ∧
    (c.strand.st.active = false → c.strand.endAt = some s.time → c.strand.reason = .stop → c.strand.committed = none → u.faultDue n = false →
      ∃ t, exec (.strandAbort n) s = .next t ∧ s.pathOnly t n ∧ t.ch n = { c with strand := { c.strand with st := .stopped, reason := .abort } })

/-- Commits and squashes (R249, R251, R259, R260, R263 … R268). A due bead of a channel without a sync set commits with its compliance,
its pass and its record; a bad bead ends the strand as ERROR with its reason; the end of LAST's dwell is DONE and of a stopped bead's is
STOPPED; an asked end and a squash act at their boundary. -/
def Obligations.BeadsCommitAndRunAheadIsSquashed : Prop :=
  ∀ (n : Ch) (s : State) (c : Chan), s.runs → c = s.ch n →
    (s.mayCommit n = false → exec (.beadCommit n) s = .next s) ∧
    (∀ p, s.mayCommit n = true → c.decl.syncSet = 0 → c.front = some p → p.ue = false → p.bad = none →
      ∃ t, exec (.beadCommit n) s = .next t ∧ (∀ m, m ≠ n → t.ch m = s.ch m) ∧ (t.ch n).map = c.map ∧ (t.ch n).strand.st = .running ∧
        (t.ch n).strand.bead = BitVec.ofNat 16 p.index ∧ (t.ch n).strand.point = p.point ∧ (t.ch n).strand.committed = some s.time ∧
        (t.ch n).strand.dwell = p.dwell ∧ (t.ch n).strand.last = p.isLast ∧ (t.ch n).range.complRef = p.compl ∧
        (t.ch n).cfg.first = (c.eff.loadPass p.sel).first ∧ (t.ch n).cfg.last = (c.eff.loadPass p.sel).last ∧
        (t.ch n).force.code = c.force.code ∧
        (∃ r, (t.ch n).strand.rcd = some r ∧ r.index = p.index ∧ r.commit = s.time ∧ (p.isSilent = true → r.silent = true)) ∧
        (p.v = 15 → p.i = 15 → c.range.wantV = none → c.range.wantI = none → c.range.hst = .idle →
          (t.ch n).loop.complApplied = p.compl ∧ (t.ch n).range.v = c.range.v ∧ (t.ch n).range.i = c.range.i ∧
          (c.eff.cls = .strobed → (t.ch n).force.applied = p.level))) ∧
    (∀ p r, s.mayCommit n = true → c.decl.syncSet = 0 → c.front = some p → p.ue = false → p.bad = some r → c.strand.endReq = none → s.faultDue n = false →
      ∃ t, exec (.beadCommit n) s = .next t ∧ (∀ m, m ≠ n → t.ch m = s.ch m) ∧ (t.ch n).strand.st = .error ∧ (t.ch n).strand.reason = r ∧
        (t.ch n).strand.ended = true ∧ (t.ch n).strand.committed = c.strand.committed ∧ (t.ch n).force.code = c.force.code) ∧
    (c.strand.st.runs = true → c.strand.committed ≠ none → c.dwellEnd ≤ s.time / 256 → c.strand.endReq = none → s.faultDue n = false →
      c.strand.last = true ∨ c.strand.stopReq = true →
      ∃ t, exec (.strandEndAtDwell n) s = .next t ∧ (∀ m, m ≠ n → t.ch m = s.ch m) ∧ (t.ch n).strand.ended = true ∧
        (t.ch n).strand.st = (if c.strand.stopReq then .stopped else .done) ∧
        (t.ch n).strand.reason = (if c.strand.stopReq then .stop else .none) ∧ (t.ch n).force.code = c.force.code) ∧
    (s.time / 256 < c.dwellEnd ∨ (c.strand.last = false ∧ c.strand.stopReq = false) → exec (.strandEndAtDwell n) s = .next s) ∧
    ((c.strand.rcd.map (·.fast)).getD false = false →
      (∀ r, c.strand.st.active = true → c.strand.endReq = some r → s.faultDue n = false → ∃ t, exec (.runAheadSquash n) s = .next t ∧
        (∀ m, m ≠ n → t.ch m = s.ch m) ∧ (t.ch n).strand.st = .stopped ∧ (t.ch n).strand.reason = r ∧ (t.ch n).strand.ended = true ∧
        (t.ch n).force.code = c.force.code) ∧
      (c.strand.endReq = none → c.strand.squashReq = true → c.strand.order = none → ∃ t, exec (.runAheadSquash n) s = .next t ∧
        s.pathOnly t n ∧ (t.ch n).strand.ahead = [] ∧ (t.ch n).strand.squashReq = false ∧
        (t.ch n).strand.squashes = satInc c.strand.squashes ∧ (t.ch n).strand.cursor = c.strand.nextBead ∧
        (t.ch n).strand.cursorPt = c.strand.nextPt ∧ (t.ch n).strand.holdUntil = s.time / 256 + 2 ∧
        (t.ch n).strand.committed = c.strand.committed ∧ (t.ch n).force = c.force ∧ (t.ch n).loop = c.loop ∧ (t.ch n).meas = c.meas ∧
        (t.ch n).larder = c.larder) ∧
      (c.strand.endReq = none → c.strand.squashReq = false → exec (.runAheadSquash n) s = .next s))

/-- Pulses, marks and the larder's registers (R272, R285, R291, R293). At the end instant the target returns to the base level; the pulse's
pass starts when its delay is over; a TRIG_OUT pulse ends; CH_LARDER_RD is held at CH_LARDER_WR; CLEAR empties the partition only while no
strand runs. -/
def Obligations.PulsesAndTheLarderFollowTheirRegisters : Prop :=
  ∀ (n : Ch) (s : State) (c : Chan), c = s.ch n →
    (s.runs → ∀ e l, c.strand.pulse = some (e, l) →
      (e < s.time + 256 → ∃ t, exec (.pulseEnd n) s = .next t ∧ s.pathOnly t n ∧ (t.ch n).strand.pulse = none ∧ (t.ch n).strand.baseOn = true ∧
        (t.ch n).cfg = c.cfg ∧ (t.ch n).loop.st = c.loop.st ∧
        (c.loop.st.closed = true → (t.ch n).loop.restart = true ∧ (t.ch n).force = c.force)) ∧
      (s.time + 256 ≤ e → exec (.pulseEnd n) s = .next s)) ∧
    (s.runs → c.strand.pulse = none → exec (.pulseEnd n) s = .next s) ∧
    (s.runs → ∀ e, c.strand.passAt = some e →
      (e ≤ s.time → c.eff.run = .strand → c.eff.first.toNat ≤ c.lastEntry → ∃ t, exec (.pulsePassStart n) s = .next t ∧ s.chOnly t n ∧
        (t.ch n).strand = { c.strand with passAt := none } ∧ (t.ch n).meas.pass = some { next := c.eff.first.toNat, last := c.lastEntry } ∧
        (t.ch n).force = c.force) ∧
      (s.time < e → exec (.pulsePassStart n) s = .next s)) ∧
    (s.runs → ∃ t, exec (.markPulseEnd n) s = .next t ∧ t = { s with marks := t.marks } ∧
      ∀ m, m ∈ t.marks ↔ m ∈ s.marks ∧ m.2.1 ≠ n) ∧
    (s.takes n → ∀ v, ∃ t, exec (.larderRdWrite n v) s = .next t ∧ s.chOnly t n ∧ (t.ch n) = { c with larder := { c.larder with rd := (t.ch n).larder.rd } } ∧
      ((v - c.larder.rd).toNat ≤ (c.larder.wr - c.larder.rd).toNat → (t.ch n).larder.rd = v) ∧
      ((c.larder.wr - c.larder.rd).toNat < (v - c.larder.rd).toNat → (t.ch n).larder.rd = c.larder.wr)) ∧
    (s.takes n → c.strand.st.runs = true → exec (.larderClear n) s = .next ((s.sample n).noteCh n 0x2C0)) ∧
    (s.takes n → c.strand.st.runs = false → ∃ t, exec (.larderClear n) s = .next t ∧ s.chOnly t n ∧
      (t.ch n).larder = { c.larder with wr := 0, rd := 0 } ∧ (t.ch n).strand = c.strand)

/-- Sync sets (R268 … R270, R294). START releases the set's armed members and no other channel; FIRE is refused with a Note while a member
runs a strand and strobes every member otherwise; ABORT ends every member's strand; set 0 raises a Note; an edge on TRIG_IN is accepted
while a member waits on a STROBE bead and commits 64 cycles later; the beads of every member that runs commit at one boundary. -/
def Obligations.SyncSetsActTogether : Prop :=
  ∀ (x : BitVec 8) (s : State),
    (s.serves → exec (.syncStart 0) s = .next (s.noteImg 0x80) ∧ exec (.syncFire 0) s = .next (s.noteImg 0x80) ∧
      exec (.syncAbort 0) s = .next (s.noteImg 0x80)) ∧
    (s.serves → x ≠ 0 → s.setSpans x = false → (∀ m, m ∈ s.setMembers x → (s.bay (chBay m)).awake = true) →
      (∃ t, exec (.syncStart x) s = .next t ∧ t = { s with chans := t.chans } ∧
        (∀ m, m ∈ s.setMembers x → (s.ch m).strand.st = .armed → t.ch m =
          { s.ch m with strand := { (s.ch m).strand with st := .waitSet, holdUntil := s.time / 256 + 1 } }) ∧
        ∀ m, m ∉ s.setMembers x ∨ (s.ch m).strand.st ≠ .armed → t.ch m = s.ch m) ∧
      (s.runners x ≠ [] → exec (.syncFire x) s = .next (s.noteImg 0x80)) ∧
      (s.runners x = [] → ∃ t, exec (.syncFire x) s = .next t ∧ t = { s with chans := t.chans, cells := t.cells } ∧
        (∀ m, m ∉ s.setMembers x → t.ch m = s.ch m) ∧
        ∀ m, m ∈ s.setMembers x → (t.ch m).force.code = (s.ch m).force.code ∧ (t.ch m).strand.st = (s.ch m).strand.st ∧
          ((s.ch m).cfg.cls = .strobed → (s.ch m).cfg.setV = 15 → (s.ch m).cfg.setI = 15 → (s.ch m).range.wantV = none →
            (s.ch m).range.wantI = none → (s.ch m).range.hst ≠ .vSwitch → (t.ch m).force.applied = (s.ch m).cfg.level)) ∧
      ∃ t, exec (.syncAbort x) s = .next t ∧ (∀ m, m ∉ s.setMembers x → t.ch m = s.ch m) ∧
        ∀ m, m ∈ s.setMembers x → (t.ch m).strand.st.active = false ∧
          ((s.ch m).strand.st.active = true → (s.ch m).strand.endReq = none → s.flt.reactions = [] → (t.ch m).strand.st = .stopped ∧ (t.ch m).strand.reason = .abort)) ∧
    (s.runs → ∀ (n : Ch) m p, (s.ch n).decl.syncSet = x → x ≠ 0 → s.mayCommit n = true → m ∈ s.runners x → (s.ch m).front = some p →
      p.ue = false → p.bad = none → ∃ t, exec (.beadCommit n) s = .next t ∧ (t.ch m).strand.committed = some s.time ∧
        (t.ch m).strand.bead = BitVec.ofNat 16 p.index ∧ (t.ch m).strand.dwell = p.dwell ∧ ∀ j, j ∉ s.runners x → t.ch j = s.ch j) ∧
    (s.runs → ∀ (i : Fin 4) (cyc : Nat), ∃ t, exec (.trigInEdge i cyc) s = .next t ∧ t = { s with strobes := t.strobes } ∧
      ((∀ y, y ≠ 0 → s.setStrobe y ≠ i.val + 1) → t = s) ∧
      (x ≠ 0 → s.setStrobe x = i.val + 1 → s.setSpans x = false →
        (s.waitsStrobe x = true → s.strobes.any (fun y => y.1 == x) = false → (x, s.time + cyc + 64) ∈ t.strobes) ∧
        (s.waitsStrobe x = false → t.strobes.any (fun y => y.1 == x) = s.strobes.any (fun y => y.1 == x))))

/-! ### Window monitors -/

/-- Samples and arming (R298 … R303, R305, R306, R310, R312, R313). A judged window takes the next state of R299's table over the cells that
decide it: any of them takes it outside, all of them bring it back; a change outward sets the side's flag, counts, stamps the instant and
asks the output stage when ROUTE[1] is set, and raises no fault message; a blanked or arming window keeps its state. A new mode arms the
window with its flags kept; thresholds store LO no higher than HI and do not re-arm. -/
def Obligations.WindowsFollowTheStateTable : Prop :=
  ∀ (n : Ch) (w : WinId) (x : Int) (o : List Int) (h cyc : Nat) (s : State) (c : Chan) (e : Instr) (l : List (WinSt × Int)), c = s.ch n →
    h = (c.eff.win w).hyst.toNat → l = s.winOns n w (x :: o) →
    (s.runs → c.map.member = false → (e = .windowCrossing n w ⟨x, o⟩ cyc ∧ (c.eff.win w).mode = .continuous) ∨
        (e = .windowSample n w ⟨x, o⟩ cyc ∧ (c.eff.win w).mode = .sampled ∧ (s.bay (chBay n)).awake = true) →
      (c.blanked w = true ∨ (c.win w).arming ≠ none → ∃ t, exec e s = .next t ∧ t.chans = s.chans ∧ t.flt = s.flt) ∧
      (c.blanked w = false → (c.win w).arming = none →
        ∃ t, exec e s = .next t ∧ (∀ m, m ≠ n → t.ch m = s.ch m) ∧ (t.ch n).map = c.map ∧ t.flt = s.flt ∧ (t.ch n).cfg = c.cfg ∧
          ((c.win w).st = .inside → (∃ p ∈ l, p.1.hiOff = false ∧ edge p.1.appHi h < p.2) → ((t.ch n).win w).st = .outHi) ∧
          ((c.win w).st = .inside → (∀ p ∈ l, p.2 ≤ edge p.1.appHi h) → (∃ p ∈ l, p.1.loOff = false ∧ p.2 < edge p.1.appLo (-h)) →
            ((t.ch n).win w).st = .outLo) ∧
          ((c.win w).st = .inside → (∀ p ∈ l, p.2 ≤ edge p.1.appHi h ∧ edge p.1.appLo (-h) ≤ p.2) → ((t.ch n).win w).st = .inside) ∧
          ((c.win w).st = .outHi → (∃ p ∈ l, p.1.loOff = false ∧ p.2 < edge p.1.appLo (-h)) → ((t.ch n).win w).st = .outLo) ∧
          ((c.win w).st = .outHi → (∀ p ∈ l, edge p.1.appLo (-h) ≤ p.2 ∧ p.2 < edge p.1.appHi (-h)) → ((t.ch n).win w).st = .inside) ∧
          ((c.win w).st = .outHi → (∀ p ∈ l, edge p.1.appLo (-h) ≤ p.2) → (∃ p ∈ l, p.1.hiOff = false ∧ edge p.1.appHi (-h) ≤ p.2) →
            ((t.ch n).win w).st = .outHi) ∧
          ((c.win w).st = .outLo → (∃ p ∈ l, p.1.hiOff = false ∧ edge p.1.appHi h < p.2) → ((t.ch n).win w).st = .outHi) ∧
          ((c.win w).st = .outLo → (∀ p ∈ l, p.2 ≤ edge p.1.appHi h ∧ edge p.1.appLo h < p.2) → ((t.ch n).win w).st = .inside) ∧
          ((c.win w).st = .outLo → (∀ p ∈ l, p.2 ≤ edge p.1.appHi h) → (∃ p ∈ l, p.1.loOff = false ∧ p.2 ≤ edge p.1.appLo h) →
            ((t.ch n).win w).st = .outLo) ∧
          (((t.ch n).win w).st = (c.win w).st ∨ ((t.ch n).win w).st = .inside → (t.ch n).strand = c.strand ∧ (t.ch n).force = c.force ∧
            ((t.ch n).win w).trips = (c.win w).trips ∧ ((t.ch n).win w).tripHi = (c.win w).tripHi ∧ ((t.ch n).win w).tripLo = (c.win w).tripLo) ∧
          (((t.ch n).win w).st ≠ (c.win w).st → ((t.ch n).win w).st ≠ .inside → ((t.ch n).win w).trips = satInc (c.win w).trips ∧
            ((t.ch n).win w).time = BitVec.ofNat 32 (s.time + cyc) ∧
            ((t.ch n).win w).tripHi = ((c.win w).tripHi || ((t.ch n).win w).st == .outHi) ∧
            ((t.ch n).win w).tripLo = ((c.win w).tripLo || ((t.ch n).win w).st == .outLo) ∧
            ((c.eff.win w).route.getLsbD 1 = true → (t.ch n).force.tripReq = true) ∧
            ((c.eff.win w).route.getLsbD 1 = false → (t.ch n).force.tripReq = c.force.tripReq) ∧
            ((c.eff.win w).route.getLsbD 0 = false → (t.ch n).force.code = c.force.code ∧ (t.ch n).strand.pulse = c.strand.pulse)))) ∧
    (s.runs → (c.eff.win w).mode ≠ .continuous ∨ c.map.member = true → exec (.windowCrossing n w ⟨x, o⟩ cyc) s = .next s) ∧
    (s.runs → (c.eff.win w).mode ≠ .sampled ∨ c.map.member = true ∨ ((s.bay (chBay n)).awake = false ∧ (c.eff.win w).tick ≠ 0) →
      exec (.windowSample n w ⟨x, o⟩ cyc) s = .next s) ∧
    (s.runs → c.map.member = false → (c.eff.win w).mode = .sampled → (s.bay (chBay n)).awake = false → (c.eff.win w).tick = 0 →
      ∃ t, exec (.windowSample n w ⟨x, o⟩ cyc) s = .next t ∧ (∀ m, m ≠ n → t.ch m = s.ch m) ∧ t.flt = s.flt ∧
        ((t.ch n).win w).st = (c.win w).st.next h l ∧ ((t.ch n).win w).trips = (c.win w).trips ∧ (t.ch n).force = c.force ∧
        ((c.win w).st.next h l ≠ (c.win w).st → (c.win w).st.next h l ≠ .inside →
          ((t.ch n).win w).late = (c.win w).late ++ [((c.win w).st.next h l, s.time + cyc)])) ∧
    (s.runs → c.map.member = false → ∀ b, (c.win w).arming = some b →
      (s.time < b + 512 → exec (.windowFirstSample n w ⟨x, o⟩) s = .next s) ∧
      (b + 512 ≤ s.time → ∃ t, exec (.windowFirstSample n w ⟨x, o⟩) s = .next t ∧ (∀ m, m ≠ n → t.ch m = s.ch m) ∧ t.flt = s.flt ∧
        (t.ch n).cfg = c.cfg ∧ ((t.ch n).win w).arming = none ∧
        (c.blanked w = false → (c.eff.win w).mode ≠ .off → ((t.ch n).win w).st = (c.win w).st.next h l))) ∧
    (s.runs → (c.win w).arming = none → exec (.windowFirstSample n w ⟨x, o⟩) s = .next s) ∧
    (s.takes n → ∀ v g, g = (c.cfg.win w).setCfg v s.isBare → ∃ t, exec (.winCfgWrite n w v) s = .next t ∧
      (∀ m, m ≠ n → t.ch m = s.ch m) ∧ (t.ch n).cfg = c.cfg.upWin w (fun _ => g) ∧ t.flt = s.flt ∧
      ((t.ch n).eff.win w).mode = g.mode ∧ ((t.ch n).win w).trips = (c.win w).trips ∧ ((t.ch n).win w).tripHi = (c.win w).tripHi ∧
      ((t.ch n).win w).tripLo = (c.win w).tripLo ∧
      (g.mode = (c.eff.win w).mode → (t.ch n).win w = c.win w) ∧
      (g.mode ≠ (c.eff.win w).mode → ((t.ch n).win w).st = .inside ∧
        ((t.ch n).win w).arming = if g.mode = .continuous then some s.time else none)) ∧
    (s.takes n → ∀ v, ∃ t, exec (.winThrWrite n w v) s = .next t ∧ s.chOnly t n ∧
      ((t.ch n).cfg.win w).hi = v.extractLsb' 16 12 ∧ ((t.ch n).cfg.win w).lo.toNat = min (v.extractLsb' 0 12).toNat (v.extractLsb' 16 12).toNat ∧
      ((t.ch n).win w).refRange = c.winRange w ∧ ((t.ch n).win w).refFs = c.winFs w (c.winRange w) ∧ ((t.ch n).win w).st = (c.win w).st ∧
      ((t.ch n).win w).trips = (c.win w).trips ∧ ((t.ch n).win w).arming = (c.win w).arming ∧ (t.ch n).force.code = c.force.code)

/-! ### Sleep, the attic and its memories -/

/-- Sleep and wake (R521, R522, R329). A bay that may sleep, that no condition of R328 holds and that has been idle for 1,024 loop periods closes its
gates; no register, level or state of a channel changes. A bay that wakes opens the gates of its cells in use, lets a switch that waited close from
now on, reports a wake of more than 96 loop periods, and takes the held writes in their order; every trip that the sleep kept is counted, and the last
one's time shows. -/
def Obligations.BaysSleepWhenIdleAndWakeWithTheirWrites : Prop :=
  ∀ (b : Bay) (s : State), s.runs →
    ((s.bay b).awake = false ∨ (s.bay b).sleepOk = false ∨ s.pwr.holdAwake.getLsbD b.val = true ∨ s.bayHeld b = true ∨ (s.bay b).idle < 1024 →
      exec (.baySleep b) s = .next s) ∧
    ((s.bay b).awake = true → (s.bay b).sleepOk = true → s.pwr.holdAwake.getLsbD b.val = false → s.bayHeld b = false → 1024 ≤ (s.bay b).idle →
      ∃ t, exec (.baySleep b) s = .next t ∧ t = { s with chans := t.chans, cells := t.cells, bays := t.bays } ∧
        t.bay b = { s.bay b with awake := false, idle := 0 } ∧ (∀ x, x ≠ b → t.bay x = s.bay x) ∧
        (∀ n, t.ch n = if n ∈ s.bayUsers b then { s.ch n with meas := { (s.ch n).meas with lastOvl := none } } else s.ch n) ∧
        (∀ k, (t.cell k).awake = if k ∈ bayCells b then false else (s.cell k).awake) ∧
        ∀ k, (t.cell k).role = (s.cell k).role ∧ (t.cell k).channel = (s.cell k).channel ∧ (t.cell k).locket = (s.cell k).locket ∧
          (t.cell k).dac = (s.cell k).dac) ∧
    ((s.bay b).waking = false ∨ s.clk.started = false → exec (.bayAwake b) s = .next s) ∧
    ((s.bay b).waking = true → s.clk.started = true → (∀ n, n ∈ bayChs b → (s.ch n).force.tripReq = false ∧ ∀ w, ((s.ch n).win w).late = []) →
      ∃ u t : State, exec (.bayAwake b) s = .next t ∧ t = (u.each (s.bay b).held fun x s => s.landWord x.1 x.2 false).each
          (((u.each (s.bay b).held fun x s => s.landWord x.1 x.2 false)).bayUsers b) (fun n s => s.refresh n) ∧
        u = { s with chans := u.chans, cells := u.cells, bays := u.bays, flt := u.flt } ∧
        u.bay b = { s.bay b with awake := true, waking := false, idle := 0, held := [] } ∧ (∀ x, x ≠ b → u.bay x = s.bay x) ∧
        (∀ n, u.ch n = if n ∈ s.bayUsers b then
          { s.ch n with force := { (s.ch n).force with closeAt := (s.ch n).force.closeAt.map fun _ => s.time } } else s.ch n) ∧
        (∀ k, u.cell k = if k ∈ bayCells b then
          { s.cell k with awake := (s.cell k).role == .active || (s.cell k).role == .member || (s.cell k).role == .shadow } else s.cell k) ∧
        (96 < (s.bay b).wakePeriods → u.flt = (s.post (srcBay b) 3 (s.bay b).wakePeriods).flt) ∧
        ((s.bay b).wakePeriods ≤ 96 → u.flt = s.flt) ∧
        ((s.bay b).held = [] → ∀ n, t.ch n = u.ch n)) ∧
    ((s.bay b).waking = true → s.clk.started = true → (s.bay b).held = [] → ∀ n, n ∈ bayChs b → ∀ w l st x, ((s.ch n).win w).late = l ++ [(st, x)] →
      ∃ t, exec (.bayAwake b) s = .next t ∧ (t.bay b).awake = true ∧ ((t.ch n).win w).late = [] ∧ (t.ch n).cfg = (s.ch n).cfg ∧
        ((t.ch n).win w).trips = (l ++ [(st, x)]).foldl (fun k _ => satInc k) ((s.ch n).win w).trips ∧
        ((t.ch n).win w).time = BitVec.ofNat 32 x ∧
        ((t.ch n).win w).tripHi = (((s.ch n).win w).tripHi || (l ++ [(st, x)]).any fun y => y.1 == .outHi))

/-- The patrol of the SRAM (R353 … R355, R388). A clean word moves only the patrol; a corrected one is counted, and at its row's second
error the row moves to a spare row of its bank, or EXHAUSTED is set when the bank has none; an uncorrectable word stores its address, sets
UE and has the effect of its region. Beads, larder and the sine table keep every other byte. -/
def Obligations.ThePatrolCorrectsOrReportsAWord : Prop :=
  ∀ (r : SramRegion) (s : State) (a row bank used : Nat), s.runs → a = 8 * s.att.patrol → row = a / 128 → bank = a / 131072 →
    used = (findAt s.att.rowsUsed bank).getD 0 →
    exec (.sramPatrolRead r .clean) s = .next { s with att := { s.att with patrol := (s.att.patrol + 1) % 524288 } } ∧
    (∃ t, exec (.sramPatrolRead r .single) s = .next t ∧ t = { s with att := t.att, flt := t.flt } ∧ t.att.ce = satInc s.att.ce ∧
      t.att.patrol = (s.att.patrol + 1) % 524288 ∧ t.att.bays = s.att.bays ∧ t.att.ueAddr = s.att.ueAddr ∧ t.att.ue = s.att.ue ∧
      (findAt s.att.rowErrs row ≠ some 1 → t.att.rowErrs = insertAt s.att.rowErrs row ((findAt s.att.rowErrs row).getD 0 + 1) ∧
        t.att.spareRows = s.att.spareRows ∧ t.att.exhausted = s.att.exhausted ∧ t.flt = s.flt) ∧
      (findAt s.att.rowErrs row = some 1 → used < 16 → t.att.rowsUsed = insertAt s.att.rowsUsed bank (used + 1) ∧
        t.att.spareRows = s.att.spareRows - 1 ∧ t.att.exhausted = s.att.exhausted ∧ t.flt = (s.post (srcBank a) 0 a).flt) ∧
      (findAt s.att.rowErrs row = some 1 → 16 ≤ used → t.att.exhausted = true ∧ t.att.spareRows = s.att.spareRows ∧
        t.flt = (s.post (srcBank a) 2 a).flt)) ∧
    ∃ t, exec (.sramPatrolRead r .double) s = .next t ∧ t.att.ue = true ∧ t.att.ueAddr = BitVec.ofNat 22 a ∧ t.att.ce = s.att.ce ∧
      t.att.spareRows = (if used < 16 then s.att.spareRows - 1 else s.att.spareRows) ∧
      t.att.exhausted = (if used < 16 then s.att.exhausted else true) ∧ t.att.bays = s.att.bays ∧
      ((∀ n, r ≠ .loopState n) → (∀ n i, r ≠ .stream n i) → t.chans = s.chans ∧ t.cells = s.cells) ∧
      (∀ i u, r = .bead i u → i ∈ t.att.ueBeads ∧ t.img = s.img ∧ t.cel = s.cel ∧
        ∀ x, x < 0x100000 + 16 * i.toNat + 8 * bit u ∨ 0x100000 + 16 * i.toNat + 8 * bit u + 8 ≤ x →
          readByte memBackground t.mem x = readByte memBackground s.mem x) ∧
      (∀ i u, r = .larder i u → t.att.ueBeads = s.att.ueBeads ∧
        ∀ x, x < 0x200000 + 16 * i.toNat + 8 * bit u ∨ 0x200000 + 16 * i.toNat + 8 * bit u + 8 ≤ x →
          readByte memBackground t.mem x = readByte memBackground s.mem x) ∧
      (∀ n i, r = .stream n i → t.mem = s.mem ∧ t.cells = s.cells ∧ (∀ m, m ≠ n → t.ch m = s.ch m) ∧
        (i < (s.ch n).queue.length → t.ch n = { s.ch n with queue := (s.ch n).queue.set i none }) ∧
        ((s.ch n).queue.length ≤ i → t.ch n = s.ch n)) ∧
      (∀ w p, r = .sine w → p = 0x300000 + 4 * (w.toNat / 2 * 2) → s.memSound →
        t.memWord p = bytesWord [memBackground p, memBackground (p + 1), memBackground (p + 2), memBackground (p + 3)] ∧
        t.memWord (p + 4) = bytesWord [memBackground (p + 4), memBackground (p + 5), memBackground (p + 6), memBackground (p + 7)] ∧
        ∀ x, x < p ∨ p + 8 ≤ x → readByte memBackground t.mem x = readByte memBackground s.mem x) ∧
      (∀ k, r = .locket k → t.mem = s.mem ∧ t.cells = s.cells ∧ t.cel = (s.celAsk (.readLocket k false)).cel) ∧
      (∀ n, r = .loopState n → t.mem = s.mem ∧ (∀ m, m ≠ n → t.ch m = s.ch m) ∧ (t.ch n).loop.st = .opened ∧
        (t.ch n).force.code = (s.ch n).force.code ∧ (t.ch n).cfg = (s.ch n).cfg ∧ (t.ch n).map = (s.ch n).map) ∧
      (r = .staging → t.mem = s.mem ∧ t.img = { s.img with stageUe := true } ∧ t.cel = s.cel) ∧
      (∀ i, r = .coffer i → t.mem = s.mem ∧ t.img = s.img ∧ t.cel = s.cel) ∧
      (r = .other → t.mem = s.mem ∧ t.img = s.img ∧ t.cel = s.cel ∧ t.att.ueBeads = s.att.ueBeads)

/-- Migrations from request to end (R333 … R335, R338, R339, R341, R342, R344, R350). MIGRATE is refused or queued. A grant takes the lowest
eligible spare of the bay, or a borrowed one over its bridge, and leaves the channel on its old cell; with no spare a failing cell's channel
opens and loses its cell. The spare becomes a shadow; FORCE_CHECK passes to MIRROR after 64 agreeing periods with a confirmed locket; a
rejected spare is fenced, counted, and the next one taken. The swap, or a cold migration's mapping change, moves the channel to the new cell
with MAP_GEN counted and every level, code and range where it was; the end reports and counts the migration. -/
def Obligations.MigrationsRunFromRequestToEnd : Prop :=
  ∀ (n : Ch) (b : Bay) (s : State) (m : BayMig), b = chBay n → m = s.mig b →
    (s.serves → ∀ keep,
      ((s.ch n).map.avail = false ∨ (s.ch n).map.member = true ∨ s.migrating n = true →
        ∃ t, exec (.attMigrate n keep) s = .next t ∧ t = { s with att := t.att } ∧ t.mig b = { m with done := true, result := .refused } ∧
          (∀ x, x ≠ b → t.mig x = s.mig x) ∧ t.att.requests = s.att.requests ∧ t.att.bridge = s.att.bridge) ∧
      ((s.ch n).map.avail = true → (s.ch n).map.member = false → s.migrating n = false →
        ((∃ q, q ∈ s.att.requests ∧ q.ch = n) → exec (.attMigrate n keep) s = .next s) ∧
        ((∀ q, q ∈ s.att.requests → q.ch ≠ n) → exec (.attMigrate n keep) s =
          .next { s with att :=
            { s.att with requests := s.att.requests ++ [{ ch := n, cause := .host, keepOld := keep, cold := false }] } }))) ∧
    (s.runs → s.grantsBlocked = true → exec .migrationGrant s = .next s) ∧
    (s.runs → s.grantsBlocked = false → ∀ q, s.att.requests = [q] → s.homecomings = [] → q.ch = n → s.causeHolds q = true → m.busy = false →
      (∀ k l, s.spares b = k :: l → (s.bay b).fenced = false → ∃ t, exec .migrationGrant s = .next t ∧ t.chans = s.chans ∧ t.flt = s.flt ∧
        t.att.requests = [] ∧ (t.mig b).busy = true ∧ (t.mig b).phase = .wake ∧ (t.mig b).newCell = some k ∧
        (t.mig b).oldCell = (s.ch n).map.cell ∧ (t.mig b).ch = some n ∧ (t.mig b).cause = q.cause ∧ (t.mig b).lender = none ∧
        (∀ x, x ≠ b → t.mig x = s.mig x) ∧ t.att.bridge = s.att.bridge ∧
        (∀ j, t.cell j = if j = k then { s.cell k with matched := false, run := 0 } else s.cell j) ∧
        (t.mig b).cold = (q.cold || !(s.ch (s.pins n)).moves) ∧
        (s.cel.st ≠ .fenced → t.cel = (s.celAsk (if (t.mig b).cold = true then .readLocket k false else .confirm b false)).cel) ∧
        (s.cel.st = .fenced → t.cel = s.cel) ∧ (t.mig b).confirmed = (s.cel.st == .fenced) ∧
        ((s.bay b).awake = false → (t.bay b).awake = false ∧ (t.bay b).waking = true)) ∧
      (∀ l g k r, s.spares b = [] → s.lenderFor n = some (l, g) → s.spares l = k :: r → (s.mig l).busy = false → l ≠ b →
        ∃ t, exec .migrationGrant s = .next t ∧ (∀ j, j ≠ n → t.ch j = s.ch j) ∧
          t.ch n = Chan.rehold { s.ch n with range := { (s.ch n).range with borrow := true } } ∧ (t.ch n).range.i = (s.ch n).range.i ∧
          (t.ch n).range.v = (s.ch n).range.v ∧ (∀ v, (t.ch n).range.wantV = some v → v.toNat ≤ 1) ∧
          (t.ch n).force.code = (s.ch n).force.code ∧ t.flt = s.flt ∧ (t.mig b).busy = true ∧ (t.mig b).phase = .wake ∧
          (t.mig b).newCell = some k ∧ (t.mig b).ch = some n ∧ (t.mig b).lender = some l ∧
          (t.mig b).bridge = some g ∧ (t.mig l).busy = true ∧ (t.mig l).lending = true) ∧
      (s.spares b = [] → s.lenderFor n = none → q.cause = .fault → (s.ch n).map.member = false → s.members n = [] →
        ∃ t, exec .migrationGrant s = .next t ∧ (∀ j, j ≠ n → (t.ch j).cfg = (s.ch j).cfg ∧ (t.ch j).map.cell = (s.ch j).map.cell) ∧
          (t.ch n).map.cell = none ∧ (t.ch n).map.avail = false ∧ (t.ch n).fence = .noCell ∧ (t.ch n).force.out = .opened ∧
          (t.ch n).loop.st = .opened ∧ (t.ch n).strand.st.active = false ∧ (t.ch n).force.code = (s.ch n).force.code ∧
          (t.mig b).done = true ∧ (t.mig b).result = .noSpare ∧ (t.mig b).busy = false ∧
          ((s.ch n).strand.st.active = true → (s.ch n).strand.endReq = none → (t.ch n).strand.reason = .fault) ∧
          ∀ k, (s.ch n).map.cell = some k → (t.cell k).role = .fenced)) ∧
    (s.runs → m.runs = false ∨ m.phase ≠ .wake → exec (.shadowAwake b) s = .next s) ∧
    (s.runs → m.runs = true → m.ch = some n → ∀ k, m.newCell = some k →
      (m.phase = .wake →
        ((s.bay (CellIx.bay k)).awake = false → exec (.shadowAwake b) s = .next s) ∧
        ((s.bay (CellIx.bay k)).awake = true → s.coldNow m n = false → ∃ t, exec (.shadowAwake b) s = .next t ∧ t.chans = s.chans ∧
          t.flt = s.flt ∧ (t.cell k).role = .shadow ∧ (t.cell k).channel = some (s.pins n) ∧ (t.cell k).awake = true ∧
          (∀ j, j ≠ k → t.cell j = s.cell j) ∧
          t.mig b = { m with phase := .forceCheck, periods := 0, failed := false, sinceVI := s.time } ∧ (∀ x, x ≠ b → t.mig x = s.mig x)) ∧
        ((s.bay (CellIx.bay k)).awake = true → s.coldNow m n = true → (s.ch n).map.cell ≠ some k → m.oldCell ≠ some k →
          ∃ t, exec (.shadowAwake b) s = .next t ∧ (t.ch n).map.cell = some k ∧ (t.ch n).map.avail = (s.ch n).decl.enabled ∧
            (t.ch n).map.gen = (s.ch n).map.gen + 1 ∧ (t.ch n).fence = .none ∧ (t.ch n).force.code = (s.ch n).force.code ∧
            (t.ch n).force.out = (s.ch n).force.out ∧ (t.ch n).loop = (s.ch n).loop ∧ (t.ch n).cfg = (s.ch n).cfg ∧
            (t.mig b).busy = false ∧ (t.mig b).done = true ∧ (t.mig b).result = .cold ∧ t.att.migrations = satInc s.att.migrations ∧
            t.att.history.length = s.att.history.length + 1 ∧
            (t.cell k).role = (if (s.ch n).map.member then .member else .active))) ∧
      (m.phase = .forceCheck →
        (64 ≤ (s.cell k).run.toNat → m.confirmed = true → m.failed = false → ((s.cell k).locketSt = .nominal → s.att.useNominal = true) →
          ∃ t, exec (.forceCheckEnd b) s = .next t ∧ t.chans = s.chans ∧ t.mig b = { m with phase := .mirror, sinceOvl := s.time } ∧
            (∀ x, x ≠ b → t.mig x = s.mig x) ∧ (∀ j, t.cell j = if j = k then { s.cell k with matched := true } else s.cell j) ∧
            t.flt = s.flt) ∧
        ((s.cell k).run.toNat < 64 ∨ m.confirmed = false ∨ m.failed = true → exec (.forceCheckEnd b) s = .next s)) ∧
      ((∀ r, s.rejectReason m k = some r → m.lender = none →
          (∀ k' l, s.spares b = k' :: l → (s.bay b).fenced = false → (s.ch n).map.cell ≠ none → (s.ch n).decl.enabled = true →
            (s.ch n).fence = .none → m.cause ≠ .readmit → m.cause ≠ .homecoming → ∃ t, exec (.spareReject b) s = .next t ∧
              (∀ j, j ≠ n → t.ch j = s.ch j) ∧ t.ch n = { s.ch n with range := { (s.ch n).range with borrow := false } } ∧
              (t.cell k).role = .fenced ∧ (t.cell k).rejected = true ∧ (t.cell k).switchOn = false ∧ (t.mig b).busy = true ∧
              (t.mig b).phase = .wake ∧ (t.mig b).newCell = some k' ∧ (t.mig b).ch = some n ∧ (t.mig b).oldCell = (s.ch n).map.cell ∧
              t.att.rejects = satInc s.att.rejects ∧ (∀ j, j ≠ k → j ≠ k' → t.cell j = s.cell j)) ∧
          (s.spares b = [] → (s.ch n).mayBorrow = false → (s.ch n).map.cell ≠ none → (s.ch n).decl.enabled = true → (s.ch n).fence = .none →
            m.cause = .host → m.keepOld = true → s.mapLoads = false → ∃ t, exec (.spareReject b) s = .next t ∧
              (∀ j, j ≠ n → t.ch j = s.ch j) ∧ (t.cell k).role = .fenced ∧
              (t.cell k).rejected = true ∧ (t.mig b).busy = false ∧ (t.mig b).result = .noSpare ∧ (t.mig b).done = true ∧
              t.att.rejects = satInc s.att.rejects ∧ (∀ j, j ≠ k → t.cell j = s.cell j)) ∧
          (s.spares b = [] → (s.ch n).map.cell ≠ none → (s.ch n).decl.enabled = true → (s.ch n).fence = .none →
            m.cause ≠ .readmit → m.cause ≠ .homecoming → s.mapLoads = true → (∀ q, q ∈ s.att.requests → q.ch ≠ n) →
            ∃ t, exec (.spareReject b) s = .next t ∧ (t.mig b).busy = false ∧ t.att.requests = s.att.requests ++
              [{ ch := n, cause := m.cause, keepOld := m.keepOld, cold := m.cold }] ∧ t.att.bridge = s.att.bridge)) ∧
        (s.rejectReason m k = none → exec (.spareReject b) s = .next s)) ∧
      (m.phase = .mirror →
        (s.coldNow m n = false → s.swapDue m n = false → exec (.migrationSwap b) s = .next s) ∧
        (s.coldNow m n = false → s.swapDue m n = true → (s.ch n).map.cell ≠ some k → m.oldCell ≠ some k →
          ∃ t, exec (.migrationSwap b) s = .next t ∧ (t.ch n).map.cell = some k ∧ (t.ch n).map.gen = (s.ch n).map.gen + 1 ∧
            (t.ch n).map.avail = (s.ch n).map.avail ∧ (t.ch n).force.code = (s.ch n).force.code ∧
            (m.lender = none → (t.ch n).force.target = (s.ch n).force.target) ∧ (t.ch n).force.out = (s.ch n).force.out ∧ (t.ch n).loop = (s.ch n).loop ∧
            (m.lender = none → (t.ch n).range = (s.ch n).range) ∧ (t.ch n).range.i = (s.ch n).range.i ∧
            (t.ch n).range.v = (s.ch n).range.v ∧ (t.ch n).strand = (s.ch n).strand ∧ (t.ch n).cfg = (s.ch n).cfg ∧ (t.mig b).phase = .swap ∧
            (t.mig b).swapAt = s.time ∧ (t.mig b).busy = true ∧ (t.cell k).role = (if (s.ch n).map.member then .member else .active) ∧
            (t.cell k).channel = some (s.pins n) ∧
            ∀ k', m.oldCell = some k' → (t.cell k').role =
              if ((m.cause == .homecoming || (m.cause == .host && m.keepOld)) && !(s.cell k').condemned) = true then .spare else .fenced)) ∧
      (m.phase = .drain →
        ((s.ch (s.pins n)).drains m = true → exec (.migrationEnd b) s = .next s) ∧
        ((s.ch (s.pins n)).drains m = false → ∃ t, exec (.migrationEnd b) s = .next t ∧ (∀ j, j ≠ n → t.ch j = s.ch j) ∧
          t.ch n = { s.ch n with range := { (s.ch n).range with borrow := false } } ∧ t.cells = s.cells ∧
          (t.mig b).busy = false ∧ (t.mig b).done = true ∧ (t.mig b).result = .ok ∧ (t.mig b).phase = .idle ∧
          t.att.migrations = satInc s.att.migrations ∧ t.att.history.length = s.att.history.length + 1 ∧
          t.flt = (s.post srcAttic (if m.cause = .homecoming then 3 else 0) m.addr).flt)))

/-! ### The fault collector -/

/-- Messages (R368 … R373, R376 … R379, R383 … R385). A code outside the tables is never sent. Every message sets its sticky bit. Outside
consequence windows a Note is only logged; a Minor or Major is counted in its source's half-open window and raised once when the count
reaches FT_N or an earlier one of its class is unacknowledged; a Major fences its unit with the next cause tag; a Grave sets the latch and
drives ALIVE low. Inside a window, or at Grave, a message is consequential and neither counts nor reacts. -/
def Obligations.MessagesAreCountedRaisedAndReactedTo : Prop :=
  ∀ (src : BitVec 10) (kind : BitVec 6) (addr : Word) (s : State) (x : SrcSt) (c : FClass) (k : Nat), s.runs → x = s.flt.srcSt src →
    c = s.codeClass src kind → k = (if x.winCount = 0 ∨ x.winStart + s.ftW src ≤ s.ticks then 0 else x.winCount) + 1 →
    (codeInfo src kind.toNat = none → exec (.faultMessage src kind addr) s = .next s) ∧
    (codeInfo src kind.toNat ≠ none → ∃ t, exec (.faultMessage src kind addr) s = .next t ∧ t = { s with flt := t.flt } ∧
      (t.flt.srcSt src).sticky = x.sticky ||| (1#64 <<< kind.toNat) ∧ (∀ y, y ≠ src → t.flt.srcSt y = s.flt.srcSt y) ∧
      (t.flt.srcSt src).fenced = x.fenced ∧ t.flt.coffer = s.flt.coffer ∧
      (s.flt.grave = true ∨ (s.flt.conseqTag src (some kind.toNat) s.ticks).isSome = true →
        t.flt.reactions = s.flt.reactions ∧ t.flt.tag = s.flt.tag ∧ t.flt.grave = s.flt.grave ∧ (t.flt.srcSt src).winCount = x.winCount ∧
        (t.flt.srcSt src).unackMinor = x.unackMinor ∧ (t.flt.srcSt src).unackMajor = x.unackMajor ∧
        (s.flt.holds src kind = false → s.flt.fifo.length < 56 →
          ∃ r, t.flt.fifo = s.flt.fifo ++ [r] ∧ r.src = src ∧ r.kind = kind ∧ r.addr = addr ∧ r.cls = c ∧ r.conseq = true ∧
            (s.flt.grave = true → r.tag = s.flt.tag))) ∧
      (s.flt.grave = false → s.flt.conseqTag src (some kind.toNat) s.ticks = none →
        (c = .note → t.flt.reactions = s.flt.reactions ∧ t.flt.grave = false ∧ (t.flt.srcSt src).winCount = x.winCount ∧
          (t.flt.srcSt src).unackMinor = x.unackMinor ∧ (t.flt.srcSt src).unackMajor = x.unackMajor ∧ t.flt.alive = s.flt.alive) ∧
        (c = .minor → k < s.ftN src → x.unackMinor = false → t.flt.reactions = s.flt.reactions ∧ t.flt.tag = s.flt.tag ∧ t.flt.grave = false ∧
          (t.flt.srcSt src).winCount = k ∧ (t.flt.srcSt src).unackMinor = true ∧ (t.flt.srcSt src).unackMajor = x.unackMajor) ∧
        ((c = .minor ∧ (s.ftN src ≤ k ∨ x.unackMinor = true)) ∨ (c = .major ∧ k < s.ftN src ∧ x.unackMajor = false) →
          t.flt.grave = false ∧ (t.flt.srcSt src).unackMajor = true ∧ (t.flt.srcSt src).winCount = (if s.ftN src ≤ k then 0 else k) ∧
          ∀ u, majorUnit { src := src, kind := kind, addr := addr } = some u →
            (s.flt.fencedOrDue u = true → t.flt.reactions = s.flt.reactions ∧ t.flt.tag = s.flt.tag) ∧
            (s.flt.fencedOrDue u = false → t.flt.tag = nextTag s.flt.tag ∧
              t.flt.reactions = s.flt.reactions ++
                [{ msg := { src := src, kind := kind, addr := addr }, cls := .major, unit := u, tag := nextTag s.flt.tag, since := s.period }] ∧
              ∃ w, w ∈ t.flt.conseqs ∧ w.src = u ∧ w.start = s.ticks ∧ w.until_ = s.ticks + s.ftConseq ∧ w.tag = nextTag s.flt.tag)) ∧
        (c = .grave ∨ (c = .major ∧ (s.ftN src ≤ k ∨ x.unackMajor = true)) → t.flt.grave = true ∧ t.flt.alive = false ∧
          t.flt.tag = nextTag s.flt.tag ∧ (t.flt.reactions.getLast?.map (·.cls)) = some .grave))) ∧
    (∃ t, exec (.faultConditionEnd src kind) s = .next t ∧ t = { s with flt := t.flt } ∧
      (t.flt.srcSt src) = { x with live := x.live &&& ~~~ (1#64 <<< kind.toNat) } ∧ (∀ y, y ≠ src → t.flt.srcSt y = s.flt.srcSt y) ∧
      t.flt.coffer = s.flt.coffer ∧ t.flt.reactions = s.flt.reactions) ∧
    ∃ t, exec (.conseqWindowEnd src) s = .next t ∧ t = { s with flt := { s.flt with conseqs := t.flt.conseqs } } ∧
      ∀ w, w ∈ t.flt.conseqs ↔ w ∈ s.flt.conseqs ∧ (w.src ≠ src ∨ (w.start ≤ s.ticks ∧ s.ticks < w.until_))

/-- Acknowledgement, ALIVE and injection (R380, R391, R392, R395). FLT_ACK clears the sticky bits it names, marks their records, clears the
unacknowledged flags of a source left without a sticky bit, and nothing else. ALIVE toggles at the ticks that are multiples of 16 while its
checks pass and the Grave latch is clear. FLT_INJECT acts in factory test mode alone, and injects a message with the injected flag. -/
def Obligations.AcknowledgementsAliveAndInjection : Prop :=
  ∀ (v : Word) (s : State), s.runs →
    (∃ t, exec (.fltAck v) s = .next t ∧ t = { s with flt := { s.flt with srcs := t.flt.srcs, coffer := t.flt.coffer } } ∧
      (∀ y m, m = (if v.getLsbD 31 = true then 0#64 else if y ≠ v.extractLsb' 0 10 then BitVec.allOnes 64 else if v.getLsbD 30 = true then 0#64
            else ~~~ (1#64 <<< (v.extractLsb' 16 6).toNat)) →
        (t.flt.srcSt y).sticky = (s.flt.srcSt y).sticky &&& m ∧ (t.flt.srcSt y).live = (s.flt.srcSt y).live ∧
        (t.flt.srcSt y).fenced = (s.flt.srcSt y).fenced ∧ (t.flt.srcSt y).winCount = (s.flt.srcSt y).winCount ∧
        (t.flt.srcSt y).winStart = (s.flt.srcSt y).winStart ∧
        (m ≠ BitVec.allOnes 64 → (t.flt.srcSt y).sticky = 0 → (t.flt.srcSt y).unackMinor = false ∧ (t.flt.srcSt y).unackMajor = false) ∧
        ((t.flt.srcSt y).sticky ≠ 0 ∨ m = BitVec.allOnes 64 →
          (t.flt.srcSt y).unackMinor = (s.flt.srcSt y).unackMinor ∧ (t.flt.srcSt y).unackMajor = (s.flt.srcSt y).unackMajor)) ∧
      (∀ i r, findAt s.flt.coffer i = some r → ∃ r', findAt t.flt.coffer i = some r' ∧ r' = { r with acked := r'.acked } ∧
        (r'.acked = true ↔ r.acked = true ∨ v.getLsbD 31 = true ∨
          (r.src = v.extractLsb' 0 10 ∧ (v.getLsbD 30 = true ∨ r.kind = v.extractLsb' 16 6))))) ∧
    (∀ a w c, (s.flt.grave = true ∨ s.pwr.aonDown = true ∨ a = false ∨ w = false ∨ c = false ∨ s.ticks % 16 ≠ 0 →
        exec (.aliveToggle a w c) s = .next s)) ∧
    (s.flt.grave = false → s.pwr.aonDown = false → s.ticks % 16 = 0 →
      exec (.aliveToggle true true true) s = .next { s with flt := { s.flt with alive := !s.flt.alive } }) ∧
    (∀ addr, (s.jtag.factory = false ∨ s.flt.grave = true → exec (.fltInject v addr) s = .next s) ∧
      (s.jtag.factory = true → s.flt.grave = false → v.getLsbD 31 = false →
        exec (.fltInject v addr) s = .next { s with flt := { s.flt with injectAddr := addr } }) ∧
      (s.jtag.factory = true → s.flt.grave = false → v.getLsbD 31 = true → ∃ t, exec (.fltInject v addr) s = .next t ∧
        t = { s with flt := t.flt } ∧ t.flt.injectAddr = addr ∧
        (codeInfo (v.extractLsb' 0 10) (v.extractLsb' 10 6).toNat ≠ none → s.flt.holds (v.extractLsb' 0 10) (v.extractLsb' 10 6) = false →
          s.flt.fifo.length < 56 → ∃ r, t.flt.fifo = s.flt.fifo ++ [r] ∧ r.injected = true ∧ r.src = v.extractLsb' 0 10 ∧
            r.kind = v.extractLsb' 10 6 ∧ r.addr = addr)))

/-- Reactions, records and re-admission (R374 … R376, R382 … R387, R389, R396). At its boundary a Major reaction fences its unit: a carrying
cell keeps its channel until the migration it asks for (a cold kind opens the output first), a channel and a bay's channels go to rest and are no
longer available, a bridge's channel goes home, the cellar and a port stop. Grave opens every loop and ends every strand. The collector
writes the FIFO's first record with the next sequence number, over the victim of R387 when the coffer is full. A persistence commits what
waits; records for which the flash has no block wait on, each marked as failed once. A re-admission takes the first result of R381 that holds and acts only on OK. -/
def Obligations.ReactionsRecordsAndReadmission : Prop :=
  ∀ s : State, s.runs →
    (s.flt.reactions = [] → exec .faultReaction s = .next s) ∧
    (∀ r, s.flt.reactions = [r] →
      (r.cls = .grave → ∃ t, exec .faultReaction s = .next t ∧ t.att.requests = [] ∧
        ∀ n, (t.ch n).loop.st = .opened ∧ (t.ch n).strand.st.active = false ∧ (t.ch n).map.cell = (s.ch n).map.cell ∧
          (t.ch n).force.code = (s.ch n).force.code ∧
          ((s.ch n).strand.st.active = true → (s.ch n).strand.endReq = none → (t.ch n).strand.reason = .fault)) ∧
      (r.cls ≠ .grave →
        (∀ p, srcGroup r.unit = .link p → ∃ t, exec .faultReaction s = .next t ∧ t = { s with flt := t.flt, lnk := t.lnk } ∧
          t.lnk.ports[p.val].st = .fenced ∧ (∀ x : Port, x ≠ p → t.lnk.ports[x.val] = s.lnk.ports[x.val]) ∧
          (t.flt.srcSt r.unit).fenced = true) ∧
        (srcGroup r.unit = .cellar → ∃ t, exec .faultReaction s = .next t ∧ t = { s with flt := t.flt, cel := t.cel, att := t.att } ∧
          t.cel.st = .fenced ∧ t.cel.work = [] ∧ t.cel.running = none ∧ t.cel.busy = false ∧ t.flt.persistOff = true ∧
          (t.flt.srcSt r.unit).fenced = true ∧ ∀ b, (s.mig b).runs = true → (t.mig b).confirmed = true) ∧
        (∀ k n, srcGroup r.unit = .cell k → (s.cell k).role = .active ∨ (s.cell k).role = .member → s.channelOf k = some n →
          (s.ch n).decl.enabled = true → s.migrating n = false → (∀ q, q ∈ s.att.requests → q.ch ≠ n) →
          ∃ t, exec .faultReaction s = .next t ∧ (t.ch n).map.cell = (s.ch n).map.cell ∧ (t.ch n).map.avail = (s.ch n).map.avail ∧
            t.att.requests = s.att.requests ++ [{ ch := n, cause := .fault, keepOld := false, cold := coldKind r.msg.kind }] ∧
            (coldKind r.msg.kind = false → t.chans = s.chans ∧ (t.cell k).condemned = true ∧ (t.flt.srcSt r.unit).fenced = true ∧
              (t.cell k).role = (s.cell k).role ∧ (t.cell k).switchOn = (s.cell k).switchOn) ∧
            (coldKind r.msg.kind = true → (t.ch (s.pins n)).force.out = .opened ∧ (t.ch (s.pins n)).loop.st = .opened ∧
              (t.ch (s.pins n)).strand.st.active = false ∧ (t.ch (s.pins n)).force.code = (s.ch (s.pins n)).force.code ∧
              ∀ j, j ≠ s.pins n → t.ch j = s.ch j)) ∧
        (∀ k, srcGroup r.unit = .cell k → (s.cell k).role = .spare → (∀ b, (s.mig b).runs = true → (s.mig b).newCell ≠ some k) →
          ∃ t, exec .faultReaction s = .next t ∧ t.chans = s.chans ∧ t.att = s.att ∧ (t.cell k).role = .fenced ∧
            (t.flt.srcSt r.unit).fenced = true ∧ ∀ j, j ≠ k → t.cell j = s.cell j) ∧
        (∀ n, srcGroup r.unit = .channel n → (∀ b, srcGroup r.msg.src ≠ .bay b) → r.msg.kind ≠ 7 → r.msg.kind ≠ 9 →
          ∃ t, exec .faultReaction s = .next t ∧ (t.ch n).map.avail = false ∧ (t.ch n).fence = .atRest ∧ (t.ch n).strand.st.active = false ∧
            (t.ch n).map.cell = (s.ch n).map.cell ∧ (t.ch n).force.code = (s.ch n).force.code ∧
            ((s.ch n).strand.st.active = true → (s.ch n).strand.endReq = none → (t.ch n).strand.reason = .fault) ∧
            ∀ j, j ≠ n → ∃ g, t.ch j = { s.ch j with map := { (s.ch j).map with gen := g } }) ∧
        (∀ b, srcGroup r.unit = .bay b → ∃ t, exec .faultReaction s = .next t ∧ (t.bay b).fenced = true ∧
          (∀ n, chBay n = b → (s.ch n).map.avail = true → (t.ch n).map.avail = false ∧ (t.ch n).fence = .atRest ∧
            (t.ch n).strand.st.active = false ∧ (t.ch n).force.code = (s.ch n).force.code) ∧
          ∀ n, chBay n ≠ b → (t.ch n).map.avail = (s.ch n).map.avail ∧ (t.ch n).strand = (s.ch n).strand ∧ (t.ch n).force = (s.ch n).force) ∧
        (∀ g : Fin 7, ∀ n, srcGroup r.unit = .bridge g → s.att.bridge[g.val] = some n → s.spares (chBay n) ≠ [] → s.migrating n = false →
          (∀ q, q ∈ s.att.requests → q.ch ≠ n) → (∀ b, (s.mig b).runs = true → (s.mig b).bridge ≠ some g) →
          ∃ t, exec .faultReaction s = .next t ∧ t.chans = s.chans ∧ t.cells = s.cells ∧
            t.att.requests = s.att.requests ++ [{ ch := n, cause := .homecoming, keepOld := true, cold := false }]))) ∧
    (s.flt.fifo = [] → s.flt.coal = [] → s.flt.lost = false → exec .cofferWrite s = .next s) ∧
    (∀ r l, s.flt.fifo = r :: l → ∃ t, exec .cofferWrite s = .next t ∧ t = { s with flt := t.flt } ∧ t.flt.seq = nextSeqNo s.flt.seq ∧
      (s.flt.coffer.length < 4096 → findAt t.flt.coffer s.flt.coffer.length =
          some { r with seq := nextSeqNo s.flt.seq, live := (s.flt.srcSt r.src).live.getLsbD r.kind.toNat } ∧
        t.flt.overwrites = s.flt.overwrites ∧ ∀ i, i ≠ s.flt.coffer.length → findAt t.flt.coffer i = findAt s.flt.coffer i) ∧
      (4096 ≤ s.flt.coffer.length → findAt t.flt.coffer s.flt.victim =
          some { r with seq := nextSeqNo s.flt.seq, live := (s.flt.srcSt r.src).live.getLsbD r.kind.toNat } ∧
        t.flt.overwrites = satInc s.flt.overwrites ∧ ∀ i, i ≠ s.flt.victim → findAt t.flt.coffer i = findAt s.flt.coffer i) ∧
      (s.flt.coal = [] → s.flt.lost = false → t.flt.fifo = l) ∧
      (∀ c, earliest s.flt.coal = some c → l.length < 32 → s.flt.lost = false → t.flt.fifo = l ++ [c.toRec] ∧
        t.flt.coalCount = satInc s.flt.coalCount ∧ t.flt.coal = s.flt.coal.filter (fun d => !(d.src == c.src && d.kind == c.kind)))) ∧
    (s.cel.st ≠ .ready ∨ s.flt.persistOff = true ∨ s.persistDue = false → exec .cofferPersist s = .next s) ∧
    (s.cel.st = .ready → s.flt.persistOff = false → s.persistDue = true → ∃ t, exec .cofferPersist s = .next t ∧ t.chans = s.chans ∧
      t.cells = s.cells ∧ t.flt.coffer = s.flt.coffer ∧ (t.att.history = [] ∨ t.flash.target .history = none) ∧ t.flt.persistOff = s.flt.grave ∧
      ∀ x, s.flt.unpersisted.getLast? = some x → s.flt.unpersisted.length ≤ s.flash.pageSize / 32 →
        (s.flash.target .coffer ≠ none → t.flt.persistSeq = x.2.seq ∧ t.flt.persisted = s.flt.persisted ++ s.flt.unpersisted.map (·.1)) ∧
        (s.flash.target .coffer = none → t.flt.persistSeq = s.flt.persistSeq ∧ t.flt.persisted = s.flt.persisted ∧
          ∀ y, y ∈ s.flt.unpersisted → y.2.seq ∈ t.flt.failed)) ∧
    (∀ v : Word, v.getLsbD 31 = false → exec (.fltReadmit v) s = .next s) ∧
    (∀ v : Word, v.getLsbD 31 = true → ∃ t r, exec (.fltReadmit v) s = .next t ∧ t.flt.readmitDone = true ∧ t.flt.readmitRes = r ∧
      t.flt.readmitUnit = v.extractLsb' 24 4 ∧ t.flt.readmitIndex = v.extractLsb' 0 10 ∧
      (s.flt.grave = true → r = .grave) ∧
      (s.flt.grave = false → readmitUnit v = none → r = .badUnit) ∧
      (∀ u, s.flt.grave = false → readmitUnit v = some u →
        ((s.flt.srcSt u).fenced = false → r = .notFenced) ∧
        ((s.flt.srcSt u).fenced = true → s.unitBusy u = true → r = .busy) ∧
        ((s.flt.srcSt u).fenced = true → s.unitBusy u = false → (s.flt.srcSt u).live ≠ 0 → r = .live) ∧
        ((s.flt.srcSt u).fenced = true → s.unitBusy u = false → (s.flt.srcSt u).live = 0 → (s.flt.srcSt u).sticky ≠ 0 → r = .unacked) ∧
        ((s.flt.srcSt u).fenced = true → s.unitBusy u = false → (s.flt.srcSt u).live = 0 → (s.flt.srcSt u).sticky = 0 →
          s.readmitNoSpare u = true → r = .noSpare) ∧
        ((s.flt.srcSt u).fenced = true → s.unitBusy u = false → (s.flt.srcSt u).live = 0 → (s.flt.srcSt u).sticky = 0 →
          s.readmitNoSpare u = false → r = .ok ∧
          (∀ k, srcGroup u = .cell k → (s.cell k).role = .fenced → (t.cell k).role = .spare ∧ t.chans = s.chans ∧
            (t.flt.srcSt u).fenced = false) ∧
          (∀ n, srcGroup u = .channel n → (s.ch n).fence = .atRest → (t.ch n).fence = .none ∧
            (t.ch n).map.avail = ((s.ch n).decl.enabled && (s.ch n).map.cell.isSome) ∧ (t.ch n).force = (s.ch n).force ∧
            (t.flt.srcSt u).fenced = false) ∧
          (∀ n, srcGroup u = .channel n → (s.ch n).fence = .noCell → (s.ch n).decl.enabled = true → s.migrating n = false →
            (∀ q, q ∈ s.att.requests → q.ch ≠ n) → t.att.requests =
              s.att.requests ++ [{ ch := n, cause := .readmit, keepOld := false, cold := true }]) ∧
          (∀ p, srcGroup u = .link p → t.lnk.ports[p.val].st = .training ∧ t.chans = s.chans) ∧
          (∀ g, srcGroup u = .bridge g → (t.flt.srcSt u).fenced = false ∧ t.chans = s.chans ∧ t.att = s.att) ∧
          (∀ b, srcGroup u = .bay b → (t.bay b).fenced = false ∧ (t.bay b).sent = []))) ∧
      (r ≠ .ok → t = { s with flt := { s.flt with readmitDone := true, readmitRes := r, readmitUnit := v.extractLsb' 24 4,
                                                  readmitIndex := v.extractLsb' 0 10 } }))

/-- The commands of CEL_CMD (R416, R420, R424, R425, R427). A refused command ends at once with its code: FENCED, then BUSY (another
command, or start-up), UNFORMATTED, SEALED, then the command's own. An accepted one sets BUSY and becomes the cellar's work, at once or behind
the work in progress. -/
def Obligations.CellarCommandsAreRefusedOrBecomeWork : Prop :=
  ∀ s : State, s.serves → ∀ key : BitVec 8, ∀ x : Instr × BitVec 8,
    x ∈ [(Instr.format key, 1#8), (.writeSlotA, 2), (.writeSlotB, 3), (.clearSlotA, 4), (.clearSlotB, 5), (.saveLibrary, 6), (.patrol, 7), (.flush, 8)] →
    let ends (r : CelResult) : Host.Outcome State Fault Refusal := .next { s with cel := { s.cel with done := true, result := r, lastCmd := x.2 } }
    (s.cel.st = .fenced → exec x.1 s = ends .fenced) ∧
    (s.cel.st ≠ .fenced → s.cel.busy = true → exec x.1 s = ends .busy) ∧
    (s.cel.busy = false → s.cel.st = .start ∨ s.cel.st = .mounting → exec x.1 s = ends .busy) ∧
    (s.cel.busy = false → s.cel.st = .unformatted → x.2 ≠ 1 → exec x.1 s = ends .unformatted) ∧
    (s.cel.busy = false → s.cel.st = .sealed → x.2 ≠ 7 → exec x.1 s = ends .sealed) ∧
    (s.cel.busy = false → s.cel.st = .ready ∨ (s.cel.st = .unformatted ∧ x.2 = 1) ∨ (s.cel.st = .sealed ∧ x.2 = 7) →
      (x.2 = 1 → key ≠ 0xA5 → exec x.1 s = ends .badKey) ∧
      (x.2 = 1 → key = 0xA5 → (∃ n, (s.ch n).quiesced = false) → exec x.1 s = ends .notQuiescent) ∧
      (x.2 = 2 ∨ x.2 = 3 → s.img.st = .boot ∨ s.img.st = .loading → exec x.1 s = ends .busy) ∧
      (x.2 = 2 ∨ x.2 = 3 → s.img.st ≠ .boot → s.img.st ≠ .loading → s.stagedLength < 64 ∨ 262144 < s.stagedLength ∨ s.stagedLength % 4 ≠ 0 →
        exec x.1 s = ends .badLength) ∧
      ((x.2 = 1 → key = 0xA5 ∧ ∀ n, (s.ch n).quiesced = true) →
        (x.2 = 2 ∨ x.2 = 3 → s.img.st ≠ .boot ∧ s.img.st ≠ .loading ∧ 64 ≤ s.stagedLength ∧ s.stagedLength ≤ 262144 ∧ s.stagedLength % 4 = 0) →
        (s.cel.running = none → exec x.1 s = .next { s with cel := { s.cel with busy := true, running := some (.command x.2) } }) ∧
        (s.cel.running ≠ none → exec x.1 s = .next { s with cel := { s.cel with busy := true, work := s.cel.work ++ [.command x.2] } })))

/-- The end of the cellar's work (R406, R413, R415, R416, R418, R420, R425 … R427). An idle cellar starts the first work of the lowest order. Work
that writes a region programs its content as one set: page 0 of the region then holds the content's first page at the cellar's hour, and no
other region changes. A sealed cellar ends a command with SEALED and programs nothing; an uncorrectable read-back ends a slot write with
VERIFY_FAILED and the former copy stays. FORMAT leaves the lockets alone in the managed area. A stored update (R188) writes the older copy
first and the other one only when the first reads back; a locket is read (R187, R335) copy by copy, and applied behind the second. -/
def Obligations.CellarWorkEndsAsTheFlashReports : Prop :=
  ∀ s : State, s.runs → ∀ o : FlashOutcome,
    (s.cel.running = none → s.cel.work = [] → exec (.cellarOperationDone o) s = .next s) ∧
    (s.cel.running = none → s.cel.work ≠ [] → ∃ w, w ∈ s.cel.work ∧ (∀ v, v ∈ s.cel.work → w.rank ≤ v.rank) ∧
      exec (.cellarOperationDone o) s = .next { s with cel := { s.cel with running := some w, work := s.cel.work.erase w } }) ∧
    (∀ cmd, s.cel.running = some (.command cmd) → ∃ t, exec (.cellarOperationDone o) s = .next t ∧ t.cel.busy = false ∧ t.cel.done = true ∧
      t.cel.lastCmd = cmd ∧ t.chans = s.chans ∧ t.mem = s.mem ∧
      (s.cel.st = .sealed → cmd ≠ 7 → t.cel.result = .sealed ∧ t.flash = s.flash ∧ t.cells = s.cells) ∧
      (cmd = 7 → (s.cel.st = .ready ∨ s.cel.st = .sealed) → t.cel.result = .ok ∧ t.flash = s.flash ∧ t.cel.corrMax = 0 ∧
        t.cel.pass = s.flash.validPages.map (·.seq)) ∧
      (cmd = 2 ∨ cmd = 3 → s.cel.st = .ready → o = .uncorrectable → t.cel.result = .verifyFailed ∧ t.flash = s.flash) ∧
      (cmd = 1 → s.cel.st ≠ .sealed → t.cel.result = .ok ∧ (t.cel.st = .ready ∨ t.cel.st = .sealed) ∧ t.flash.bad = s.flash.bad ∧
        (∀ p, p ∈ t.flash.pages → p.region = .lockets) ∧ ∃ g, t.flash.desc = some (g, s.cel.blocks.toNat,
          (match s.flash.desc with | some d => d.2.2.1 + 1 | none => 1), s.cel.id) ∧ g.getLsbD 0 = s.cel.bigPage ∧ g.getLsbD 1 = s.cel.ppb128 ∧
          g.getLsbD 2 = s.cel.quad ∧ g.getLsbD 3 = s.cel.plane) ∧
      (cmd = 8 → s.cel.st = .ready → o = .ok → t.cel.result = .ok ∧ (t.att.history = [] ∨ t.flash.target .history = none) ∧
        t.flt.coffer = s.flt.coffer)) ∧
    (∀ w r c, (w, r, c) ∈ [(CelWork.command 2, Region.slotA, s.staged s.stagedLength), (.command 3, .slotB, s.staged s.stagedLength),
        (.command 4, .slotA, []), (.command 5, .slotB, []), (.command 6, .library, s.libraryImage), (.writeRest, .rest, s.restTable),
        (.writeLibrary, .library, s.libraryImage)] → s.cel.running = some w → s.cel.st = .ready → o = .ok →
      ∃ t, exec (.cellarOperationDone o) s = .next t ∧ t.chans = s.chans ∧ t.cells = s.cells ∧ t.mem = s.mem ∧ t.flt = s.flt ∧
        (∀ cmd, w = .command cmd → t.cel.result = .ok) ∧ (∀ r' l, r' ≠ r → t.flash.valid r' l = s.flash.valid r' l) ∧
        ∀ b, s.flash.target r = some b → ∃ p, t.flash.valid r 0 = some p ∧ p.data = c.take s.flash.pageSize ∧ p.block = b ∧ p.lost = false ∧
          p.hour = s.cel.clock.toNat) ∧
    (∀ k m second, s.cel.running = some (.storeLocket k m second) → o = .ok → ∃ t, exec (.cellarOperationDone o) s = .next t ∧ t.flt = s.flt ∧
      (∀ j, j ≠ k → t.cell j = s.cell j) ∧
      (s.cel.st ≠ .ready → t.cells = s.cells ∧ t.flash = s.flash ∧ ∀ n, m = some n → (s.ch n).meas.cal.st = .storing →
        (t.ch n).meas.cal.st = .idle ∧ (t.ch n).meas.cal.done = true ∧ (t.ch n).meas.cal.result = .notStored) ∧
      (s.cel.st = .ready →
        (second = none → (t.cell k).locket = { (s.cell k).locket with gen := (s.cell k).locket.gen + 1 } ∧ t.chans = s.chans ∧
          (t.cel.running = some (.storeLocket k m (some (1 - s.olderCopy k))) ∨ .storeLocket k m (some (1 - s.olderCopy k)) ∈ t.cel.work)) ∧
        (∀ c, second = some c → t.cells = s.cells ∧ ∀ n, m = some n → (s.ch n).meas.cal.st = .storing →
          (t.ch n).meas.cal.st = .idle ∧ (t.ch n).meas.cal.done = true ∧ (t.ch n).meas.cal.result = .ok) ∧
        ∀ b, s.flash.target .lockets = some b → ∃ p, t.flash.valid .lockets (locketOffset k (second.getD (s.olderCopy k)) / s.flash.pageSize) =
          some p ∧ p.block = b ∧ p.lost = false)) ∧
    (∀ k m, s.cel.running = some (.storeLocket k m none) → s.cel.st = .ready → o = .uncorrectable → ∃ t,
      exec (.cellarOperationDone o) s = .next t ∧ t.chans = s.chans ∧ t.cells = s.cells ∧
      (t.cel.running = some (.storeLocket k m none) ∨ .storeLocket k m none ∈ t.cel.work)) ∧
    (∀ b k, (s.mig b).runs = true → (s.mig b).newCell = some k →
      (s.cel.running = some (.confirm b false) → ∃ t, exec (.cellarOperationDone o) s = .next t ∧ t.att = s.att ∧ t.chans = s.chans ∧
        t.cells = s.cells ∧ t.cel.running = some (.confirm b true)) ∧
      (s.cel.running = some (.confirm b true) → ∃ t, exec (.cellarOperationDone o) s = .next t ∧
        (t.mig b).confirmed = true ∧ t.chans = s.chans ∧ ∀ j, j ≠ k → t.cell j = s.cell j))

/-- The cellar's own work (R403, R414, R416 … R419, R426). Garbage collection rests while the cellar does not write, at Grave, and while a shadow
runs; otherwise it frees one block: every page of other blocks stays, and each page that it adds carries the content and the place of one of the
block's; the block is erased. The patrol reads the next page of its pass with the commands of R400: a page that is due is programmed again and
counted, an uncorrectable one is lost and counted. A read-back answers the chosen record, NONE or UE. The clock takes a later hour alone. -/
def Obligations.TheCellarCollectsPatrolsAndReadsBack : Prop :=
  ∀ s : State, s.runs →
    (s.cel.st ≠ .ready ∨ s.flt.grave = true ∨ (∃ k, (s.cell k).role = .shadow) → exec .garbageCollection s = .next s) ∧
    (s.cel.st = .ready → s.flt.grave = false → (∀ k, (s.cell k).role ≠ .shadow) →
      (s.flash.garbage = none → s.flash.levelling = none → exec .garbageCollection s = .next s) ∧
      (∀ b, s.flash.garbage = some b ∨ (s.flash.garbage = none ∧ ∃ d, s.flash.levelling = some (b, d)) →
        ∃ t, exec .garbageCollection s = .next t ∧ t = { s with flash := t.flash, cel := { s.cel with nextSeq := t.cel.nextSeq, sent := t.cel.sent } } ∧
          (∃ x y, t.cel.sent = x ++ [.writeEnable, .erase (b * s.flash.perBlock), .getFeature 0xC0] ++ y) ∧
          (∀ p, p ∈ t.flash.pages → p.block ≠ b) ∧ (∀ p, p ∈ s.flash.pages → p.block ≠ b → p ∈ t.flash.pages) ∧
          (∀ q, q ∈ t.flash.pages → q ∈ s.flash.pages ∨ ∃ p, p ∈ s.flash.pages ∧ p.block = b ∧ p.lost = false ∧ q.region = p.region ∧
            q.lpage = p.lpage ∧ q.data = p.data ∧ q.lost = false ∧ q.hour = s.cel.clock.toNat))) ∧
    (∀ o, s.cel.st ≠ .ready → s.cel.st ≠ .sealed → exec (.patrolPageRead o) s = .next s) ∧
    (∀ o c, s.cel.st = .ready ∨ s.cel.st = .sealed →
      c = (if s.cel.pass = [] then { s.cel with pass := s.flash.validPages.map (·.seq), corrMax := 0 } else s.cel) →
      (c.pass = [] → exec (.patrolPageRead o) s = .next { s with cel := c }) ∧
      (∀ q l c', c.pass = q :: l → c' = { c with pass := l, corrMax := BitVec.ofNat 8 (max c.corrMax.toNat (match o with | .corrected n => min n 255 | _ => 0)) } →
        ((∀ p, p ∈ s.flash.validPages → p.lost = false → p.seq ≠ q) → exec (.patrolPageRead o) s = .next { s with cel := c' }) ∧
        (∀ p rd, s.flash.pages.find? (fun p => p.seq == q && s.flash.isValid p && !p.lost) = some p → rd = { c' with sent := c'.sent ++
            [.pageRead (p.block * s.flash.perBlock + p.page), .getFeature 0xC0, .readCache c'.quad (c'.column s.flash p.block 0)] } →
          (o ≠ .uncorrectable → (match o with | .corrected n => n | _ => 0) < rd.refreshBits → s.cel.clock.toNat - p.hour < rd.maxAgeDays * 24 →
            exec (.patrolPageRead o) s = .next { s with cel := rd }) ∧
          (o ≠ .uncorrectable → s.cel.st = .sealed → exec (.patrolPageRead o) s = .next { s with cel := rd }) ∧
          (o ≠ .uncorrectable → s.cel.st = .ready → rd.refreshBits ≤ (match o with | .corrected n => n | _ => 0) ∨ rd.maxAgeDays * 24 ≤ s.cel.clock.toNat - p.hour →
            ∃ t, exec (.patrolPageRead o) s = .next t ∧ t = { s with flash := t.flash, cel := { rd with nextSeq := t.cel.nextSeq, sent := t.cel.sent, refreshes := satInc rd.refreshes }, flt := t.flt } ∧
              (∀ r l', r ≠ p.region ∨ l' ≠ p.lpage → t.flash.valid r l' = s.flash.valid r l') ∧
              ∀ b, s.flash.target p.region = some b → ∃ x, t.flash.valid p.region p.lpage = some x ∧ x.data = p.data ∧ x.block = b ∧ x.hour = s.cel.clock.toNat) ∧
          (o = .uncorrectable → ∃ t, exec (.patrolPageRead o) s = .next t ∧ t.chans = s.chans ∧ t.cells = s.cells ∧ t.mem = s.mem ∧ t.att = s.att ∧
            t.cel.ues = satInc s.cel.ues ∧ t.cel.pass = l ∧
            (s.cel.st = .sealed → t.flash = { s.flash with pages := s.flash.pages.map fun x => (if x.seq = p.seq then { x with lost := true } else x) }) ∧
            (s.cel.st = .ready → p.block ∉ s.flash.bad → t.flash.bad = s.flash.bad ++ [p.block] ∧ t.cel.retires = satInc s.cel.retires))))) ∧
    (∀ op, ∃ t, exec (.notResponding op) s = .next t ∧ t = { s with flt := t.flt } ∧
      (t.flt.srcSt srcCellar).sticky.getLsbD 4 = true) ∧
    (∀ v : Word, ∃ c, exec (.celReadSelWrite v) s = .next { s with cel := c } ∧ c.readHistory = v.getLsbD 31 ∧ c.readBack = v.extractLsb' 0 16 ∧
      (s.cel.st ≠ .ready → s.cel.st ≠ .sealed → c.ready = false ∧ c.none_ = false ∧ c.readUe = false ∧ c.data = s.cel.data) ∧
      (s.cel.st = .ready ∨ s.cel.st = .sealed →
        (∀ w, (s.flash.records (v.getLsbD 31))[(v.extractLsb' 0 16).toNat]? = some (w, false) → c.ready = true ∧ c.none_ = false ∧ c.readUe = false ∧
          ∀ i : Fin 8, c.data[i.val] = w.getD i.val 0) ∧
        (∀ w, (s.flash.records (v.getLsbD 31))[(v.extractLsb' 0 16).toNat]? = some (w, true) → c.ready = false ∧ c.none_ = false ∧ c.readUe = true) ∧
        ((s.flash.records (v.getLsbD 31))[(v.extractLsb' 0 16).toNat]? = none → c.ready = false ∧ c.none_ = true ∧ c.readUe = false))) ∧
    (∀ v : Word, s.flt.grave = false → (s.cel.clock.toNat < v.toNat → exec (.celClockWrite v) s = .next { s with cel := { s.cel with clock := v } }) ∧
      (v.toNat ≤ s.cel.clock.toNat → exec (.celClockWrite v) s = .next s)) ∧
    exec .cellarHourTick s = .next { s with cel := { s.cel with clock := s.cel.clock + 1 } }

/-- Ports, packets and enumeration of the link (R466 … R475, R485 … R489, R493). A port trains, measures and is UP; one that leaves UP makes the
root enumerate and ends a forwarded read over it; a lost port that has been UP reports LINK_DOWN. A packet acts here or travels on; a refused
one is counted, and the fourth refusal takes the link down. An enumeration gives a device its ID, depth, latency and lead. -/
def Obligations.LinkPortsPacketsAndTheTree : Prop :=
  ∀ s : State, s.runs →
    (s.lnk.ports[0].wasUp = false → s.lnk.refused = false → s.clk.pllB.locked = true → s.lnk.root = false →
      exec .rootTimeout s = .next { s with lnk := { s.lnk with root := true, enumBusy := true } }) ∧
    (s.lnk.ports[0].wasUp = true ∨ s.lnk.refused = true ∨ s.clk.pllB.locked = false ∨ s.lnk.root = true → exec .rootTimeout s = .next s) ∧
    (∀ p : Port, ∀ x : PortSt, x = s.lnk.ports[p.val] →
      let put (y : PortSt) : State := { s with lnk := { s.lnk with ports := s.lnk.ports.set p.val y } }
      (x.st = .idle ∨ x.st = .paused → exec (.partnerDetected p) s = .next (put { x with st := .training })) ∧
      (x.st ≠ .idle → x.st ≠ .paused → exec (.partnerDetected p) s = .next s) ∧
      (x.st = .training → exec (.portTrainingDone p) s = .next (put { x with st := .measuring })) ∧
      (x.st ≠ .training → exec (.portTrainingDone p) s = .next s) ∧
      (∀ lat, (x.st ≠ .measuring → exec (.hopMeasureDone p lat) s = .next s) ∧
        (x.st = .measuring → p = 0 → exec (.hopMeasureDone p lat) s = .next { s with lnk := { s.lnk with ports := s.lnk.ports.set p.val { x with st := .up, lat := lat, wasUp := true, sends := 0 }, root := false, enumBusy := false, devices := 0, maxDepth := 0, routes := [] } }) ∧
        (x.st = .measuring → p ≠ 0 → exec (.hopMeasureDone p lat) s = .next { s with lnk := { s.lnk with ports := s.lnk.ports.set p.val { x with st := .up, lat := lat, wasUp := true, sends := 0 }, enumBusy := s.lnk.enumBusy || s.lnk.root } })) ∧
      (x.st ≠ .up → exec (.pauseReceived p) s = .next s) ∧
      (x.st = .up → ∃ t, exec (.pauseReceived p) s = .next t ∧ t = { s with lnk := t.lnk } ∧ t.lnk.ports = s.lnk.ports.set p.val { x with st := .paused } ∧
        t.lnk.enumBusy = (s.lnk.enumBusy || s.lnk.root) ∧ (s.lnk.fwdBusy = false → t.lnk = { s.lnk with ports := t.lnk.ports, enumBusy := t.lnk.enumBusy }) ∧
        (s.lnk.fwdBusy = true → (∀ r, r ∈ s.lnk.routes → r.1 = s.lnk.fwdDev → r.2 = p) → t.lnk.fwdBusy = false ∧ t.lnk.fwdDone = true ∧
          t.lnk.fwdError = .link ∧ t.lnk.fwdCount = 0)) ∧
      (x.st ≠ .up → x.st ≠ .training → x.st ≠ .measuring → exec (.linkAlignmentLost p) s = .next s) ∧
      (x.st = .up ∨ x.st = .training ∨ x.st = .measuring → ∃ t, exec (.linkAlignmentLost p) s = .next t ∧ t = { s with lnk := t.lnk, flt := t.flt } ∧
        t.lnk.ports = s.lnk.ports.set p.val { x with st := .idle } ∧ t.lnk.enumBusy = (s.lnk.enumBusy || (s.lnk.root && x.st == .up)) ∧
        (x.wasUp = false → t.flt = s.flt) ∧ (x.wasUp = true → (t.flt.srcSt (srcLink p)).sticky.getLsbD 1 = true)) ∧
      (x.st ≠ .paused ∨ x.wasUp = false → exec (.pauseTimeout p) s = .next s) ∧
      (x.st = .paused → x.wasUp = true → ∃ t, exec (.pauseTimeout p) s = .next t ∧ t = { s with flt := t.flt } ∧
        (t.flt.srcSt (srcLink p)).sticky.getLsbD 1 = true) ∧
      (x.st ≠ .up → exec (.linkCodeError p) s = .next s) ∧
      (x.st = .up → x.coded = true → exec (.linkCodeError p) s = .next (put { x with errs := satInc x.errs })) ∧
      (x.st = .up → x.coded = false → ∃ t, exec (.linkCodeError p) s = .next t ∧ t = { (put { x with errs := satInc x.errs, coded := true }) with flt := t.flt } ∧
        (t.flt.srcSt (srcLink p)).sticky.getLsbD 0 = true) ∧
      (∀ k crc, x.st ≠ .up → exec (.packetReceive p k crc) s = .next s) ∧
      (x.st = .up → ∀ u, u = put { x with sends := 0 } →
        (∀ f, f.devId.extractLsb' 0 12 ≠ s.lnk.devId → exec (.packetReceive p (.write f) true) s =
          .next { u with lnk := { u.lnk with outbox := s.lnk.outbox ++ [(f.devId.extractLsb' 0 12, .write f)] } }) ∧
        (∀ f, f.devId.extractLsb' 0 12 = s.lnk.devId → s.flt.grave = false → u.firstUnmapped f.opcode f.addr f.words = none → f.collide = false →
          exec (.packetReceive p (.write f) true) s = .next (u.writeWords f.opcode f.addr f.words)) ∧
        (∀ f, f.devId.extractLsb' 0 12 ≠ s.lnk.devId → exec (.packetReceive p (.read f) true) s =
          .next { u with lnk := { u.lnk with outbox := s.lnk.outbox ++ [(f.devId.extractLsb' 0 12, .read f)] } }) ∧
        (∀ f, f.devId.extractLsb' 0 12 = s.lnk.devId → ∃ t w, exec (.packetReceive p (.read f) true) s = .next t ∧ w.length = readCount f ∧
          w = (u.readWords f.opcode f.addr (readCount f)).2.1 ∧ t.lnk.outbox.getLast? = some (0, .data w)) ∧
        (∀ w, s.lnk.root = false → exec (.packetReceive p (.data w) true) s = .next { u with lnk := { u.lnk with outbox := s.lnk.outbox ++ [(0, .data w)] } }) ∧
        (∀ d a g, s.lnk.root = false → exec (.packetReceive p (.summary d a g) true) s =
          .next { u with lnk := { u.lnk with outbox := s.lnk.outbox ++ [(0, .summary d a g)] } }) ∧
        (∀ w, s.lnk.root = true → exec (.packetReceive p (.data w) true) s = exec (.forwardedReadDone w) u) ∧
        (∀ d a g, s.lnk.root = true → exec (.packetReceive p (.summary d a g) true) s = exec (.summaryReceive d a g) u)) ∧
      (∀ k, x.st = .up → ∃ t, exec (.packetReceive p k false) s = .next t ∧ t = { s with lnk := t.lnk, flt := t.flt } ∧
        t.lnk = { s.lnk with ports := s.lnk.ports.set p.val { x with errs := satInc x.errs, coded := true, sends := if 3 ≤ x.sends then 0 else x.sends + 1 } } ∧
        (3 ≤ x.sends → (t.flt.srcSt (srcLink p)).sticky.getLsbD 1 = true))) ∧
    (∀ d a g, (s.lnk.root = false → exec (.summaryReceive d a g) s = .next s) ∧
      (s.lnk.root = true → ∃ t, exec (.summaryReceive d a g) s = .next t ∧ t = { s with lnk := { s.lnk with attn := t.lnk.attn, graves := t.lnk.graves } } ∧
        (d ∈ t.lnk.attn ↔ a = true) ∧ (d ∈ t.lnk.graves ↔ g = true) ∧ ∀ e, e ≠ d → (e ∈ t.lnk.attn ↔ e ∈ s.lnk.attn) ∧ (e ∈ t.lnk.graves ↔ e ∈ s.lnk.graves))) ∧
    (s.lnk.fwdBusy = false → (∀ w, exec (.forwardedReadDone w) s = .next s) ∧ exec .forwardedReadTimeout s = .next s) ∧
    (s.lnk.fwdBusy = true → (∀ w : List Word, ∃ b, exec (.forwardedReadDone w) s = .next { s with lnk := { s.lnk with fwdBusy := false, fwdDone := true, fwdError := .none, fwdCount := BitVec.ofNat 7 (min 64 w.length), fwdBuf := b } } ∧
        ∀ i : Fin 64, b[i.val] = if h : i.val < w.length then w[i.val] else s.lnk.fwdBuf[i.val]) ∧
      exec .forwardedReadTimeout s = .next { s with lnk := { s.lnk with fwdBusy := false, fwdDone := true, fwdError := .timeout, fwdCount := 0 } }) ∧
    (s.flt.grave = false → s.lnk.root = true → exec .lnkEnum s = .next { s with lnk := { s.lnk with enumBusy := true } }) ∧
    (s.lnk.root = false → exec .lnkEnum s = .next s) ∧
    (∀ x : EnumIn, (s.lnk.root = true → s.lnk.enumBusy = false → exec (.enumerationDone x) s = .next s) ∧
      (s.lnk.root = false → x.refused = true → exec (.enumerationDone x) s = .next { s with lnk := { s.lnk with refused := true, refusedFlag := true, enumerated := false, ports := s.lnk.ports.set 0 { s.lnk.ports[0] with st := .refused } } }) ∧
      ((s.lnk.root = true ∧ s.lnk.enumBusy = true) ∨ (s.lnk.root = false ∧ x.refused = false) → ∃ t, exec (.enumerationDone x) s = .next t ∧
        t = { s with lnk := t.lnk } ∧ t.lnk.treeId = x.id ∧ t.lnk.enumerated = true ∧ t.lnk.refused = false ∧ t.lnk.depth = BitVec.ofNat 4 x.depth ∧
        t.lnk.rootLat = x.rootLat ∧ t.lnk.enumBusy = false ∧ t.lnk.enumDone = (s.lnk.enumDone || s.lnk.root) ∧
        t.lnk.routes = (if s.lnk.root then x.routes else []) ∧ (3 * x.maxLat ≤ 38000 → t.lnk.lead = 2) ∧
        (38000 < 3 * x.maxLat → 3 * x.maxLat ≤ 63000 → t.lnk.lead = 3) ∧
        ∀ p : Port, t.lnk.ports[p.val].lat = s.lnk.ports[p.val].lat ∧
          t.lnk.ports[p.val].st = if p ∈ x.refusedPorts then .refused else if s.lnk.ports[p.val].st = .refused then .up else s.lnk.ports[p.val].st))

/-- System time and spanning sync sets over the link (R453, R477 … R482, R493). The root marks an epoch when one is due. At a marker a device
takes the error e = T + R + latency − arrival in 1/64 cycle, trims when |e| ≤ 2 cycles and steps otherwise; a step without RESYNC leaves it
unaligned, and a marker aligns it again once the conditions of R453 hold. A step's end moves the count by a multiple of 1,024. A commit order
names the members' boundary; a request acts LEAD periods after it arrives. -/
def Obligations.LinkTimeAndSpanningSets : Prop :=
  ∀ s : State, s.runs →
    (s.flt.grave = false → s.lnk.root = true → exec .epochNow s = .next { s with lnk := { s.lnk with epochReq := true } }) ∧
    (s.lnk.root = false → exec .epochNow s = .next s) ∧
    (s.lnk.root = false ∨ (s.lnk.epochReq = false ∧ s.ticks < s.lnk.lastMarker + s.lnk.epochTicks) → exec .epochMarkerSend s = .next s) ∧
    (s.lnk.root = true → s.lnk.epochReq = true ∨ s.lnk.lastMarker + s.lnk.epochTicks ≤ s.ticks → ∃ t, exec .epochMarkerSend s = .next t ∧
      t = { s with lnk := t.lnk, clk := { s.clk with unaligned := t.clk.unaligned }, flt := t.flt } ∧
      t.lnk.sent = some { time := s.time, residence := 0, number := s.lnk.epochNo + 1, resync := s.lnk.resyncNext, arrival := 64 * s.time } ∧
      t.lnk.epochNo = s.lnk.epochNo + 1 ∧ t.lnk.epochReq = false ∧ t.lnk.lastMarker = s.ticks ∧ t.lnk.resyncNext = t.clk.unaligned ∧
      t.clk.unaligned = (s.clk.unaligned && !(s.clk.guard == .vco8 && s.clk.pllB.held)) ∧ ∀ p : Port, t.lnk.ports[p.val].coded = false) ∧
    (∀ m : Marker, (s.lnk.root = true ∨ s.lnk.refused = true ∨ s.lnk.ports[0].st ≠ .up → exec (.epochMarkerReceive m) s = .next s) ∧
      (s.lnk.root = false → s.lnk.refused = false → s.lnk.ports[0].st = .up → ∃ t e, exec (.epochMarkerReceive m) s = .next t ∧
        e = rha ((((m.time * 64 + m.residence : Nat) : Int) - m.arrival) * 3125 + s.lnk.rootLat.toNat * 6144) 3125 ∧
        t.lnk.epochNo = m.number ∧ t.lnk.epochResync = m.resync ∧ t.lnk.sent = some m ∧ t.lnk.offset = sat32 e ∧ t.time = s.time ∧
        (∀ n, (t.ch n).force = (s.ch n).force ∧ (t.ch n).strand = (s.ch n).strand ∧ (t.ch n).loop = (s.ch n).loop) ∧ (∀ p : Port, t.lnk.ports[p.val].coded = false) ∧
        (s.clk.unaligned = true → (s.clk.guard == .vco8 && s.clk.pllB.held) = false → t.clk = s.clk ∧ t.chans = s.chans ∧ t.flt = s.flt ∧
          t.lnk.trim = s.lnk.trim ∧ t.lnk.step = s.lnk.step ∧ t.lnk.steps = s.lnk.steps) ∧
        (s.clk.unaligned = true → (s.clk.guard == .vco8 && s.clk.pllB.held) = true → t.clk = { s.clk with unaligned := false } ∧
          (t.flt.srcSt (srcLink 0)).live.getLsbD 2 = false) ∧
        (s.clk.unaligned = false → e.natAbs ≤ 128 ∨ m.resync = true → t.clk = s.clk ∧ t.flt = s.flt) ∧
        (s.clk.unaligned = false → 128 < e.natAbs → m.resync = false → t.clk = { s.clk with unaligned := true } ∧ t.lnk.resyncNext = true) ∧
        (s.clk.unaligned = false ∨ (s.clk.guard == .vco8 && s.clk.pllB.held) = true →
          (e.natAbs ≤ 128 → t.lnk.trim = e ∧ t.lnk.step = s.lnk.step ∧ t.lnk.steps = s.lnk.steps ∧ t.chans = s.chans) ∧
          (128 < e.natAbs → t.lnk.step = some (e / 64, ((-(e / 64)) % 1024).toNat) ∧ t.lnk.steps = satInc s.lnk.steps ∧ t.lnk.trim = e % 64)))) ∧
    ((∀ e, s.lnk.step ≠ some (e, 0)) → exec .timeStepEnd s = .next s) ∧
    (∀ e, s.lnk.step = some (e, 0) → ∃ t, exec .timeStepEnd s = .next t ∧ t.lnk = { s.lnk with step := none } ∧
      t.time = ((s.time : Int) + e + (-e) % 1024).toNat ∧ (0 ≤ (s.time : Int) + e + (-e) % 1024 → t.time % 1024 = s.time % 1024) ∧
      ∀ n, (t.ch n).force.code = (s.ch n).force.code ∧ (t.ch n).strand.st = (s.ch n).strand.st ∧ (t.ch n).loop = (s.ch n).loop) ∧
    (∀ r : Readiness, (s.lnk.root = false → exec (.readinessReportReceive r) s = .next s) ∧
      (s.lnk.root = true → ∃ l, exec (.readinessReportReceive r) s = .next { s with lnk := { s.lnk with reports := l } } ∧
        { r with boundary := max r.boundary (s.time / 256 + 1 + s.lnk.lead.toNat) } ∈ l ∧
        ∀ q, q.dev ≠ r.dev ∨ q.set ≠ r.set → (q ∈ l ↔ q ∈ s.lnk.reports))) ∧
    (∀ x b, (s.lnk.root = true ∨ s.lnk.refused = true → exec (.commitOrderReceive x b) s = .next s) ∧
      (s.lnk.root = false → s.lnk.refused = false →
        (s.runners x ≠ [] → ∃ t, exec (.commitOrderReceive x b) s = .next t ∧ t = { s with chans := t.chans } ∧
          (∀ m, m ∈ s.runners x → t.ch m = { s.ch m with strand := { (s.ch m).strand with order := some (256 * b) } }) ∧
          ∀ m, m ∉ s.runners x → t.ch m = s.ch m) ∧
        (s.runners x = [] → ∃ t, exec (.commitOrderReceive x b) s = .next t ∧ t = { s with chans := t.chans } ∧
          (∀ m, m ∈ s.setMembers x → (s.ch m).strand.st = .armed → t.ch m =
            { s.ch m with strand := { (s.ch m).strand with st := .waitSet, holdUntil := s.time / 256 + 1, order := some (256 * b) } }) ∧
          ∀ m, m ∉ s.setMembers x ∨ (s.ch m).strand.st ≠ .armed → t.ch m = s.ch m))) ∧
    (∀ a x, (s.clk.unaligned = true → a ≠ .abort →
        exec (.syncRequestReceive a x) s = .next { s with lnk := { s.lnk with waiting := s.lnk.waiting ++ [(a, x)] } }) ∧
      (s.clk.unaligned = false ∨ a = .abort → exec (.syncRequestReceive a x) s =
        .next { s with lnk := { s.lnk with acts := s.lnk.acts ++ [(a, x, 256 * (s.time / 256 + 1 + s.lnk.lead.toNat))] } }))

/-- The image loader (R42, R43, R70 … R75, R79 … R83). A staged word lies at its offset and WORD counts on; the buffer holds still in BOOT, in LOADING
and under a slot write. A load judges the copy: a code of R42 or NOT_QUIESCENT with the lowest such channel ends it and changes nothing but the
result; a slot load sends the cellar's page reads (R400); an accepted copy waits in LOADING. ABORT ends it. The swap waits for running migrations,
judges quiescence again, and puts the structure in force: a full load sets every register it names from the applied values, a section load only those
whose fields it sets. -/
def Obligations.ImagesAreJudgedAndSwapped : Prop :=
  ∀ s : State,
    (s.serves → s.img.st = .boot ∨ s.img.st = .loading ∨ s.cel.slotWriting = true →
      (∀ v, exec (.stageDataWrite v) s = .next (s.noteImg 0x200C)) ∧ exec .stageClear s = .next (s.noteImg 0x2000)) ∧
    (s.serves → s.img.st ≠ .boot → s.img.st ≠ .loading → s.cel.slotWriting = false →
      (∀ v, ∃ t, exec (.stageDataWrite v) s = .next t ∧ t = { s with img := { s.img with stage := t.img.stage, written := max s.img.written (4 * s.img.word.toNat + 4), word := s.img.word + 1 } } ∧
        (s.memSound → readMemWord stageBackground t.img.stage (4 * s.img.word.toNat) = v) ∧
        ∀ a, a < 4 * s.img.word.toNat ∨ 4 * s.img.word.toNat + 4 ≤ a → readByte stageBackground t.img.stage a = readByte stageBackground s.img.stage a) ∧
      ∃ t, exec .stageClear s = .next t ∧ t = { s with img := { s.img with stage := t.img.stage, written := 0, word := 0, stageUe := false } } ∧
        ∀ a, readByte stageBackground t.img.stage a = 0) ∧
    (s.serves → s.img.st ≠ .loading → exec .imageAbort s = .next s) ∧
    (s.serves → ∀ j, s.img.st = .loading → s.img.job = some j → ∃ t, exec .imageAbort s = .next t ∧
      t = { s with img := { s.img with st := s.img.before, result := .aborted, done := true, firstCh := 0xFF, job := none }, flt := t.flt }) ∧
    (s.serves → ∀ c, c ∈ [Instr.loadHost, .loadSlotA, .loadSlotB] → (s.img.st = .boot ∨ s.img.st = .loading → exec c s = .next s) ∧
      (s.img.st ≠ .boot → s.img.st ≠ .loading → s.cel.slotWriting = true → exec c s = .next (s.noteImg 0x2000))) ∧
    (s.serves → ∀ c src r, (c, src, r) ∈ [(Instr.loadSlotA, ImgSource.slotA, Region.slotA), (.loadSlotB, .slotB, .slotB)] → s.img.st ≠ .boot →
      s.img.st ≠ .loading → s.cel.slotWriting = false → s.slotBytes r = none → ∃ t, exec c s = .next t ∧
      t = { s with img := { s.img with result := .slotUnreadable, done := true, firstCh := 0xFF, job := none },
                   cel := { s.cel with sent := s.cel.sent ++ s.regionReads r }, flt := t.flt }) ∧
    (s.serves → ∀ c src r b avail m w, (c, src, r, b, avail, m, w) ∈ [(Instr.loadHost, ImgSource.host, none, [], s.img.written, s.img.stage, s.img.written),
        (.loadSlotA, .slotA, some Region.slotA, b, 262144, (s.img.stageBytes b).stage, b.length),
        (.loadSlotB, .slotB, some Region.slotB, b, 262144, (s.img.stageBytes b).stage, b.length)] →
      s.img.st ≠ .boot → s.img.st ≠ .loading → s.cel.slotWriting = false → (∀ x, r = some x → s.slotBytes x = some b) →
      ∀ e o u, e = (if r = none then s.img.stageUe else false) → o = (match r with | none => [] | some x => s.regionReads x) →
      u = { s with img := { s.img with stage := m, written := w, stageUe := e }, cel := { s.cel with sent := s.cel.sent ++ o } } →
      let rejected (q : ImgResult) (n : BitVec 8) : Prop := ∃ t, exec c s = .next t ∧ t = { u with img := { u.img with result := q, done := true, firstCh := n, job := none }, flt := t.flt }
      (∀ x, r = some x → ∀ i (h : i < b.length), readByte stageBackground m i = b[i]) ∧
      (∀ q, parseImage (readByte stageBackground m) avail s.lnk.devId e = .error q → rejected q 0xFF) ∧
      (word32 (readByte stageBackground m) 0 ≠ 0x4D494C50 → rejected .badMagic 0xFF) ∧
      (∀ k, parseImage (readByte stageBackground m) avail s.lnk.devId e = .ok k →
        (k.part = true → s.img.st ≠ .ready → rejected .needsFull 0xFF) ∧
        (k.part = false → ∀ n, (s.ch n).quiesced = false → (∀ i, i < n → (s.ch i).quiesced = true) → rejected .notQuiescent (BitVec.ofNat 8 n.val)) ∧
        (k.part = false ∨ s.img.st = .ready → (∀ n, (s.ch n).quiesced = true) → ∃ j, exec c s = .next { u with img := { u.img with before := s.img.st, st := .loading, job := some j } } ∧
          j.src = src ∧ j.part = k.part ∧ j.crc = k.crc ∧ j.sections = k.sections.map (·.1)))) ∧
    (s.runs → s.img.job = none → exec .imageSwap s = .next s) ∧
    (s.runs → ∀ j, s.img.job = some j →
      (2 ∈ j.sections ∨ 3 ∈ j.sections → (∃ b, (s.mig b).busy = true) → exec .imageSwap s = .next s) ∧
      ((2 ∉ j.sections ∧ 3 ∉ j.sections) ∨ (∀ b, (s.mig b).busy = false) →
        (∀ n, j.required.find? (fun n => !(s.ch n).quiesced) = some n → ∃ t, exec .imageSwap s = .next t ∧
          t = { s with img := { s.img with st := if s.img.st = .loading then s.img.before else s.img.st, result := .notQuiescent, done := true, firstCh := BitVec.ofNat 8 n.val, job := none }, flt := t.flt }) ∧
        ((∀ n, n ∈ j.required → (s.ch n).quiesced = true) → ∃ t, exec .imageSwap s = .next t ∧ t.img.st = .ready ∧ t.img.done = true ∧ t.img.result = .ok ∧
          t.img.firstCh = 0xFF ∧ t.img.part = j.part ∧ t.img.source = (if j.part then s.img.source else j.src) ∧ t.img.crc = j.crc ∧ t.img.job = none ∧
          (j.part = false → t.cel.refreshBits = Vals.num t.img.vals 0x10 1 0 ∧ ∀ n, (t.ch n).cfg.ilimitNa = BitVec.ofNat 32 (Vals.num t.img.vals 4 7 n.val) ∧
            (t.ch n).cfg.vlimitUv = BitVec.ofNat 32 (Vals.num t.img.vals 4 8 n.val) ∧ (t.ch n).cfg.setV = BitVec.ofNat 4 (Vals.num t.img.vals 4 1 n.val) ∧
            (t.ch n).cfg.setI = BitVec.ofNat 4 (Vals.num t.img.vals 4 2 n.val) ∧ (t.ch n).cfg.pulseWidth = BitVec.ofNat 28 (Vals.num t.img.vals 9 1 n.val)) ∧
          (j.part = true → 3 ∉ j.sections → t.img.vals = j.vals ∧ t.img.clamps = j.clamps ∧
            t.cel.refreshBits = (if fieldKey (fieldId 0x10 1) 0 ∈ j.sets then Vals.num j.vals 0x10 1 0 else s.cel.refreshBits) ∧
            ∀ n, (t.ch n).cfg.ilimitNa = (if fieldKey (fieldId 4 7) n.val ∈ j.sets then BitVec.ofNat 32 (Vals.num j.vals 4 7 n.val) else (s.ch n).cfg.ilimitNa) ∧
              (t.ch n).cfg.pulseWidth = (if fieldKey (fieldId 9 1) n.val ∈ j.sets then BitVec.ofNat 28 (Vals.num j.vals 9 1 n.val) else (s.ch n).cfg.pulseWidth) ∧
              (t.ch n).cfg.setV = (if fieldKey (fieldId 4 1) n.val ∈ j.sets then BitVec.ofNat 4 (Vals.num j.vals 4 1 n.val) else (s.ch n).cfg.setV) ∧
              (t.ch n).cfg.level = (s.ch n).cfg.level ∧ (t.ch n).cfg.mode = (s.ch n).cfg.mode))))

/-! ### The governor, the rails and the stopped PLLs -/

/-- The governor, the PLL stop and the rail gate (R514, R523 … R526). A governor update stores P_tot, moves the ceiling by one step and grants
every channel the smaller of its cap and the ceiling; 1,024 updates over the limit at the lowest ceiling raise GOV_FAIL. With PLL_SLEEP and
nothing that runs, both PLLs stop and the reference runs the core. New rails reach every awake bay, and the first rest sequences start once
they are in span. -/
def Obligations.TheGovernorTheRailsAndThePllsFollowPower : Prop :=
  ∀ s : State, s.runs →
    ((∀ k, (s.cell k).awake = false) → s.totalMw = 3500 + 72 * 2) ∧
    (∃ t, exec .governorUpdate s = .next t ∧ t = { s with chans := t.chans, pwr := t.pwr, flt := t.flt } ∧
      let g := s.pwr.ceilMw.toNat
      let g' := t.pwr.ceilMw.toNat
      t.pwr = { s.pwr with totalMw := t.pwr.totalMw, ceilMw := t.pwr.ceilMw, govHit := t.pwr.govHit, overCount := t.pwr.overCount } ∧
      t.pwr.totalMw.toNat = min s.totalMw 65535 ∧
      (s.pwr.limitMw.toNat < s.totalMw → g' = max 10 (g - 10)) ∧ (s.totalMw + 500 < s.pwr.limitMw.toNat → g' = min 300 (g + 1)) ∧
      (s.totalMw ≤ s.pwr.limitMw.toNat → s.pwr.limitMw.toNat ≤ s.totalMw + 500 → g' = g) ∧
      t.pwr.govHit = (s.pwr.govHit || decide (g' < 300)) ∧
      t.pwr.overCount = (if g' = 10 ∧ s.pwr.limitMw.toNat < s.totalMw then s.pwr.overCount + 1 else 0) ∧
      (∀ n, t.ch n = { s.ch n with loop := { (s.ch n).loop with grantMw := (t.ch n).loop.grantMw } } ∧
        (t.ch n).loop.grantMw.toNat = min (s.ch n).eff.capMw.toNat g') ∧
      (g' < 300 → 300 ≤ g → (t.flt.srcSt srcPower).sticky.getLsbD 0 = true) ∧ (300 ≤ g' → g < 300 → t.flt = (s.endLive srcPower 0).flt) ∧
      (¬ (g' < 300 ∧ 300 ≤ g) → ¬ (300 ≤ g' ∧ g < 300) → t.flt = s.flt)) ∧
    (s.pwr.overCount < 1024 → exec .govFail s = .next s) ∧
    (1024 ≤ s.pwr.overCount → ∃ t, exec .govFail s = .next t ∧ t = { s with pwr := { s.pwr with overCount := 0 }, flt := t.flt } ∧
      (t.flt.srcSt srcPower).sticky.getLsbD 1 = true) ∧
    (s.pwr.pllSleep = false ∨ s.clk.pllOff = true ∨ (∃ b, (s.bay b).awake = true ∨ (s.bay b).waking = true) ∨
      (∃ n, (s.ch n).eff.winV.mode ≠ .off ∨ (s.ch n).eff.winI.mode ≠ .off) ∨ (∃ p : Port, s.lnk.ports[p.val].st ≠ .off) ∨ s.cel.running ≠ none ∨ s.cel.work ≠ [] →
      exec .pllStop s = .next s) ∧
    (s.pwr.pllSleep = true → s.clk.pllOff = false → (∀ b, (s.bay b).awake = false ∧ (s.bay b).waking = false) →
      (∀ n, (s.ch n).eff.winV.mode = .off ∧ (s.ch n).eff.winI.mode = .off) → (∀ p : Port, s.lnk.ports[p.val].st = .off) → s.cel.running = none → s.cel.work = [] →
      ∃ t, exec .pllStop s = .next t ∧ t = { s with chans := t.chans, clk := t.clk, lnk := t.lnk, flt := t.flt } ∧ t.clk.pllOff = true ∧ t.clk.guard = .ref ∧
        t.clk.pllA.phase = .off ∧ t.clk.pllB.phase = .off ∧ t.clk.pllA.locked = false ∧ t.clk.pllB.locked = false ∧ t.clk.unaligned = true ∧
        (∀ x : Fin 4, t.clk.outs[x.val].running = false) ∧
        ∀ n, t.ch n = if s.clk.guard = .vco8 then ((s.ch n).markWindows s.time).calInterrupt else s.ch n) ∧
    (∀ vpos vneg : BitVec 16, ∃ u : State, u = { s with bays := u.bays } ∧
      (∀ b, u.bay b = if (s.bay b).awake then { s.bay b with vposMv := vpos, vnegMv := vneg } else s.bay b) ∧
      let inSpan := ∀ b, (s.bay b).awake = true → 13500 ≤ vpos.toNat ∧ 13500 ≤ vneg.toNat
      (s.pwr.step = .rails → ¬ inSpan → exec (.railsInSpan vpos vneg) s = .next u) ∧
      (s.pwr.step ≠ .rails → s.pwr.waitRest = [] → exec (.railsInSpan vpos vneg) s = .next u) ∧
      (s.pwr.step ≠ .rails → s.pwr.waitRest ≠ [] → s.pwr.gateDone = false → ¬ inSpan →
        exec (.railsInSpan vpos vneg) s = .next { u with pwr := { s.pwr with railWait := true, railWaited := true } }) ∧
      (s.pwr.step = .rails ∧ s.img.st ≠ .bare ∨ s.pwr.step ≠ .rails ∧ s.pwr.waitRest ≠ [] → inSpan → ∃ t, exec (.railsInSpan vpos vneg) s = .next t ∧
        t = { s with chans := t.chans, cells := t.cells, bays := t.bays, clk := t.clk, flt := t.flt, pwr := t.pwr } ∧
        t.pwr.gateDone = true ∧ t.pwr.railWait = false ∧ t.pwr.waitRest = [] ∧
        (s.pwr.step = .rails → t.pwr.step = .rest ∨ t.pwr.step = .done) ∧ (s.pwr.step ≠ .rails → t.pwr.step = s.pwr.step) ∧
        (∀ n, n ∉ s.pwr.waitRest → t.ch n = s.ch n) ∧
        ∀ n, n ∈ s.pwr.waitRest → (s.ch n).canRest = true → (s.ch n).force.out ≠ .graveOpen → (t.ch n).force.restAt = some s.time))
end

