-- ==== Sys2Proof/Laws/State.lean ====
section
/-! SUPPORT. What each named update of the state leaves as it was, field by field, and what a channel, a cell, a bay or a memory word
reads as after it. -/

namespace Sys2Proof.Machine

/-! ### setCh -/

@[simp] theorem State.setCh_pending (s : State) (n : Ch) (c : Chan) : (s.setCh n c).pending = s.pending := rfl
@[simp] theorem State.setCh_time (s : State) (n : Ch) (c : Chan) : (s.setCh n c).time = s.time := rfl
@[simp] theorem State.setCh_ticks (s : State) (n : Ch) (c : Chan) : (s.setCh n c).ticks = s.ticks := rfl
@[simp] theorem State.setCh_frac (s : State) (n : Ch) (c : Chan) : (s.setCh n c).frac = s.frac := rfl
@[simp] theorem State.setCh_landed (s : State) (n : Ch) (c : Chan) : (s.setCh n c).landed = s.landed := rfl
@[simp] theorem State.setCh_draws (s : State) (n : Ch) (c : Chan) : (s.setCh n c).draws = s.draws := rfl
@[simp] theorem State.setCh_cells (s : State) (n : Ch) (c : Chan) : (s.setCh n c).cells = s.cells := rfl
@[simp] theorem State.setCh_bays (s : State) (n : Ch) (c : Chan) : (s.setCh n c).bays = s.bays := rfl
@[simp] theorem State.setCh_mem (s : State) (n : Ch) (c : Chan) : (s.setCh n c).mem = s.mem := rfl
@[simp] theorem State.setCh_fresh (s : State) (n : Ch) (c : Chan) : (s.setCh n c).fresh = s.fresh := rfl
@[simp] theorem State.setCh_img (s : State) (n : Ch) (c : Chan) : (s.setCh n c).img = s.img := rfl
@[simp] theorem State.setCh_clk (s : State) (n : Ch) (c : Chan) : (s.setCh n c).clk = s.clk := rfl
@[simp] theorem State.setCh_flt (s : State) (n : Ch) (c : Chan) : (s.setCh n c).flt = s.flt := rfl
@[simp] theorem State.setCh_cel (s : State) (n : Ch) (c : Chan) : (s.setCh n c).cel = s.cel := rfl
@[simp] theorem State.setCh_flash (s : State) (n : Ch) (c : Chan) : (s.setCh n c).flash = s.flash := rfl
@[simp] theorem State.setCh_lnk (s : State) (n : Ch) (c : Chan) : (s.setCh n c).lnk = s.lnk := rfl
@[simp] theorem State.setCh_pwr (s : State) (n : Ch) (c : Chan) : (s.setCh n c).pwr = s.pwr := rfl
@[simp] theorem State.setCh_att (s : State) (n : Ch) (c : Chan) : (s.setCh n c).att = s.att := rfl
@[simp] theorem State.setCh_host (s : State) (n : Ch) (c : Chan) : (s.setCh n c).host = s.host := rfl
@[simp] theorem State.setCh_jtag (s : State) (n : Ch) (c : Chan) : (s.setCh n c).jtag = s.jtag := rfl
@[simp] theorem State.setCh_marks (s : State) (n : Ch) (c : Chan) : (s.setCh n c).marks = s.marks := rfl
@[simp] theorem State.setCh_strobes (s : State) (n : Ch) (c : Chan) : (s.setCh n c).strobes = s.strobes := rfl

/-! ### upCh -/

@[simp] theorem State.upCh_pending (s : State) (n : Ch) (f : Chan → Chan) : (s.upCh n f).pending = s.pending := rfl
@[simp] theorem State.upCh_time (s : State) (n : Ch) (f : Chan → Chan) : (s.upCh n f).time = s.time := rfl
@[simp] theorem State.upCh_ticks (s : State) (n : Ch) (f : Chan → Chan) : (s.upCh n f).ticks = s.ticks := rfl
@[simp] theorem State.upCh_frac (s : State) (n : Ch) (f : Chan → Chan) : (s.upCh n f).frac = s.frac := rfl
@[simp] theorem State.upCh_landed (s : State) (n : Ch) (f : Chan → Chan) : (s.upCh n f).landed = s.landed := rfl
@[simp] theorem State.upCh_draws (s : State) (n : Ch) (f : Chan → Chan) : (s.upCh n f).draws = s.draws := rfl
@[simp] theorem State.upCh_cells (s : State) (n : Ch) (f : Chan → Chan) : (s.upCh n f).cells = s.cells := rfl
@[simp] theorem State.upCh_bays (s : State) (n : Ch) (f : Chan → Chan) : (s.upCh n f).bays = s.bays := rfl
@[simp] theorem State.upCh_mem (s : State) (n : Ch) (f : Chan → Chan) : (s.upCh n f).mem = s.mem := rfl
@[simp] theorem State.upCh_fresh (s : State) (n : Ch) (f : Chan → Chan) : (s.upCh n f).fresh = s.fresh := rfl
@[simp] theorem State.upCh_img (s : State) (n : Ch) (f : Chan → Chan) : (s.upCh n f).img = s.img := rfl
@[simp] theorem State.upCh_clk (s : State) (n : Ch) (f : Chan → Chan) : (s.upCh n f).clk = s.clk := rfl
@[simp] theorem State.upCh_flt (s : State) (n : Ch) (f : Chan → Chan) : (s.upCh n f).flt = s.flt := rfl
@[simp] theorem State.upCh_cel (s : State) (n : Ch) (f : Chan → Chan) : (s.upCh n f).cel = s.cel := rfl
@[simp] theorem State.upCh_flash (s : State) (n : Ch) (f : Chan → Chan) : (s.upCh n f).flash = s.flash := rfl
@[simp] theorem State.upCh_lnk (s : State) (n : Ch) (f : Chan → Chan) : (s.upCh n f).lnk = s.lnk := rfl
@[simp] theorem State.upCh_pwr (s : State) (n : Ch) (f : Chan → Chan) : (s.upCh n f).pwr = s.pwr := rfl
@[simp] theorem State.upCh_att (s : State) (n : Ch) (f : Chan → Chan) : (s.upCh n f).att = s.att := rfl
@[simp] theorem State.upCh_host (s : State) (n : Ch) (f : Chan → Chan) : (s.upCh n f).host = s.host := rfl
@[simp] theorem State.upCh_jtag (s : State) (n : Ch) (f : Chan → Chan) : (s.upCh n f).jtag = s.jtag := rfl
@[simp] theorem State.upCh_marks (s : State) (n : Ch) (f : Chan → Chan) : (s.upCh n f).marks = s.marks := rfl
@[simp] theorem State.upCh_strobes (s : State) (n : Ch) (f : Chan → Chan) : (s.upCh n f).strobes = s.strobes := rfl

/-! ### setCell -/

@[simp] theorem State.setCell_pending (s : State) (k : CellIx) (c : Cell) : (s.setCell k c).pending = s.pending := rfl
@[simp] theorem State.setCell_time (s : State) (k : CellIx) (c : Cell) : (s.setCell k c).time = s.time := rfl
@[simp] theorem State.setCell_ticks (s : State) (k : CellIx) (c : Cell) : (s.setCell k c).ticks = s.ticks := rfl
@[simp] theorem State.setCell_frac (s : State) (k : CellIx) (c : Cell) : (s.setCell k c).frac = s.frac := rfl
@[simp] theorem State.setCell_landed (s : State) (k : CellIx) (c : Cell) : (s.setCell k c).landed = s.landed := rfl
@[simp] theorem State.setCell_draws (s : State) (k : CellIx) (c : Cell) : (s.setCell k c).draws = s.draws := rfl
@[simp] theorem State.setCell_chans (s : State) (k : CellIx) (c : Cell) : (s.setCell k c).chans = s.chans := rfl
@[simp] theorem State.setCell_bays (s : State) (k : CellIx) (c : Cell) : (s.setCell k c).bays = s.bays := rfl
@[simp] theorem State.setCell_mem (s : State) (k : CellIx) (c : Cell) : (s.setCell k c).mem = s.mem := rfl
@[simp] theorem State.setCell_fresh (s : State) (k : CellIx) (c : Cell) : (s.setCell k c).fresh = s.fresh := rfl
@[simp] theorem State.setCell_img (s : State) (k : CellIx) (c : Cell) : (s.setCell k c).img = s.img := rfl
@[simp] theorem State.setCell_clk (s : State) (k : CellIx) (c : Cell) : (s.setCell k c).clk = s.clk := rfl
@[simp] theorem State.setCell_flt (s : State) (k : CellIx) (c : Cell) : (s.setCell k c).flt = s.flt := rfl
@[simp] theorem State.setCell_cel (s : State) (k : CellIx) (c : Cell) : (s.setCell k c).cel = s.cel := rfl
@[simp] theorem State.setCell_flash (s : State) (k : CellIx) (c : Cell) : (s.setCell k c).flash = s.flash := rfl
@[simp] theorem State.setCell_lnk (s : State) (k : CellIx) (c : Cell) : (s.setCell k c).lnk = s.lnk := rfl
@[simp] theorem State.setCell_pwr (s : State) (k : CellIx) (c : Cell) : (s.setCell k c).pwr = s.pwr := rfl
@[simp] theorem State.setCell_att (s : State) (k : CellIx) (c : Cell) : (s.setCell k c).att = s.att := rfl
@[simp] theorem State.setCell_host (s : State) (k : CellIx) (c : Cell) : (s.setCell k c).host = s.host := rfl
@[simp] theorem State.setCell_jtag (s : State) (k : CellIx) (c : Cell) : (s.setCell k c).jtag = s.jtag := rfl
@[simp] theorem State.setCell_marks (s : State) (k : CellIx) (c : Cell) : (s.setCell k c).marks = s.marks := rfl
@[simp] theorem State.setCell_strobes (s : State) (k : CellIx) (c : Cell) : (s.setCell k c).strobes = s.strobes := rfl

/-! ### upCell -/

@[simp] theorem State.upCell_pending (s : State) (k : CellIx) (f : Cell → Cell) : (s.upCell k f).pending = s.pending := rfl
@[simp] theorem State.upCell_time (s : State) (k : CellIx) (f : Cell → Cell) : (s.upCell k f).time = s.time := rfl
@[simp] theorem State.upCell_ticks (s : State) (k : CellIx) (f : Cell → Cell) : (s.upCell k f).ticks = s.ticks := rfl
@[simp] theorem State.upCell_frac (s : State) (k : CellIx) (f : Cell → Cell) : (s.upCell k f).frac = s.frac := rfl
@[simp] theorem State.upCell_landed (s : State) (k : CellIx) (f : Cell → Cell) : (s.upCell k f).landed = s.landed := rfl
@[simp] theorem State.upCell_draws (s : State) (k : CellIx) (f : Cell → Cell) : (s.upCell k f).draws = s.draws := rfl
@[simp] theorem State.upCell_chans (s : State) (k : CellIx) (f : Cell → Cell) : (s.upCell k f).chans = s.chans := rfl
@[simp] theorem State.upCell_bays (s : State) (k : CellIx) (f : Cell → Cell) : (s.upCell k f).bays = s.bays := rfl
@[simp] theorem State.upCell_mem (s : State) (k : CellIx) (f : Cell → Cell) : (s.upCell k f).mem = s.mem := rfl
@[simp] theorem State.upCell_fresh (s : State) (k : CellIx) (f : Cell → Cell) : (s.upCell k f).fresh = s.fresh := rfl
@[simp] theorem State.upCell_img (s : State) (k : CellIx) (f : Cell → Cell) : (s.upCell k f).img = s.img := rfl
@[simp] theorem State.upCell_clk (s : State) (k : CellIx) (f : Cell → Cell) : (s.upCell k f).clk = s.clk := rfl
@[simp] theorem State.upCell_flt (s : State) (k : CellIx) (f : Cell → Cell) : (s.upCell k f).flt = s.flt := rfl
@[simp] theorem State.upCell_cel (s : State) (k : CellIx) (f : Cell → Cell) : (s.upCell k f).cel = s.cel := rfl
@[simp] theorem State.upCell_flash (s : State) (k : CellIx) (f : Cell → Cell) : (s.upCell k f).flash = s.flash := rfl
@[simp] theorem State.upCell_lnk (s : State) (k : CellIx) (f : Cell → Cell) : (s.upCell k f).lnk = s.lnk := rfl
@[simp] theorem State.upCell_pwr (s : State) (k : CellIx) (f : Cell → Cell) : (s.upCell k f).pwr = s.pwr := rfl
@[simp] theorem State.upCell_att (s : State) (k : CellIx) (f : Cell → Cell) : (s.upCell k f).att = s.att := rfl
@[simp] theorem State.upCell_host (s : State) (k : CellIx) (f : Cell → Cell) : (s.upCell k f).host = s.host := rfl
@[simp] theorem State.upCell_jtag (s : State) (k : CellIx) (f : Cell → Cell) : (s.upCell k f).jtag = s.jtag := rfl
@[simp] theorem State.upCell_marks (s : State) (k : CellIx) (f : Cell → Cell) : (s.upCell k f).marks = s.marks := rfl
@[simp] theorem State.upCell_strobes (s : State) (k : CellIx) (f : Cell → Cell) : (s.upCell k f).strobes = s.strobes := rfl

/-! ### upBay -/

@[simp] theorem State.upBay_pending (s : State) (b : Bay) (f : BaySt → BaySt) : (s.upBay b f).pending = s.pending := rfl
@[simp] theorem State.upBay_time (s : State) (b : Bay) (f : BaySt → BaySt) : (s.upBay b f).time = s.time := rfl
@[simp] theorem State.upBay_ticks (s : State) (b : Bay) (f : BaySt → BaySt) : (s.upBay b f).ticks = s.ticks := rfl
@[simp] theorem State.upBay_frac (s : State) (b : Bay) (f : BaySt → BaySt) : (s.upBay b f).frac = s.frac := rfl
@[simp] theorem State.upBay_landed (s : State) (b : Bay) (f : BaySt → BaySt) : (s.upBay b f).landed = s.landed := rfl
@[simp] theorem State.upBay_draws (s : State) (b : Bay) (f : BaySt → BaySt) : (s.upBay b f).draws = s.draws := rfl
@[simp] theorem State.upBay_chans (s : State) (b : Bay) (f : BaySt → BaySt) : (s.upBay b f).chans = s.chans := rfl
@[simp] theorem State.upBay_cells (s : State) (b : Bay) (f : BaySt → BaySt) : (s.upBay b f).cells = s.cells := rfl
@[simp] theorem State.upBay_mem (s : State) (b : Bay) (f : BaySt → BaySt) : (s.upBay b f).mem = s.mem := rfl
@[simp] theorem State.upBay_fresh (s : State) (b : Bay) (f : BaySt → BaySt) : (s.upBay b f).fresh = s.fresh := rfl
@[simp] theorem State.upBay_img (s : State) (b : Bay) (f : BaySt → BaySt) : (s.upBay b f).img = s.img := rfl
@[simp] theorem State.upBay_clk (s : State) (b : Bay) (f : BaySt → BaySt) : (s.upBay b f).clk = s.clk := rfl
@[simp] theorem State.upBay_flt (s : State) (b : Bay) (f : BaySt → BaySt) : (s.upBay b f).flt = s.flt := rfl
@[simp] theorem State.upBay_cel (s : State) (b : Bay) (f : BaySt → BaySt) : (s.upBay b f).cel = s.cel := rfl
@[simp] theorem State.upBay_flash (s : State) (b : Bay) (f : BaySt → BaySt) : (s.upBay b f).flash = s.flash := rfl
@[simp] theorem State.upBay_lnk (s : State) (b : Bay) (f : BaySt → BaySt) : (s.upBay b f).lnk = s.lnk := rfl
@[simp] theorem State.upBay_pwr (s : State) (b : Bay) (f : BaySt → BaySt) : (s.upBay b f).pwr = s.pwr := rfl
@[simp] theorem State.upBay_att (s : State) (b : Bay) (f : BaySt → BaySt) : (s.upBay b f).att = s.att := rfl
@[simp] theorem State.upBay_host (s : State) (b : Bay) (f : BaySt → BaySt) : (s.upBay b f).host = s.host := rfl
@[simp] theorem State.upBay_jtag (s : State) (b : Bay) (f : BaySt → BaySt) : (s.upBay b f).jtag = s.jtag := rfl
@[simp] theorem State.upBay_marks (s : State) (b : Bay) (f : BaySt → BaySt) : (s.upBay b f).marks = s.marks := rfl
@[simp] theorem State.upBay_strobes (s : State) (b : Bay) (f : BaySt → BaySt) : (s.upBay b f).strobes = s.strobes := rfl

/-! ### allCh -/

@[simp] theorem State.allCh_pending (s : State) (f : Ch → Chan → Chan) : (s.allCh f).pending = s.pending := rfl
@[simp] theorem State.allCh_time (s : State) (f : Ch → Chan → Chan) : (s.allCh f).time = s.time := rfl
@[simp] theorem State.allCh_ticks (s : State) (f : Ch → Chan → Chan) : (s.allCh f).ticks = s.ticks := rfl
@[simp] theorem State.allCh_frac (s : State) (f : Ch → Chan → Chan) : (s.allCh f).frac = s.frac := rfl
@[simp] theorem State.allCh_landed (s : State) (f : Ch → Chan → Chan) : (s.allCh f).landed = s.landed := rfl
@[simp] theorem State.allCh_draws (s : State) (f : Ch → Chan → Chan) : (s.allCh f).draws = s.draws := rfl
@[simp] theorem State.allCh_cells (s : State) (f : Ch → Chan → Chan) : (s.allCh f).cells = s.cells := rfl
@[simp] theorem State.allCh_bays (s : State) (f : Ch → Chan → Chan) : (s.allCh f).bays = s.bays := rfl
@[simp] theorem State.allCh_mem (s : State) (f : Ch → Chan → Chan) : (s.allCh f).mem = s.mem := rfl
@[simp] theorem State.allCh_fresh (s : State) (f : Ch → Chan → Chan) : (s.allCh f).fresh = s.fresh := rfl
@[simp] theorem State.allCh_img (s : State) (f : Ch → Chan → Chan) : (s.allCh f).img = s.img := rfl
@[simp] theorem State.allCh_clk (s : State) (f : Ch → Chan → Chan) : (s.allCh f).clk = s.clk := rfl
@[simp] theorem State.allCh_flt (s : State) (f : Ch → Chan → Chan) : (s.allCh f).flt = s.flt := rfl
@[simp] theorem State.allCh_cel (s : State) (f : Ch → Chan → Chan) : (s.allCh f).cel = s.cel := rfl
@[simp] theorem State.allCh_flash (s : State) (f : Ch → Chan → Chan) : (s.allCh f).flash = s.flash := rfl
@[simp] theorem State.allCh_lnk (s : State) (f : Ch → Chan → Chan) : (s.allCh f).lnk = s.lnk := rfl
@[simp] theorem State.allCh_pwr (s : State) (f : Ch → Chan → Chan) : (s.allCh f).pwr = s.pwr := rfl
@[simp] theorem State.allCh_att (s : State) (f : Ch → Chan → Chan) : (s.allCh f).att = s.att := rfl
@[simp] theorem State.allCh_host (s : State) (f : Ch → Chan → Chan) : (s.allCh f).host = s.host := rfl
@[simp] theorem State.allCh_jtag (s : State) (f : Ch → Chan → Chan) : (s.allCh f).jtag = s.jtag := rfl
@[simp] theorem State.allCh_marks (s : State) (f : Ch → Chan → Chan) : (s.allCh f).marks = s.marks := rfl
@[simp] theorem State.allCh_strobes (s : State) (f : Ch → Chan → Chan) : (s.allCh f).strobes = s.strobes := rfl

/-! ### allCells -/

@[simp] theorem State.allCells_pending (s : State) (f : CellIx → Cell → Cell) : (s.allCells f).pending = s.pending := rfl
@[simp] theorem State.allCells_time (s : State) (f : CellIx → Cell → Cell) : (s.allCells f).time = s.time := rfl
@[simp] theorem State.allCells_ticks (s : State) (f : CellIx → Cell → Cell) : (s.allCells f).ticks = s.ticks := rfl
@[simp] theorem State.allCells_frac (s : State) (f : CellIx → Cell → Cell) : (s.allCells f).frac = s.frac := rfl
@[simp] theorem State.allCells_landed (s : State) (f : CellIx → Cell → Cell) : (s.allCells f).landed = s.landed := rfl
@[simp] theorem State.allCells_draws (s : State) (f : CellIx → Cell → Cell) : (s.allCells f).draws = s.draws := rfl
@[simp] theorem State.allCells_chans (s : State) (f : CellIx → Cell → Cell) : (s.allCells f).chans = s.chans := rfl
@[simp] theorem State.allCells_bays (s : State) (f : CellIx → Cell → Cell) : (s.allCells f).bays = s.bays := rfl
@[simp] theorem State.allCells_mem (s : State) (f : CellIx → Cell → Cell) : (s.allCells f).mem = s.mem := rfl
@[simp] theorem State.allCells_fresh (s : State) (f : CellIx → Cell → Cell) : (s.allCells f).fresh = s.fresh := rfl
@[simp] theorem State.allCells_img (s : State) (f : CellIx → Cell → Cell) : (s.allCells f).img = s.img := rfl
@[simp] theorem State.allCells_clk (s : State) (f : CellIx → Cell → Cell) : (s.allCells f).clk = s.clk := rfl
@[simp] theorem State.allCells_flt (s : State) (f : CellIx → Cell → Cell) : (s.allCells f).flt = s.flt := rfl
@[simp] theorem State.allCells_cel (s : State) (f : CellIx → Cell → Cell) : (s.allCells f).cel = s.cel := rfl
@[simp] theorem State.allCells_flash (s : State) (f : CellIx → Cell → Cell) : (s.allCells f).flash = s.flash := rfl
@[simp] theorem State.allCells_lnk (s : State) (f : CellIx → Cell → Cell) : (s.allCells f).lnk = s.lnk := rfl
@[simp] theorem State.allCells_pwr (s : State) (f : CellIx → Cell → Cell) : (s.allCells f).pwr = s.pwr := rfl
@[simp] theorem State.allCells_att (s : State) (f : CellIx → Cell → Cell) : (s.allCells f).att = s.att := rfl
@[simp] theorem State.allCells_host (s : State) (f : CellIx → Cell → Cell) : (s.allCells f).host = s.host := rfl
@[simp] theorem State.allCells_jtag (s : State) (f : CellIx → Cell → Cell) : (s.allCells f).jtag = s.jtag := rfl
@[simp] theorem State.allCells_marks (s : State) (f : CellIx → Cell → Cell) : (s.allCells f).marks = s.marks := rfl
@[simp] theorem State.allCells_strobes (s : State) (f : CellIx → Cell → Cell) : (s.allCells f).strobes = s.strobes := rfl

/-! ### allBays -/

@[simp] theorem State.allBays_pending (s : State) (f : Bay → BaySt → BaySt) : (s.allBays f).pending = s.pending := rfl
@[simp] theorem State.allBays_time (s : State) (f : Bay → BaySt → BaySt) : (s.allBays f).time = s.time := rfl
@[simp] theorem State.allBays_ticks (s : State) (f : Bay → BaySt → BaySt) : (s.allBays f).ticks = s.ticks := rfl
@[simp] theorem State.allBays_frac (s : State) (f : Bay → BaySt → BaySt) : (s.allBays f).frac = s.frac := rfl
@[simp] theorem State.allBays_landed (s : State) (f : Bay → BaySt → BaySt) : (s.allBays f).landed = s.landed := rfl
@[simp] theorem State.allBays_draws (s : State) (f : Bay → BaySt → BaySt) : (s.allBays f).draws = s.draws := rfl
@[simp] theorem State.allBays_chans (s : State) (f : Bay → BaySt → BaySt) : (s.allBays f).chans = s.chans := rfl
@[simp] theorem State.allBays_cells (s : State) (f : Bay → BaySt → BaySt) : (s.allBays f).cells = s.cells := rfl
@[simp] theorem State.allBays_mem (s : State) (f : Bay → BaySt → BaySt) : (s.allBays f).mem = s.mem := rfl
@[simp] theorem State.allBays_fresh (s : State) (f : Bay → BaySt → BaySt) : (s.allBays f).fresh = s.fresh := rfl
@[simp] theorem State.allBays_img (s : State) (f : Bay → BaySt → BaySt) : (s.allBays f).img = s.img := rfl
@[simp] theorem State.allBays_clk (s : State) (f : Bay → BaySt → BaySt) : (s.allBays f).clk = s.clk := rfl
@[simp] theorem State.allBays_flt (s : State) (f : Bay → BaySt → BaySt) : (s.allBays f).flt = s.flt := rfl
@[simp] theorem State.allBays_cel (s : State) (f : Bay → BaySt → BaySt) : (s.allBays f).cel = s.cel := rfl
@[simp] theorem State.allBays_flash (s : State) (f : Bay → BaySt → BaySt) : (s.allBays f).flash = s.flash := rfl
@[simp] theorem State.allBays_lnk (s : State) (f : Bay → BaySt → BaySt) : (s.allBays f).lnk = s.lnk := rfl
@[simp] theorem State.allBays_pwr (s : State) (f : Bay → BaySt → BaySt) : (s.allBays f).pwr = s.pwr := rfl
@[simp] theorem State.allBays_att (s : State) (f : Bay → BaySt → BaySt) : (s.allBays f).att = s.att := rfl
@[simp] theorem State.allBays_host (s : State) (f : Bay → BaySt → BaySt) : (s.allBays f).host = s.host := rfl
@[simp] theorem State.allBays_jtag (s : State) (f : Bay → BaySt → BaySt) : (s.allBays f).jtag = s.jtag := rfl
@[simp] theorem State.allBays_marks (s : State) (f : Bay → BaySt → BaySt) : (s.allBays f).marks = s.marks := rfl
@[simp] theorem State.allBays_strobes (s : State) (f : Bay → BaySt → BaySt) : (s.allBays f).strobes = s.strobes := rfl

/-! ### setMemWord -/

@[simp] theorem State.setMemWord_pending (s : State) (a : Nat) (w : Word) : (s.setMemWord a w).pending = s.pending := rfl
@[simp] theorem State.setMemWord_time (s : State) (a : Nat) (w : Word) : (s.setMemWord a w).time = s.time := rfl
@[simp] theorem State.setMemWord_ticks (s : State) (a : Nat) (w : Word) : (s.setMemWord a w).ticks = s.ticks := rfl
@[simp] theorem State.setMemWord_frac (s : State) (a : Nat) (w : Word) : (s.setMemWord a w).frac = s.frac := rfl
@[simp] theorem State.setMemWord_landed (s : State) (a : Nat) (w : Word) : (s.setMemWord a w).landed = s.landed := rfl
@[simp] theorem State.setMemWord_draws (s : State) (a : Nat) (w : Word) : (s.setMemWord a w).draws = s.draws := rfl
@[simp] theorem State.setMemWord_chans (s : State) (a : Nat) (w : Word) : (s.setMemWord a w).chans = s.chans := rfl
@[simp] theorem State.setMemWord_cells (s : State) (a : Nat) (w : Word) : (s.setMemWord a w).cells = s.cells := rfl
@[simp] theorem State.setMemWord_bays (s : State) (a : Nat) (w : Word) : (s.setMemWord a w).bays = s.bays := rfl
@[simp] theorem State.setMemWord_fresh (s : State) (a : Nat) (w : Word) : (s.setMemWord a w).fresh = s.fresh := rfl
@[simp] theorem State.setMemWord_img (s : State) (a : Nat) (w : Word) : (s.setMemWord a w).img = s.img := rfl
@[simp] theorem State.setMemWord_clk (s : State) (a : Nat) (w : Word) : (s.setMemWord a w).clk = s.clk := rfl
@[simp] theorem State.setMemWord_flt (s : State) (a : Nat) (w : Word) : (s.setMemWord a w).flt = s.flt := rfl
@[simp] theorem State.setMemWord_cel (s : State) (a : Nat) (w : Word) : (s.setMemWord a w).cel = s.cel := rfl
@[simp] theorem State.setMemWord_flash (s : State) (a : Nat) (w : Word) : (s.setMemWord a w).flash = s.flash := rfl
@[simp] theorem State.setMemWord_lnk (s : State) (a : Nat) (w : Word) : (s.setMemWord a w).lnk = s.lnk := rfl
@[simp] theorem State.setMemWord_pwr (s : State) (a : Nat) (w : Word) : (s.setMemWord a w).pwr = s.pwr := rfl
@[simp] theorem State.setMemWord_att (s : State) (a : Nat) (w : Word) : (s.setMemWord a w).att = s.att := rfl
@[simp] theorem State.setMemWord_host (s : State) (a : Nat) (w : Word) : (s.setMemWord a w).host = s.host := rfl
@[simp] theorem State.setMemWord_jtag (s : State) (a : Nat) (w : Word) : (s.setMemWord a w).jtag = s.jtag := rfl
@[simp] theorem State.setMemWord_marks (s : State) (a : Nat) (w : Word) : (s.setMemWord a w).marks = s.marks := rfl
@[simp] theorem State.setMemWord_strobes (s : State) (a : Nat) (w : Word) : (s.setMemWord a w).strobes = s.strobes := rfl

/-! ### hostMemWord -/

@[simp] theorem State.hostMemWord_pending (s : State) (a : Nat) (w : Word) : (s.hostMemWord a w).pending = s.pending := rfl
@[simp] theorem State.hostMemWord_time (s : State) (a : Nat) (w : Word) : (s.hostMemWord a w).time = s.time := rfl
@[simp] theorem State.hostMemWord_ticks (s : State) (a : Nat) (w : Word) : (s.hostMemWord a w).ticks = s.ticks := rfl
@[simp] theorem State.hostMemWord_frac (s : State) (a : Nat) (w : Word) : (s.hostMemWord a w).frac = s.frac := rfl
@[simp] theorem State.hostMemWord_landed (s : State) (a : Nat) (w : Word) : (s.hostMemWord a w).landed = s.landed := rfl
@[simp] theorem State.hostMemWord_draws (s : State) (a : Nat) (w : Word) : (s.hostMemWord a w).draws = s.draws := rfl
@[simp] theorem State.hostMemWord_chans (s : State) (a : Nat) (w : Word) : (s.hostMemWord a w).chans = s.chans := rfl
@[simp] theorem State.hostMemWord_cells (s : State) (a : Nat) (w : Word) : (s.hostMemWord a w).cells = s.cells := rfl
@[simp] theorem State.hostMemWord_bays (s : State) (a : Nat) (w : Word) : (s.hostMemWord a w).bays = s.bays := rfl
@[simp] theorem State.hostMemWord_img (s : State) (a : Nat) (w : Word) : (s.hostMemWord a w).img = s.img := rfl
@[simp] theorem State.hostMemWord_clk (s : State) (a : Nat) (w : Word) : (s.hostMemWord a w).clk = s.clk := rfl
@[simp] theorem State.hostMemWord_flt (s : State) (a : Nat) (w : Word) : (s.hostMemWord a w).flt = s.flt := rfl
@[simp] theorem State.hostMemWord_cel (s : State) (a : Nat) (w : Word) : (s.hostMemWord a w).cel = s.cel := rfl
@[simp] theorem State.hostMemWord_flash (s : State) (a : Nat) (w : Word) : (s.hostMemWord a w).flash = s.flash := rfl
@[simp] theorem State.hostMemWord_lnk (s : State) (a : Nat) (w : Word) : (s.hostMemWord a w).lnk = s.lnk := rfl
@[simp] theorem State.hostMemWord_pwr (s : State) (a : Nat) (w : Word) : (s.hostMemWord a w).pwr = s.pwr := rfl
@[simp] theorem State.hostMemWord_att (s : State) (a : Nat) (w : Word) : (s.hostMemWord a w).att = s.att := rfl
@[simp] theorem State.hostMemWord_host (s : State) (a : Nat) (w : Word) : (s.hostMemWord a w).host = s.host := rfl
@[simp] theorem State.hostMemWord_jtag (s : State) (a : Nat) (w : Word) : (s.hostMemWord a w).jtag = s.jtag := rfl
@[simp] theorem State.hostMemWord_marks (s : State) (a : Nat) (w : Word) : (s.hostMemWord a w).marks = s.marks := rfl
@[simp] theorem State.hostMemWord_strobes (s : State) (a : Nat) (w : Word) : (s.hostMemWord a w).strobes = s.strobes := rfl

/-! ### send -/

@[simp] theorem State.send_pending (s : State) (l : List NandOp) : (s.send l).pending = s.pending := rfl
@[simp] theorem State.send_time (s : State) (l : List NandOp) : (s.send l).time = s.time := rfl
@[simp] theorem State.send_ticks (s : State) (l : List NandOp) : (s.send l).ticks = s.ticks := rfl
@[simp] theorem State.send_frac (s : State) (l : List NandOp) : (s.send l).frac = s.frac := rfl
@[simp] theorem State.send_landed (s : State) (l : List NandOp) : (s.send l).landed = s.landed := rfl
@[simp] theorem State.send_draws (s : State) (l : List NandOp) : (s.send l).draws = s.draws := rfl
@[simp] theorem State.send_chans (s : State) (l : List NandOp) : (s.send l).chans = s.chans := rfl
@[simp] theorem State.send_cells (s : State) (l : List NandOp) : (s.send l).cells = s.cells := rfl
@[simp] theorem State.send_bays (s : State) (l : List NandOp) : (s.send l).bays = s.bays := rfl
@[simp] theorem State.send_mem (s : State) (l : List NandOp) : (s.send l).mem = s.mem := rfl
@[simp] theorem State.send_fresh (s : State) (l : List NandOp) : (s.send l).fresh = s.fresh := rfl
@[simp] theorem State.send_img (s : State) (l : List NandOp) : (s.send l).img = s.img := rfl
@[simp] theorem State.send_clk (s : State) (l : List NandOp) : (s.send l).clk = s.clk := rfl
@[simp] theorem State.send_flt (s : State) (l : List NandOp) : (s.send l).flt = s.flt := rfl
@[simp] theorem State.send_flash (s : State) (l : List NandOp) : (s.send l).flash = s.flash := rfl
@[simp] theorem State.send_lnk (s : State) (l : List NandOp) : (s.send l).lnk = s.lnk := rfl
@[simp] theorem State.send_pwr (s : State) (l : List NandOp) : (s.send l).pwr = s.pwr := rfl
@[simp] theorem State.send_att (s : State) (l : List NandOp) : (s.send l).att = s.att := rfl
@[simp] theorem State.send_host (s : State) (l : List NandOp) : (s.send l).host = s.host := rfl
@[simp] theorem State.send_jtag (s : State) (l : List NandOp) : (s.send l).jtag = s.jtag := rfl
@[simp] theorem State.send_marks (s : State) (l : List NandOp) : (s.send l).marks = s.marks := rfl
@[simp] theorem State.send_strobes (s : State) (l : List NandOp) : (s.send l).strobes = s.strobes := rfl

/-! ### draw -/

@[simp] theorem State.draw_pending (s : State) : (s.draw).pending = s.pending := rfl
@[simp] theorem State.draw_time (s : State) : (s.draw).time = s.time := rfl
@[simp] theorem State.draw_ticks (s : State) : (s.draw).ticks = s.ticks := rfl
@[simp] theorem State.draw_frac (s : State) : (s.draw).frac = s.frac := rfl
@[simp] theorem State.draw_landed (s : State) : (s.draw).landed = s.landed := rfl
@[simp] theorem State.draw_chans (s : State) : (s.draw).chans = s.chans := rfl
@[simp] theorem State.draw_cells (s : State) : (s.draw).cells = s.cells := rfl
@[simp] theorem State.draw_bays (s : State) : (s.draw).bays = s.bays := rfl
@[simp] theorem State.draw_mem (s : State) : (s.draw).mem = s.mem := rfl
@[simp] theorem State.draw_fresh (s : State) : (s.draw).fresh = s.fresh := rfl
@[simp] theorem State.draw_img (s : State) : (s.draw).img = s.img := rfl
@[simp] theorem State.draw_clk (s : State) : (s.draw).clk = s.clk := rfl
@[simp] theorem State.draw_flt (s : State) : (s.draw).flt = s.flt := rfl
@[simp] theorem State.draw_cel (s : State) : (s.draw).cel = s.cel := rfl
@[simp] theorem State.draw_flash (s : State) : (s.draw).flash = s.flash := rfl
@[simp] theorem State.draw_lnk (s : State) : (s.draw).lnk = s.lnk := rfl
@[simp] theorem State.draw_pwr (s : State) : (s.draw).pwr = s.pwr := rfl
@[simp] theorem State.draw_att (s : State) : (s.draw).att = s.att := rfl
@[simp] theorem State.draw_host (s : State) : (s.draw).host = s.host := rfl
@[simp] theorem State.draw_jtag (s : State) : (s.draw).jtag = s.jtag := rfl
@[simp] theorem State.draw_marks (s : State) : (s.draw).marks = s.marks := rfl
@[simp] theorem State.draw_strobes (s : State) : (s.draw).strobes = s.strobes := rfl

/-! ### upFlt -/

@[simp] theorem State.upFlt_pending (s : State) (f : Flt → Flt) : (s.upFlt f).pending = s.pending := rfl
@[simp] theorem State.upFlt_time (s : State) (f : Flt → Flt) : (s.upFlt f).time = s.time := rfl
@[simp] theorem State.upFlt_ticks (s : State) (f : Flt → Flt) : (s.upFlt f).ticks = s.ticks := rfl
@[simp] theorem State.upFlt_frac (s : State) (f : Flt → Flt) : (s.upFlt f).frac = s.frac := rfl
@[simp] theorem State.upFlt_landed (s : State) (f : Flt → Flt) : (s.upFlt f).landed = s.landed := rfl
@[simp] theorem State.upFlt_draws (s : State) (f : Flt → Flt) : (s.upFlt f).draws = s.draws := rfl
@[simp] theorem State.upFlt_chans (s : State) (f : Flt → Flt) : (s.upFlt f).chans = s.chans := rfl
@[simp] theorem State.upFlt_cells (s : State) (f : Flt → Flt) : (s.upFlt f).cells = s.cells := rfl
@[simp] theorem State.upFlt_bays (s : State) (f : Flt → Flt) : (s.upFlt f).bays = s.bays := rfl
@[simp] theorem State.upFlt_mem (s : State) (f : Flt → Flt) : (s.upFlt f).mem = s.mem := rfl
@[simp] theorem State.upFlt_fresh (s : State) (f : Flt → Flt) : (s.upFlt f).fresh = s.fresh := rfl
@[simp] theorem State.upFlt_img (s : State) (f : Flt → Flt) : (s.upFlt f).img = s.img := rfl
@[simp] theorem State.upFlt_clk (s : State) (f : Flt → Flt) : (s.upFlt f).clk = s.clk := rfl
@[simp] theorem State.upFlt_cel (s : State) (f : Flt → Flt) : (s.upFlt f).cel = s.cel := rfl
@[simp] theorem State.upFlt_flash (s : State) (f : Flt → Flt) : (s.upFlt f).flash = s.flash := rfl
@[simp] theorem State.upFlt_lnk (s : State) (f : Flt → Flt) : (s.upFlt f).lnk = s.lnk := rfl
@[simp] theorem State.upFlt_pwr (s : State) (f : Flt → Flt) : (s.upFlt f).pwr = s.pwr := rfl
@[simp] theorem State.upFlt_att (s : State) (f : Flt → Flt) : (s.upFlt f).att = s.att := rfl
@[simp] theorem State.upFlt_host (s : State) (f : Flt → Flt) : (s.upFlt f).host = s.host := rfl
@[simp] theorem State.upFlt_jtag (s : State) (f : Flt → Flt) : (s.upFlt f).jtag = s.jtag := rfl
@[simp] theorem State.upFlt_marks (s : State) (f : Flt → Flt) : (s.upFlt f).marks = s.marks := rfl
@[simp] theorem State.upFlt_strobes (s : State) (f : Flt → Flt) : (s.upFlt f).strobes = s.strobes := rfl

/-! ### post -/

@[simp] theorem State.post_pending (s : State) (src : BitVec 10) (kind addr : Nat) : (s.post src kind addr).pending = s.pending := rfl
@[simp] theorem State.post_time (s : State) (src : BitVec 10) (kind addr : Nat) : (s.post src kind addr).time = s.time := rfl
@[simp] theorem State.post_ticks (s : State) (src : BitVec 10) (kind addr : Nat) : (s.post src kind addr).ticks = s.ticks := rfl
@[simp] theorem State.post_frac (s : State) (src : BitVec 10) (kind addr : Nat) : (s.post src kind addr).frac = s.frac := rfl
@[simp] theorem State.post_landed (s : State) (src : BitVec 10) (kind addr : Nat) : (s.post src kind addr).landed = s.landed := rfl
@[simp] theorem State.post_draws (s : State) (src : BitVec 10) (kind addr : Nat) : (s.post src kind addr).draws = s.draws := rfl
@[simp] theorem State.post_chans (s : State) (src : BitVec 10) (kind addr : Nat) : (s.post src kind addr).chans = s.chans := rfl
@[simp] theorem State.post_cells (s : State) (src : BitVec 10) (kind addr : Nat) : (s.post src kind addr).cells = s.cells := rfl
@[simp] theorem State.post_bays (s : State) (src : BitVec 10) (kind addr : Nat) : (s.post src kind addr).bays = s.bays := rfl
@[simp] theorem State.post_mem (s : State) (src : BitVec 10) (kind addr : Nat) : (s.post src kind addr).mem = s.mem := rfl
@[simp] theorem State.post_fresh (s : State) (src : BitVec 10) (kind addr : Nat) : (s.post src kind addr).fresh = s.fresh := rfl
@[simp] theorem State.post_img (s : State) (src : BitVec 10) (kind addr : Nat) : (s.post src kind addr).img = s.img := rfl
@[simp] theorem State.post_clk (s : State) (src : BitVec 10) (kind addr : Nat) : (s.post src kind addr).clk = s.clk := rfl
@[simp] theorem State.post_cel (s : State) (src : BitVec 10) (kind addr : Nat) : (s.post src kind addr).cel = s.cel := rfl
@[simp] theorem State.post_flash (s : State) (src : BitVec 10) (kind addr : Nat) : (s.post src kind addr).flash = s.flash := rfl
@[simp] theorem State.post_lnk (s : State) (src : BitVec 10) (kind addr : Nat) : (s.post src kind addr).lnk = s.lnk := rfl
@[simp] theorem State.post_pwr (s : State) (src : BitVec 10) (kind addr : Nat) : (s.post src kind addr).pwr = s.pwr := rfl
@[simp] theorem State.post_att (s : State) (src : BitVec 10) (kind addr : Nat) : (s.post src kind addr).att = s.att := rfl
@[simp] theorem State.post_host (s : State) (src : BitVec 10) (kind addr : Nat) : (s.post src kind addr).host = s.host := rfl
@[simp] theorem State.post_jtag (s : State) (src : BitVec 10) (kind addr : Nat) : (s.post src kind addr).jtag = s.jtag := rfl
@[simp] theorem State.post_marks (s : State) (src : BitVec 10) (kind addr : Nat) : (s.post src kind addr).marks = s.marks := rfl
@[simp] theorem State.post_strobes (s : State) (src : BitVec 10) (kind addr : Nat) : (s.post src kind addr).strobes = s.strobes := rfl

/-! ### noteCh -/

@[simp] theorem State.noteCh_pending (s : State) (n : Ch) (off : Nat) : (s.noteCh n off).pending = s.pending := rfl
@[simp] theorem State.noteCh_time (s : State) (n : Ch) (off : Nat) : (s.noteCh n off).time = s.time := rfl
@[simp] theorem State.noteCh_ticks (s : State) (n : Ch) (off : Nat) : (s.noteCh n off).ticks = s.ticks := rfl
@[simp] theorem State.noteCh_frac (s : State) (n : Ch) (off : Nat) : (s.noteCh n off).frac = s.frac := rfl
@[simp] theorem State.noteCh_landed (s : State) (n : Ch) (off : Nat) : (s.noteCh n off).landed = s.landed := rfl
@[simp] theorem State.noteCh_draws (s : State) (n : Ch) (off : Nat) : (s.noteCh n off).draws = s.draws := rfl
@[simp] theorem State.noteCh_chans (s : State) (n : Ch) (off : Nat) : (s.noteCh n off).chans = s.chans := rfl
@[simp] theorem State.noteCh_cells (s : State) (n : Ch) (off : Nat) : (s.noteCh n off).cells = s.cells := rfl
@[simp] theorem State.noteCh_bays (s : State) (n : Ch) (off : Nat) : (s.noteCh n off).bays = s.bays := rfl
@[simp] theorem State.noteCh_mem (s : State) (n : Ch) (off : Nat) : (s.noteCh n off).mem = s.mem := rfl
@[simp] theorem State.noteCh_fresh (s : State) (n : Ch) (off : Nat) : (s.noteCh n off).fresh = s.fresh := rfl
@[simp] theorem State.noteCh_img (s : State) (n : Ch) (off : Nat) : (s.noteCh n off).img = s.img := rfl
@[simp] theorem State.noteCh_clk (s : State) (n : Ch) (off : Nat) : (s.noteCh n off).clk = s.clk := rfl
@[simp] theorem State.noteCh_cel (s : State) (n : Ch) (off : Nat) : (s.noteCh n off).cel = s.cel := rfl
@[simp] theorem State.noteCh_flash (s : State) (n : Ch) (off : Nat) : (s.noteCh n off).flash = s.flash := rfl
@[simp] theorem State.noteCh_lnk (s : State) (n : Ch) (off : Nat) : (s.noteCh n off).lnk = s.lnk := rfl
@[simp] theorem State.noteCh_pwr (s : State) (n : Ch) (off : Nat) : (s.noteCh n off).pwr = s.pwr := rfl
@[simp] theorem State.noteCh_att (s : State) (n : Ch) (off : Nat) : (s.noteCh n off).att = s.att := rfl
@[simp] theorem State.noteCh_host (s : State) (n : Ch) (off : Nat) : (s.noteCh n off).host = s.host := rfl
@[simp] theorem State.noteCh_jtag (s : State) (n : Ch) (off : Nat) : (s.noteCh n off).jtag = s.jtag := rfl
@[simp] theorem State.noteCh_marks (s : State) (n : Ch) (off : Nat) : (s.noteCh n off).marks = s.marks := rfl
@[simp] theorem State.noteCh_strobes (s : State) (n : Ch) (off : Nat) : (s.noteCh n off).strobes = s.strobes := rfl

/-! ### noteImg -/

@[simp] theorem State.noteImg_pending (s : State) (a : Nat) : (s.noteImg a).pending = s.pending := rfl
@[simp] theorem State.noteImg_time (s : State) (a : Nat) : (s.noteImg a).time = s.time := rfl
@[simp] theorem State.noteImg_ticks (s : State) (a : Nat) : (s.noteImg a).ticks = s.ticks := rfl
@[simp] theorem State.noteImg_frac (s : State) (a : Nat) : (s.noteImg a).frac = s.frac := rfl
@[simp] theorem State.noteImg_landed (s : State) (a : Nat) : (s.noteImg a).landed = s.landed := rfl
@[simp] theorem State.noteImg_draws (s : State) (a : Nat) : (s.noteImg a).draws = s.draws := rfl
@[simp] theorem State.noteImg_chans (s : State) (a : Nat) : (s.noteImg a).chans = s.chans := rfl
@[simp] theorem State.noteImg_cells (s : State) (a : Nat) : (s.noteImg a).cells = s.cells := rfl
@[simp] theorem State.noteImg_bays (s : State) (a : Nat) : (s.noteImg a).bays = s.bays := rfl
@[simp] theorem State.noteImg_mem (s : State) (a : Nat) : (s.noteImg a).mem = s.mem := rfl
@[simp] theorem State.noteImg_fresh (s : State) (a : Nat) : (s.noteImg a).fresh = s.fresh := rfl
@[simp] theorem State.noteImg_img (s : State) (a : Nat) : (s.noteImg a).img = s.img := rfl
@[simp] theorem State.noteImg_clk (s : State) (a : Nat) : (s.noteImg a).clk = s.clk := rfl
@[simp] theorem State.noteImg_cel (s : State) (a : Nat) : (s.noteImg a).cel = s.cel := rfl
@[simp] theorem State.noteImg_flash (s : State) (a : Nat) : (s.noteImg a).flash = s.flash := rfl
@[simp] theorem State.noteImg_lnk (s : State) (a : Nat) : (s.noteImg a).lnk = s.lnk := rfl
@[simp] theorem State.noteImg_pwr (s : State) (a : Nat) : (s.noteImg a).pwr = s.pwr := rfl
@[simp] theorem State.noteImg_att (s : State) (a : Nat) : (s.noteImg a).att = s.att := rfl
@[simp] theorem State.noteImg_host (s : State) (a : Nat) : (s.noteImg a).host = s.host := rfl
@[simp] theorem State.noteImg_jtag (s : State) (a : Nat) : (s.noteImg a).jtag = s.jtag := rfl
@[simp] theorem State.noteImg_marks (s : State) (a : Nat) : (s.noteImg a).marks = s.marks := rfl
@[simp] theorem State.noteImg_strobes (s : State) (a : Nat) : (s.noteImg a).strobes = s.strobes := rfl

/-! ### postCell -/

@[simp] theorem State.postCell_pending (s : State) (k : CellIx) (kind unit detail : Nat) : (s.postCell k kind unit detail).pending = s.pending := rfl
@[simp] theorem State.postCell_time (s : State) (k : CellIx) (kind unit detail : Nat) : (s.postCell k kind unit detail).time = s.time := rfl
@[simp] theorem State.postCell_ticks (s : State) (k : CellIx) (kind unit detail : Nat) : (s.postCell k kind unit detail).ticks = s.ticks := rfl
@[simp] theorem State.postCell_frac (s : State) (k : CellIx) (kind unit detail : Nat) : (s.postCell k kind unit detail).frac = s.frac := rfl
@[simp] theorem State.postCell_landed (s : State) (k : CellIx) (kind unit detail : Nat) : (s.postCell k kind unit detail).landed = s.landed := rfl
@[simp] theorem State.postCell_draws (s : State) (k : CellIx) (kind unit detail : Nat) : (s.postCell k kind unit detail).draws = s.draws := rfl
@[simp] theorem State.postCell_chans (s : State) (k : CellIx) (kind unit detail : Nat) : (s.postCell k kind unit detail).chans = s.chans := rfl
@[simp] theorem State.postCell_cells (s : State) (k : CellIx) (kind unit detail : Nat) : (s.postCell k kind unit detail).cells = s.cells := rfl
@[simp] theorem State.postCell_bays (s : State) (k : CellIx) (kind unit detail : Nat) : (s.postCell k kind unit detail).bays = s.bays := rfl
@[simp] theorem State.postCell_mem (s : State) (k : CellIx) (kind unit detail : Nat) : (s.postCell k kind unit detail).mem = s.mem := rfl
@[simp] theorem State.postCell_fresh (s : State) (k : CellIx) (kind unit detail : Nat) : (s.postCell k kind unit detail).fresh = s.fresh := rfl
@[simp] theorem State.postCell_img (s : State) (k : CellIx) (kind unit detail : Nat) : (s.postCell k kind unit detail).img = s.img := rfl
@[simp] theorem State.postCell_clk (s : State) (k : CellIx) (kind unit detail : Nat) : (s.postCell k kind unit detail).clk = s.clk := rfl
@[simp] theorem State.postCell_cel (s : State) (k : CellIx) (kind unit detail : Nat) : (s.postCell k kind unit detail).cel = s.cel := rfl
@[simp] theorem State.postCell_flash (s : State) (k : CellIx) (kind unit detail : Nat) : (s.postCell k kind unit detail).flash = s.flash := rfl
@[simp] theorem State.postCell_lnk (s : State) (k : CellIx) (kind unit detail : Nat) : (s.postCell k kind unit detail).lnk = s.lnk := rfl
@[simp] theorem State.postCell_pwr (s : State) (k : CellIx) (kind unit detail : Nat) : (s.postCell k kind unit detail).pwr = s.pwr := rfl
@[simp] theorem State.postCell_att (s : State) (k : CellIx) (kind unit detail : Nat) : (s.postCell k kind unit detail).att = s.att := rfl
@[simp] theorem State.postCell_host (s : State) (k : CellIx) (kind unit detail : Nat) : (s.postCell k kind unit detail).host = s.host := rfl
@[simp] theorem State.postCell_jtag (s : State) (k : CellIx) (kind unit detail : Nat) : (s.postCell k kind unit detail).jtag = s.jtag := rfl
@[simp] theorem State.postCell_marks (s : State) (k : CellIx) (kind unit detail : Nat) : (s.postCell k kind unit detail).marks = s.marks := rfl
@[simp] theorem State.postCell_strobes (s : State) (k : CellIx) (kind unit detail : Nat) : (s.postCell k kind unit detail).strobes = s.strobes := rfl

/-! ### collect -/

@[simp] theorem State.collect_pending (s : State) (m : Msg) : (s.collect m).pending = s.pending := rfl
@[simp] theorem State.collect_time (s : State) (m : Msg) : (s.collect m).time = s.time := rfl
@[simp] theorem State.collect_ticks (s : State) (m : Msg) : (s.collect m).ticks = s.ticks := rfl
@[simp] theorem State.collect_frac (s : State) (m : Msg) : (s.collect m).frac = s.frac := rfl
@[simp] theorem State.collect_landed (s : State) (m : Msg) : (s.collect m).landed = s.landed := rfl
@[simp] theorem State.collect_draws (s : State) (m : Msg) : (s.collect m).draws = s.draws := rfl
@[simp] theorem State.collect_chans (s : State) (m : Msg) : (s.collect m).chans = s.chans := rfl
@[simp] theorem State.collect_cells (s : State) (m : Msg) : (s.collect m).cells = s.cells := rfl
@[simp] theorem State.collect_bays (s : State) (m : Msg) : (s.collect m).bays = s.bays := rfl
@[simp] theorem State.collect_mem (s : State) (m : Msg) : (s.collect m).mem = s.mem := rfl
@[simp] theorem State.collect_fresh (s : State) (m : Msg) : (s.collect m).fresh = s.fresh := rfl
@[simp] theorem State.collect_img (s : State) (m : Msg) : (s.collect m).img = s.img := rfl
@[simp] theorem State.collect_clk (s : State) (m : Msg) : (s.collect m).clk = s.clk := rfl
@[simp] theorem State.collect_cel (s : State) (m : Msg) : (s.collect m).cel = s.cel := rfl
@[simp] theorem State.collect_flash (s : State) (m : Msg) : (s.collect m).flash = s.flash := rfl
@[simp] theorem State.collect_lnk (s : State) (m : Msg) : (s.collect m).lnk = s.lnk := rfl
@[simp] theorem State.collect_pwr (s : State) (m : Msg) : (s.collect m).pwr = s.pwr := rfl
@[simp] theorem State.collect_att (s : State) (m : Msg) : (s.collect m).att = s.att := rfl
@[simp] theorem State.collect_host (s : State) (m : Msg) : (s.collect m).host = s.host := rfl
@[simp] theorem State.collect_jtag (s : State) (m : Msg) : (s.collect m).jtag = s.jtag := rfl
@[simp] theorem State.collect_marks (s : State) (m : Msg) : (s.collect m).marks = s.marks := rfl
@[simp] theorem State.collect_strobes (s : State) (m : Msg) : (s.collect m).strobes = s.strobes := rfl

/-! ### beginLive -/

@[simp] theorem State.beginLive_pending (s : State) (src : BitVec 10) (kind : Nat) : (s.beginLive src kind).pending = s.pending := rfl
@[simp] theorem State.beginLive_time (s : State) (src : BitVec 10) (kind : Nat) : (s.beginLive src kind).time = s.time := rfl
@[simp] theorem State.beginLive_ticks (s : State) (src : BitVec 10) (kind : Nat) : (s.beginLive src kind).ticks = s.ticks := rfl
@[simp] theorem State.beginLive_frac (s : State) (src : BitVec 10) (kind : Nat) : (s.beginLive src kind).frac = s.frac := rfl
@[simp] theorem State.beginLive_landed (s : State) (src : BitVec 10) (kind : Nat) : (s.beginLive src kind).landed = s.landed := rfl
@[simp] theorem State.beginLive_draws (s : State) (src : BitVec 10) (kind : Nat) : (s.beginLive src kind).draws = s.draws := rfl
@[simp] theorem State.beginLive_chans (s : State) (src : BitVec 10) (kind : Nat) : (s.beginLive src kind).chans = s.chans := rfl
@[simp] theorem State.beginLive_cells (s : State) (src : BitVec 10) (kind : Nat) : (s.beginLive src kind).cells = s.cells := rfl
@[simp] theorem State.beginLive_bays (s : State) (src : BitVec 10) (kind : Nat) : (s.beginLive src kind).bays = s.bays := rfl
@[simp] theorem State.beginLive_mem (s : State) (src : BitVec 10) (kind : Nat) : (s.beginLive src kind).mem = s.mem := rfl
@[simp] theorem State.beginLive_fresh (s : State) (src : BitVec 10) (kind : Nat) : (s.beginLive src kind).fresh = s.fresh := rfl
@[simp] theorem State.beginLive_img (s : State) (src : BitVec 10) (kind : Nat) : (s.beginLive src kind).img = s.img := rfl
@[simp] theorem State.beginLive_clk (s : State) (src : BitVec 10) (kind : Nat) : (s.beginLive src kind).clk = s.clk := rfl
@[simp] theorem State.beginLive_cel (s : State) (src : BitVec 10) (kind : Nat) : (s.beginLive src kind).cel = s.cel := rfl
@[simp] theorem State.beginLive_flash (s : State) (src : BitVec 10) (kind : Nat) : (s.beginLive src kind).flash = s.flash := rfl
@[simp] theorem State.beginLive_lnk (s : State) (src : BitVec 10) (kind : Nat) : (s.beginLive src kind).lnk = s.lnk := rfl
@[simp] theorem State.beginLive_pwr (s : State) (src : BitVec 10) (kind : Nat) : (s.beginLive src kind).pwr = s.pwr := rfl
@[simp] theorem State.beginLive_att (s : State) (src : BitVec 10) (kind : Nat) : (s.beginLive src kind).att = s.att := rfl
@[simp] theorem State.beginLive_host (s : State) (src : BitVec 10) (kind : Nat) : (s.beginLive src kind).host = s.host := rfl
@[simp] theorem State.beginLive_jtag (s : State) (src : BitVec 10) (kind : Nat) : (s.beginLive src kind).jtag = s.jtag := rfl
@[simp] theorem State.beginLive_marks (s : State) (src : BitVec 10) (kind : Nat) : (s.beginLive src kind).marks = s.marks := rfl
@[simp] theorem State.beginLive_strobes (s : State) (src : BitVec 10) (kind : Nat) : (s.beginLive src kind).strobes = s.strobes := rfl

/-! ### endLive -/

@[simp] theorem State.endLive_pending (s : State) (src : BitVec 10) (kind : Nat) : (s.endLive src kind).pending = s.pending := rfl
@[simp] theorem State.endLive_time (s : State) (src : BitVec 10) (kind : Nat) : (s.endLive src kind).time = s.time := rfl
@[simp] theorem State.endLive_ticks (s : State) (src : BitVec 10) (kind : Nat) : (s.endLive src kind).ticks = s.ticks := rfl
@[simp] theorem State.endLive_frac (s : State) (src : BitVec 10) (kind : Nat) : (s.endLive src kind).frac = s.frac := rfl
@[simp] theorem State.endLive_landed (s : State) (src : BitVec 10) (kind : Nat) : (s.endLive src kind).landed = s.landed := rfl
@[simp] theorem State.endLive_draws (s : State) (src : BitVec 10) (kind : Nat) : (s.endLive src kind).draws = s.draws := rfl
@[simp] theorem State.endLive_chans (s : State) (src : BitVec 10) (kind : Nat) : (s.endLive src kind).chans = s.chans := rfl
@[simp] theorem State.endLive_cells (s : State) (src : BitVec 10) (kind : Nat) : (s.endLive src kind).cells = s.cells := rfl
@[simp] theorem State.endLive_bays (s : State) (src : BitVec 10) (kind : Nat) : (s.endLive src kind).bays = s.bays := rfl
@[simp] theorem State.endLive_mem (s : State) (src : BitVec 10) (kind : Nat) : (s.endLive src kind).mem = s.mem := rfl
@[simp] theorem State.endLive_fresh (s : State) (src : BitVec 10) (kind : Nat) : (s.endLive src kind).fresh = s.fresh := rfl
@[simp] theorem State.endLive_img (s : State) (src : BitVec 10) (kind : Nat) : (s.endLive src kind).img = s.img := rfl
@[simp] theorem State.endLive_clk (s : State) (src : BitVec 10) (kind : Nat) : (s.endLive src kind).clk = s.clk := rfl
@[simp] theorem State.endLive_cel (s : State) (src : BitVec 10) (kind : Nat) : (s.endLive src kind).cel = s.cel := rfl
@[simp] theorem State.endLive_flash (s : State) (src : BitVec 10) (kind : Nat) : (s.endLive src kind).flash = s.flash := rfl
@[simp] theorem State.endLive_lnk (s : State) (src : BitVec 10) (kind : Nat) : (s.endLive src kind).lnk = s.lnk := rfl
@[simp] theorem State.endLive_pwr (s : State) (src : BitVec 10) (kind : Nat) : (s.endLive src kind).pwr = s.pwr := rfl
@[simp] theorem State.endLive_att (s : State) (src : BitVec 10) (kind : Nat) : (s.endLive src kind).att = s.att := rfl
@[simp] theorem State.endLive_host (s : State) (src : BitVec 10) (kind : Nat) : (s.endLive src kind).host = s.host := rfl
@[simp] theorem State.endLive_jtag (s : State) (src : BitVec 10) (kind : Nat) : (s.endLive src kind).jtag = s.jtag := rfl
@[simp] theorem State.endLive_marks (s : State) (src : BitVec 10) (kind : Nat) : (s.endLive src kind).marks = s.marks := rfl
@[simp] theorem State.endLive_strobes (s : State) (src : BitVec 10) (kind : Nat) : (s.endLive src kind).strobes = s.strobes := rfl

/-! ### upAtt -/

@[simp] theorem State.upAtt_pending (s : State) (f : Att → Att) : (s.upAtt f).pending = s.pending := rfl
@[simp] theorem State.upAtt_time (s : State) (f : Att → Att) : (s.upAtt f).time = s.time := rfl
@[simp] theorem State.upAtt_ticks (s : State) (f : Att → Att) : (s.upAtt f).ticks = s.ticks := rfl
@[simp] theorem State.upAtt_frac (s : State) (f : Att → Att) : (s.upAtt f).frac = s.frac := rfl
@[simp] theorem State.upAtt_landed (s : State) (f : Att → Att) : (s.upAtt f).landed = s.landed := rfl
@[simp] theorem State.upAtt_draws (s : State) (f : Att → Att) : (s.upAtt f).draws = s.draws := rfl
@[simp] theorem State.upAtt_chans (s : State) (f : Att → Att) : (s.upAtt f).chans = s.chans := rfl
@[simp] theorem State.upAtt_cells (s : State) (f : Att → Att) : (s.upAtt f).cells = s.cells := rfl
@[simp] theorem State.upAtt_bays (s : State) (f : Att → Att) : (s.upAtt f).bays = s.bays := rfl
@[simp] theorem State.upAtt_mem (s : State) (f : Att → Att) : (s.upAtt f).mem = s.mem := rfl
@[simp] theorem State.upAtt_fresh (s : State) (f : Att → Att) : (s.upAtt f).fresh = s.fresh := rfl
@[simp] theorem State.upAtt_img (s : State) (f : Att → Att) : (s.upAtt f).img = s.img := rfl
@[simp] theorem State.upAtt_clk (s : State) (f : Att → Att) : (s.upAtt f).clk = s.clk := rfl
@[simp] theorem State.upAtt_flt (s : State) (f : Att → Att) : (s.upAtt f).flt = s.flt := rfl
@[simp] theorem State.upAtt_cel (s : State) (f : Att → Att) : (s.upAtt f).cel = s.cel := rfl
@[simp] theorem State.upAtt_flash (s : State) (f : Att → Att) : (s.upAtt f).flash = s.flash := rfl
@[simp] theorem State.upAtt_lnk (s : State) (f : Att → Att) : (s.upAtt f).lnk = s.lnk := rfl
@[simp] theorem State.upAtt_pwr (s : State) (f : Att → Att) : (s.upAtt f).pwr = s.pwr := rfl
@[simp] theorem State.upAtt_host (s : State) (f : Att → Att) : (s.upAtt f).host = s.host := rfl
@[simp] theorem State.upAtt_jtag (s : State) (f : Att → Att) : (s.upAtt f).jtag = s.jtag := rfl
@[simp] theorem State.upAtt_marks (s : State) (f : Att → Att) : (s.upAtt f).marks = s.marks := rfl
@[simp] theorem State.upAtt_strobes (s : State) (f : Att → Att) : (s.upAtt f).strobes = s.strobes := rfl

/-! ### upMig -/

@[simp] theorem State.upMig_pending (s : State) (b : Bay) (f : BayMig → BayMig) : (s.upMig b f).pending = s.pending := rfl
@[simp] theorem State.upMig_time (s : State) (b : Bay) (f : BayMig → BayMig) : (s.upMig b f).time = s.time := rfl
@[simp] theorem State.upMig_ticks (s : State) (b : Bay) (f : BayMig → BayMig) : (s.upMig b f).ticks = s.ticks := rfl
@[simp] theorem State.upMig_frac (s : State) (b : Bay) (f : BayMig → BayMig) : (s.upMig b f).frac = s.frac := rfl
@[simp] theorem State.upMig_landed (s : State) (b : Bay) (f : BayMig → BayMig) : (s.upMig b f).landed = s.landed := rfl
@[simp] theorem State.upMig_draws (s : State) (b : Bay) (f : BayMig → BayMig) : (s.upMig b f).draws = s.draws := rfl
@[simp] theorem State.upMig_chans (s : State) (b : Bay) (f : BayMig → BayMig) : (s.upMig b f).chans = s.chans := rfl
@[simp] theorem State.upMig_cells (s : State) (b : Bay) (f : BayMig → BayMig) : (s.upMig b f).cells = s.cells := rfl
@[simp] theorem State.upMig_bays (s : State) (b : Bay) (f : BayMig → BayMig) : (s.upMig b f).bays = s.bays := rfl
@[simp] theorem State.upMig_mem (s : State) (b : Bay) (f : BayMig → BayMig) : (s.upMig b f).mem = s.mem := rfl
@[simp] theorem State.upMig_fresh (s : State) (b : Bay) (f : BayMig → BayMig) : (s.upMig b f).fresh = s.fresh := rfl
@[simp] theorem State.upMig_img (s : State) (b : Bay) (f : BayMig → BayMig) : (s.upMig b f).img = s.img := rfl
@[simp] theorem State.upMig_clk (s : State) (b : Bay) (f : BayMig → BayMig) : (s.upMig b f).clk = s.clk := rfl
@[simp] theorem State.upMig_flt (s : State) (b : Bay) (f : BayMig → BayMig) : (s.upMig b f).flt = s.flt := rfl
@[simp] theorem State.upMig_cel (s : State) (b : Bay) (f : BayMig → BayMig) : (s.upMig b f).cel = s.cel := rfl
@[simp] theorem State.upMig_flash (s : State) (b : Bay) (f : BayMig → BayMig) : (s.upMig b f).flash = s.flash := rfl
@[simp] theorem State.upMig_lnk (s : State) (b : Bay) (f : BayMig → BayMig) : (s.upMig b f).lnk = s.lnk := rfl
@[simp] theorem State.upMig_pwr (s : State) (b : Bay) (f : BayMig → BayMig) : (s.upMig b f).pwr = s.pwr := rfl
@[simp] theorem State.upMig_host (s : State) (b : Bay) (f : BayMig → BayMig) : (s.upMig b f).host = s.host := rfl
@[simp] theorem State.upMig_jtag (s : State) (b : Bay) (f : BayMig → BayMig) : (s.upMig b f).jtag = s.jtag := rfl
@[simp] theorem State.upMig_marks (s : State) (b : Bay) (f : BayMig → BayMig) : (s.upMig b f).marks = s.marks := rfl
@[simp] theorem State.upMig_strobes (s : State) (b : Bay) (f : BayMig → BayMig) : (s.upMig b f).strobes = s.strobes := rfl

/-! ### upClk -/

@[simp] theorem State.upClk_pending (s : State) (f : Clk → Clk) : (s.upClk f).pending = s.pending := rfl
@[simp] theorem State.upClk_time (s : State) (f : Clk → Clk) : (s.upClk f).time = s.time := rfl
@[simp] theorem State.upClk_ticks (s : State) (f : Clk → Clk) : (s.upClk f).ticks = s.ticks := rfl
@[simp] theorem State.upClk_frac (s : State) (f : Clk → Clk) : (s.upClk f).frac = s.frac := rfl
@[simp] theorem State.upClk_landed (s : State) (f : Clk → Clk) : (s.upClk f).landed = s.landed := rfl
@[simp] theorem State.upClk_draws (s : State) (f : Clk → Clk) : (s.upClk f).draws = s.draws := rfl
@[simp] theorem State.upClk_chans (s : State) (f : Clk → Clk) : (s.upClk f).chans = s.chans := rfl
@[simp] theorem State.upClk_cells (s : State) (f : Clk → Clk) : (s.upClk f).cells = s.cells := rfl
@[simp] theorem State.upClk_bays (s : State) (f : Clk → Clk) : (s.upClk f).bays = s.bays := rfl
@[simp] theorem State.upClk_mem (s : State) (f : Clk → Clk) : (s.upClk f).mem = s.mem := rfl
@[simp] theorem State.upClk_fresh (s : State) (f : Clk → Clk) : (s.upClk f).fresh = s.fresh := rfl
@[simp] theorem State.upClk_img (s : State) (f : Clk → Clk) : (s.upClk f).img = s.img := rfl
@[simp] theorem State.upClk_flt (s : State) (f : Clk → Clk) : (s.upClk f).flt = s.flt := rfl
@[simp] theorem State.upClk_cel (s : State) (f : Clk → Clk) : (s.upClk f).cel = s.cel := rfl
@[simp] theorem State.upClk_flash (s : State) (f : Clk → Clk) : (s.upClk f).flash = s.flash := rfl
@[simp] theorem State.upClk_lnk (s : State) (f : Clk → Clk) : (s.upClk f).lnk = s.lnk := rfl
@[simp] theorem State.upClk_pwr (s : State) (f : Clk → Clk) : (s.upClk f).pwr = s.pwr := rfl
@[simp] theorem State.upClk_att (s : State) (f : Clk → Clk) : (s.upClk f).att = s.att := rfl
@[simp] theorem State.upClk_host (s : State) (f : Clk → Clk) : (s.upClk f).host = s.host := rfl
@[simp] theorem State.upClk_jtag (s : State) (f : Clk → Clk) : (s.upClk f).jtag = s.jtag := rfl
@[simp] theorem State.upClk_marks (s : State) (f : Clk → Clk) : (s.upClk f).marks = s.marks := rfl
@[simp] theorem State.upClk_strobes (s : State) (f : Clk → Clk) : (s.upClk f).strobes = s.strobes := rfl

/-! ### upPll -/

@[simp] theorem State.upPll_pending (s : State) (p : PllId) (f : Pll → Pll) : (s.upPll p f).pending = s.pending := by cases p <;> rfl
@[simp] theorem State.upPll_time (s : State) (p : PllId) (f : Pll → Pll) : (s.upPll p f).time = s.time := by cases p <;> rfl
@[simp] theorem State.upPll_ticks (s : State) (p : PllId) (f : Pll → Pll) : (s.upPll p f).ticks = s.ticks := by cases p <;> rfl
@[simp] theorem State.upPll_frac (s : State) (p : PllId) (f : Pll → Pll) : (s.upPll p f).frac = s.frac := by cases p <;> rfl
@[simp] theorem State.upPll_landed (s : State) (p : PllId) (f : Pll → Pll) : (s.upPll p f).landed = s.landed := by cases p <;> rfl
@[simp] theorem State.upPll_draws (s : State) (p : PllId) (f : Pll → Pll) : (s.upPll p f).draws = s.draws := by cases p <;> rfl
@[simp] theorem State.upPll_chans (s : State) (p : PllId) (f : Pll → Pll) : (s.upPll p f).chans = s.chans := by cases p <;> rfl
@[simp] theorem State.upPll_cells (s : State) (p : PllId) (f : Pll → Pll) : (s.upPll p f).cells = s.cells := by cases p <;> rfl
@[simp] theorem State.upPll_bays (s : State) (p : PllId) (f : Pll → Pll) : (s.upPll p f).bays = s.bays := by cases p <;> rfl
@[simp] theorem State.upPll_mem (s : State) (p : PllId) (f : Pll → Pll) : (s.upPll p f).mem = s.mem := by cases p <;> rfl
@[simp] theorem State.upPll_fresh (s : State) (p : PllId) (f : Pll → Pll) : (s.upPll p f).fresh = s.fresh := by cases p <;> rfl
@[simp] theorem State.upPll_img (s : State) (p : PllId) (f : Pll → Pll) : (s.upPll p f).img = s.img := by cases p <;> rfl
@[simp] theorem State.upPll_flt (s : State) (p : PllId) (f : Pll → Pll) : (s.upPll p f).flt = s.flt := by cases p <;> rfl
@[simp] theorem State.upPll_cel (s : State) (p : PllId) (f : Pll → Pll) : (s.upPll p f).cel = s.cel := by cases p <;> rfl
@[simp] theorem State.upPll_flash (s : State) (p : PllId) (f : Pll → Pll) : (s.upPll p f).flash = s.flash := by cases p <;> rfl
@[simp] theorem State.upPll_lnk (s : State) (p : PllId) (f : Pll → Pll) : (s.upPll p f).lnk = s.lnk := by cases p <;> rfl
@[simp] theorem State.upPll_pwr (s : State) (p : PllId) (f : Pll → Pll) : (s.upPll p f).pwr = s.pwr := by cases p <;> rfl
@[simp] theorem State.upPll_att (s : State) (p : PllId) (f : Pll → Pll) : (s.upPll p f).att = s.att := by cases p <;> rfl
@[simp] theorem State.upPll_host (s : State) (p : PllId) (f : Pll → Pll) : (s.upPll p f).host = s.host := by cases p <;> rfl
@[simp] theorem State.upPll_jtag (s : State) (p : PllId) (f : Pll → Pll) : (s.upPll p f).jtag = s.jtag := by cases p <;> rfl
@[simp] theorem State.upPll_marks (s : State) (p : PllId) (f : Pll → Pll) : (s.upPll p f).marks = s.marks := by cases p <;> rfl
@[simp] theorem State.upPll_strobes (s : State) (p : PllId) (f : Pll → Pll) : (s.upPll p f).strobes = s.strobes := by cases p <;> rfl

/-! ### upLnk -/

@[simp] theorem State.upLnk_pending (s : State) (f : Lnk → Lnk) : (s.upLnk f).pending = s.pending := rfl
@[simp] theorem State.upLnk_time (s : State) (f : Lnk → Lnk) : (s.upLnk f).time = s.time := rfl
@[simp] theorem State.upLnk_ticks (s : State) (f : Lnk → Lnk) : (s.upLnk f).ticks = s.ticks := rfl
@[simp] theorem State.upLnk_frac (s : State) (f : Lnk → Lnk) : (s.upLnk f).frac = s.frac := rfl
@[simp] theorem State.upLnk_landed (s : State) (f : Lnk → Lnk) : (s.upLnk f).landed = s.landed := rfl
@[simp] theorem State.upLnk_draws (s : State) (f : Lnk → Lnk) : (s.upLnk f).draws = s.draws := rfl
@[simp] theorem State.upLnk_chans (s : State) (f : Lnk → Lnk) : (s.upLnk f).chans = s.chans := rfl
@[simp] theorem State.upLnk_cells (s : State) (f : Lnk → Lnk) : (s.upLnk f).cells = s.cells := rfl
@[simp] theorem State.upLnk_bays (s : State) (f : Lnk → Lnk) : (s.upLnk f).bays = s.bays := rfl
@[simp] theorem State.upLnk_mem (s : State) (f : Lnk → Lnk) : (s.upLnk f).mem = s.mem := rfl
@[simp] theorem State.upLnk_fresh (s : State) (f : Lnk → Lnk) : (s.upLnk f).fresh = s.fresh := rfl
@[simp] theorem State.upLnk_img (s : State) (f : Lnk → Lnk) : (s.upLnk f).img = s.img := rfl
@[simp] theorem State.upLnk_clk (s : State) (f : Lnk → Lnk) : (s.upLnk f).clk = s.clk := rfl
@[simp] theorem State.upLnk_flt (s : State) (f : Lnk → Lnk) : (s.upLnk f).flt = s.flt := rfl
@[simp] theorem State.upLnk_cel (s : State) (f : Lnk → Lnk) : (s.upLnk f).cel = s.cel := rfl
@[simp] theorem State.upLnk_flash (s : State) (f : Lnk → Lnk) : (s.upLnk f).flash = s.flash := rfl
@[simp] theorem State.upLnk_pwr (s : State) (f : Lnk → Lnk) : (s.upLnk f).pwr = s.pwr := rfl
@[simp] theorem State.upLnk_att (s : State) (f : Lnk → Lnk) : (s.upLnk f).att = s.att := rfl
@[simp] theorem State.upLnk_host (s : State) (f : Lnk → Lnk) : (s.upLnk f).host = s.host := rfl
@[simp] theorem State.upLnk_jtag (s : State) (f : Lnk → Lnk) : (s.upLnk f).jtag = s.jtag := rfl
@[simp] theorem State.upLnk_marks (s : State) (f : Lnk → Lnk) : (s.upLnk f).marks = s.marks := rfl
@[simp] theorem State.upLnk_strobes (s : State) (f : Lnk → Lnk) : (s.upLnk f).strobes = s.strobes := rfl

/-! ### upPort -/

@[simp] theorem State.upPort_pending (s : State) (p : Port) (f : PortSt → PortSt) : (s.upPort p f).pending = s.pending := rfl
@[simp] theorem State.upPort_time (s : State) (p : Port) (f : PortSt → PortSt) : (s.upPort p f).time = s.time := rfl
@[simp] theorem State.upPort_ticks (s : State) (p : Port) (f : PortSt → PortSt) : (s.upPort p f).ticks = s.ticks := rfl
@[simp] theorem State.upPort_frac (s : State) (p : Port) (f : PortSt → PortSt) : (s.upPort p f).frac = s.frac := rfl
@[simp] theorem State.upPort_landed (s : State) (p : Port) (f : PortSt → PortSt) : (s.upPort p f).landed = s.landed := rfl
@[simp] theorem State.upPort_draws (s : State) (p : Port) (f : PortSt → PortSt) : (s.upPort p f).draws = s.draws := rfl
@[simp] theorem State.upPort_chans (s : State) (p : Port) (f : PortSt → PortSt) : (s.upPort p f).chans = s.chans := rfl
@[simp] theorem State.upPort_cells (s : State) (p : Port) (f : PortSt → PortSt) : (s.upPort p f).cells = s.cells := rfl
@[simp] theorem State.upPort_bays (s : State) (p : Port) (f : PortSt → PortSt) : (s.upPort p f).bays = s.bays := rfl
@[simp] theorem State.upPort_mem (s : State) (p : Port) (f : PortSt → PortSt) : (s.upPort p f).mem = s.mem := rfl
@[simp] theorem State.upPort_fresh (s : State) (p : Port) (f : PortSt → PortSt) : (s.upPort p f).fresh = s.fresh := rfl
@[simp] theorem State.upPort_img (s : State) (p : Port) (f : PortSt → PortSt) : (s.upPort p f).img = s.img := rfl
@[simp] theorem State.upPort_clk (s : State) (p : Port) (f : PortSt → PortSt) : (s.upPort p f).clk = s.clk := rfl
@[simp] theorem State.upPort_flt (s : State) (p : Port) (f : PortSt → PortSt) : (s.upPort p f).flt = s.flt := rfl
@[simp] theorem State.upPort_cel (s : State) (p : Port) (f : PortSt → PortSt) : (s.upPort p f).cel = s.cel := rfl
@[simp] theorem State.upPort_flash (s : State) (p : Port) (f : PortSt → PortSt) : (s.upPort p f).flash = s.flash := rfl
@[simp] theorem State.upPort_pwr (s : State) (p : Port) (f : PortSt → PortSt) : (s.upPort p f).pwr = s.pwr := rfl
@[simp] theorem State.upPort_att (s : State) (p : Port) (f : PortSt → PortSt) : (s.upPort p f).att = s.att := rfl
@[simp] theorem State.upPort_host (s : State) (p : Port) (f : PortSt → PortSt) : (s.upPort p f).host = s.host := rfl
@[simp] theorem State.upPort_jtag (s : State) (p : Port) (f : PortSt → PortSt) : (s.upPort p f).jtag = s.jtag := rfl
@[simp] theorem State.upPort_marks (s : State) (p : Port) (f : PortSt → PortSt) : (s.upPort p f).marks = s.marks := rfl
@[simp] theorem State.upPort_strobes (s : State) (p : Port) (f : PortSt → PortSt) : (s.upPort p f).strobes = s.strobes := rfl

/-! ### upPwr -/

@[simp] theorem State.upPwr_pending (s : State) (f : Pwr → Pwr) : (s.upPwr f).pending = s.pending := rfl
@[simp] theorem State.upPwr_time (s : State) (f : Pwr → Pwr) : (s.upPwr f).time = s.time := rfl
@[simp] theorem State.upPwr_ticks (s : State) (f : Pwr → Pwr) : (s.upPwr f).ticks = s.ticks := rfl
@[simp] theorem State.upPwr_frac (s : State) (f : Pwr → Pwr) : (s.upPwr f).frac = s.frac := rfl
@[simp] theorem State.upPwr_landed (s : State) (f : Pwr → Pwr) : (s.upPwr f).landed = s.landed := rfl
@[simp] theorem State.upPwr_draws (s : State) (f : Pwr → Pwr) : (s.upPwr f).draws = s.draws := rfl
@[simp] theorem State.upPwr_chans (s : State) (f : Pwr → Pwr) : (s.upPwr f).chans = s.chans := rfl
@[simp] theorem State.upPwr_cells (s : State) (f : Pwr → Pwr) : (s.upPwr f).cells = s.cells := rfl
@[simp] theorem State.upPwr_bays (s : State) (f : Pwr → Pwr) : (s.upPwr f).bays = s.bays := rfl
@[simp] theorem State.upPwr_mem (s : State) (f : Pwr → Pwr) : (s.upPwr f).mem = s.mem := rfl
@[simp] theorem State.upPwr_fresh (s : State) (f : Pwr → Pwr) : (s.upPwr f).fresh = s.fresh := rfl
@[simp] theorem State.upPwr_img (s : State) (f : Pwr → Pwr) : (s.upPwr f).img = s.img := rfl
@[simp] theorem State.upPwr_clk (s : State) (f : Pwr → Pwr) : (s.upPwr f).clk = s.clk := rfl
@[simp] theorem State.upPwr_flt (s : State) (f : Pwr → Pwr) : (s.upPwr f).flt = s.flt := rfl
@[simp] theorem State.upPwr_cel (s : State) (f : Pwr → Pwr) : (s.upPwr f).cel = s.cel := rfl
@[simp] theorem State.upPwr_flash (s : State) (f : Pwr → Pwr) : (s.upPwr f).flash = s.flash := rfl
@[simp] theorem State.upPwr_lnk (s : State) (f : Pwr → Pwr) : (s.upPwr f).lnk = s.lnk := rfl
@[simp] theorem State.upPwr_att (s : State) (f : Pwr → Pwr) : (s.upPwr f).att = s.att := rfl
@[simp] theorem State.upPwr_host (s : State) (f : Pwr → Pwr) : (s.upPwr f).host = s.host := rfl
@[simp] theorem State.upPwr_jtag (s : State) (f : Pwr → Pwr) : (s.upPwr f).jtag = s.jtag := rfl
@[simp] theorem State.upPwr_marks (s : State) (f : Pwr → Pwr) : (s.upPwr f).marks = s.marks := rfl
@[simp] theorem State.upPwr_strobes (s : State) (f : Pwr → Pwr) : (s.upPwr f).strobes = s.strobes := rfl

/-! ### upImg -/

@[simp] theorem State.upImg_pending (s : State) (f : Img → Img) : (s.upImg f).pending = s.pending := rfl
@[simp] theorem State.upImg_time (s : State) (f : Img → Img) : (s.upImg f).time = s.time := rfl
@[simp] theorem State.upImg_ticks (s : State) (f : Img → Img) : (s.upImg f).ticks = s.ticks := rfl
@[simp] theorem State.upImg_frac (s : State) (f : Img → Img) : (s.upImg f).frac = s.frac := rfl
@[simp] theorem State.upImg_landed (s : State) (f : Img → Img) : (s.upImg f).landed = s.landed := rfl
@[simp] theorem State.upImg_draws (s : State) (f : Img → Img) : (s.upImg f).draws = s.draws := rfl
@[simp] theorem State.upImg_chans (s : State) (f : Img → Img) : (s.upImg f).chans = s.chans := rfl
@[simp] theorem State.upImg_cells (s : State) (f : Img → Img) : (s.upImg f).cells = s.cells := rfl
@[simp] theorem State.upImg_bays (s : State) (f : Img → Img) : (s.upImg f).bays = s.bays := rfl
@[simp] theorem State.upImg_mem (s : State) (f : Img → Img) : (s.upImg f).mem = s.mem := rfl
@[simp] theorem State.upImg_fresh (s : State) (f : Img → Img) : (s.upImg f).fresh = s.fresh := rfl
@[simp] theorem State.upImg_clk (s : State) (f : Img → Img) : (s.upImg f).clk = s.clk := rfl
@[simp] theorem State.upImg_flt (s : State) (f : Img → Img) : (s.upImg f).flt = s.flt := rfl
@[simp] theorem State.upImg_cel (s : State) (f : Img → Img) : (s.upImg f).cel = s.cel := rfl
@[simp] theorem State.upImg_flash (s : State) (f : Img → Img) : (s.upImg f).flash = s.flash := rfl
@[simp] theorem State.upImg_lnk (s : State) (f : Img → Img) : (s.upImg f).lnk = s.lnk := rfl
@[simp] theorem State.upImg_pwr (s : State) (f : Img → Img) : (s.upImg f).pwr = s.pwr := rfl
@[simp] theorem State.upImg_att (s : State) (f : Img → Img) : (s.upImg f).att = s.att := rfl
@[simp] theorem State.upImg_host (s : State) (f : Img → Img) : (s.upImg f).host = s.host := rfl
@[simp] theorem State.upImg_jtag (s : State) (f : Img → Img) : (s.upImg f).jtag = s.jtag := rfl
@[simp] theorem State.upImg_marks (s : State) (f : Img → Img) : (s.upImg f).marks = s.marks := rfl
@[simp] theorem State.upImg_strobes (s : State) (f : Img → Img) : (s.upImg f).strobes = s.strobes := rfl

/-! ### upJtag -/

@[simp] theorem State.upJtag_pending (s : State) (f : Jtag → Jtag) : (s.upJtag f).pending = s.pending := rfl
@[simp] theorem State.upJtag_time (s : State) (f : Jtag → Jtag) : (s.upJtag f).time = s.time := rfl
@[simp] theorem State.upJtag_ticks (s : State) (f : Jtag → Jtag) : (s.upJtag f).ticks = s.ticks := rfl
@[simp] theorem State.upJtag_frac (s : State) (f : Jtag → Jtag) : (s.upJtag f).frac = s.frac := rfl
@[simp] theorem State.upJtag_landed (s : State) (f : Jtag → Jtag) : (s.upJtag f).landed = s.landed := rfl
@[simp] theorem State.upJtag_draws (s : State) (f : Jtag → Jtag) : (s.upJtag f).draws = s.draws := rfl
@[simp] theorem State.upJtag_chans (s : State) (f : Jtag → Jtag) : (s.upJtag f).chans = s.chans := rfl
@[simp] theorem State.upJtag_cells (s : State) (f : Jtag → Jtag) : (s.upJtag f).cells = s.cells := rfl
@[simp] theorem State.upJtag_bays (s : State) (f : Jtag → Jtag) : (s.upJtag f).bays = s.bays := rfl
@[simp] theorem State.upJtag_mem (s : State) (f : Jtag → Jtag) : (s.upJtag f).mem = s.mem := rfl
@[simp] theorem State.upJtag_fresh (s : State) (f : Jtag → Jtag) : (s.upJtag f).fresh = s.fresh := rfl
@[simp] theorem State.upJtag_img (s : State) (f : Jtag → Jtag) : (s.upJtag f).img = s.img := rfl
@[simp] theorem State.upJtag_clk (s : State) (f : Jtag → Jtag) : (s.upJtag f).clk = s.clk := rfl
@[simp] theorem State.upJtag_flt (s : State) (f : Jtag → Jtag) : (s.upJtag f).flt = s.flt := rfl
@[simp] theorem State.upJtag_cel (s : State) (f : Jtag → Jtag) : (s.upJtag f).cel = s.cel := rfl
@[simp] theorem State.upJtag_flash (s : State) (f : Jtag → Jtag) : (s.upJtag f).flash = s.flash := rfl
@[simp] theorem State.upJtag_lnk (s : State) (f : Jtag → Jtag) : (s.upJtag f).lnk = s.lnk := rfl
@[simp] theorem State.upJtag_pwr (s : State) (f : Jtag → Jtag) : (s.upJtag f).pwr = s.pwr := rfl
@[simp] theorem State.upJtag_att (s : State) (f : Jtag → Jtag) : (s.upJtag f).att = s.att := rfl
@[simp] theorem State.upJtag_host (s : State) (f : Jtag → Jtag) : (s.upJtag f).host = s.host := rfl
@[simp] theorem State.upJtag_marks (s : State) (f : Jtag → Jtag) : (s.upJtag f).marks = s.marks := rfl
@[simp] theorem State.upJtag_strobes (s : State) (f : Jtag → Jtag) : (s.upJtag f).strobes = s.strobes := rfl

/-! ### loadIr -/

@[simp] theorem State.loadIr_pending (s : State) (i : JtagIr) : (s.loadIr i).pending = s.pending := rfl
@[simp] theorem State.loadIr_time (s : State) (i : JtagIr) : (s.loadIr i).time = s.time := rfl
@[simp] theorem State.loadIr_ticks (s : State) (i : JtagIr) : (s.loadIr i).ticks = s.ticks := rfl
@[simp] theorem State.loadIr_frac (s : State) (i : JtagIr) : (s.loadIr i).frac = s.frac := rfl
@[simp] theorem State.loadIr_landed (s : State) (i : JtagIr) : (s.loadIr i).landed = s.landed := rfl
@[simp] theorem State.loadIr_draws (s : State) (i : JtagIr) : (s.loadIr i).draws = s.draws := rfl
@[simp] theorem State.loadIr_chans (s : State) (i : JtagIr) : (s.loadIr i).chans = s.chans := rfl
@[simp] theorem State.loadIr_cells (s : State) (i : JtagIr) : (s.loadIr i).cells = s.cells := rfl
@[simp] theorem State.loadIr_bays (s : State) (i : JtagIr) : (s.loadIr i).bays = s.bays := rfl
@[simp] theorem State.loadIr_mem (s : State) (i : JtagIr) : (s.loadIr i).mem = s.mem := rfl
@[simp] theorem State.loadIr_fresh (s : State) (i : JtagIr) : (s.loadIr i).fresh = s.fresh := rfl
@[simp] theorem State.loadIr_img (s : State) (i : JtagIr) : (s.loadIr i).img = s.img := rfl
@[simp] theorem State.loadIr_clk (s : State) (i : JtagIr) : (s.loadIr i).clk = s.clk := rfl
@[simp] theorem State.loadIr_flt (s : State) (i : JtagIr) : (s.loadIr i).flt = s.flt := rfl
@[simp] theorem State.loadIr_cel (s : State) (i : JtagIr) : (s.loadIr i).cel = s.cel := rfl
@[simp] theorem State.loadIr_flash (s : State) (i : JtagIr) : (s.loadIr i).flash = s.flash := rfl
@[simp] theorem State.loadIr_lnk (s : State) (i : JtagIr) : (s.loadIr i).lnk = s.lnk := rfl
@[simp] theorem State.loadIr_pwr (s : State) (i : JtagIr) : (s.loadIr i).pwr = s.pwr := rfl
@[simp] theorem State.loadIr_att (s : State) (i : JtagIr) : (s.loadIr i).att = s.att := rfl
@[simp] theorem State.loadIr_host (s : State) (i : JtagIr) : (s.loadIr i).host = s.host := rfl
@[simp] theorem State.loadIr_marks (s : State) (i : JtagIr) : (s.loadIr i).marks = s.marks := rfl
@[simp] theorem State.loadIr_strobes (s : State) (i : JtagIr) : (s.loadIr i).strobes = s.strobes := rfl

/-! ### land -/

@[simp] theorem State.land_pending (s : State) (l : List Instr) : (s.land l).pending = s.pending := rfl
@[simp] theorem State.land_time (s : State) (l : List Instr) : (s.land l).time = s.time := rfl
@[simp] theorem State.land_ticks (s : State) (l : List Instr) : (s.land l).ticks = s.ticks := rfl
@[simp] theorem State.land_frac (s : State) (l : List Instr) : (s.land l).frac = s.frac := rfl
@[simp] theorem State.land_draws (s : State) (l : List Instr) : (s.land l).draws = s.draws := rfl
@[simp] theorem State.land_chans (s : State) (l : List Instr) : (s.land l).chans = s.chans := rfl
@[simp] theorem State.land_cells (s : State) (l : List Instr) : (s.land l).cells = s.cells := rfl
@[simp] theorem State.land_bays (s : State) (l : List Instr) : (s.land l).bays = s.bays := rfl
@[simp] theorem State.land_mem (s : State) (l : List Instr) : (s.land l).mem = s.mem := rfl
@[simp] theorem State.land_fresh (s : State) (l : List Instr) : (s.land l).fresh = s.fresh := rfl
@[simp] theorem State.land_img (s : State) (l : List Instr) : (s.land l).img = s.img := rfl
@[simp] theorem State.land_clk (s : State) (l : List Instr) : (s.land l).clk = s.clk := rfl
@[simp] theorem State.land_flt (s : State) (l : List Instr) : (s.land l).flt = s.flt := rfl
@[simp] theorem State.land_cel (s : State) (l : List Instr) : (s.land l).cel = s.cel := rfl
@[simp] theorem State.land_flash (s : State) (l : List Instr) : (s.land l).flash = s.flash := rfl
@[simp] theorem State.land_lnk (s : State) (l : List Instr) : (s.land l).lnk = s.lnk := rfl
@[simp] theorem State.land_pwr (s : State) (l : List Instr) : (s.land l).pwr = s.pwr := rfl
@[simp] theorem State.land_att (s : State) (l : List Instr) : (s.land l).att = s.att := rfl
@[simp] theorem State.land_host (s : State) (l : List Instr) : (s.land l).host = s.host := rfl
@[simp] theorem State.land_jtag (s : State) (l : List Instr) : (s.land l).jtag = s.jtag := rfl
@[simp] theorem State.land_marks (s : State) (l : List Instr) : (s.land l).marks = s.marks := rfl
@[simp] theorem State.land_strobes (s : State) (l : List Instr) : (s.land l).strobes = s.strobes := rfl

/-! ### sample -/

@[simp] theorem State.sample_pending (s : State) (n : Ch) : (s.sample n).pending = s.pending := rfl
@[simp] theorem State.sample_time (s : State) (n : Ch) : (s.sample n).time = s.time := rfl
@[simp] theorem State.sample_ticks (s : State) (n : Ch) : (s.sample n).ticks = s.ticks := rfl
@[simp] theorem State.sample_frac (s : State) (n : Ch) : (s.sample n).frac = s.frac := rfl
@[simp] theorem State.sample_landed (s : State) (n : Ch) : (s.sample n).landed = s.landed := rfl
@[simp] theorem State.sample_draws (s : State) (n : Ch) : (s.sample n).draws = s.draws := rfl
@[simp] theorem State.sample_cells (s : State) (n : Ch) : (s.sample n).cells = s.cells := rfl
@[simp] theorem State.sample_bays (s : State) (n : Ch) : (s.sample n).bays = s.bays := rfl
@[simp] theorem State.sample_mem (s : State) (n : Ch) : (s.sample n).mem = s.mem := rfl
@[simp] theorem State.sample_fresh (s : State) (n : Ch) : (s.sample n).fresh = s.fresh := rfl
@[simp] theorem State.sample_img (s : State) (n : Ch) : (s.sample n).img = s.img := rfl
@[simp] theorem State.sample_clk (s : State) (n : Ch) : (s.sample n).clk = s.clk := rfl
@[simp] theorem State.sample_flt (s : State) (n : Ch) : (s.sample n).flt = s.flt := rfl
@[simp] theorem State.sample_cel (s : State) (n : Ch) : (s.sample n).cel = s.cel := rfl
@[simp] theorem State.sample_flash (s : State) (n : Ch) : (s.sample n).flash = s.flash := rfl
@[simp] theorem State.sample_lnk (s : State) (n : Ch) : (s.sample n).lnk = s.lnk := rfl
@[simp] theorem State.sample_pwr (s : State) (n : Ch) : (s.sample n).pwr = s.pwr := rfl
@[simp] theorem State.sample_att (s : State) (n : Ch) : (s.sample n).att = s.att := rfl
@[simp] theorem State.sample_host (s : State) (n : Ch) : (s.sample n).host = s.host := rfl
@[simp] theorem State.sample_jtag (s : State) (n : Ch) : (s.sample n).jtag = s.jtag := rfl
@[simp] theorem State.sample_marks (s : State) (n : Ch) : (s.sample n).marks = s.marks := rfl
@[simp] theorem State.sample_strobes (s : State) (n : Ch) : (s.sample n).strobes = s.strobes := rfl

/-! ### Channels, cells, bays, migrations and ports after an update -/

@[simp] theorem State.setCh_ch (s : State) (n : Ch) (c : Chan) : (s.setCh n c).ch n = c := by simp [State.ch, State.setCh]

theorem State.setCh_ch_ne (s : State) {n m : Ch} (c : Chan) (h : m ≠ n) : (s.setCh n c).ch m = s.ch m := by
  have : n.val ≠ m.val := fun e => h (Fin.ext e.symm)
  simp [State.ch, State.setCh, this]

@[simp] theorem State.upCh_ch (s : State) (n : Ch) (f : Chan → Chan) : (s.upCh n f).ch n = f (s.ch n) := by simp [State.upCh]

theorem State.upCh_ch_ne (s : State) {n m : Ch} (f : Chan → Chan) (h : m ≠ n) : (s.upCh n f).ch m = s.ch m := s.setCh_ch_ne _ h

theorem State.upCh_ch_eq (s : State) (n m : Ch) (f : Chan → Chan) : (s.upCh n f).ch m = if m = n then f (s.ch n) else s.ch m := by
  split
  · next h => subst h; simp
  · next h => exact s.upCh_ch_ne f h

@[simp] theorem State.sample_ch (s : State) (n : Ch) : (s.sample n).ch n = (s.ch n).sampled s.period := by simp [State.sample]

theorem State.sample_ch_ne (s : State) {n m : Ch} (h : m ≠ n) : (s.sample n).ch m = s.ch m := s.upCh_ch_ne _ h

@[simp] theorem State.setCell_cell (s : State) (k : CellIx) (c : Cell) : (s.setCell k c).cell k = c := by simp [State.cell, State.setCell]

theorem State.setCell_cell_ne (s : State) {k j : CellIx} (c : Cell) (h : j ≠ k) : (s.setCell k c).cell j = s.cell j := by
  have : k.val ≠ j.val := fun e => h (Fin.ext e.symm)
  simp [State.cell, State.setCell, this]

@[simp] theorem State.upCell_cell (s : State) (k : CellIx) (f : Cell → Cell) : (s.upCell k f).cell k = f (s.cell k) := by
  simp [State.upCell]

theorem State.upCell_cell_ne (s : State) {k j : CellIx} (f : Cell → Cell) (h : j ≠ k) : (s.upCell k f).cell j = s.cell j :=
  s.setCell_cell_ne _ h

theorem State.upCell_cell_eq (s : State) (k j : CellIx) (f : Cell → Cell) :
    (s.upCell k f).cell j = if j = k then f (s.cell k) else s.cell j := by
  split
  · next h => subst h; simp
  · next h => exact s.upCell_cell_ne f h

@[simp] theorem State.upBay_bay (s : State) (b : Bay) (f : BaySt → BaySt) : (s.upBay b f).bay b = f (s.bay b) := by
  simp [State.bay, State.upBay]

theorem State.upBay_bay_ne (s : State) {b d : Bay} (f : BaySt → BaySt) (h : d ≠ b) : (s.upBay b f).bay d = s.bay d := by
  have : b.val ≠ d.val := fun e => h (Fin.ext e.symm)
  simp [State.bay, State.upBay, this]

@[simp] theorem State.upMig_mig (s : State) (b : Bay) (f : BayMig → BayMig) : (s.upMig b f).mig b = f (s.mig b) := by
  simp [State.mig, State.upMig]

@[simp] theorem tabulate_get {α : Type} (n : Nat) (f : Fin n → α) (i : Fin n) : (tabulate n f)[i.val] = f i := by simp [tabulate]

@[simp] theorem State.allCh_ch (s : State) (f : Ch → Chan → Chan) (n : Ch) : (s.allCh f).ch n = f n (s.ch n) :=
  tabulate_get 64 (fun m => f m (s.ch m)) n

@[simp] theorem State.allCells_cell (s : State) (f : CellIx → Cell → Cell) (k : CellIx) : (s.allCells f).cell k = f k (s.cell k) :=
  tabulate_get 72 (fun m => f m (s.cell m)) k

@[simp] theorem State.allBays_bay (s : State) (f : Bay → BaySt → BaySt) (b : Bay) : (s.allBays f).bay b = f b (s.bay b) :=
  tabulate_get 8 (fun m => f m (s.bay m)) b

/-- A change of channels leaves every cell, bay, migration and memory word; the other updates likewise leave what they do not name. -/
@[simp] theorem State.upCh_cell (s : State) (n : Ch) (f : Chan → Chan) (k : CellIx) : (s.upCh n f).cell k = s.cell k := rfl
@[simp] theorem State.upCh_bay (s : State) (n : Ch) (f : Chan → Chan) (b : Bay) : (s.upCh n f).bay b = s.bay b := rfl
@[simp] theorem State.upCh_mig (s : State) (n : Ch) (f : Chan → Chan) (b : Bay) : (s.upCh n f).mig b = s.mig b := rfl
@[simp] theorem State.sample_cell (s : State) (n : Ch) (k : CellIx) : (s.sample n).cell k = s.cell k := rfl
@[simp] theorem State.sample_bay (s : State) (n : Ch) (b : Bay) : (s.sample n).bay b = s.bay b := rfl
@[simp] theorem State.upCell_ch (s : State) (k : CellIx) (f : Cell → Cell) (n : Ch) : (s.upCell k f).ch n = s.ch n := rfl
@[simp] theorem State.upCell_bay (s : State) (k : CellIx) (f : Cell → Cell) (b : Bay) : (s.upCell k f).bay b = s.bay b := rfl
@[simp] theorem State.upBay_ch (s : State) (b : Bay) (f : BaySt → BaySt) (n : Ch) : (s.upBay b f).ch n = s.ch n := rfl
@[simp] theorem State.upBay_cell (s : State) (b : Bay) (f : BaySt → BaySt) (k : CellIx) : (s.upBay b f).cell k = s.cell k := rfl
@[simp] theorem State.upFlt_ch (s : State) (f : Flt → Flt) (n : Ch) : (s.upFlt f).ch n = s.ch n := rfl
@[simp] theorem State.upFlt_cell (s : State) (f : Flt → Flt) (k : CellIx) : (s.upFlt f).cell k = s.cell k := rfl
@[simp] theorem State.post_ch (s : State) (src : BitVec 10) (kind addr : Nat) (n : Ch) : (s.post src kind addr).ch n = s.ch n := rfl
@[simp] theorem State.post_cell (s : State) (src : BitVec 10) (kind addr : Nat) (k : CellIx) : (s.post src kind addr).cell k = s.cell k := rfl
@[simp] theorem State.noteCh_ch (s : State) (n : Ch) (off : Nat) (m : Ch) : (s.noteCh n off).ch m = s.ch m := rfl
@[simp] theorem State.upClk_ch (s : State) (f : Clk → Clk) (n : Ch) : (s.upClk f).ch n = s.ch n := rfl
@[simp] theorem State.upLnk_ch (s : State) (f : Lnk → Lnk) (n : Ch) : (s.upLnk f).ch n = s.ch n := rfl
@[simp] theorem State.upAtt_ch (s : State) (f : Att → Att) (n : Ch) : (s.upAtt f).ch n = s.ch n := rfl
@[simp] theorem State.upMig_ch (s : State) (b : Bay) (f : BayMig → BayMig) (n : Ch) : (s.upMig b f).ch n = s.ch n := rfl

/-! ### Conditional and repeated changes -/

@[simp] theorem State.when_true (s : State) (f : State → State) : s.when true f = f s := rfl
@[simp] theorem State.when_false (s : State) (f : State → State) : s.when false f = s := rfl
@[simp] theorem State.each_nil {α : Type} (s : State) (f : α → State → State) : s.each [] f = s := rfl
@[simp] theorem State.each_cons {α : Type} (s : State) (a : α) (l : List α) (f : α → State → State) : s.each (a :: l) f = (f a s).each l f := rfl

/-- A field that no run of the body changes is unchanged at the end. -/
theorem State.each_keeps {α β : Type} (p : State → β) (f : α → State → State) (h : ∀ a s, p (f a s) = p s) (l : List α) (s : State) :
    p (s.each l f) = p s := by
  induction l generalizing s with
  | nil => rfl
  | cons a l ih => rw [State.each_cons, ih, h]

/-- An invariant of the body is one of the repetition. -/
theorem State.each_inv {α : Type} (P : State → Prop) (f : α → State → State) (h : ∀ a s, P s → P (f a s)) (l : List α) (s : State) (hs : P s) :
    P (s.each l f) := by
  induction l generalizing s with
  | nil => exact hs
  | cons a l ih => exact ih _ (h a s hs)

/-! ### The gates of a command -/

theorem State.live_of (s : State) (f : State → State) (h : s.pwr.inReset = false) : s.live f = f s := by simp [State.live, h]

theorem State.live_reset (s : State) (f : State → State) (h : s.pwr.inReset = true) : s.live f = s := by simp [State.live, h]

theorem State.hostAct_of (s : State) (f : State → State) (h : s.pwr.inReset = false) (g : s.flt.grave = false) : s.hostAct f = f s := by
  simp [State.hostAct, State.live, h, g]

theorem State.pageWrite_of (s : State) (b : Bay) (a : Addr) (w : Word) (f : State → State) (h : s.pwr.inReset = false)
    (g : s.flt.grave = false) (k : (s.bay b).awake = true) : s.pageWrite b a w f = f s := by
  simp [State.pageWrite, State.hostAct, State.live, h, g, k]

theorem State.chWrite_of (s : State) (n : Ch) (off : Nat) (w : Word) (f : State → State) (h : s.pwr.inReset = false)
    (g : s.flt.grave = false) (k : (s.bay (chBay n)).awake = true) (m : (s.ch n).map.member = false) : s.chWrite n off w f = f s := by
  simp [State.chWrite, State.pageWrite, State.hostAct, State.live, h, g, k, m]

end Sys2Proof.Machine
end

