-- ==== Sys2Proof/Laws/Path.lean ====
section
/-! SUPPORT. The operations of one channel's path change that channel and the cells that carry it, and nothing else. -/

namespace Sys2Proof.Machine

/-! ### The two frames -/

theorem State.memberCells_congr {s t : State} (n : Ch) (h : ∀ m, (t.ch m).map = (s.ch m).map) : t.memberCells n = s.memberCells n := by
  have hl : ∀ m, t.lead m = s.lead m := fun m => by simp [State.lead, h m]
  simp [State.memberCells, State.members, h, hl]

theorem State.pathOnly.maps {s t : State} {n : Ch} (h : s.pathOnly t n) (m : Ch) : (t.ch m).map = (s.ch m).map := by
  by_cases e : m = n
  · subst e; exact h.map
  · rw [h.ch m e]

theorem State.pathFlt.maps {s t : State} {n : Ch} (h : s.pathFlt t n) (m : Ch) : (t.ch m).map = (s.ch m).map := by
  by_cases e : m = n
  · subst e; exact h.map
  · rw [h.ch m e]

theorem State.pathOnly.refl (s : State) (n : Ch) : s.pathOnly s n := ⟨rfl, fun _ _ => rfl, rfl, fun _ _ _ => rfl⟩

theorem State.pathFlt.refl (s : State) (n : Ch) : s.pathFlt s n := ⟨rfl, fun _ _ => rfl, rfl, fun _ _ _ => rfl⟩

theorem State.pathOnly.trans {a b c : State} {n : Ch} (h : a.pathOnly b n) (k : b.pathOnly c n) : a.pathOnly c n := by
  refine ⟨?_, fun m e => (k.ch m e).trans (h.ch m e), k.map.trans h.map, fun j hj hm => ?_⟩
  · rw [k.rest, h.rest]
  · rw [k.cell j (by rwa [h.map]) (by rwa [State.memberCells_congr n h.maps]), h.cell j hj hm]

theorem State.pathFlt.trans {a b c : State} {n : Ch} (h : a.pathFlt b n) (k : b.pathFlt c n) : a.pathFlt c n := by
  refine ⟨?_, fun m e => (k.ch m e).trans (h.ch m e), k.map.trans h.map, fun j hj hm => ?_⟩
  · rw [k.rest, h.rest]
  · rw [k.cell j (by rwa [h.map]) (by rwa [State.memberCells_congr n h.maps]), h.cell j hj hm]

theorem State.pathOnly.flt {s t : State} {n : Ch} (h : s.pathOnly t n) : s.pathFlt t n := by
  refine ⟨?_, h.ch, h.map, h.cell⟩
  rw [h.rest]

/-! ### Channel updates -/

theorem State.upCh_path (s : State) (n : Ch) (f : Chan → Chan) (h : (f (s.ch n)).map = (s.ch n).map) : s.pathOnly (s.upCh n f) n :=
  ⟨rfl, fun _ e => s.upCh_ch_ne f e, by simpa using h, fun _ _ _ => rfl⟩

theorem State.upCh_chOnly (s : State) (n : Ch) (f : Chan → Chan) : s.chOnly (s.upCh n f) n := by simp [State.chOnly, State.upCh]

theorem State.chOnly.path {s t : State} {n : Ch} (h : s.chOnly t n) (m : (t.ch n).map = (s.ch n).map) : s.pathOnly t n := by
  rw [h]
  exact ⟨rfl, fun _ e => s.setCh_ch_ne _ e, by simpa using m, fun _ _ _ => rfl⟩

theorem State.setCh_setCh (s : State) (n : Ch) (a b : Chan) : (s.setCh n a).setCh n b = s.setCh n b := by
  simp [State.setCh]

theorem State.chOnly.trans {a b c : State} {n : Ch} (h : a.chOnly b n) (k : b.chOnly c n) : a.chOnly c n := by
  unfold State.chOnly at *
  rw [k, h, State.setCh_setCh]
  simp

@[simp] theorem Chan.reclamp_map (c : Chan) : c.reclamp.map = c.map := rfl

/-- A squash changes the overlap's course, and no range that is active or asked for. -/
theorem Chan.squash_spec (c : Chan) : ∃ r, c.squash = { c with range := r } ∧ r.v = c.range.v ∧ r.i = c.range.i ∧ r.wantV = c.range.wantV ∧
    r.wantI = c.range.wantI ∧ r.wantLevel = c.range.wantLevel ∧ (r.hst = c.range.hst ∨ r.hst = .squashing) := by
  unfold Chan.squash
  dsimp only
  split
  · exact ⟨_, rfl, rfl, rfl, rfl, rfl, rfl, .inr rfl⟩
  · split
    · exact ⟨_, rfl, rfl, rfl, rfl, rfl, rfl, .inl rfl⟩
    · exact ⟨_, rfl, rfl, rfl, rfl, rfl, rfl, .inl rfl⟩

/-- A new policy leaves the active and the asked ranges alone. -/
theorem Chan.newPolicy_spec (c : Chan) : ∃ r, c.newPolicy = { c with range := r } ∧ r.v = c.range.v ∧ r.i = c.range.i ∧
    r.wantV = c.range.wantV ∧ r.wantI = c.range.wantI ∧ r.wantLevel = c.range.wantLevel ∧ (r.hst = c.range.hst ∨ r.hst = .squashing) := by
  unfold Chan.newPolicy
  dsimp only
  split
  · exact Chan.squash_spec { c with range := c.range.forget }
  · exact ⟨_, rfl, rfl, rfl, rfl, rfl, rfl, .inl rfl⟩

@[simp] theorem Chan.newPolicy_map (c : Chan) : c.newPolicy.map = c.map := by
  obtain ⟨r, h, -⟩ := c.newPolicy_spec
  rw [h]

/-- Sampling takes the registers into the data path; of the rest it changes the clamp, the stream count, the predictor's history and the
reference of the compliance. -/
theorem Chan.sampled_spec (c : Chan) (p : Nat) : ∃ e r f, c.sampled p = { c with eff := e, range := r, force := f } ∧
    e = { c.cfg with winV := { c.cfg.winV with mode := c.eff.winV.mode }, winI := { c.cfg.winI with mode := c.eff.winI.mode } } ∧
    f = { c.force with clampOn := f.clampOn, clamp := f.clamp, streamStart := f.streamStart, streamLast := f.streamLast } ∧
    (c.cfg.cls = .stream → c.eff.cls = .strobed → f.streamStart = p ∧ f.streamLast = c.force.applied) ∧
    r.v = c.range.v ∧ r.i = c.range.i ∧ r.wantV = c.range.wantV ∧ r.wantI = c.range.wantI ∧ r.wantLevel = c.range.wantLevel ∧
    (c.cfg.policy = c.eff.policy → c.cfg.mode = c.eff.mode → r = c.range) ∧ (r.hst = c.range.hst ∨ r.hst = .squashing) := by
  let e : ChanCfg := { c.cfg with winV := { c.cfg.winV with mode := c.eff.winV.mode }, winI := { c.cfg.winI with mode := c.eff.winI.mode } }
  let d : Chan := { c with eff := e }
  obtain ⟨r₁, e₁, v₁, i₁, wv₁, wi₁, wl₁, k₁, h₁⟩ : ∃ r, (if c.cfg.policy = c.eff.policy ∧ c.cfg.mode = c.eff.mode then d else d.newPolicy) =
      { d with range := r } ∧ r.v = c.range.v ∧ r.i = c.range.i ∧ r.wantV = c.range.wantV ∧ r.wantI = c.range.wantI ∧
      r.wantLevel = c.range.wantLevel ∧ (c.cfg.policy = c.eff.policy → c.cfg.mode = c.eff.mode → r = c.range) ∧
      (r.hst = c.range.hst ∨ r.hst = .squashing) := by
    split
    · exact ⟨_, rfl, rfl, rfl, rfl, rfl, rfl, fun _ _ => rfl, .inl rfl⟩
    · next hn =>
      obtain ⟨r, h, hv, hi, hwv, hwi, hwl, hh⟩ := d.newPolicy_spec
      exact ⟨r, h, hv, hi, hwv, hwi, hwl, fun a b => absurd ⟨a, b⟩ hn, hh⟩
  obtain ⟨r₂, e₂, v₂, i₂, wv₂, wi₂, wl₂, k₂, h₂⟩ : ∃ r, (if c.cfg.mode = c.eff.mode then { d with range := r₁ }
      else Chan.newMode { d with range := r₁ }) = { d with range := r } ∧ r.v = r₁.v ∧ r.i = r₁.i ∧ r.wantV = r₁.wantV ∧ r.wantI = r₁.wantI ∧
      r.wantLevel = r₁.wantLevel ∧ (c.cfg.mode = c.eff.mode → r = r₁) ∧ r.hst = r₁.hst := by
    split
    · exact ⟨_, rfl, rfl, rfl, rfl, rfl, rfl, fun _ => rfl, rfl⟩
    · next hn => exact ⟨_, rfl, rfl, rfl, rfl, rfl, rfl, fun a => absurd a hn, rfl⟩
  obtain ⟨f₃, e₃, s₃, t₃⟩ : ∃ f, (if c.cfg.cls = .stream ∧ c.eff.cls ≠ .stream then
      { ({ d with range := r₂ } : Chan) with force := { d.force with streamStart := p, streamLast := d.force.applied } } else { d with range := r₂ }) =
      { d with range := r₂, force := f } ∧ f = { c.force with streamStart := f.streamStart, streamLast := f.streamLast } ∧
      (c.cfg.cls = .stream → c.eff.cls = .strobed → f.streamStart = p ∧ f.streamLast = c.force.applied) := by
    split
    · exact ⟨_, rfl, rfl, fun _ _ => ⟨rfl, rfl⟩⟩
    · next hn => exact ⟨_, rfl, rfl, fun a b => absurd ⟨a, by rw [b]; decide⟩ hn⟩
  have key : ∀ d₁ d₂ d₃ : Chan, d₁ = (if d.cfg.policy = c.eff.policy ∧ d.cfg.mode = c.eff.mode then d else d.newPolicy) →
      d₂ = (if d₁.cfg.mode = c.eff.mode then d₁ else d₁.newMode) →
      d₃ = (if d₂.cfg.cls = .stream ∧ c.eff.cls ≠ .stream then
        { d₂ with force := { d₂.force with streamStart := p, streamLast := d₂.force.applied } } else d₂) → c.sampled p = d₃.reclamp := by
    rintro _ _ _ rfl rfl rfl
    rfl
  have h : c.sampled p = Chan.reclamp { d with range := r₂, force := f₃ } := key _ _ _ e₁.symm e₂.symm e₃.symm
  rw [h]
  refine ⟨e, r₂, _, rfl, rfl, ?_, t₃, v₂.trans v₁, i₂.trans i₁, wv₂.trans wv₁, wi₂.trans wi₁, wl₂.trans wl₁,
    fun a b => (k₂ b).trans (k₁ a b), by rw [h₂]; exact h₁⟩
  dsimp only
  rw [s₃]

@[simp] theorem Chan.sampled_map (c : Chan) (p : Nat) : (c.sampled p).map = c.map := by
  obtain ⟨e, r, f, h, -⟩ := c.sampled_spec p
  rw [h]

theorem State.sample_chOnly (s : State) (n : Ch) : s.chOnly (s.sample n) n := s.upCh_chOnly n _

theorem State.sample_path (s : State) (n : Ch) : s.pathOnly (s.sample n) n := s.upCh_path n _ (Chan.sampled_map _ _)

/-! ### The cells of a path -/

theorem State.upCell_path (s : State) (n : Ch) (k : CellIx) (f : Cell → Cell) (h : (s.ch n).map.cell = some k ∨ k ∈ s.memberCells n) :
    s.pathOnly (s.upCell k f) n := by
  refine ⟨rfl, fun _ _ => rfl, rfl, fun j hj hm => s.upCell_cell_ne f fun e => ?_⟩
  subst e
  exact h.elim hj hm

theorem State.eachMembers_path (s₀ : State) (n : Ch) (f : CellIx → State → Cell → Cell) (l : List CellIx) (hl : ∀ k ∈ l, k ∈ s₀.memberCells n)
    (s : State) (h : s₀.pathOnly s n) : s₀.pathOnly (s.each l fun j s => s.upCell j (f j s)) n := by
  induction l generalizing s with
  | nil => exact h
  | cons k l ih =>
    refine ih (fun j hj => hl j (by simp [hj])) _ (h.trans (s.upCell_path n k _ (.inr ?_)))
    rw [State.memberCells_congr n h.maps]
    exact hl k (by simp)

/-- The cells of a channel show its state: nothing else changes, and no channel does. -/
theorem State.refresh_path (s : State) (n : Ch) : s.pathOnly (s.refresh n) n := by
  unfold State.refresh
  dsimp only
  split
  · next k hk =>
    have h := s.upCell_path n k (fun x => x.follow (s.ch n) (s.bay (CellIx.bay k)).awake) (.inl hk)
    exact State.eachMembers_path s n (fun j t x => x.followMember (s.ch n) (t.bay (CellIx.bay j)).awake) _
      (fun j hj => by rwa [State.memberCells_congr n h.maps] at hj) _ h
  · exact State.pathOnly.refl s n

@[simp] theorem State.refresh_ch (s : State) (n m : Ch) : (s.refresh n).ch m = s.ch m := by
  unfold State.refresh
  dsimp only
  split
  · next k _ =>
    exact State.each_keeps (fun t : State => t.ch m)
      (fun j t => t.upCell j fun x => x.followMember (s.ch n) (t.bay (CellIx.bay j)).awake) (fun _ _ => rfl) _ _
  · rfl

/-- One cell of a path takes its DAC code. -/
theorem State.latchCell_path (s : State) (n : Ch) (k : CellIx) (h : (s.ch n).map.cell = some k ∨ k ∈ s.memberCells n) :
    s.pathOnly (s.latchCell n k) n := by
  unfold State.latchCell
  exact (s.upCell_path n k _ h).trans (State.upCh_path _ n _ rfl)

theorem State.latchCell_ch (s : State) (n : Ch) (k : CellIx) :
    (s.latchCell n k).ch n = { s.ch n with force := { (s.ch n).force with sat := ((s.latchCell n k).ch n).force.sat } } := by
  simp [State.latchCell]

/-- Work on cells of a path, each keeping to the path. -/
theorem State.each_path (s₀ : State) (n : Ch) (f : CellIx → State → State)
    (hf : ∀ k (s : State), (s.ch n).map.cell = some k ∨ k ∈ s.memberCells n → s.pathOnly (f k s) n) (l : List CellIx)
    (hl : ∀ k ∈ l, (s₀.ch n).map.cell = some k ∨ k ∈ s₀.memberCells n) (s : State) (h : s₀.pathOnly s n) : s₀.pathOnly (s.each l f) n := by
  induction l generalizing s with
  | nil => exact h
  | cons k l ih =>
    refine ih (fun j hj => hl j (by simp [hj])) _ (h.trans (hf k s ?_))
    rw [h.map, State.memberCells_congr n h.maps]
    exact hl k (by simp)

/-- The latch of the DAC code: the cells' codes, and the channel's saturation flag alone. -/
theorem State.latchDac_path (s : State) (n : Ch) : s.pathOnly (s.latchDac n) n := by
  unfold State.latchDac
  dsimp only
  split
  · next k hk =>
    have hc : (s.ch n).map.cell = some k := by
      split at hk
      · exact absurd hk (by simp)
      · exact hk
    refine State.each_path s n _ (fun k s h => s.latchCell_path n k h) _ (fun j hj => ?_) s (State.pathOnly.refl s n)
    rcases List.mem_cons.mp hj with rfl | hj
    · exact .inl hc
    · split at hj
      · exact .inr hj
      · simp at hj
  · exact State.pathOnly.refl s n

theorem State.latchDac_ch (s : State) (n : Ch) :
    (s.latchDac n).ch n = { s.ch n with force := { (s.ch n).force with sat := ((s.latchDac n).ch n).force.sat } } := by
  have h : ∀ (l : List CellIx) (t : State), (t.each l fun j s => s.latchCell n j).ch n =
      { t.ch n with force := { (t.ch n).force with sat := ((t.each l fun j s => s.latchCell n j).ch n).force.sat } } := by
    intro l
    induction l with
    | nil => exact fun t => rfl
    | cons k l ih =>
      intro t
      rw [State.each_cons, ih, t.latchCell_ch n k]
  unfold State.latchDac
  dsimp only
  split
  · exact h _ s
  · rfl

/-! ### The output switch -/

theorem State.endLive_flt (s : State) (n : Ch) (src : BitVec 10) (kind : Nat) : s.pathFlt (s.endLive src kind) n :=
  ⟨rfl, fun _ _ => rfl, rfl, fun _ _ _ => rfl⟩

theorem State.when_flt (s : State) (n : Ch) (b : Bool) (f : State → State) (h : ∀ t, State.pathFlt t (f t) n) : s.pathFlt (s.when b f) n := by
  cases b
  · exact State.pathFlt.refl s n
  · exact h s

/-- Keepers that let go change their own cells and their live bits. -/
theorem State.releaseKeepers_flt (s : State) (n : Ch) : s.pathFlt (s.releaseKeepers n) n := by
  unfold State.releaseKeepers
  dsimp only
  have h : ∀ (l : List CellIx) (t : State), (∀ k ∈ l, (s.ch n).map.cell = some k ∨ k ∈ s.memberCells n) → s.pathFlt t n →
      s.pathFlt (t.each l fun j t => (t.upCell j fun x => { x with keeper := { x.keeper with hold := false, armed := false } }).when
        (t.cell j).keeper.hold fun t => t.endLive (srcCell j) 1) n := by
    intro l
    induction l with
    | nil => exact fun t _ ht => ht
    | cons k l ih =>
      intro t hl ht
      refine ih _ (fun j hj => hl j (by simp [hj])) ?_
      have hu := ht.trans (State.pathOnly.flt (t.upCell_path n k (fun x => { x with keeper := { x.keeper with hold := false, armed := false } })
        (by rw [ht.map, State.memberCells_congr n ht.maps]; exact hl k (by simp))))
      exact hu.trans (State.when_flt _ n _ _ fun t => State.endLive_flt t n _ _)
  refine h _ s (fun k hk => ?_) (State.pathFlt.refl s n)
  simp only [List.mem_append, Option.mem_toList] at hk
  exact hk

theorem State.when_ch (s : State) (b : Bool) (f : State → State) (h : ∀ t m, (f t).ch m = t.ch m) (m : Ch) : (s.when b f).ch m = s.ch m := by
  cases b
  · rfl
  · exact h s m

@[simp] theorem State.endLive_ch (s : State) (src : BitVec 10) (kind : Nat) (m : Ch) : (s.endLive src kind).ch m = s.ch m := rfl

@[simp] theorem State.releaseKeepers_ch (s : State) (n m : Ch) : (s.releaseKeepers n).ch m = s.ch m := by
  unfold State.releaseKeepers
  dsimp only
  exact State.each_keeps (fun t : State => t.ch m)
    (fun j t => (t.upCell j fun x => { x with keeper := { x.keeper with hold := false, armed := false } }).when
      (t.cell j).keeper.hold fun t => t.endLive (srcCell j) 1)
    (fun j t => State.when_ch _ _ (fun t => t.endLive (srcCell j) 1) (fun _ _ => rfl) _) _ _

@[simp] theorem Chan.openLoops_map (c : Chan) : c.openLoops.map = c.map := rfl

/-- A force session that loses its precondition ends, and nothing but the measuring state shows it (R190, R194). -/
theorem Chan.calKeep_spec (c : Chan) : ∃ m, c.calKeep = { c with meas := m } := by
  unfold Chan.calKeep Chan.calInterrupt
  repeat' split
  all_goals exact ⟨_, rfl⟩

/-- What an opening of the switch does to its channel beside the session: the force path and the loops. -/
theorem Chan.openOut_spec (c : Chan) (o : OutState) : ∃ m, c.openOut o = { Chan.openLoops { c with force := { c.force with
    out := o, closeAt := none, closeRest := false, fromRest := false,
    restAt := if o = OutState.graveOpen then none else c.force.restAt } } with meas := m } := by
  unfold Chan.openOut
  exact Chan.calKeep_spec _

@[simp] theorem Chan.openOut_map (c : Chan) (o : OutState) : (c.openOut o).map = c.map := by
  obtain ⟨m, h⟩ := c.openOut_spec o
  rw [h]
  rfl

/-- An opening of the output switch: the channel opens with its loops, its cells show it and their keepers let go. -/
theorem State.openSwitch_flt (s : State) (n : Ch) (o : OutState) : s.pathFlt (s.openSwitch n o) n :=
  (s.releaseKeepers_flt n).trans
    (((State.upCh_path _ n (fun c => c.openOut o) (Chan.openOut_map _ _)).trans (State.refresh_path _ n)).flt)

@[simp] theorem State.openSwitch_ch (s : State) (n : Ch) (o : OutState) : (s.openSwitch n o).ch n = (s.ch n).openOut o := by
  simp [State.openSwitch]

/-! ### Work on every channel -/

/-- Work on each channel of a list without repeats, that changes no other channel and depends on its own alone. -/
theorem State.each_chs (f : Ch → State → State) (F : Ch → Chan → Chan) (h : ∀ n s m, m ≠ n → (f n s).ch m = s.ch m)
    (hf : ∀ n s, (f n s).ch n = F n (s.ch n)) (l : List Ch) (hl : l.Nodup) (s : State) (n : Ch) :
    (s.each l f).ch n = if n ∈ l then F n (s.ch n) else s.ch n := by
  induction l generalizing s with
  | nil => simp
  | cons m l ih =>
    have hm := List.nodup_cons.mp hl
    rw [State.each_cons, ih hm.2]
    by_cases e : n = m
    · subst e; simp [hm.1, hf]
    · simp [e, h m s n e]

theorem allChs_nodup : allChs.Nodup := List.nodup_finRange 64

theorem mem_allChs (n : Ch) : n ∈ allChs := List.mem_finRange n

theorem State.each_allChs (f : Ch → State → State) (F : Ch → Chan → Chan) (h : ∀ n s m, m ≠ n → (f n s).ch m = s.ch m)
    (hf : ∀ n s, (f n s).ch n = F n (s.ch n)) (s : State) (n : Ch) : (s.each allChs f).ch n = F n (s.ch n) := by
  rw [State.each_chs f F h hf allChs allChs_nodup, if_pos (mem_allChs n)]

end Sys2Proof.Machine
end

