-- ==== Sys2Proof/Laws/Channel.lean ====
section
/-! SUPPORT. Everything that each operation on one channel's ranging, loops and rest can change: one lemma per operation. -/

namespace Sys2Proof.Machine

/-- The end of a session changes the measure path alone. -/
theorem Chan.calInterrupt_spec (c : Chan) : ∃ m, c.calInterrupt = { c with meas := m } := by
  unfold Chan.calInterrupt
  split
  · exact ⟨_, rfl⟩
  · exact ⟨_, rfl⟩
  · unfold Chan.calEnd; exact ⟨_, rfl⟩

/-- V_SWITCH's aim changes ranging and the limiter's target alone (R228). -/
theorem Chan.aimV_spec (c : Chan) : ∃ r x, c.aimV = { c with range := r, force := { c.force with target := x } } := by
  unfold Chan.aimV
  dsimp only
  repeat' split
  all_goals exact ⟨_, _, rfl⟩

/-- What a range command may change: ranging, the measure path's session, and the limiter's target. -/
def Chan.cmdOnly (c d : Chan) : Prop := ∃ r m x, d = { c with range := r, meas := m, force := { c.force with target := x } }

theorem Chan.cmdOnly.ite {c a b : Chan} {p : Prop} [Decidable p] (ha : Chan.cmdOnly c a) (hb : Chan.cmdOnly c b) :
    Chan.cmdOnly c (if p then a else b) := by
  split
  · exact ha
  · exact hb

theorem Chan.cmdOnly.range {c d : Chan} (h : Chan.cmdOnly c d) (r : RangeSt) : Chan.cmdOnly c { d with range := r } := by
  obtain ⟨_, _, _, e⟩ := h
  rw [e]; exact ⟨_, _, _, rfl⟩

theorem Chan.cmdOnly.cal {c d : Chan} (h : Chan.cmdOnly c d) (b : Bool) : Chan.cmdOnly c (d.calRange b) := by
  obtain ⟨_, _, _, e⟩ := h
  unfold Chan.calRange
  split
  · obtain ⟨m, h⟩ := Chan.calInterrupt_spec d
    rw [h, e]; exact ⟨_, _, _, rfl⟩
  · exact ⟨_, _, _, e⟩

theorem Chan.cmdOnly.squash {c d : Chan} (h : Chan.cmdOnly c d) : Chan.cmdOnly c d.squash := by
  unfold Chan.squash; dsimp only; split
  · exact h.range _
  · split
    · exact h.range _
    · exact h

theorem Chan.cmdOnly.found {c d : Chan} (h : Chan.cmdOnly c d) : Chan.cmdOnly c d.foundOverlap := by
  unfold Chan.foundOverlap; dsimp only; split
  · exact h.range _
  · split
    · exact h.range _
    · exact h

theorem Chan.cmdOnly.aimV {c d : Chan} (h : Chan.cmdOnly c d) : Chan.cmdOnly c d.aimV := by
  obtain ⟨_, _, _, e⟩ := h
  obtain ⟨r, x, h⟩ := Chan.aimV_spec d
  rw [h, e]; exact ⟨_, _, _, rfl⟩

theorem Chan.cmdOnly.refl (c : Chan) : Chan.cmdOnly c c := ⟨_, _, _, rfl⟩

/-- Everything that a range command can change (R215). -/
theorem Chan.command_spec (c : Chan) (v i : BitVec 4) :
    ∃ r m x, c.command v i = { c with range := r, meas := m, force := { c.force with target := x } } := by
  show Chan.cmdOnly c _
  unfold Chan.command
  dsimp only
  have ha : ∀ r : RangeSt, Chan.cmdOnly c (Chan.aimV { c with range := r }) := fun r => ((Chan.cmdOnly.refl c).range r).aimV
  refine Chan.cmdOnly.ite (Chan.cmdOnly.cal ?_ _) ?_
  all_goals
    refine Chan.cmdOnly.ite (Chan.cmdOnly.cal ?_ _) ?_
  all_goals
    refine Chan.cmdOnly.ite (ha _) (Chan.cmdOnly.ite ((ha _).squash.range _) (Chan.cmdOnly.ite (ha _).found (ha _).squash))

/-- The start of a voltage range change (R227). -/
theorem Chan.startV_spec (c : Chan) (k : Nat) : ∃ r x, c.startV k = { c with range := r, force := { c.force with target := x } } := by
  unfold Chan.startV
  dsimp only
  split
  · split
    · obtain ⟨r, x, h⟩ := Chan.aimV_spec
        { c with range := { c.range with hst := .vSwitch, steps := 0, vAt := k, back := c.range.hst, backSteps := c.range.steps } }
      rw [h]; exact ⟨_, _, rfl⟩
    · exact ⟨_, _, rfl⟩
  · exact ⟨_, _, rfl⟩

/-- The loops open with the code held (R140). -/
theorem Chan.openLoops_spec (c : Chan) : ∃ l f, c.openLoops = { c with loop := l, force := f } ∧ l.st = .opened ∧ f.out = c.force.out ∧
    f.code = c.force.code ∧ f.tripped = c.force.tripped := by
  unfold Chan.openLoops Chan.reclamp
  dsimp only
  split
  · next h => exact ⟨_, _, rfl, h, rfl, rfl, rfl⟩
  · exact ⟨_, _, rfl, rfl, rfl, rfl, rfl⟩

/-- What the start of a rest sequence writes. -/
theorem Chan.restBegin_spec (c : Chan) (now : Nat) :
    ∃ r m l f, c.restBegin now = { c with range := r, meas := m, loop := l, force := f } ∧ l.st = .opened ∧ f.restAt = some now ∧
      f.code = c.force.code ∧ (c.force.out ≠ .graveOpen → f.out ≠ .graveOpen) := by
  unfold Chan.restBegin
  obtain ⟨r, e, -⟩ := Chan.squash_spec c
  rw [e]
  obtain ⟨l, f, e1, h1, h2, h3, h4⟩ := Chan.openLoops_spec { c with range := r }
  rw [e1]
  obtain ⟨r2, m2, x2, e2⟩ := Chan.command_spec { c with range := r, loop := l, force := f }
    (if c.decl.rsClose then c.decl.rsRange.setWidth 4 else 15) (restRange c.decl.rsIlimitNa)
  dsimp only at e2 ⊢
  rw [e2]
  unfold Chan.commandedBy
  dsimp only
  have hk : ∀ e : Chan, ∃ m f, e.reclamp.calKeep = { e with meas := m, force := f } ∧ f.restAt = e.force.restAt ∧
      f.code = e.force.code ∧ f.out = e.force.out := by
    intro e
    obtain ⟨m, h⟩ := Chan.calKeep_spec e.reclamp
    exact ⟨m, _, h, rfl, rfl, rfl⟩
  have fin : ∀ e : Chan,
      (∃ r m l f, e = { c with range := r, meas := m, loop := l, force := f } ∧ l.st = .opened ∧ f.restAt = some now ∧
        f.code = c.force.code ∧ (c.force.out ≠ .graveOpen → f.out ≠ .graveOpen)) →
      ∃ r m l f, e.reclamp.calKeep = { c with range := r, meas := m, loop := l, force := f } ∧ l.st = .opened ∧ f.restAt = some now ∧
        f.code = c.force.code ∧ (c.force.out ≠ .graveOpen → f.out ≠ .graveOpen) := by
    rintro e ⟨r, m, l, f, rfl, a1, a2, a3, a4⟩
    obtain ⟨m', f', h, b1, b2, b3⟩ := hk { c with range := r, meas := m, loop := l, force := f }
    exact ⟨_, m', l, f', h, a1, b1.trans a2, b2.trans a3, fun g => b3 ▸ a4 g⟩
  apply fin
  split
  · exact ⟨_, _, _, _, rfl, h1, rfl, h3, fun g => h2 ▸ g⟩
  · split
    · split
      · exact ⟨_, _, _, _, rfl, h1, rfl, h3, fun _ => by intro h; cases h⟩
      · exact ⟨_, _, _, _, rfl, h1, rfl, h3, fun _ => by intro h; cases h⟩
    · exact ⟨_, _, _, _, rfl, h1, rfl, h3, fun _ => by intro h; cases h⟩

end Sys2Proof.Machine
end

