-- ==== Sys2Proof/Laws/Clock.lean ====
section
/-! SUPPORT. Everything that each shared operation of the clocks can do. -/

namespace Sys2Proof.Machine

/-- A repetition that changes the collector alone. -/
theorem State.each_flt {α : Type} (f : α → State → State) (h : ∀ a s, f a s = { s with flt := (f a s).flt }) (l : List α) (s : State) :
    s.each l f = { s with flt := (s.each l f).flt } := by
  induction l generalizing s with
  | nil => rfl
  | cons a l ih => rw [State.each_cons, ih, h a s]

/-- System time becomes unaligned: nothing else changes but the resynchronisation due and the messages. -/
theorem State.unalign_spec (s : State) : ∃ l f, s.unalign = { s with clk := { s.clk with unaligned := true }, lnk := l, flt := f } ∧
    l.ports = s.lnk.ports := by
  unfold State.unalign
  split
  · next h =>
    exact ⟨s.lnk, s.flt, by rw [← h], rfl⟩
  · exact ⟨_, _, State.each_flt (fun (t : BitVec 8) s => s.post (srcLink 0) 2 t.toNat) (fun _ _ => rfl) _ _, rfl⟩

/-- The guard leaves VCO8. -/
theorem State.leaveVco8_of (s : State) (g : Guard) (h : s.clk.guard = .vco8) : ∃ l f, s.leaveVco8 g =
    { s with clk := { s.clk with guard := g, guardCount := if g = .vco16 then satInc s.clk.guardCount else s.clk.guardCount, unaligned := true },
             chans := tabulate 64 fun n => ((s.ch n).markWindows s.time).calInterrupt, lnk := l, flt := f } ∧ l.ports = s.lnk.ports := by
  unfold State.leaveVco8
  rw [if_pos h]
  obtain ⟨l, f, e, hl⟩ := State.unalign_spec ((s.allCh fun _ c => (c.markWindows s.time).calInterrupt).upClk fun k =>
      { k with guard := g, guardCount := if g = .vco16 then satInc k.guardCount else k.guardCount })
  exact ⟨l, f, e, hl⟩

/-- A guard that is not on VCO8 stays where it is, but for a move to REF. -/
theorem State.leaveVco8_else (s : State) (g : Guard) (h : s.clk.guard ≠ .vco8) :
    s.leaveVco8 g = { s with clk := { s.clk with guard := if g = .ref then .ref else s.clk.guard } } := by
  unfold State.leaveVco8
  rw [if_neg h]
  rfl

/-- The ports stop with PLL-B. -/
theorem State.portsStop_spec (s : State) : ∃ l, s.portsStop = { s with lnk := l } := by
  unfold State.portsStop State.when State.treeChanged
  dsimp only
  repeat' split
  all_goals exact ⟨_, rfl⟩

theorem State.portsEnable_spec (s : State) : ∃ l, s.portsEnable = { s with lnk := l } := by
  unfold State.portsEnable State.when State.treeChanged
  dsimp only
  repeat' split
  all_goals exact ⟨_, rfl⟩

theorem State.portsStart_spec (s : State) : ∃ l, s.portsStart = { s with lnk := l } := by
  unfold State.portsStart
  obtain ⟨l, e⟩ := s.portsEnable_spec
  rw [e]
  exact ⟨_, rfl⟩

/-- The outputs stop. -/
theorem State.outsStop_run (s : State) (all : Bool) (x : Fin 4) :
    (s.outsStop all).clk.outs[x.val].running = (s.clk.outs[x.val].running && s.clk.outs[x.val].coast && !all) := by
  simp [State.outsStop, State.upClk]

theorem State.outsStop_spec (s : State) (all : Bool) : ∃ o : Vector ClkOut 4, s.outsStop all = { s with clk := { s.clk with outs := o } } ∧
    ∀ x : Fin 4, o[x.val].running = (s.clk.outs[x.val].running && s.clk.outs[x.val].coast && !all) :=
  ⟨_, rfl, fun x => s.outsStop_run all x⟩

/-- The stop of PLL-B: the outputs, the ports and the alignment of system time. -/
theorem State.stopB_spec (s : State) (all : Bool) : ∃ o l f, (s.outsStop all).portsStop.unalign =
    { s with clk := { s.clk with outs := o, unaligned := true }, lnk := l, flt := f } ∧
    ∀ x : Fin 4, o[x.val].running = (s.clk.outs[x.val].running && s.clk.outs[x.val].coast && !all) := by
  obtain ⟨o, e, h⟩ := s.outsStop_spec all
  rw [e]
  obtain ⟨l, e⟩ := State.portsStop_spec { s with clk := { s.clk with outs := o } }
  rw [e]
  obtain ⟨l', f, e, -⟩ := State.unalign_spec { s with clk := { s.clk with outs := o }, lnk := l }
  exact ⟨o, l', f, e, h⟩

/-- The guard enters VCO8. -/
theorem State.enterVco8_spec (s : State) : s.enterVco8 =
    { s with clk := { s.clk with guard := .vco8 },
             chans := if s.clk.guard = .vco8 then s.chans else tabulate 64 fun n => (s.ch n).markWindows s.time } := by
  unfold State.enterVco8
  split
  · next h =>
    rw [← h]
  · rfl

/-! ### The two PLLs -/

@[simp] theorem State.upPll_pll (s : State) (p : PllId) (f : Pll → Pll) : (s.upPll p f).clk.pll p = f (s.clk.pll p) := by
  cases p <;> rfl

theorem State.upPll_a (s : State) (f : Pll → Pll) : s.upPll .a f = { s with clk := { s.clk with pllA := f s.clk.pllA } } := rfl

theorem State.upPll_b (s : State) (f : Pll → Pll) : s.upPll .b f = { s with clk := { s.clk with pllB := f s.clk.pllB } } := rfl

end Sys2Proof.Machine
end

