-- ==== Sys2Proof/Laws/Memory.lean ====
section
/-! SUPPORT. Sparse tables and memories: what a table holds after an insertion or a removal, that every write of a byte or a word keeps a
memory's canonical form, and what a byte reads as after one. -/

namespace Sys2Proof.Machine

/-! ### Tables -/

/-- A key that no entry from `lo` on can be. -/
theorem findAt_below {bg : Nat → Byte} {m : Memory} {lo a : Nat} (h : wfFrom bg lo m = true) (ha : a < lo) : findAt m a = none := by
  induction m generalizing lo with
  | nil => rfl
  | cons x t ih =>
    obtain ⟨k, v⟩ := x
    simp only [wfFrom, Bool.and_eq_true, decide_eq_true_eq] at h
    have : a ≠ k := by omega
    simp only [findAt, this, if_false]
    exact ih h.2 (by omega)

theorem wfFrom_mono {bg : Nat → Byte} {m : Memory} {lo hi : Nat} (h : wfFrom bg hi m = true) (hl : lo ≤ hi) : wfFrom bg lo m = true := by
  cases m with
  | nil => rfl
  | cons x t =>
    obtain ⟨k, v⟩ := x
    simp only [wfFrom, Bool.and_eq_true, decide_eq_true_eq] at h ⊢
    exact ⟨⟨by omega, h.1.2⟩, h.2⟩

/-- A value that is not the background's may enter anywhere. -/
theorem wfFrom_insertAt {bg : Nat → Byte} {m : Memory} {lo a : Nat} {b : Byte} (h : wfFrom bg lo m = true) (ha : lo ≤ a) (hb : b ≠ bg a) :
    wfFrom bg lo (insertAt m a b) = true := by
  induction m generalizing lo with
  | nil => simp [insertAt, wfFrom, ha, hb]
  | cons x t ih =>
    obtain ⟨k, v⟩ := x
    simp only [wfFrom, Bool.and_eq_true, decide_eq_true_eq] at h
    simp only [insertAt]
    split
    · simp only [wfFrom, Bool.and_eq_true, decide_eq_true_eq]
      exact ⟨⟨ha, hb⟩, ⟨by omega, h.1.2⟩, h.2⟩
    · split
      · simp only [wfFrom, Bool.and_eq_true, decide_eq_true_eq]
        exact ⟨⟨ha, hb⟩, by subst_vars; exact h.2⟩
      · simp only [wfFrom, Bool.and_eq_true, decide_eq_true_eq]
        exact ⟨h.1, ih h.2 (by omega)⟩

theorem wfFrom_removeAt {bg : Nat → Byte} {m : Memory} {lo a : Nat} (h : wfFrom bg lo m = true) : wfFrom bg lo (removeAt m a) = true := by
  induction m generalizing lo with
  | nil => rfl
  | cons x t ih =>
    obtain ⟨k, v⟩ := x
    simp only [wfFrom, Bool.and_eq_true, decide_eq_true_eq] at h
    simp only [removeAt]
    split
    · exact wfFrom_mono h.2 (by omega)
    · simp only [wfFrom, Bool.and_eq_true, decide_eq_true_eq]
      exact ⟨h.1, ih h.2⟩

/-- What a key finds after an insertion. -/
@[simp] theorem findAt_insertAt_same {α : Type} (t : List (Nat × α)) (k : Nat) (v : α) : findAt (insertAt t k v) k = some v := by
  induction t with
  | nil => simp [insertAt, findAt]
  | cons x t ih =>
    obtain ⟨j, w⟩ := x
    simp only [insertAt]
    split
    · simp [findAt]
    · split
      · simp [findAt]
      · next h1 h2 => simp [findAt, h2, ih]

theorem findAt_insertAt_ne {α : Type} (t : List (Nat × α)) {k j : Nat} (v : α) (h : j ≠ k) : findAt (insertAt t k v) j = findAt t j := by
  induction t with
  | nil => simp [insertAt, findAt, h]
  | cons x t ih =>
    obtain ⟨i, w⟩ := x
    simp only [insertAt]
    split
    · simp [findAt, h]
    · split
      · next _ hi => subst hi; simp [findAt, h]
      · simp only [findAt, ih]

theorem findAt_removeAt_ne {α : Type} (t : List (Nat × α)) {k j : Nat} (h : j ≠ k) : findAt (removeAt t k) j = findAt t j := by
  induction t with
  | nil => rfl
  | cons x t ih =>
    obtain ⟨i, w⟩ := x
    simp only [removeAt]
    split
    · next hi => subst hi; simp [findAt, h]
    · simp only [findAt, ih]

/-- In a memory of canonical form a removed address reads as its background. -/
theorem findAt_removeAt_same {bg : Nat → Byte} {m : Memory} {lo : Nat} (a : Nat) (h : wfFrom bg lo m = true) : findAt (removeAt m a) a = none := by
  induction m generalizing lo with
  | nil => rfl
  | cons x t ih =>
    obtain ⟨k, v⟩ := x
    simp only [wfFrom, Bool.and_eq_true, decide_eq_true_eq] at h
    simp only [removeAt]
    split
    · next hk => subst hk; exact findAt_below h.2 (by omega)
    · next hk => simp only [findAt, hk, if_false]; exact ih h.2

/-! ### Bytes and words -/

/-- A write of a byte keeps the canonical form. -/
theorem writeByte_wf {bg : Nat → Byte} {m : Memory} (a : Nat) (b : Byte) (h : Memory.wf bg m = true) :
    Memory.wf bg (writeByte bg m a b) = true := by
  unfold writeByte Memory.wf at *
  split
  · exact wfFrom_removeAt h
  · next hb => exact wfFrom_insertAt h (Nat.zero_le _) hb

/-- A written byte reads as it was written. -/
theorem readByte_writeByte_same {bg : Nat → Byte} {m : Memory} (a : Nat) (b : Byte) (h : Memory.wf bg m = true) :
    readByte bg (writeByte bg m a b) a = b := by
  unfold readByte writeByte
  split
  · next hb => rw [findAt_removeAt_same a h]; exact hb.symm
  · simp

/-- Every other byte reads as before. -/
theorem readByte_writeByte_ne (bg : Nat → Byte) (m : Memory) {a x : Nat} (b : Byte) (h : x ≠ a) :
    readByte bg (writeByte bg m a b) x = readByte bg m x := by
  unfold readByte writeByte
  split
  · rw [findAt_removeAt_ne m h]
  · rw [findAt_insertAt_ne m _ h]

/-- A write of a word keeps the canonical form. -/
theorem writeMemWord_wf {bg : Nat → Byte} {m : Memory} (a : Nat) (w : Word) (h : Memory.wf bg m = true) :
    Memory.wf bg (writeMemWord bg m a w) = true :=
  writeByte_wf _ _ (writeByte_wf _ _ (writeByte_wf _ _ (writeByte_wf _ _ h)))

/-- A byte outside a written word reads as before. -/
theorem readByte_writeMemWord_ne (bg : Nat → Byte) (m : Memory) {a x : Nat} (w : Word) (h : x < a ∨ a + 4 ≤ x) :
    readByte bg (writeMemWord bg m a w) x = readByte bg m x := by
  unfold writeMemWord
  rw [readByte_writeByte_ne _ _ _ (by omega), readByte_writeByte_ne _ _ _ (by omega), readByte_writeByte_ne _ _ _ (by omega),
    readByte_writeByte_ne _ _ _ (by omega)]

theorem bytesWord_split (w : Word) :
    bytesWord [w.extractLsb' 0 8, w.extractLsb' 8 8, w.extractLsb' 16 8, w.extractLsb' 24 8] = w := by
  apply BitVec.eq_of_getLsbD_eq
  intro i hi
  simp only [bytesWord, List.foldr_cons, List.foldr_nil, BitVec.getLsbD_or, BitVec.getLsbD_shiftLeft, BitVec.getLsbD_setWidth,
    BitVec.getLsbD_extractLsb']
  have : i = 0 ∨ i = 1 ∨ i = 2 ∨ i = 3 ∨ i = 4 ∨ i = 5 ∨ i = 6 ∨ i = 7 ∨ i = 8 ∨ i = 9 ∨ i = 10 ∨ i = 11 ∨ i = 12 ∨ i = 13 ∨ i = 14 ∨ i = 15 ∨
    i = 16 ∨ i = 17 ∨ i = 18 ∨ i = 19 ∨ i = 20 ∨ i = 21 ∨ i = 22 ∨ i = 23 ∨ i = 24 ∨ i = 25 ∨ i = 26 ∨ i = 27 ∨ i = 28 ∨ i = 29 ∨ i = 30 ∨
    i = 31 := by omega
  rcases this with h | h | h | h | h | h | h | h | h | h | h | h | h | h | h | h | h | h | h | h | h | h | h | h | h | h | h | h | h | h | h | h <;>
    subst h <;> simp

/-- A written word reads as it was written. -/
theorem readMemWord_writeMemWord_same {bg : Nat → Byte} {m : Memory} (a : Nat) (w : Word) (h : Memory.wf bg m = true) :
    readMemWord bg (writeMemWord bg m a w) a = w := by
  have h0 := writeByte_wf a (w.extractLsb' 0 8) h
  have h1 := writeByte_wf (a + 1) (w.extractLsb' 8 8) h0
  have h2 := writeByte_wf (a + 2) (w.extractLsb' 16 8) h1
  unfold readMemWord writeMemWord
  rw [readByte_writeByte_ne _ _ _ (show a ≠ a + 3 by omega), readByte_writeByte_ne _ _ _ (show a ≠ a + 2 by omega),
    readByte_writeByte_ne _ _ _ (show a ≠ a + 1 by omega), readByte_writeByte_same _ _ h,
    readByte_writeByte_ne _ _ _ (show a + 1 ≠ a + 3 by omega), readByte_writeByte_ne _ _ _ (show a + 1 ≠ a + 2 by omega),
    readByte_writeByte_same _ _ h0,
    readByte_writeByte_ne _ _ _ (show a + 2 ≠ a + 3 by omega), readByte_writeByte_same _ _ h1, readByte_writeByte_same _ _ h2]
  exact bytesWord_split w

/-- A word that does not overlap a written one reads as before. -/
theorem readMemWord_writeMemWord_ne (bg : Nat → Byte) (m : Memory) {a x : Nat} (w : Word) (h : x + 4 ≤ a ∨ a + 4 ≤ x) :
    readMemWord bg (writeMemWord bg m a w) x = readMemWord bg m x := by
  unfold readMemWord
  rw [readByte_writeMemWord_ne bg m w (by omega), readByte_writeMemWord_ne bg m w (by omega), readByte_writeMemWord_ne bg m w (by omega),
    readByte_writeMemWord_ne bg m w (by omega)]

/-! ### The state's memories -/

theorem State.memWord_setMemWord_same (s : State) (a : Nat) (w : Word) (h : s.memSound) : (s.setMemWord a w).memWord a = w :=
  readMemWord_writeMemWord_same a w h.1

theorem State.memWord_setMemWord_ne (s : State) {a x : Nat} (w : Word) (h : x + 4 ≤ a ∨ a + 4 ≤ x) : (s.setMemWord a w).memWord x = s.memWord x :=
  readMemWord_writeMemWord_ne memBackground s.mem w h

theorem State.setMemWord_memSound {s : State} (a : Nat) (w : Word) (h : s.memSound) : (s.setMemWord a w).memSound :=
  ⟨writeMemWord_wf a w h.1, h.2⟩

end Sys2Proof.Machine
end

