-- ==== Sys2Proof/Laws/Keeps.lean ====
section
/-! SUPPORT. What no operation behind a command does: it never touches the queue, the clocks of the two times, the test access port, the
hold in reset or the straps, it keeps the memories in their canonical form, and it never clears the Grave latch (R377). One lemma per
operation, in the order of the model's files; resets, the tick and the end of a time step stand apart. -/

set_option linter.unreachableTactic false
set_option linter.unusedTactic false

namespace Sys2Proof.Machine

/-- `t` follows from `s` by work of the logic. -/
structure Keeps (s t : State) : Prop where
  pending : t.pending = s.pending
  time : t.time = s.time
  ticks : t.ticks = s.ticks
  frac : t.frac = s.frac
  jtag : t.jtag = s.jtag
  inReset : t.pwr.inReset = s.pwr.inReset
  source : t.pwr.source = s.pwr.source
  strap : t.lnk.strap = s.lnk.strap
  mem : Memory.wf memBackground s.mem = true → Memory.wf memBackground t.mem = true
  stage : Memory.wf stageBackground s.img.stage = true → Memory.wf stageBackground t.img.stage = true
  grave : s.flt.grave = true → t.flt.grave = true

theorem Keeps.refl (s : State) : Keeps s s := ⟨rfl, rfl, rfl, rfl, rfl, rfl, rfl, rfl, id, id, id⟩

theorem Keeps.trans {a b c : State} (h : Keeps a b) (k : Keeps b c) : Keeps a c :=
  ⟨k.1.trans h.1, k.2.trans h.2, k.3.trans h.3, k.4.trans h.4, k.5.trans h.5, k.6.trans h.6, k.7.trans h.7, k.8.trans h.8,
   k.9 ∘ h.9, k.10 ∘ h.10, k.11 ∘ h.11⟩

theorem Keeps.memSound {s t : State} (h : Keeps s t) (m : s.memSound) : t.memSound := ⟨h.mem m.1, h.stage m.2⟩

/-- A state built from `b` by giving some of its fields new values. -/
theorem Keeps.build {a b : State} (h : Keeps a b) {ld : List Instr} {d : Nat} {c : Vector Chan 64} {ce : Vector Cell 72} {y : Vector BaySt 8}
    {i : Img} {ck : Clk} {f : Flt} {cl : Cel} {fl : Flash} {l : Lnk} {p : Pwr} {at' : Att} {ho : HostPort} {m : List (Fin 4 × Ch × Nat)}
    {st : List (BitVec 8 × Nat)} {fr : Table Word}
    (hi : Memory.wf stageBackground b.img.stage = true → Memory.wf stageBackground i.stage = true)
    (hf : b.flt.grave = true → f.grave = true) (hl : l.strap = b.lnk.strap) (hp : p.inReset = b.pwr.inReset)
    (hq : p.source = b.pwr.source) :
    Keeps a { pending := b.pending, time := b.time, ticks := b.ticks, frac := b.frac, landed := ld, draws := d, chans := c, cells := ce, bays := y,
              mem := b.mem, fresh := fr, img := i, clk := ck, flt := f, cel := cl, flash := fl, lnk := l, pwr := p, att := at', host := ho, jtag := b.jtag,
              marks := m, strobes := st } :=
  h.trans ⟨rfl, rfl, rfl, rfl, rfl, hp, hq, hl, id, hi, hf⟩

/-! ### The collector never clears the latch -/

@[simp] theorem Flt.upSrc_grave (f : Flt) (src : BitVec 10) (g : SrcSt → SrcSt) : (f.upSrc src g).grave = f.grave := rfl
@[simp] theorem Flt.fence_grave (f : Flt) (u : BitVec 10) : (f.fence u).grave = f.grave := by unfold Flt.fence; split <;> rfl
@[simp] theorem Flt.unfence_grave (f : Flt) (u : BitVec 10) : (f.unfence u).grave = f.grave := rfl
@[simp] theorem Flt.markSticky_grave (f : Flt) (m : Msg) : (f.markSticky m).grave = f.grave := rfl
@[simp] theorem Flt.acknowledge_grave (f : Flt) (v : Word) : (f.acknowledge v).grave = f.grave := rfl
@[simp] theorem Flt.writeRecord_grave (f : Flt) (r : FRec) : (f.writeRecord r).grave = f.grave := rfl
@[simp] theorem Flt.latchSlot_grave (f : Flt) : f.latchSlot.grave = f.grave := by unfold Flt.latchSlot; split <;> rfl
@[simp] theorem Flt.readSide_grave (f : Flt) (off : Nat) : (f.readSide off).grave = f.grave := by unfold Flt.readSide; split <;> simp
@[simp] theorem Flt.swap_grave (f : Flt) (g : BitVec 10 → Bool) : (f.swap g).grave = f.grave := rfl
@[simp] theorem Flt.drainCoal_grave (f : Flt) : f.drainCoal.grave = f.grave := by unfold Flt.drainCoal; repeat' (first | rfl | split)
@[simp] theorem Flt.intake_grave (f : Flt) (r : FRec) (t : Nat) : (f.intake r t).grave = f.grave := by
  unfold Flt.intake; repeat' (first | rfl | split)

theorem State.startMajor_grave (s : State) (m : Msg) : (s.startMajor m).1.grave = s.flt.grave := by
  unfold State.startMajor; dsimp only; repeat' (first | rfl | split)

theorem State.collectFlt_grave (s : State) (m : Msg) (h : s.flt.grave = true) : (s.collectFlt m).grave = true := by
  unfold State.collectFlt
  split
  · exact h
  · simp only [h, if_true]
    simp [h]

/-! ### What taking a message can change -/

theorem Flt.intake_spec (f : Flt) (r : FRec) (t : Nat) :
    ∃ q c l n, f.intake r t = { f with fifo := q, coal := c, lost := l, lostCount := n } := by
  unfold Flt.intake; repeat' (first | exact ⟨_, _, _, _, rfl⟩ | split)

theorem State.startMajor_spec (s : State) (m : Msg) :
    ∃ t c r, (s.startMajor m).1 = { s.flt with tag := t, conseqs := c, reactions := r } := by
  unfold State.startMajor; dsimp only; repeat' (first | exact ⟨_, _, _, rfl⟩ | split)

theorem State.classify_spec (s : State) (m : Msg) :
    ∃ x t c r g a, (s.classify m).1 = { s.flt with srcs := x, tag := t, conseqs := c, reactions := r, grave := g, alive := a } := by
  unfold State.classify
  dsimp only
  split
  · exact ⟨_, _, _, _, _, _, rfl⟩
  · obtain ⟨t, c, r, e⟩ := State.startMajor_spec (s.upFlt fun f => f.upSrc m.src fun _ =>
      (if s.codeClass m.src m.kind = .minor ∨ s.codeClass m.src m.kind = .major then s.count m (s.codeClass m.src m.kind)
        else (s.flt.srcSt m.src, s.codeClass m.src m.kind, false)).1) m
    exact ⟨_, t, c, r, s.flt.grave, s.flt.alive, by rw [e]; rfl⟩
  · exact ⟨_, s.flt.tag, s.flt.conseqs, s.flt.reactions, s.flt.grave, s.flt.alive, rfl⟩

/-- Taking a message changes the sources, the intake, the tags and what waits to react: the coffer, its persistence and the registers of the
collector stay (R369 … R385). -/
theorem State.collectFlt_spec (s : State) (m : Msg) :
    ∃ x q k l n t c r g a, s.collectFlt m = { s.flt with srcs := x, fifo := q, coal := k, lost := l, lostCount := n, tag := t, conseqs := c,
                                                         reactions := r, grave := g, alive := a } := by
  unfold State.collectFlt
  split
  · exact ⟨_, _, _, _, _, _, _, _, _, _, rfl⟩
  · split
    · obtain ⟨q, k, l, n, e⟩ := Flt.intake_spec (s.flt.markSticky m) (recOf m (s.codeClass m.src m.kind) true false _ s.ticks) s.ticks
      exact ⟨_, q, k, l, n, _, _, _, _, _, e⟩
    · obtain ⟨q, k, l, n, e⟩ := Flt.intake_spec ((s.classify m).1.markSticky m)
        (recOf m (s.classify m).2.1 false (s.classify m).2.2.1 (s.classify m).2.2.2 s.ticks) s.ticks
      obtain ⟨x, t, c, r, g, a, e'⟩ := State.classify_spec s m
      exact ⟨_, q, k, l, n, t, c, r, g, a, e.trans (by rw [e']; rfl)⟩

/-! ### Named updates -/

theorem State.setCh_keeps {s₀ s : State} (hk : Keeps s₀ s) (n : Ch) (c : Chan) : Keeps s₀ (s.setCh n c) := hk.build id id rfl rfl rfl
theorem State.upCh_keeps {s₀ s : State} (hk : Keeps s₀ s) (n : Ch) (f : Chan → Chan) : Keeps s₀ (s.upCh n f) := hk.build id id rfl rfl rfl
theorem State.setCell_keeps {s₀ s : State} (hk : Keeps s₀ s) (k : CellIx) (c : Cell) : Keeps s₀ (s.setCell k c) := hk.build id id rfl rfl rfl
theorem State.upCell_keeps {s₀ s : State} (hk : Keeps s₀ s) (k : CellIx) (f : Cell → Cell) : Keeps s₀ (s.upCell k f) := hk.build id id rfl rfl rfl
theorem State.upBay_keeps {s₀ s : State} (hk : Keeps s₀ s) (b : Bay) (f : BaySt → BaySt) : Keeps s₀ (s.upBay b f) := hk.build id id rfl rfl rfl
theorem State.allCh_keeps {s₀ s : State} (hk : Keeps s₀ s) (f : Ch → Chan → Chan) : Keeps s₀ (s.allCh f) := hk.build id id rfl rfl rfl
theorem State.allCells_keeps {s₀ s : State} (hk : Keeps s₀ s) (f : CellIx → Cell → Cell) : Keeps s₀ (s.allCells f) := hk.build id id rfl rfl rfl
theorem State.allBays_keeps {s₀ s : State} (hk : Keeps s₀ s) (f : Bay → BaySt → BaySt) : Keeps s₀ (s.allBays f) := hk.build id id rfl rfl rfl
theorem State.draw_keeps {s₀ s : State} (hk : Keeps s₀ s) : Keeps s₀ s.draw := hk.build id id rfl rfl rfl
theorem State.upClk_keeps {s₀ s : State} (hk : Keeps s₀ s) (f : Clk → Clk) : Keeps s₀ (s.upClk f) := hk.build id id rfl rfl rfl
theorem State.upPll_keeps {s₀ s : State} (hk : Keeps s₀ s) (p : PllId) (f : Pll → Pll) : Keeps s₀ (s.upPll p f) := by
  cases p <;> exact hk.build id id rfl rfl rfl
theorem State.upAtt_keeps {s₀ s : State} (hk : Keeps s₀ s) (f : Att → Att) : Keeps s₀ (s.upAtt f) := hk.build id id rfl rfl rfl
theorem State.upMig_keeps {s₀ s : State} (hk : Keeps s₀ s) (b : Bay) (f : BayMig → BayMig) : Keeps s₀ (s.upMig b f) := hk.build id id rfl rfl rfl
theorem State.upFlt_keeps {s₀ s : State} (hk : Keeps s₀ s) (f : Flt → Flt) (hf : s.flt.grave = true → (f s.flt).grave = true) :
    Keeps s₀ (s.upFlt f) := hk.build id hf rfl rfl rfl
theorem State.upLnk_keeps {s₀ s : State} (hk : Keeps s₀ s) (f : Lnk → Lnk) (hf : (f s.lnk).strap = s.lnk.strap) : Keeps s₀ (s.upLnk f) :=
  hk.build id id hf rfl rfl
theorem State.upPort_keeps {s₀ s : State} (hk : Keeps s₀ s) (p : Port) (f : PortSt → PortSt) : Keeps s₀ (s.upPort p f) := hk.build id id rfl rfl rfl
theorem State.upImg_keeps {s₀ s : State} (hk : Keeps s₀ s) (f : Img → Img)
    (hf : Memory.wf stageBackground s.img.stage = true → Memory.wf stageBackground (f s.img).stage = true) : Keeps s₀ (s.upImg f) :=
  hk.build hf id rfl rfl rfl
theorem State.upPwr_keeps {s₀ s : State} (hk : Keeps s₀ s) (f : Pwr → Pwr) (hp : (f s.pwr).inReset = s.pwr.inReset)
    (hq : (f s.pwr).source = s.pwr.source) : Keeps s₀ (s.upPwr f) := hk.build id id rfl hp hq
theorem State.setMemWord_keeps {s₀ s : State} (hk : Keeps s₀ s) (a : Nat) (w : Word) : Keeps s₀ (s.setMemWord a w) :=
  hk.trans ⟨rfl, rfl, rfl, rfl, rfl, rfl, rfl, rfl, writeMemWord_wf a w, id, id⟩
theorem State.hostMemWord_keeps {s₀ s : State} (hk : Keeps s₀ s) (a : Nat) (w : Word) : Keeps s₀ (s.hostMemWord a w) :=
  hk.trans ⟨rfl, rfl, rfl, rfl, rfl, rfl, rfl, rfl, writeMemWord_wf a w, id, id⟩
theorem State.collect_keeps {s₀ s : State} (hk : Keeps s₀ s) (m : Msg) : Keeps s₀ (s.collect m) :=
  hk.build id (s.collectFlt_grave m) rfl rfl rfl
theorem State.post_keeps {s₀ s : State} (hk : Keeps s₀ s) (src : BitVec 10) (kind addr : Nat) : Keeps s₀ (s.post src kind addr) := State.collect_keeps hk _
theorem State.noteCh_keeps {s₀ s : State} (hk : Keeps s₀ s) (n : Ch) (off : Nat) : Keeps s₀ (s.noteCh n off) := State.post_keeps hk _ _ _
theorem State.noteImg_keeps {s₀ s : State} (hk : Keeps s₀ s) (a : Nat) : Keeps s₀ (s.noteImg a) := State.post_keeps hk _ _ _
theorem State.postCell_keeps {s₀ s : State} (hk : Keeps s₀ s) (k : CellIx) (kind unit detail : Nat) : Keeps s₀ (s.postCell k kind unit detail) :=
  State.post_keeps hk _ _ _
theorem State.beginLive_keeps {s₀ s : State} (hk : Keeps s₀ s) (src : BitVec 10) (kind : Nat) : Keeps s₀ (s.beginLive src kind) :=
  State.upFlt_keeps hk _ id
theorem State.endLive_keeps {s₀ s : State} (hk : Keeps s₀ s) (src : BitVec 10) (kind : Nat) : Keeps s₀ (s.endLive src kind) := State.upFlt_keeps hk _ id

/-! ### Conditional, repeated and gated work -/

theorem State.when_keeps {s₀ s : State} (hk : Keeps s₀ s) (b : Bool) (f : State → State) (hf : Keeps s₀ s → Keeps s₀ (f s)) : Keeps s₀ (s.when b f) := by
  cases b
  · exact hk
  · exact hf hk

theorem State.each_keepsAll {α : Type} {s₀ s : State} (hk : Keeps s₀ s) (l : List α) (f : α → State → State)
    (hf : ∀ x t, Keeps s₀ t → Keeps s₀ (f x t)) : Keeps s₀ (s.each l f) := State.each_inv (Keeps s₀) f hf l s hk

theorem State.live_keeps {s₀ s : State} (hk : Keeps s₀ s) (f : State → State) (hf : Keeps s₀ s → Keeps s₀ (f s)) : Keeps s₀ (s.live f) := by
  unfold State.live; split
  · exact hk
  · exact hf hk

theorem State.hostAct_keeps {s₀ s : State} (hk : Keeps s₀ s) (f : State → State) (hf : Keeps s₀ s → Keeps s₀ (f s)) : Keeps s₀ (s.hostAct f) := by
  unfold State.hostAct
  refine State.live_keeps hk _ fun hk => ?_
  split
  · exact hk
  · exact hf hk

/-! ### Ops -/

theorem State.upCarrier_keeps {s₀ s : State} (hk : Keeps s₀ s) (n : Ch) (f : Cell → Cell) : Keeps s₀ (s.upCarrier n f) := by
  unfold State.upCarrier; try dsimp only
  repeat' (first | with_reducible assumption | with_reducible exact id | intro _ | with_reducible apply State.upCell_keeps | split | rfl)

/-! ### StrandOps -/

theorem State.pushRecord_keeps {s₀ s : State} (hk : Keeps s₀ s) (n : Ch) (w : Word × Word × Word × Word) : Keeps s₀ (s.pushRecord n w) := by
  unfold State.pushRecord; try dsimp only
  repeat' (first | with_reducible assumption | with_reducible exact id | intro _ | with_reducible apply State.upCh_keeps | with_reducible apply State.setMemWord_keeps | split | rfl)

theorem State.writeRecord_keeps {s₀ s : State} (hk : Keeps s₀ s) (n : Ch) : Keeps s₀ (s.writeRecord n) := by
  unfold State.writeRecord; try dsimp only
  repeat' (first | with_reducible assumption | with_reducible exact id | intro _ | with_reducible apply State.upCh_keeps | with_reducible apply State.pushRecord_keeps | split | rfl)

theorem State.settleRecord_keeps {s₀ s : State} (hk : Keeps s₀ s) (n : Ch) (f : RecFate) : Keeps s₀ (s.settleRecord n f) := by
  unfold State.settleRecord; try dsimp only
  repeat' (first | with_reducible assumption | with_reducible exact id | intro _ | with_reducible apply State.upCh_keeps | with_reducible apply State.when_keeps | with_reducible apply State.writeRecord_keeps | split | rfl)

theorem State.endAs_keeps {s₀ s : State} (hk : Keeps s₀ s) (n : Ch) (x : StrandState × Reason × RecFate × Bool) : Keeps s₀ (s.endAs n x) := by
  unfold State.endAs; try dsimp only
  repeat' (first | with_reducible assumption | with_reducible exact id | intro _ | with_reducible apply State.upCh_keeps | with_reducible apply State.when_keeps | with_reducible apply State.settleRecord_keeps | split | rfl)

theorem State.endAgain_keeps {s₀ s : State} (hk : Keeps s₀ s) (n : Ch) (st : StrandState) (r : Reason) (f : RecFate) : Keeps s₀ (s.endAgain n st r f) := by
  unfold State.endAgain; try dsimp only
  repeat' (first | with_reducible assumption | with_reducible exact id | intro _ | with_reducible apply State.upCh_keeps | with_reducible apply State.settleRecord_keeps | split | rfl)

theorem State.endStrand_keeps {s₀ s : State} (hk : Keeps s₀ s) (n : Ch) (st : StrandState) (r : Reason) (f : RecFate) (count : Bool) : Keeps s₀ (s.endStrand n st r f count) := by
  unfold State.endStrand; try dsimp only
  repeat' (first | with_reducible assumption | with_reducible exact id | intro _ | with_reducible apply State.endAs_keeps | with_reducible apply State.endAgain_keeps | split | rfl)

/-! ### ClkOps -/

theorem State.unalign_keeps {s₀ s : State} (hk : Keeps s₀ s) : Keeps s₀ (s.unalign) := by
  unfold State.unalign; try dsimp only
  repeat' (first | with_reducible assumption | with_reducible exact id | intro _ | with_reducible apply State.upClk_keeps | with_reducible apply State.upLnk_keeps | with_reducible apply State.post_keeps | with_reducible apply State.each_keepsAll | split | rfl)

theorem State.align_keeps {s₀ s : State} (hk : Keeps s₀ s) : Keeps s₀ (s.align) := by
  unfold State.align; try dsimp only
  repeat' (first | with_reducible assumption | with_reducible exact id | intro _ | with_reducible apply State.upClk_keeps | with_reducible apply State.endLive_keeps | split | rfl)

theorem State.markAll_keeps {s₀ s : State} (hk : Keeps s₀ s) : Keeps s₀ (s.markAll) := by
  unfold State.markAll; try dsimp only
  repeat' (first | with_reducible assumption | with_reducible exact id | intro _ | with_reducible apply State.allCh_keeps | split | rfl)

theorem State.leaveVco8_keeps {s₀ s : State} (hk : Keeps s₀ s) (g : Guard) : Keeps s₀ (s.leaveVco8 g) := by
  unfold State.leaveVco8; try dsimp only
  repeat' (first | with_reducible assumption | with_reducible exact id | intro _ | with_reducible apply State.allCh_keeps | with_reducible apply State.upClk_keeps | with_reducible apply State.unalign_keeps | split | rfl)

theorem State.enterVco8_keeps {s₀ s : State} (hk : Keeps s₀ s) : Keeps s₀ (s.enterVco8) := by
  unfold State.enterVco8; try dsimp only
  repeat' (first | with_reducible assumption | with_reducible exact id | intro _ | with_reducible apply State.upClk_keeps | with_reducible apply State.markAll_keeps | split | rfl)

theorem State.outsStop_keeps {s₀ s : State} (hk : Keeps s₀ s) (all : Bool) : Keeps s₀ (s.outsStop all) := by
  unfold State.outsStop; try dsimp only
  repeat' (first | with_reducible assumption | with_reducible exact id | intro _ | with_reducible apply State.upClk_keeps | split | rfl)

theorem State.outsRun_keeps {s₀ s : State} (hk : Keeps s₀ s) : Keeps s₀ (s.outsRun) := by
  unfold State.outsRun; try dsimp only
  repeat' (first | with_reducible assumption | with_reducible exact id | intro _ | with_reducible apply State.upClk_keeps | split | rfl)

theorem State.treeChanged_keeps {s₀ s : State} (hk : Keeps s₀ s) : Keeps s₀ (s.treeChanged) := by
  unfold State.treeChanged; try dsimp only
  repeat' (first | with_reducible assumption | with_reducible exact id | intro _ | with_reducible apply State.upLnk_keeps | split | rfl)

theorem State.portsStop_keeps {s₀ s : State} (hk : Keeps s₀ s) : Keeps s₀ (s.portsStop) := by
  unfold State.portsStop; try dsimp only
  repeat' (first | with_reducible assumption | with_reducible exact id | intro _ | with_reducible apply State.upLnk_keeps | with_reducible apply State.when_keeps | with_reducible apply State.treeChanged_keeps | split | rfl)

theorem State.portsEnable_keeps {s₀ s : State} (hk : Keeps s₀ s) : Keeps s₀ (s.portsEnable) := by
  unfold State.portsEnable; try dsimp only
  repeat' (first | with_reducible assumption | with_reducible exact id | intro _ | with_reducible apply State.upLnk_keeps | with_reducible apply State.when_keeps | with_reducible apply State.treeChanged_keeps | split | rfl)

theorem State.portsStart_keeps {s₀ s : State} (hk : Keeps s₀ s) : Keeps s₀ (s.portsStart) := by
  unfold State.portsStart; try dsimp only
  repeat' (first | with_reducible assumption | with_reducible exact id | intro _ | with_reducible apply State.upLnk_keeps | with_reducible apply State.portsEnable_keeps | split | rfl)

theorem State.pllsStart_keeps {s₀ s : State} (hk : Keeps s₀ s) : Keeps s₀ (s.pllsStart) := by
  unfold State.pllsStart; try dsimp only
  repeat' (first | with_reducible assumption | with_reducible exact id | intro _ | with_reducible apply State.upClk_keeps | split | rfl)

theorem State.wake_keeps {s₀ s : State} (hk : Keeps s₀ s) (b : Bay) : Keeps s₀ (s.wake b) := by
  unfold State.wake; try dsimp only
  repeat' (first | with_reducible assumption | with_reducible exact id | intro _ | with_reducible apply State.upBay_keeps | with_reducible apply State.when_keeps | with_reducible apply State.pllsStart_keeps | split | rfl)

theorem State.detected_keeps {s₀ s : State} (hk : Keeps s₀ s) (edges : Nat) : Keeps s₀ (s.detected edges) := by
  unfold State.detected; try dsimp only
  repeat' (first | with_reducible assumption | with_reducible exact id | intro _ | with_reducible apply State.upClk_keeps | with_reducible apply State.pllsStart_keeps | split | rfl)

theorem State.lockAcquired_keeps {s₀ s : State} (hk : Keeps s₀ s) (p : PllId) : Keeps s₀ (s.lockAcquired p) := by
  unfold State.lockAcquired; try dsimp only
  repeat' (first | with_reducible assumption | with_reducible exact id | intro _ | with_reducible apply State.upPll_keeps | split | rfl)

theorem State.lockHeld_keeps {s₀ s : State} (hk : Keeps s₀ s) (p : PllId) : Keeps s₀ (s.lockHeld p) := by
  unfold State.lockHeld; try dsimp only
  repeat' (first | with_reducible assumption | with_reducible exact id | intro _ | with_reducible apply State.upPll_keeps | with_reducible apply State.enterVco8_keeps | with_reducible apply State.outsRun_keeps | with_reducible apply State.portsStart_keeps | split | rfl)

theorem State.pllEnd_keeps {s₀ s : State} (hk : Keeps s₀ s) (p : PllId) (r : PllResult) : Keeps s₀ (s.pllEnd p r) := by
  unfold State.pllEnd; try dsimp only
  repeat' (first | with_reducible assumption | with_reducible exact id | intro _ | with_reducible apply State.upPll_keeps | split | rfl)

theorem State.pllAway_keeps {s₀ s : State} (hk : Keeps s₀ s) (p : PllId) (g : Guard) : Keeps s₀ (s.pllAway p g) := by
  unfold State.pllAway; try dsimp only
  repeat' (first | with_reducible assumption | with_reducible exact id | intro _ | with_reducible apply State.unalign_keeps | with_reducible apply State.leaveVco8_keeps | with_reducible apply State.outsStop_keeps | with_reducible apply State.portsStop_keeps | split | rfl)

theorem State.commitPll_keeps {s₀ s : State} (hk : Keeps s₀ s) (p : PllId) : Keeps s₀ (s.commitPll p) := by
  unfold State.commitPll; try dsimp only
  repeat' (first | with_reducible assumption | with_reducible exact id | intro _ | with_reducible apply State.upPll_keeps | with_reducible apply State.when_keeps | with_reducible apply State.portsEnable_keeps | with_reducible apply State.pllEnd_keeps | with_reducible apply State.pllAway_keeps | split | rfl)

theorem State.measureBands_keeps {s₀ s : State} (hk : Keeps s₀ s) (p : PllId) (khz : List (Nat × Nat)) : Keeps s₀ (s.measureBands p khz) := by
  unfold State.measureBands; try dsimp only
  repeat' (first | with_reducible assumption | with_reducible exact id | intro _ | with_reducible apply State.upPll_keeps | with_reducible apply State.pllEnd_keeps | with_reducible apply State.pllAway_keeps | split | rfl | refine Keeps.build ?_ id id rfl rfl rfl)

theorem State.writeClkout_keeps {s₀ s : State} (hk : Keeps s₀ s) (x : Fin 4) (v : Word) : Keeps s₀ (s.writeClkout x v) := by
  unfold State.writeClkout; try dsimp only
  repeat' (first | with_reducible assumption | with_reducible exact id | intro _ | with_reducible apply State.upClk_keeps | split | rfl)

/-! ### ForceOps -/

theorem State.latchCell_keeps {s₀ s : State} (hk : Keeps s₀ s) (n : Ch) (k : CellIx) : Keeps s₀ (s.latchCell n k) := by
  unfold State.latchCell; try dsimp only
  repeat' (first | with_reducible assumption | with_reducible exact id | intro _ | with_reducible apply State.upCh_keeps | with_reducible apply State.upCell_keeps | split | rfl)

theorem State.latchDac_keeps {s₀ s : State} (hk : Keeps s₀ s) (n : Ch) : Keeps s₀ (s.latchDac n) := by
  unfold State.latchDac; try dsimp only
  repeat' (first | with_reducible assumption | with_reducible exact id | intro _ | with_reducible apply State.each_keepsAll | with_reducible apply State.latchCell_keeps | split | rfl)

theorem State.refresh_keeps {s₀ s : State} (hk : Keeps s₀ s) (n : Ch) : Keeps s₀ (s.refresh n) := by
  unfold State.refresh; try dsimp only
  repeat' (first | with_reducible assumption | with_reducible exact id | intro _ | with_reducible apply State.upCell_keeps | with_reducible apply State.each_keepsAll | split | rfl)

theorem State.releaseKeepers_keeps {s₀ s : State} (hk : Keeps s₀ s) (n : Ch) : Keeps s₀ (s.releaseKeepers n) := by
  unfold State.releaseKeepers; try dsimp only
  repeat' (first | with_reducible assumption | with_reducible exact id | intro _ | with_reducible apply State.upCell_keeps | with_reducible apply State.endLive_keeps | with_reducible apply State.when_keeps | with_reducible apply State.each_keepsAll | split | rfl)

theorem State.openSwitch_keeps {s₀ s : State} (hk : Keeps s₀ s) (n : Ch) (o : OutState) : Keeps s₀ (s.openSwitch n o) := by
  unfold State.openSwitch; try dsimp only
  repeat' (first | with_reducible assumption | with_reducible exact id | intro _ | with_reducible apply State.upCh_keeps | with_reducible apply State.refresh_keeps | with_reducible apply State.releaseKeepers_keeps | split | rfl)

theorem State.pinsOpen_keeps {s₀ s : State} (hk : Keeps s₀ s) : Keeps s₀ (s.pinsOpen) := by
  unfold State.pinsOpen; try dsimp only
  repeat' (first | with_reducible assumption | with_reducible exact id | intro _ | with_reducible apply State.upCh_keeps | with_reducible apply State.each_keepsAll | with_reducible apply State.refresh_keeps | with_reducible apply State.openSwitch_keeps | split | rfl)

theorem State.wakeFor_keeps {s₀ s : State} (hk : Keeps s₀ s) (n : Ch) : Keeps s₀ (s.wakeFor n) := by
  unfold State.wakeFor; try dsimp only
  repeat' (first | with_reducible assumption | with_reducible exact id | intro _ | with_reducible apply State.each_keepsAll | with_reducible apply State.wake_keeps | split | rfl)

theorem State.restStart_keeps {s₀ s : State} (hk : Keeps s₀ s) (n : Ch) : Keeps s₀ (s.restStart n) := by
  unfold State.restStart; try dsimp only
  repeat' (first | with_reducible assumption | with_reducible exact id | intro _ | with_reducible apply State.upCh_keeps | with_reducible apply State.when_keeps | with_reducible apply State.refresh_keeps | with_reducible apply State.releaseKeepers_keeps | with_reducible apply State.wakeFor_keeps | split | rfl)

theorem State.fenceOpen_keeps {s₀ s : State} (hk : Keeps s₀ s) (n : Ch) (f : ChFence) : Keeps s₀ (s.fenceOpen n f) := by
  unfold State.fenceOpen; try dsimp only
  repeat' (first | with_reducible assumption | with_reducible exact id | intro _ | with_reducible apply State.upCh_keeps | with_reducible apply State.endStrand_keeps | with_reducible apply State.openSwitch_keeps | split | rfl)

/-! ### AtticOps -/

theorem State.endBy_keeps {s₀ s : State} (hk : Keeps s₀ s) (n : Ch) (st : StrandState) (r : Reason) (f : RecFate) (count : Bool) : Keeps s₀ (s.endBy n st r f count) := by
  unfold State.endBy; try dsimp only
  repeat' (first | with_reducible assumption | with_reducible exact id | intro _ | with_reducible apply State.endStrand_keeps | split | rfl)

theorem State.request_keeps {s₀ s : State} (hk : Keeps s₀ s) (q : MigReq) : Keeps s₀ (s.request q) := by
  unfold State.request; try dsimp only
  repeat' (first | with_reducible assumption | with_reducible exact id | intro _ | with_reducible apply State.upAtt_keeps | split | rfl)

theorem State.remapped_keeps {s₀ s : State} (hk : Keeps s₀ s) (old : State) : Keeps s₀ (s.remapped old) := by
  unfold State.remapped; try dsimp only
  repeat' (first | with_reducible assumption | with_reducible exact id | intro _ | with_reducible apply State.allCh_keeps | split | rfl)

theorem State.freeBridge_keeps {s₀ s : State} (hk : Keeps s₀ s) (n : Ch) : Keeps s₀ (s.freeBridge n) := by
  unfold State.freeBridge; try dsimp only
  repeat' (first | with_reducible assumption | with_reducible exact id | intro _ | with_reducible apply State.upAtt_keeps | split | rfl)

theorem State.fenceNoSpare_keeps {s₀ s : State} (hk : Keeps s₀ s) (n : Ch) (f : ChFence) (bad : Bool) : Keeps s₀ (s.fenceNoSpare n f bad) := by
  unfold State.fenceNoSpare; try dsimp only
  repeat' (first | with_reducible assumption | with_reducible exact id | (intro hg; show Flt.grave _ = true; simpa using hg) | intro _ | with_reducible apply State.upCh_keeps | with_reducible apply State.upCell_keeps | with_reducible apply State.upFlt_keeps | with_reducible apply State.when_keeps | with_reducible apply State.fenceOpen_keeps | with_reducible apply State.remapped_keeps | with_reducible apply State.freeBridge_keeps | split | rfl)

/-! ### Prepare -/

theorem State.prepare_keeps {s₀ s : State} (hk : Keeps s₀ s) (n : Ch) : Keeps s₀ (s.prepare n) := by
  unfold State.prepare; try dsimp only
  repeat' (first | with_reducible assumption | with_reducible exact id | intro _ | with_reducible apply State.upCh_keeps | with_reducible apply State.draw_keeps | with_reducible apply State.when_keeps | split | rfl)

/-! ### Land -/

theorem State.celAsk_keeps {s₀ s : State} (hk : Keeps s₀ s) (w : CelWork) : Keeps s₀ (s.celAsk w) := by
  unfold State.celAsk; try dsimp only
  repeat' (first | with_reducible assumption | with_reducible exact id | intro _ | split | rfl | refine Keeps.build ?_ id id rfl rfl rfl)

theorem State.pageWrite_keeps {s₀ s : State} (hk : Keeps s₀ s) (b : Bay) (a : Addr) (w : Word) (f : State → State)
    (hf : Keeps s₀ s → Keeps s₀ (f s)) : Keeps s₀ (s.pageWrite b a w f) := by
  unfold State.pageWrite
  refine State.hostAct_keeps hk _ fun hk => ?_
  split
  · exact hf hk
  · exact State.upBay_keeps (State.wake_keeps hk b) _ _

theorem State.chWrite_keeps {s₀ s : State} (hk : Keeps s₀ s) (n : Ch) (off : Nat) (w : Word) (f : State → State)
    (hf : Keeps s₀ s → Keeps s₀ (f s)) : Keeps s₀ (s.chWrite n off w f) := by
  unfold State.chWrite
  refine State.pageWrite_keeps hk _ _ _ _ fun hk => ?_
  split
  · exact State.noteCh_keeps hk n off
  · exact hf hk

theorem State.sample_keeps {s₀ s : State} (hk : Keeps s₀ s) (n : Ch) : Keeps s₀ (s.sample n) := by
  unfold State.sample; try dsimp only
  repeat' (first | with_reducible assumption | with_reducible exact id | intro _ | with_reducible apply State.upCh_keeps | split | rfl)

theorem State.chSet_keeps {s₀ s : State} (hk : Keeps s₀ s) (n : Ch) (off : Nat) (w : Word) (f : ChanCfg → ChanCfg) : Keeps s₀ (s.chSet n off w f) := by
  unfold State.chSet; try dsimp only
  repeat' (first | with_reducible assumption | with_reducible exact id | intro _ | with_reducible apply State.upCh_keeps | with_reducible apply State.chWrite_keeps | with_reducible apply State.sample_keeps | split | rfl)

theorem State.startRanging_keeps {s₀ s : State} (hk : Keeps s₀ s) (n : Ch) : Keeps s₀ (s.startRanging n) := by
  unfold State.startRanging; try dsimp only
  repeat' (first | with_reducible assumption | with_reducible exact id | intro _ | with_reducible apply State.upCh_keeps | split | rfl)

/-! ### Loop -/

theorem State.takeSamples_keeps {s₀ s : State} (hk : Keeps s₀ s) (n : Ch) (k : CellIx) (x : LoopIn) : Keeps s₀ (s.takeSamples n k x) := by
  unfold State.takeSamples; try dsimp only
  repeat' (first | with_reducible assumption | with_reducible exact id | intro _ | with_reducible apply State.upCh_keeps | split | rfl)

theorem State.takeover_keeps {s₀ s : State} (hk : Keeps s₀ s) (n : Ch) (k : CellIx) (failA failB : Bool) : Keeps s₀ (s.takeover n k failA failB) := by
  unfold State.takeover; try dsimp only
  repeat' (first | with_reducible assumption | with_reducible exact id | intro _ | with_reducible apply State.upCell_keeps | with_reducible apply State.postCell_keeps | with_reducible apply State.when_keeps | with_reducible apply State.request_keeps | split | rfl)

theorem State.compareMembers_keeps {s₀ s : State} (hk : Keeps s₀ s) (n : Ch) (l : List EngineCheck) : Keeps s₀ (s.compareMembers n l) := by
  unfold State.compareMembers; try dsimp only
  repeat' (first | with_reducible assumption | with_reducible exact id | intro _ | with_reducible apply State.each_keepsAll | with_reducible apply State.takeover_keeps | split | rfl)

theorem State.compare_keeps {s₀ s : State} (hk : Keeps s₀ s) (n : Ch) (k : CellIx) (x : LoopIn) : Keeps s₀ (s.compare n k x).1 := by
  have hm := State.compareMembers_keeps hk n x.memberChecks
  unfold State.compare
  dsimp only
  split
  · exact hm
  · split
    · exact hm
    · exact State.takeover_keeps hm n k _ _

theorem State.boundNext_keeps {s₀ s : State} (hk : Keeps s₀ s) (n : Ch) (k : CellIx) (x : LoopIn) : Keeps s₀ (s.boundNext n k x) := by
  unfold State.boundNext; try dsimp only
  repeat' (first | with_reducible assumption | with_reducible exact id | intro _ | with_reducible apply State.upCh_keeps | with_reducible apply State.upBay_keeps | split | rfl)

theorem State.phaseStep_keeps {s₀ s : State} (hk : Keeps s₀ s) (n : Ch) : Keeps s₀ (s.phaseStep n) := by
  unfold State.phaseStep; try dsimp only
  repeat' (first | with_reducible assumption | with_reducible exact id | intro _ | with_reducible apply State.upCh_keeps | split | rfl)

theorem State.toggles_keeps {s₀ s : State} (hk : Keeps s₀ s) (n : Ch) (k : CellIx) : Keeps s₀ (s.toggles n k) := by
  unfold State.toggles; try dsimp only
  repeat' (first | with_reducible assumption | with_reducible exact id | intro _ | with_reducible apply State.upCell_keeps | with_reducible apply State.each_keepsAll | split | rfl)

theorem State.shadowFollow_keeps {s₀ s : State} (hk : Keeps s₀ s) (n : Ch) (j : CellIx) : Keeps s₀ (s.shadowFollow n j) := by
  unfold State.shadowFollow; try dsimp only
  repeat' (first | with_reducible assumption | with_reducible exact id | intro _ | with_reducible apply State.upCell_keeps | split | rfl)

theorem State.shadowCheck_keeps {s₀ s : State} (hk : Keeps s₀ s) (n : Ch) (b : Bay) (j : CellIx) (x : LoopIn) : Keeps s₀ (s.shadowCheck n b j x) := by
  unfold State.shadowCheck; try dsimp only
  repeat' (first | with_reducible assumption | with_reducible exact id | intro _ | with_reducible apply State.upCell_keeps | with_reducible apply State.upMig_keeps | split | rfl)

theorem State.migrationStep_keeps {s₀ s : State} (hk : Keeps s₀ s) (n : Ch) (x : LoopIn) : Keeps s₀ (s.migrationStep n x) := by
  unfold State.migrationStep; try dsimp only
  repeat' (first | with_reducible assumption | with_reducible exact id | intro _ | with_reducible apply State.upMig_keeps | with_reducible apply State.shadowFollow_keeps | with_reducible apply State.shadowCheck_keeps | split | rfl)

theorem State.loopUpdate_keeps {s₀ s : State} (hk : Keeps s₀ s) (n : Ch) (k : CellIx) (x : LoopIn) : Keeps s₀ (s.loopUpdate n k x) := by
  unfold State.loopUpdate
  refine State.refresh_keeps (State.migrationStep_keeps (State.when_keeps (State.latchDac_keeps (State.upCh_keeps (State.toggles_keeps
    (State.phaseStep_keeps (State.upCh_keeps (State.boundNext_keeps (State.upCh_keeps (State.compare_keeps (State.upCh_keeps
    (State.takeSamples_keeps (State.upCh_keeps (State.startRanging_keeps hk ..) ..) ..) ..) ..) ..) ..) ..) ..) ..) ..) ..) _ _ ?_) ..) ..
  exact fun h => State.prepare_keeps h _

theorem State.loopClose_keeps {s₀ s : State} (hk : Keeps s₀ s) (n : Ch) : Keeps s₀ (s.loopClose n) := by
  unfold State.loopClose; try dsimp only
  repeat' (first | with_reducible assumption | with_reducible exact id | intro _ | with_reducible apply State.upCh_keeps | with_reducible apply State.noteCh_keeps | with_reducible apply State.refresh_keeps | split | rfl)

theorem State.loopOpen_keeps {s₀ s : State} (hk : Keeps s₀ s) (n : Ch) : Keeps s₀ (s.loopOpen n) := by
  unfold State.loopOpen; try dsimp only
  repeat' (first | with_reducible assumption | with_reducible exact id | intro _ | with_reducible apply State.upCh_keeps | with_reducible apply State.refresh_keeps | split | rfl)

theorem State.loopCmd_keeps {s₀ s : State} (hk : Keeps s₀ s) (n : Ch) (x : Code) : Keeps s₀ (s.loopCmd n x) := by
  unfold State.loopCmd; try dsimp only
  repeat' (first | with_reducible assumption | with_reducible exact id | intro _ | with_reducible apply State.upCh_keeps | with_reducible apply State.noteCh_keeps | split | rfl)

theorem State.coefLand_keeps {s₀ s : State} (hk : Keeps s₀ s) (n : Ch) (w : WinId) (r : CoefReg) (v : Word) : Keeps s₀ (s.coefLand n w r v) := by
  unfold State.coefLand; try dsimp only
  repeat' (first | with_reducible assumption | with_reducible exact id | intro _ | with_reducible apply State.upCh_keeps | with_reducible apply State.post_keeps | split | rfl)

/-! ### MeasConv -/

theorem State.endPass_keeps {s₀ s : State} (hk : Keeps s₀ s) (n : Ch) : Keeps s₀ (s.endPass n) := by
  unfold State.endPass; try dsimp only
  repeat' (first | with_reducible assumption | with_reducible exact id | intro _ | with_reducible apply State.upCh_keeps | with_reducible apply State.when_keeps | with_reducible apply State.writeRecord_keeps | split | rfl)

theorem State.startPass_keeps {s₀ s : State} (hk : Keeps s₀ s) (n : Ch) : Keeps s₀ (s.startPass n) := by
  unfold State.startPass; try dsimp only
  repeat' (first | with_reducible assumption | with_reducible exact id | intro _ | with_reducible apply State.upCh_keeps | with_reducible apply State.when_keeps | with_reducible apply State.writeRecord_keeps | split | rfl)

theorem State.pulseOver_keeps {s₀ s : State} (hk : Keeps s₀ s) (n : Ch) : Keeps s₀ (s.pulseOver n) := by
  unfold State.pulseOver; try dsimp only
  repeat' (first | with_reducible assumption | with_reducible exact id | intro _ | with_reducible apply State.upCh_keeps | with_reducible apply State.latchDac_keeps | split | rfl)

/-! ### WinOps -/

theorem State.comparators_keeps {s₀ s : State} (hk : Keeps s₀ s) (n : Ch) (w : WinId) (pow : Bool) (h : Nat) (xs : List Int) : Keeps s₀ (s.comparators n w pow h xs) := by
  unfold State.comparators; try dsimp only
  repeat' (first | with_reducible assumption | with_reducible exact id | intro _ | with_reducible apply State.upCell_keeps | with_reducible apply State.each_keepsAll | split | rfl)

theorem State.powerWindow_keeps {s₀ s : State} (hk : Keeps s₀ s) (n : Ch) (w : WinId) : Keeps s₀ (s.powerWindow n w) := by
  unfold State.powerWindow; try dsimp only
  repeat' (first | with_reducible assumption | with_reducible exact id | intro _ | with_reducible apply State.upCell_keeps | with_reducible apply State.each_keepsAll | split | rfl)

theorem State.stageTrip_keeps {s₀ s : State} (hk : Keeps s₀ s) (n : Ch) : Keeps s₀ (s.stageTrip n) := by
  unfold State.stageTrip; try dsimp only
  repeat' (first | with_reducible assumption | with_reducible exact id | intro _ | with_reducible apply State.upCh_keeps | with_reducible apply State.upCell_keeps | with_reducible apply State.each_keepsAll | split | rfl)

theorem State.stageOpen_keeps {s₀ s : State} (hk : Keeps s₀ s) (n : Ch) : Keeps s₀ (s.stageOpen n) := by
  unfold State.stageOpen; try dsimp only
  repeat' (first | with_reducible assumption | with_reducible exact id | intro _ | with_reducible apply State.upCh_keeps | with_reducible apply State.refresh_keeps | with_reducible apply State.openSwitch_keeps | split | rfl)

theorem State.cutPulse_keeps {s₀ s : State} (hk : Keeps s₀ s) (n : Ch) (t : Nat) : Keeps s₀ (s.cutPulse n t) := by
  unfold State.cutPulse; try dsimp only
  repeat' (first | with_reducible assumption | with_reducible exact id | intro _ | with_reducible apply State.upCh_keeps | with_reducible apply State.pulseOver_keeps | split | rfl)

theorem State.trip_keeps {s₀ s : State} (hk : Keeps s₀ s) (n : Ch) (w : WinId) (st : WinState) (t : Nat) : Keeps s₀ (s.trip n w st t) := by
  unfold State.trip; try dsimp only
  repeat' (first | with_reducible assumption | with_reducible exact id | intro _ | with_reducible apply State.upCh_keeps | with_reducible apply State.when_keeps | with_reducible apply State.stageTrip_keeps | with_reducible apply State.cutPulse_keeps | split | rfl)

theorem State.judge_keeps {s₀ s : State} (hk : Keeps s₀ s) (n : Ch) (w : WinId) (xs : List Int) (t : Nat) (pow : Bool) : Keeps s₀ (s.judge n w xs t pow) := by
  unfold State.judge; try dsimp only
  repeat' (first | with_reducible assumption | with_reducible exact id | intro _ | with_reducible apply State.upCh_keeps | with_reducible apply State.comparators_keeps | with_reducible apply State.trip_keeps | split | rfl)

theorem State.winAct_keeps {s₀ s : State} (hk : Keeps s₀ s) (n : Ch) (w : WinId) : Keeps s₀ (s.winAct n w) := by
  unfold State.winAct; try dsimp only
  repeat' (first | with_reducible assumption | with_reducible exact id | intro _ | with_reducible apply State.upCh_keeps | with_reducible apply State.powerWindow_keeps | split | rfl)

theorem State.powerCell_keeps {s₀ s : State} (hk : Keeps s₀ s) (n : Ch) (k : CellIx) : Keeps s₀ (s.powerCell n k) := by
  unfold State.powerCell; try dsimp only
  repeat' (first | with_reducible assumption | with_reducible exact id | intro _ | with_reducible apply State.upCell_keeps | split | rfl)

/-! ### Migrate -/

theorem State.endBorrow_keeps {s₀ s : State} (hk : Keeps s₀ s) (b : Bay) : Keeps s₀ (s.endBorrow b) := by
  unfold State.endBorrow; try dsimp only
  repeat' (first | with_reducible assumption | with_reducible exact id | intro _ | with_reducible apply State.upCh_keeps | split | rfl)

theorem State.freeMig_keeps {s₀ s : State} (hk : Keeps s₀ s) (b : Bay) (r : MigResult) : Keeps s₀ (s.freeMig b r) := by
  unfold State.freeMig; try dsimp only
  repeat' (first | with_reducible assumption | with_reducible exact id | intro _ | with_reducible apply State.upMig_keeps | with_reducible apply State.endBorrow_keeps | split | rfl)

theorem State.completeMig_keeps {s₀ s : State} (hk : Keeps s₀ s) (b : Bay) (r : MigResult) : Keeps s₀ (s.completeMig b r) := by
  unfold State.completeMig; try dsimp only
  repeat' (first | with_reducible assumption | with_reducible exact id | intro _ | with_reducible apply State.upAtt_keeps | with_reducible apply State.post_keeps | with_reducible apply State.freeMig_keeps | split | rfl)

theorem State.abandonMig_keeps {s₀ s : State} (hk : Keeps s₀ s) (b : Bay) : Keeps s₀ (s.abandonMig b) := by
  unfold State.abandonMig; try dsimp only
  repeat' (first | with_reducible assumption | with_reducible exact id | intro _ | with_reducible apply State.upCell_keeps | with_reducible apply State.post_keeps | with_reducible apply State.freeMig_keeps | split | rfl)

theorem State.abandonFor_keeps {s₀ s : State} (hk : Keeps s₀ s) (n : Ch) : Keeps s₀ (s.abandonFor n) := by
  unfold State.abandonFor; try dsimp only
  repeat' (first | with_reducible assumption | with_reducible exact id | intro _ | with_reducible apply State.upAtt_keeps | with_reducible apply State.abandonMig_keeps | split | rfl)

theorem State.retireOld_keeps {s₀ s : State} (hk : Keeps s₀ s) (m : BayMig) : Keeps s₀ (s.retireOld m) := by
  unfold State.retireOld; try dsimp only
  repeat' (first | with_reducible assumption | with_reducible exact id | (intro hg; show Flt.grave _ = true; simpa using hg) | intro _ | with_reducible apply State.upCell_keeps | with_reducible apply State.upFlt_keeps | with_reducible apply State.when_keeps | split | rfl)

theorem State.installNew_keeps {s₀ s : State} (hk : Keeps s₀ s) (m : BayMig) (n : Ch) (k : CellIx) : Keeps s₀ (s.installNew m n k) := by
  unfold State.installNew; try dsimp only
  repeat' (first | with_reducible assumption | with_reducible exact id | intro _ | with_reducible apply State.upCh_keeps | with_reducible apply State.upCell_keeps | with_reducible apply State.upAtt_keeps | split | rfl)

theorem State.remapMig_keeps {s₀ s : State} (hk : Keeps s₀ s) (b : Bay) : Keeps s₀ (s.remapMig b) := by
  unfold State.remapMig; try dsimp only
  repeat' (first | with_reducible assumption | with_reducible exact id | intro _ | with_reducible apply State.upCh_keeps | with_reducible apply State.latchDac_keeps | with_reducible apply State.refresh_keeps | with_reducible apply State.remapped_keeps | with_reducible apply State.freeBridge_keeps | with_reducible apply State.retireOld_keeps | with_reducible apply State.installNew_keeps | split | rfl)

theorem State.coldMig_keeps {s₀ s : State} (hk : Keeps s₀ s) (b : Bay) : Keeps s₀ (s.coldMig b) := by
  unfold State.coldMig; try dsimp only
  repeat' (first | with_reducible assumption | with_reducible exact id | (intro hg; show Flt.grave _ = true; simpa using hg) | intro _ | with_reducible apply State.upCh_keeps | with_reducible apply State.upFlt_keeps | with_reducible apply State.when_keeps | with_reducible apply State.powerCell_keeps | with_reducible apply State.completeMig_keeps | with_reducible apply State.remapMig_keeps | split | rfl)

theorem State.showResult_keeps {s₀ s : State} (hk : Keeps s₀ s) (n : Ch) (r : MigResult) (old : Option CellIx) : Keeps s₀ (s.showResult n r old) := by
  unfold State.showResult; try dsimp only
  repeat' (first | with_reducible assumption | with_reducible exact id | intro _ | with_reducible apply State.upMig_keeps | split | rfl)

theorem State.loseChannel_keeps {s₀ s : State} (hk : Keeps s₀ s) (n : Ch) (f : ChFence) (kind : Nat) (bad : Bool) : Keeps s₀ (s.loseChannel n f kind bad) := by
  unfold State.loseChannel; try dsimp only
  repeat' (first | with_reducible assumption | with_reducible exact id | (intro hg; show Flt.grave _ = true; simpa using hg) | intro _ | with_reducible apply State.upFlt_keeps | with_reducible apply State.post_keeps | with_reducible apply State.when_keeps | with_reducible apply State.fenceNoSpare_keeps | split | rfl)

theorem State.reshare_keeps {s₀ s : State} (hk : Keeps s₀ s) (n : Ch) : Keeps s₀ (s.reshare n) := by
  unfold State.reshare; try dsimp only
  repeat' (first | with_reducible assumption | with_reducible exact id | (intro hg; show Flt.grave _ = true; simpa using hg) | intro _ | with_reducible apply State.upCh_keeps | with_reducible apply State.upCell_keeps | with_reducible apply State.upFlt_keeps | with_reducible apply State.post_keeps | with_reducible apply State.each_keepsAll | with_reducible apply State.latchDac_keeps | with_reducible apply State.refresh_keeps | with_reducible apply State.remapped_keeps | with_reducible apply State.showResult_keeps | split | rfl)

theorem State.fenceClasp_keeps {s₀ s : State} (hk : Keeps s₀ s) (n : Ch) : Keeps s₀ (s.fenceClasp n) := by
  unfold State.fenceClasp; try dsimp only
  repeat' (first | with_reducible assumption | with_reducible exact id | intro _ | with_reducible apply State.each_keepsAll | with_reducible apply State.remapped_keeps | with_reducible apply State.showResult_keeps | with_reducible apply State.loseChannel_keeps | split | rfl)

theorem State.noSpare_keeps {s₀ s : State} (hk : Keeps s₀ s) (q : MigReq) : Keeps s₀ (s.noSpare q) := by
  unfold State.noSpare; try dsimp only
  repeat' (first | with_reducible assumption | with_reducible exact id | intro _ | with_reducible apply State.showResult_keeps | with_reducible apply State.loseChannel_keeps | with_reducible apply State.reshare_keeps | with_reducible apply State.fenceClasp_keeps | split | rfl)

theorem State.beginMig_keeps {s₀ s : State} (hk : Keeps s₀ s) (q : MigReq) (k : CellIx) (l : Option (Bay × Fin 7)) : Keeps s₀ (s.beginMig q k l) := by
  unfold State.beginMig; try dsimp only
  repeat' (first | with_reducible assumption | with_reducible exact id | intro _ | with_reducible apply State.upCh_keeps | with_reducible apply State.upCell_keeps | with_reducible apply State.upMig_keeps | with_reducible apply State.wake_keeps | with_reducible apply State.celAsk_keeps | split | rfl)

theorem State.tryGrant_keeps {s₀ s : State} (hk : Keeps s₀ s) (q : MigReq) (before : Bay → Bool) : Keeps s₀ (s.tryGrant q before) := by
  unfold State.tryGrant; try dsimp only
  repeat' (first | with_reducible assumption | with_reducible exact id | intro _ | with_reducible apply State.upAtt_keeps | with_reducible apply State.noSpare_keeps | with_reducible apply State.beginMig_keeps | split | rfl)

theorem State.resumeMig_keeps {s₀ s : State} (hk : Keeps s₀ s) (q : MigReq) (lender : Option Bay) (g : Option (Fin 7)) : Keeps s₀ (s.resumeMig q lender g) := by
  unfold State.resumeMig; try dsimp only
  repeat' (first | with_reducible assumption | with_reducible exact id | intro _ | with_reducible apply State.request_keeps | with_reducible apply State.beginMig_keeps | with_reducible apply State.tryGrant_keeps | split | rfl)

theorem State.rejectSpare_keeps {s₀ s : State} (hk : Keeps s₀ s) (b : Bay) (reason : Option Nat) : Keeps s₀ (s.rejectSpare b reason) := by
  unfold State.rejectSpare; try dsimp only
  repeat' (first | with_reducible assumption | with_reducible exact id | (intro hg; show Flt.grave _ = true; simpa using hg) | intro _ | with_reducible apply State.upCell_keeps | with_reducible apply State.upAtt_keeps | with_reducible apply State.upMig_keeps | with_reducible apply State.upFlt_keeps | with_reducible apply State.post_keeps | with_reducible apply State.endBorrow_keeps | with_reducible apply State.resumeMig_keeps | split | rfl)

/-! ### Attic -/

theorem State.hostMigrate_keeps {s₀ s : State} (hk : Keeps s₀ s) (n : Ch) (keepOld : Bool) : Keeps s₀ (s.hostMigrate n keepOld) := by
  unfold State.hostMigrate; try dsimp only
  repeat' (first | with_reducible assumption | with_reducible exact id | intro _ | with_reducible apply State.upMig_keeps | with_reducible apply State.request_keeps | split | rfl)

theorem State.grants_keeps {s₀ s : State} (hk : Keeps s₀ s) : Keeps s₀ (s.grants) := by
  unfold State.grants; try dsimp only
  repeat' (first | with_reducible assumption | with_reducible exact id | intro _ | with_reducible apply State.upAtt_keeps | with_reducible apply State.each_keepsAll | with_reducible apply State.request_keeps | with_reducible apply State.tryGrant_keeps | split | rfl)

theorem State.repairRow_keeps {s₀ s : State} (hk : Keeps s₀ s) (a : Nat) : Keeps s₀ (s.repairRow a) := by
  unfold State.repairRow; try dsimp only
  repeat' (first | with_reducible assumption | with_reducible exact id | intro _ | with_reducible apply State.upAtt_keeps | with_reducible apply State.post_keeps | split | rfl)

theorem State.sramCorrected_keeps {s₀ s : State} (hk : Keeps s₀ s) (a : Nat) : Keeps s₀ (s.sramCorrected a) := by
  unfold State.sramCorrected; try dsimp only
  repeat' (first | with_reducible assumption | with_reducible exact id | intro _ | with_reducible apply State.upAtt_keeps | with_reducible apply State.repairRow_keeps | split | rfl)

theorem State.garble_keeps {s₀ s : State} (hk : Keeps s₀ s) (a : Nat) : Keeps s₀ (s.garble a) := by
  unfold State.garble; try dsimp only
  repeat' (first | with_reducible assumption | with_reducible exact id | intro _ | with_reducible apply State.draw_keeps | with_reducible apply State.setMemWord_keeps | split | rfl)

theorem State.resetWord_keeps {s₀ s : State} (hk : Keeps s₀ s) (a : Nat) : Keeps s₀ (s.resetWord a) := by
  unfold State.resetWord; try dsimp only
  repeat' (first | with_reducible assumption | with_reducible exact id | intro _ | with_reducible apply State.setMemWord_keeps | split | rfl)

theorem State.sramEffect_keeps {s₀ s : State} (hk : Keeps s₀ s) (r : SramRegion) (a : Nat) : Keeps s₀ (s.sramEffect r a) := by
  unfold State.sramEffect; try dsimp only
  repeat' (first | with_reducible assumption | with_reducible exact id | (intro hg; show Flt.grave _ = true; simpa using hg) | intro _ | with_reducible apply State.upCh_keeps | with_reducible apply State.upAtt_keeps | with_reducible apply State.upFlt_keeps | with_reducible apply State.post_keeps | with_reducible apply State.celAsk_keeps | with_reducible apply State.loopOpen_keeps | with_reducible apply State.garble_keeps | with_reducible apply State.resetWord_keeps | split | rfl | refine Keeps.build ?_ id id rfl rfl rfl)

theorem State.sramUncorrectable_keeps {s₀ s : State} (hk : Keeps s₀ s) (r : SramRegion) (a : Nat) : Keeps s₀ (s.sramUncorrectable r a) := by
  unfold State.sramUncorrectable; try dsimp only
  repeat' (first | with_reducible assumption | with_reducible exact id | intro _ | with_reducible apply State.upAtt_keeps | with_reducible apply State.post_keeps | with_reducible apply State.repairRow_keeps | with_reducible apply State.sramEffect_keeps | split | rfl)

/-! ### CelOps -/

theorem State.send_keeps {s₀ s : State} (hk : Keeps s₀ s) (l : List NandOp) : Keeps s₀ (s.send l) := by
  unfold State.send; try dsimp only
  repeat' (first | with_reducible assumption | with_reducible exact id | intro _ | split | rfl | refine Keeps.build ?_ id id rfl rfl rfl)

theorem State.eraseBlock_keeps {s₀ s : State} (hk : Keeps s₀ s) (b : Nat) : Keeps s₀ (s.eraseBlock b) := by
  unfold State.eraseBlock; try dsimp only
  repeat' (first | with_reducible assumption | with_reducible exact id | intro _ | with_reducible apply State.send_keeps | split | rfl | refine Keeps.build ?_ id id rfl rfl rfl)

theorem State.programAt_keeps {s₀ s : State} (hk : Keeps s₀ s) (b : Nat) (r : Region) (l set : Nat) (last : Bool) (data : List Byte) : Keeps s₀ (s.programAt b r l set last data) := by
  unfold State.programAt; try dsimp only
  repeat' (first | with_reducible assumption | with_reducible exact id | intro _ | with_reducible apply State.send_keeps | split | rfl | refine Keeps.build ?_ id id rfl rfl rfl)

theorem State.program_keeps {s₀ s : State} (hk : Keeps s₀ s) (r : Region) (l set : Nat) (last : Bool) (data : List Byte) : Keeps s₀ (s.program r l set last data) := by
  unfold State.program; try dsimp only
  repeat' (first | with_reducible assumption | with_reducible exact id | intro _ | with_reducible apply State.programAt_keeps | split | rfl)

theorem State.programAll_keeps {s₀ s : State} (hk : Keeps s₀ s) (r : Region) (l set : Nat) (ds : List (List Byte)) :
    Keeps s₀ (s.programAll r l set ds) := by
  induction ds generalizing s l with
  | nil => exact hk
  | cons d ds ih =>
    cases ds with
    | nil => exact State.program_keeps hk _ _ _ _ _
    | cons e es => exact ih (State.program_keeps hk _ _ _ _ _) _

theorem State.writeSet_keeps {s₀ s : State} (hk : Keeps s₀ s) (r : Region) (bytes : List Byte) : Keeps s₀ (s.writeSet r bytes) := by
  unfold State.writeSet; try dsimp only
  repeat' (first | with_reducible assumption | with_reducible exact id | intro _ | with_reducible apply State.programAll_keeps | split | rfl)

theorem State.sealCheck_keeps {s₀ s : State} (hk : Keeps s₀ s) : Keeps s₀ (s.sealCheck) := by
  unfold State.sealCheck; try dsimp only
  repeat' (first | with_reducible assumption | with_reducible exact id | (intro hg; show Flt.grave _ = true; simpa using hg) | intro _ | with_reducible apply State.upFlt_keeps | with_reducible apply State.post_keeps | split | rfl | refine Keeps.build ?_ id id rfl rfl rfl)

theorem State.copyOut_keeps {s₀ s : State} (hk : Keeps s₀ s) (b : Nat) : Keeps s₀ (s.copyOut b) := by
  unfold State.copyOut; try dsimp only
  repeat' (first | with_reducible assumption | with_reducible exact id | intro _ | with_reducible apply State.each_keepsAll | with_reducible apply State.program_keeps | split | rfl | refine Keeps.build ?_ id id rfl rfl rfl)

theorem State.retireBlock_keeps {s₀ s : State} (hk : Keeps s₀ s) (b : Nat) : Keeps s₀ (s.retireBlock b) := by
  unfold State.retireBlock; try dsimp only
  repeat' (first | with_reducible assumption | with_reducible exact id | intro _ | with_reducible apply State.post_keeps | with_reducible apply State.send_keeps | with_reducible apply State.sealCheck_keeps | with_reducible apply State.copyOut_keeps | split | rfl | refine Keeps.build ?_ id id rfl rfl rfl)

theorem State.refreshPage_keeps {s₀ s : State} (hk : Keeps s₀ s) (p : FPage) : Keeps s₀ (s.refreshPage p) := by
  unfold State.refreshPage; try dsimp only
  repeat' (first | with_reducible assumption | with_reducible exact id | intro _ | with_reducible apply State.post_keeps | with_reducible apply State.program_keeps | split | rfl | refine Keeps.build ?_ id id rfl rfl rfl)

theorem State.losePage_keeps {s₀ s : State} (hk : Keeps s₀ s) (p : FPage) : Keeps s₀ (s.losePage p) := by
  unfold State.losePage; try dsimp only
  repeat' (first | with_reducible assumption | with_reducible exact id | intro _ | with_reducible apply State.post_keeps | with_reducible apply State.retireBlock_keeps | split | rfl | refine Keeps.build ?_ id id rfl rfl rfl)

theorem State.readPage_keeps {s₀ s : State} (hk : Keeps s₀ s) (p : FPage) (o : FlashOutcome) : Keeps s₀ (s.readPage p o) := by
  unfold State.readPage; try dsimp only
  repeat' (first | with_reducible assumption | with_reducible exact id | intro _ | with_reducible apply State.send_keeps | with_reducible apply State.refreshPage_keeps | with_reducible apply State.losePage_keeps | split | rfl)

theorem State.writeLocket_keeps {s₀ s : State} (hk : Keeps s₀ s) (k : CellIx) (c : Nat) (l : Locket) : Keeps s₀ (s.writeLocket k c l) := by
  unfold State.writeLocket; try dsimp only
  repeat' (first | with_reducible assumption | with_reducible exact id | intro _ | with_reducible apply State.program_keeps | split | rfl)

theorem State.applyLocket_keeps {s₀ s : State} (hk : Keeps s₀ s) (k : CellIx) : Keeps s₀ (s.applyLocket k) := by
  unfold State.applyLocket; try dsimp only
  repeat' (first | with_reducible assumption | with_reducible exact id | intro _ | with_reducible apply State.upCell_keeps | with_reducible apply State.postCell_keeps | with_reducible apply State.writeLocket_keeps | split | rfl)

theorem State.storeFirst_keeps {s₀ s : State} (hk : Keeps s₀ s) (k : CellIx) : Keeps s₀ (s.storeFirst k) := by
  unfold State.storeFirst; try dsimp only
  repeat' (first | with_reducible assumption | with_reducible exact id | intro _ | with_reducible apply State.upCell_keeps | with_reducible apply State.writeLocket_keeps | split | rfl)

theorem State.storeBad_keeps {s₀ s : State} (hk : Keeps s₀ s) (k : CellIx) : Keeps s₀ (s.storeBad k) := by
  unfold State.storeBad; try dsimp only
  repeat' (first | with_reducible assumption | with_reducible exact id | intro _ | with_reducible apply State.program_keeps | with_reducible apply State.losePage_keeps | with_reducible apply State.writeLocket_keeps | split | rfl)

theorem State.restoreRest_keeps {s₀ s : State} (hk : Keeps s₀ s) : Keeps s₀ (s.restoreRest) := by
  unfold State.restoreRest; try dsimp only
  repeat' (first | with_reducible assumption | with_reducible exact id | intro _ | with_reducible apply State.allCh_keeps | with_reducible apply State.when_keeps | with_reducible apply State.send_keeps | split | rfl)

/-- A list of byte writes keeps the canonical form. -/
theorem foldl_writeByte_wf {α : Type} {bg : Nat → Byte} (at_ : α → Nat) (v : α → Byte) (l : List α) (m : Memory) (h : Memory.wf bg m = true) :
    Memory.wf bg (l.foldl (fun m x => writeByte bg m (at_ x) (v x)) m) = true := by
  induction l generalizing m with
  | nil => exact h
  | cons x l ih => exact ih _ (writeByte_wf _ _ h)

theorem State.restoreLibrary_keeps {s₀ s : State} (hk : Keeps s₀ s) : Keeps s₀ s.restoreLibrary := by
  unfold State.restoreLibrary
  split
  · dsimp only
    generalize List.range 1048576 = l
    generalize (List.range 1024).map _ = l'
    refine State.send_keeps ?_ _
    exact hk.trans ⟨rfl, rfl, rfl, rfl, rfl, rfl, rfl, rfl, foldl_writeByte_wf (fun x => 0x100000 + x) _ _ _, id, id⟩
  · exact hk

theorem State.persistFails_keeps {s₀ s : State} (hk : Keeps s₀ s) (l : List (Nat × FRec)) : Keeps s₀ (s.persistFails l) := by
  unfold State.persistFails
  exact State.each_keepsAll hk _ _ fun x t ht => State.post_keeps (State.upFlt_keeps ht _ id) _ _ _

theorem State.persistPage_keeps {s₀ s : State} (hk : Keeps s₀ s) (l : List (Nat × FRec)) : Keeps s₀ (s.persistPage l) := by
  unfold State.persistPage; try dsimp only
  repeat' (first | with_reducible assumption | with_reducible exact id | (intro hg; show Flt.grave _ = true; simpa using hg) | intro _ | with_reducible apply State.upFlt_keeps | with_reducible apply State.program_keeps | with_reducible apply State.persistFails_keeps | split | rfl)

theorem State.persistRecords_keeps {s₀ s : State} (hk : Keeps s₀ s) (fuel : Nat) (l : List (Nat × FRec)) :
    Keeps s₀ (s.persistRecords fuel l) := by
  induction fuel generalizing s l with
  | zero => unfold State.persistRecords; exact hk
  | succ fuel ih =>
    cases l with
    | nil => unfold State.persistRecords; exact hk
    | cons x l => unfold State.persistRecords; exact ih (State.persistPage_keeps hk _) _

theorem State.persistHistory_keeps {s₀ s : State} (hk : Keeps s₀ s) (fuel : Nat) (l : List (List Word)) :
    Keeps s₀ (s.persistHistory fuel l) := by
  induction fuel generalizing s l with
  | zero => unfold State.persistHistory; exact hk
  | succ fuel ih =>
    cases l with
    | nil => unfold State.persistHistory; exact hk
    | cons x l => unfold State.persistHistory; exact ih (State.program_keeps hk _ _ _ _ _) _

theorem State.persistAll_keeps {s₀ s : State} (hk : Keeps s₀ s) : Keeps s₀ (s.persistAll) := by
  unfold State.persistAll; try dsimp only
  repeat' (first | with_reducible assumption | with_reducible exact id | intro _ | with_reducible apply State.upAtt_keeps | with_reducible apply State.persistRecords_keeps | with_reducible apply State.persistHistory_keeps | split | rfl)

theorem State.persistEnd_keeps {s₀ s : State} (hk : Keeps s₀ s) (final : Bool) : Keeps s₀ (s.persistEnd final) := by
  unfold State.persistEnd; try dsimp only
  repeat' (first | with_reducible assumption | with_reducible exact id | (intro hg; show Flt.grave _ = true; simpa using hg) | intro _ | with_reducible apply State.upFlt_keeps | split | rfl)

theorem State.readBack_keeps {s₀ s : State} (hk : Keeps s₀ s) : Keeps s₀ (s.readBack) := by
  unfold State.readBack; try dsimp only
  repeat' (first | with_reducible assumption | with_reducible exact id | intro _ | split | rfl | refine Keeps.build ?_ id id rfl rfl rfl)

theorem State.mount_keeps {s₀ s : State} (hk : Keeps s₀ s) : Keeps s₀ (s.mount) := by
  unfold State.mount; try dsimp only
  repeat' (first | with_reducible assumption | with_reducible exact id | intro _ | with_reducible apply State.sealCheck_keeps | split | rfl | refine Keeps.build ?_ id id rfl rfl rfl)

theorem State.celStart_keeps {s₀ s : State} (hk : Keeps s₀ s) (w : Word) : Keeps s₀ (s.celStart w) := by
  unfold State.celStart
  have h1 : ∀ c : Cel, Keeps s₀ { s with cel := c } := fun c => hk.build id id rfl rfl rfl
  dsimp only
  split
  · exact State.post_keeps (State.send_keeps (h1 _) _) _ _ _
  · exact State.endLive_keeps (State.send_keeps (State.mount_keeps (State.send_keeps (h1 _) _)) _) _ _

/-! ### Cellar -/

theorem State.celCommand_keeps {s₀ s : State} (hk : Keeps s₀ s) (cmd : BitVec 8) (own : Option CelResult) : Keeps s₀ (s.celCommand cmd own) := by
  unfold State.celCommand; try dsimp only
  repeat' (first | with_reducible assumption | with_reducible exact id | intro _ | with_reducible apply State.celAsk_keeps | split | rfl | refine Keeps.build ?_ id id rfl rfl rfl)

theorem State.format_keeps {s₀ s : State} (hk : Keeps s₀ s) : Keeps s₀ s.format := by
  unfold State.format
  refine Keeps.build ?_ id id rfl rfl rfl
  refine State.each_keepsAll (State.sealCheck_keeps (State.writeSet_keeps (State.send_keeps (State.each_keepsAll ?_ _ _ fun b t ht =>
    State.eraseBlock_keeps ht b) _) ..)) _ _ fun k t ht => State.applyLocket_keeps ht k
  exact hk.build id id rfl rfl rfl

theorem State.runCommand_keeps {s₀ s : State} (hk : Keeps s₀ s) (cmd : BitVec 8) (o : FlashOutcome) : Keeps s₀ (s.runCommand cmd o).1 := by
  have hc : ∀ c : Cel, Keeps s₀ { s with cel := c } := fun c => hk.build id id rfl rfl rfl
  unfold State.runCommand
  split
  · exact State.format_keeps hk
  · split
    · exact hk
    · exact State.writeSet_keeps hk _ _
  · split
    · exact hk
    · exact State.writeSet_keeps hk _ _
  · exact State.writeSet_keeps hk _ _
  · exact State.writeSet_keeps hk _ _
  · generalize s.libraryImage = l
    exact State.writeSet_keeps hk _ _
  · exact hc _
  · exact State.persistAll_keeps hk

theorem State.endCommand_keeps {s₀ s : State} (hk : Keeps s₀ s) (cmd : BitVec 8) (o : FlashOutcome) : Keeps s₀ (s.endCommand cmd o) := by
  have h : Keeps s₀ (if s.cel.st = .sealed ∧ cmd ≠ 7 then (s, CelResult.sealed) else s.runCommand cmd o).1 := by
    split
    · exact hk
    · exact State.runCommand_keeps hk cmd o
  exact h.build id id rfl rfl rfl

theorem State.celNext_keeps {s₀ s : State} (hk : Keeps s₀ s) (w : CelWork) : Keeps s₀ (s.celNext w) := by
  unfold State.celNext; try dsimp only
  repeat' (first | with_reducible assumption | with_reducible exact id | intro _ | split | rfl | refine Keeps.build ?_ id id rfl rfl rfl)

theorem State.readLocketPage_keeps {s₀ s : State} (hk : Keeps s₀ s) (k : CellIx) (c : Nat) (o : FlashOutcome) : Keeps s₀ (s.readLocketPage k c o) := by
  unfold State.readLocketPage; try dsimp only
  repeat' (first | with_reducible assumption | with_reducible exact id | intro _ | with_reducible apply State.readPage_keeps | split | rfl)

theorem State.storeEnd_keeps {s₀ s : State} (hk : Keeps s₀ s) (n : Option Ch) (r : CalResult) : Keeps s₀ (s.storeEnd n r) := by
  unfold State.storeEnd; try dsimp only
  repeat' (first | with_reducible assumption | with_reducible exact id | intro _ | with_reducible apply State.upCh_keeps | split | rfl)

theorem State.storeDone_keeps {s₀ s : State} (hk : Keeps s₀ s) (k : CellIx) (n : Option Ch) (second : Option Nat) (o : FlashOutcome) : Keeps s₀ (s.storeDone k n second o) := by
  unfold State.storeDone; try dsimp only
  repeat' (first | with_reducible assumption | with_reducible exact id | intro _ | with_reducible apply State.writeLocket_keeps | with_reducible apply State.storeFirst_keeps | with_reducible apply State.storeBad_keeps | with_reducible apply State.celNext_keeps | with_reducible apply State.storeEnd_keeps | split | rfl)

theorem State.workDone_keeps {s₀ s : State} (hk : Keeps s₀ s) (w : CelWork) (o : FlashOutcome) : Keeps s₀ (s.workDone w o) := by
  unfold State.workDone; try dsimp only
  repeat' (first | with_reducible assumption | with_reducible exact id | intro _ | with_reducible apply State.upMig_keeps | with_reducible apply State.writeSet_keeps | with_reducible apply State.applyLocket_keeps | with_reducible apply State.persistAll_keeps | with_reducible apply State.persistEnd_keeps | with_reducible apply State.endCommand_keeps | with_reducible apply State.celNext_keeps | with_reducible apply State.readLocketPage_keeps | with_reducible apply State.storeDone_keeps | split | rfl)

theorem State.programFailed_keeps {s₀ s : State} (hk : Keeps s₀ s) (w : CelWork) (o : FlashOutcome) : Keeps s₀ (s.programFailed w o) := by
  unfold State.programFailed; try dsimp only
  repeat' (first | with_reducible assumption | with_reducible exact id | intro _ | with_reducible apply State.retireBlock_keeps | split | rfl)

theorem State.nextWork_keeps {s₀ s : State} (hk : Keeps s₀ s) : Keeps s₀ (s.nextWork) := by
  unfold State.nextWork; try dsimp only
  repeat' (first | with_reducible assumption | with_reducible exact id | intro _ | split | rfl | refine Keeps.build ?_ id id rfl rfl rfl)

theorem State.moveBlock_keeps {s₀ s : State} (hk : Keeps s₀ s) (src dst : Nat) : Keeps s₀ (s.moveBlock src dst) := by
  unfold State.moveBlock; try dsimp only
  repeat' (first | with_reducible assumption | with_reducible exact id | intro _ | with_reducible apply State.each_keepsAll | with_reducible apply State.eraseBlock_keeps | with_reducible apply State.programAt_keeps | split | rfl)

theorem State.readSel_keeps {s₀ s : State} (hk : Keeps s₀ s) (v : Word) : Keeps s₀ (s.readSel v) := by
  unfold State.readSel; try dsimp only
  repeat' (first | with_reducible assumption | with_reducible exact id | intro _ | with_reducible apply State.readBack_keeps | split | rfl | refine Keeps.build ?_ id id rfl rfl rfl)

theorem State.setClock_keeps {s₀ s : State} (hk : Keeps s₀ s) (v : Word) : Keeps s₀ (s.setClock v) := by
  unfold State.setClock; try dsimp only
  repeat' (first | with_reducible assumption | with_reducible exact id | intro _ | split | rfl | refine Keeps.build ?_ id id rfl rfl rfl)

/-! ### ImgSwap -/

theorem State.leaveService_keeps {s₀ s : State} (hk : Keeps s₀ s) (n : Ch) : Keeps s₀ (s.leaveService n) := by
  unfold State.leaveService; try dsimp only
  repeat' (first | with_reducible assumption | with_reducible exact id | intro _ | with_reducible apply State.upCh_keeps | with_reducible apply State.endStrand_keeps | with_reducible apply State.openSwitch_keeps | split | rfl)

theorem State.swapMap_keeps {s₀ s : State} (hk : Keeps s₀ s) (j : LoadJob) : Keeps s₀ (s.swapMap j) := by
  unfold State.swapMap; try dsimp only
  repeat' (first | with_reducible assumption | with_reducible exact id | intro _ | with_reducible apply State.allCh_keeps | with_reducible apply State.allCells_keeps | with_reducible apply State.upAtt_keeps | with_reducible apply State.post_keeps | with_reducible apply State.each_keepsAll | with_reducible apply State.remapped_keeps | with_reducible apply State.freeBridge_keeps | with_reducible apply State.leaveService_keeps | split | rfl)

theorem State.swapComparators_keeps {s₀ s : State} (hk : Keeps s₀ s) (j : LoadJob) : Keeps s₀ (s.swapComparators j) := by
  unfold State.swapComparators; try dsimp only
  repeat' (first | with_reducible assumption | with_reducible exact id | intro _ | with_reducible apply State.each_keepsAll | with_reducible apply State.powerWindow_keeps | split | rfl)

theorem State.swapClocks_keeps {s₀ s : State} (hk : Keeps s₀ s) (j : LoadJob) : Keeps s₀ (s.swapClocks j) := by
  unfold State.swapClocks; try dsimp only
  repeat' (first | with_reducible assumption | with_reducible exact id | intro _ | with_reducible apply State.upClk_keeps | with_reducible apply State.commitPll_keeps | split | rfl)

theorem State.becomeRoot_keeps {s₀ s : State} (hk : Keeps s₀ s) : Keeps s₀ (s.becomeRoot) := by
  unfold State.becomeRoot; try dsimp only
  repeat' (first | with_reducible assumption | with_reducible exact id | intro _ | with_reducible apply State.upLnk_keeps | split | rfl)

theorem State.swapLink_keeps {s₀ s : State} (hk : Keeps s₀ s) (j : LoadJob) : Keeps s₀ (s.swapLink j) := by
  unfold State.swapLink; try dsimp only
  repeat' (first | with_reducible assumption | with_reducible exact id | intro _ | with_reducible apply State.upLnk_keeps | with_reducible apply State.portsEnable_keeps | with_reducible apply State.becomeRoot_keeps | split | rfl)

theorem State.swapStrands_keeps {s₀ s : State} (hk : Keeps s₀ s) (j : LoadJob) : Keeps s₀ (s.swapStrands j) := by
  unfold State.swapStrands; try dsimp only
  repeat' (first | with_reducible assumption | with_reducible exact id | intro _ | with_reducible apply State.upAtt_keeps | with_reducible apply State.setMemWord_keeps | with_reducible apply State.each_keepsAll | split | rfl | refine Keeps.build ?_ id id rfl rfl rfl)

theorem State.restFirst_keeps {s₀ s : State} (hk : Keeps s₀ s) (n : Ch) : Keeps s₀ (s.restFirst n) := by
  unfold State.restFirst; try dsimp only
  repeat' (first | with_reducible assumption | with_reducible exact id | intro _ | with_reducible apply State.refresh_keeps | with_reducible apply State.restStart_keeps | with_reducible apply State.startRanging_keeps | split | rfl)

theorem State.restWaiting_keeps {s₀ s : State} (hk : Keeps s₀ s) : Keeps s₀ (s.restWaiting) := by
  unfold State.restWaiting; try dsimp only
  repeat' (first | with_reducible assumption | with_reducible exact id | intro _ | with_reducible apply State.each_keepsAll | with_reducible apply State.restFirst_keeps | split | rfl | refine Keeps.build ?_ id id rfl rfl rfl)

theorem State.railGate_keeps {s₀ s : State} (hk : Keeps s₀ s) : Keeps s₀ (s.railGate) := by
  unfold State.railGate; try dsimp only
  repeat' (first | with_reducible assumption | with_reducible exact id | intro _ | with_reducible apply State.restWaiting_keeps | split | rfl | refine Keeps.build ?_ id id rfl rfl rfl)

theorem State.swapFields_keeps {s₀ s : State} (hk : Keeps s₀ s) (j : LoadJob) (old : State) : Keeps s₀ (s.swapFields j old) := by
  unfold State.swapFields; try dsimp only
  repeat' (first | with_reducible assumption | with_reducible exact id | (intro hg; show Flt.grave _ = true; simpa using hg) | intro _ | with_reducible apply State.allCh_keeps | with_reducible apply State.allBays_keeps | with_reducible apply State.upFlt_keeps | with_reducible apply State.swapClocks_keeps | with_reducible apply State.swapLink_keeps | with_reducible apply State.swapStrands_keeps | split | rfl | refine Keeps.build ?_ id id rfl rfl rfl)

theorem State.swapReports_keeps {s₀ s : State} (hk : Keeps s₀ s) (j : LoadJob) (old : State) : Keeps s₀ (s.swapReports j old) := by
  unfold State.swapReports; try dsimp only
  repeat' (first | with_reducible assumption | with_reducible exact id | intro _ | with_reducible apply State.post_keeps | with_reducible apply State.when_keeps | with_reducible apply State.each_keepsAll | with_reducible apply State.celAsk_keeps | split | rfl)

theorem State.swapRest_keeps {s₀ s : State} (hk : Keeps s₀ s) (old : State) : Keeps s₀ (s.swapRest old) := by
  unfold State.swapRest; try dsimp only
  repeat' (first | with_reducible assumption | with_reducible exact id | intro _ | with_reducible apply State.railGate_keeps | split | rfl | refine Keeps.build ?_ id id rfl rfl rfl)

theorem State.swapImage_keeps {s₀ s : State} (hk : Keeps s₀ s) (j : LoadJob) : Keeps s₀ (s.swapImage j) := by
  unfold State.swapImage; try dsimp only
  repeat' (first | with_reducible assumption | with_reducible exact id | intro _ | with_reducible apply State.each_keepsAll | with_reducible apply State.latchDac_keeps | with_reducible apply State.refresh_keeps | with_reducible apply State.swapMap_keeps | with_reducible apply State.swapComparators_keeps | with_reducible apply State.swapFields_keeps | with_reducible apply State.swapReports_keeps | with_reducible apply State.swapRest_keeps | split | rfl)

/-! ### ImgOps -/

theorem State.rejectLoad_keeps {s₀ s : State} (hk : Keeps s₀ s) (src : ImgSource) (r : ImgResult) (first : BitVec 8) : Keeps s₀ (s.rejectLoad src r first) := by
  unfold State.rejectLoad; try dsimp only
  repeat' (first | with_reducible assumption | with_reducible exact id | intro _ | with_reducible apply State.upImg_keeps | with_reducible apply State.post_keeps | split | rfl)

theorem State.startLoad_keeps {s₀ s : State} (hk : Keeps s₀ s) (j : LoadJob) : Keeps s₀ (s.startLoad j) := by
  unfold State.startLoad; try dsimp only
  repeat' (first | with_reducible assumption | with_reducible exact id | intro _ | with_reducible apply State.upImg_keeps | split | rfl)

/-- A slot's bytes in the staging buffer are in canonical form. -/
theorem Img.stageBytes_wf (g : Img) (b : List Byte) : Memory.wf stageBackground (g.stageBytes b).stage = true :=
  foldl_writeByte_wf (fun x : Byte × Nat => x.2) (fun x => x.1) b.zipIdx [] rfl

theorem State.load_keeps {s₀ s : State} (hk : Keeps s₀ s) (src : ImgSource) : Keeps s₀ (s.load src) := by
  unfold State.load; try dsimp only
  repeat' (first | with_reducible assumption | with_reducible apply State.send_keeps | exact fun _ => Img.stageBytes_wf _ _ | with_reducible apply State.upImg_keeps | with_reducible apply State.rejectLoad_keeps | with_reducible apply State.startLoad_keeps | split)

theorem State.unload_keeps {s₀ s : State} (hk : Keeps s₀ s) : Keeps s₀ (s.unload) := by
  unfold State.unload; try dsimp only
  repeat' (first | with_reducible assumption | with_reducible exact id | intro _ | with_reducible apply State.upImg_keeps | split | rfl)

theorem State.endLoad_keeps {s₀ s : State} (hk : Keeps s₀ s) (r : ImgResult) (first : BitVec 8) : Keeps s₀ (s.endLoad r first) := by
  unfold State.endLoad; try dsimp only
  repeat' (first | with_reducible assumption | with_reducible exact id | intro _ | with_reducible apply State.rejectLoad_keeps | with_reducible apply State.unload_keeps | split | rfl)

theorem State.swapNow_keeps {s₀ s : State} (hk : Keeps s₀ s) (j : LoadJob) : Keeps s₀ (s.swapNow j) := by
  unfold State.swapNow; try dsimp only
  repeat' (first | with_reducible assumption | with_reducible exact id | intro _ | with_reducible apply State.swapImage_keeps | with_reducible apply State.endLoad_keeps | split | rfl)

theorem State.loadBit_keeps {s₀ s : State} (hk : Keeps s₀ s) (src : ImgSource) : Keeps s₀ (s.loadBit src) := by
  unfold State.loadBit; try dsimp only
  repeat' (first | with_reducible assumption | with_reducible exact id | intro _ | with_reducible apply State.noteImg_keeps | with_reducible apply State.load_keeps | split | rfl)

theorem State.stageClear_keeps {s₀ s : State} (hk : Keeps s₀ s) : Keeps s₀ (s.stageClear) := by
  unfold State.stageClear; try dsimp only
  repeat' (first | with_reducible assumption | with_reducible exact id | intro _ | with_reducible apply State.upImg_keeps | with_reducible apply State.noteImg_keeps | split | rfl)

theorem State.imageAbort_keeps {s₀ s : State} (hk : Keeps s₀ s) : Keeps s₀ (s.imageAbort) := by
  unfold State.imageAbort; try dsimp only
  repeat' (first | with_reducible assumption | with_reducible exact id | intro _ | with_reducible apply State.endLoad_keeps | split | rfl)

theorem State.imgCtrl_keeps {s₀ s : State} (hk : Keeps s₀ s) (v : Word) : Keeps s₀ (s.imgCtrl v) := by
  unfold State.imgCtrl; try dsimp only
  repeat' (first | with_reducible assumption | with_reducible exact id | intro _ | with_reducible apply State.noteImg_keeps | with_reducible apply State.when_keeps | with_reducible apply State.loadBit_keeps | with_reducible apply State.stageClear_keeps | with_reducible apply State.imageAbort_keeps | split | rfl)

theorem State.stageData_keeps {s₀ s : State} (hk : Keeps s₀ s) (v : Word) : Keeps s₀ (s.stageData v) := by
  unfold State.stageData
  split
  · exact State.noteImg_keeps hk _
  · exact State.upImg_keeps hk _ fun h => writeMemWord_wf _ _ h

/-! ### Boot -/

theorem State.bootSlot_keeps {s₀ s : State} (hk : Keeps s₀ s) (src : ImgSource) (r : Region) : Keeps s₀ (s.bootSlot src r) := by
  unfold State.bootSlot; try dsimp only
  repeat' (first | with_reducible assumption | exact fun _ => Img.stageBytes_wf _ _ | with_reducible apply State.upImg_keeps | with_reducible apply State.rejectLoad_keeps | with_reducible apply State.swapImage_keeps | split)

theorem State.bootImage_keeps {s₀ s : State} (hk : Keeps s₀ s) : Keeps s₀ (s.bootImage) := by
  unfold State.bootImage; try dsimp only
  repeat' (first | with_reducible assumption | with_reducible exact id | intro _ | with_reducible apply State.upImg_keeps | with_reducible apply State.post_keeps | with_reducible apply State.bootSlot_keeps | split | rfl)

theorem State.bootDone_keeps {s₀ s : State} (hk : Keeps s₀ s) : Keeps s₀ (s.bootDone) := by
  unfold State.bootDone; try dsimp only
  repeat' (first | with_reducible assumption | with_reducible exact id | intro _ | with_reducible apply State.upPwr_keeps | split | rfl)

theorem State.bootRest_keeps {s₀ s : State} (hk : Keeps s₀ s) : Keeps s₀ (s.bootRest) := by
  unfold State.bootRest; try dsimp only
  repeat' (first | with_reducible assumption | with_reducible exact id | intro _ | with_reducible apply State.upPwr_keeps | with_reducible apply State.restWaiting_keeps | with_reducible apply State.bootDone_keeps | split | rfl)

theorem State.bootRails_keeps {s₀ s : State} (hk : Keeps s₀ s) : Keeps s₀ (s.bootRails) := by
  unfold State.bootRails; try dsimp only
  repeat' (first | with_reducible assumption | with_reducible exact id | intro _ | with_reducible apply State.upPwr_keeps | with_reducible apply State.bootRest_keeps | split | rfl)

theorem State.wakeAll_keeps {s₀ s : State} (hk : Keeps s₀ s) (b : BootIn) : Keeps s₀ (s.wakeAll b) := by
  unfold State.wakeAll; try dsimp only
  repeat' (first | with_reducible assumption | with_reducible exact id | intro _ | with_reducible apply State.allCells_keeps | with_reducible apply State.allBays_keeps | split | rfl)

theorem State.bootCellar_keeps {s₀ s : State} (hk : Keeps s₀ s) : Keeps s₀ (s.bootCellar) := by
  unfold State.bootCellar; try dsimp only
  repeat' (first | with_reducible assumption | with_reducible exact id | intro _ | with_reducible apply State.each_keepsAll | with_reducible apply State.send_keeps | with_reducible apply State.applyLocket_keeps | with_reducible apply State.restoreLibrary_keeps | split | rfl)

theorem State.bootRun_keeps {s₀ s : State} (hk : Keeps s₀ s) (b : BootIn) : Keeps s₀ (s.bootRun b) := by
  unfold State.bootRun; try dsimp only
  repeat' (first | with_reducible assumption | with_reducible exact id | intro _ | with_reducible apply State.each_keepsAll | with_reducible apply State.refresh_keeps | with_reducible apply State.restoreRest_keeps | with_reducible apply State.celStart_keeps | with_reducible apply State.bootImage_keeps | with_reducible apply State.bootRails_keeps | with_reducible apply State.wakeAll_keeps | with_reducible apply State.bootCellar_keeps | split | rfl)

theorem State.bootNext_keeps {s₀ s : State} (hk : Keeps s₀ s) : Keeps s₀ (s.bootNext) := by
  unfold State.bootNext; try dsimp only
  repeat' (first | with_reducible assumption | with_reducible exact id | intro _ | with_reducible apply State.bootRun_keeps | split | rfl)

/-! ### Fault -/

theorem State.restNow_keeps {s₀ s : State} (hk : Keeps s₀ s) (n : Ch) : Keeps s₀ (s.restNow n) := by
  unfold State.restNow; try dsimp only
  repeat' (first | with_reducible assumption | with_reducible exact id | intro _ | with_reducible apply State.endStrand_keeps | with_reducible apply State.refresh_keeps | with_reducible apply State.restStart_keeps | with_reducible apply State.startRanging_keeps | split | rfl)

theorem State.fenceIdle_keeps {s₀ s : State} (hk : Keeps s₀ s) (k : CellIx) : Keeps s₀ (s.fenceIdle k) := by
  unfold State.fenceIdle; try dsimp only
  repeat' (first | with_reducible assumption | with_reducible exact id | intro _ | with_reducible apply State.upCh_keeps | with_reducible apply State.upCell_keeps | with_reducible apply State.remapped_keeps | split | rfl)

theorem State.reactCell_keeps {s₀ s : State} (hk : Keeps s₀ s) (k : CellIx) (kind : BitVec 6) : Keeps s₀ (s.reactCell k kind) := by
  unfold State.reactCell; try dsimp only
  repeat' (first | with_reducible assumption | with_reducible exact id | intro _ | with_reducible apply State.upCell_keeps | with_reducible apply State.endStrand_keeps | with_reducible apply State.openSwitch_keeps | with_reducible apply State.request_keeps | with_reducible apply State.rejectSpare_keeps | with_reducible apply State.fenceIdle_keeps | split | rfl)

theorem State.reactChannel_keeps {s₀ s : State} (hk : Keeps s₀ s) (n : Ch) (m : Msg) : Keeps s₀ (s.reactChannel n m) := by
  unfold State.reactChannel; try dsimp only
  repeat' (first | with_reducible assumption | with_reducible exact id | intro _ | with_reducible apply State.upCh_keeps | with_reducible apply State.remapped_keeps | with_reducible apply State.abandonFor_keeps | with_reducible apply State.showResult_keeps | with_reducible apply State.loseChannel_keeps | with_reducible apply State.fenceClasp_keeps | with_reducible apply State.noSpare_keeps | with_reducible apply State.restNow_keeps | split | rfl)

theorem State.reactBay_keeps {s₀ s : State} (hk : Keeps s₀ s) (b : Bay) : Keeps s₀ (s.reactBay b) := by
  unfold State.reactBay; try dsimp only
  repeat' (first | with_reducible assumption | with_reducible exact id | (intro hg; show Flt.grave _ = true; simpa using hg) | intro _ | with_reducible apply State.upCh_keeps | with_reducible apply State.upBay_keeps | with_reducible apply State.upFlt_keeps | with_reducible apply State.each_keepsAll | with_reducible apply State.remapped_keeps | with_reducible apply State.abandonMig_keeps | with_reducible apply State.abandonFor_keeps | with_reducible apply State.restNow_keeps | split | rfl)

theorem State.reactBridge_keeps {s₀ s : State} (hk : Keeps s₀ s) (g : Fin 7) : Keeps s₀ (s.reactBridge g) := by
  unfold State.reactBridge; try dsimp only
  repeat' (first | with_reducible assumption | with_reducible exact id | intro _ | with_reducible apply State.each_keepsAll | with_reducible apply State.request_keeps | with_reducible apply State.abandonMig_keeps | with_reducible apply State.showResult_keeps | with_reducible apply State.loseChannel_keeps | with_reducible apply State.noSpare_keeps | split | rfl)

theorem State.reactCellar_keeps {s₀ s : State} (hk : Keeps s₀ s) : Keeps s₀ (s.reactCellar) := by
  unfold State.reactCellar; try dsimp only
  repeat' (first | with_reducible assumption | with_reducible exact id | (intro hg; show Flt.grave _ = true; simpa using hg) | intro _ | with_reducible apply State.upAtt_keeps | with_reducible apply State.upFlt_keeps | split | rfl | refine Keeps.build ?_ id id rfl rfl rfl)

theorem State.reactMajor_keeps {s₀ s : State} (hk : Keeps s₀ s) (r : Reaction) : Keeps s₀ (s.reactMajor r) := by
  unfold State.reactMajor; try dsimp only
  repeat' (first | with_reducible assumption | with_reducible exact id | (intro hg; show Flt.grave _ = true; simpa using hg) | intro _ | with_reducible apply State.upFlt_keeps | with_reducible apply State.reactCell_keeps | with_reducible apply State.reactChannel_keeps | with_reducible apply State.reactBay_keeps | with_reducible apply State.reactBridge_keeps | with_reducible apply State.reactCellar_keeps | split | rfl | refine Keeps.build ?_ id id rfl rfl rfl)

theorem State.reactGrave_keeps {s₀ s : State} (hk : Keeps s₀ s) : Keeps s₀ s.reactGrave := by
  have h : Keeps s₀ (((s.upAtt fun a => { a with requests := [] }).each allBayIxs fun b s => s.abandonMig b).each allChs fun n s =>
      (s.restNow n).upCh n Chan.openLoops) :=
    State.each_keepsAll (State.each_keepsAll (State.upAtt_keeps hk _) _ _ fun b t ht => State.abandonMig_keeps ht b) _ _
      fun n t ht => State.upCh_keeps (State.restNow_keeps ht n) _ _
  unfold State.reactGrave
  dsimp only
  generalize State.each _ allChs _ = t at h ⊢
  exact State.celAsk_keeps (h.build id id rfl rfl rfl) _

theorem State.react_keeps {s₀ s : State} (hk : Keeps s₀ s) (r : Reaction) : Keeps s₀ (s.react r) := by
  unfold State.react; try dsimp only
  repeat' (first | with_reducible assumption | with_reducible exact id | intro _ | with_reducible apply State.reactMajor_keeps | with_reducible apply State.reactGrave_keeps | split | rfl)

theorem State.reportLost_keeps {s₀ s : State} (hk : Keeps s₀ s) : Keeps s₀ (s.reportLost) := by
  unfold State.reportLost; try dsimp only
  repeat' (first | with_reducible assumption | with_reducible exact id | (intro hg; show Flt.grave _ = true; simpa using hg) | intro _ | with_reducible apply State.upFlt_keeps | with_reducible apply State.post_keeps | split | rfl)

theorem State.unrest_keeps {s₀ s : State} (hk : Keeps s₀ s) (n : Ch) : Keeps s₀ (s.unrest n) := by
  unfold State.unrest; try dsimp only
  repeat' (first | with_reducible assumption | with_reducible exact id | intro _ | with_reducible apply State.upCh_keeps | with_reducible apply State.when_keeps | with_reducible apply State.request_keeps | with_reducible apply State.remapped_keeps | split | rfl)

theorem State.readmitEffect_keeps {s₀ s : State} (hk : Keeps s₀ s) (u : BitVec 10) : Keeps s₀ (s.readmitEffect u) := by
  unfold State.readmitEffect; try dsimp only
  repeat' (first | with_reducible assumption | with_reducible exact id | (intro hg; show Flt.grave _ = true; simpa using hg) | intro _ | with_reducible apply State.upCh_keeps | with_reducible apply State.upCell_keeps | with_reducible apply State.upBay_keeps | with_reducible apply State.upFlt_keeps | with_reducible apply State.each_keepsAll | with_reducible apply State.request_keeps | with_reducible apply State.celStart_keeps | with_reducible apply State.unrest_keeps | split | rfl | refine Keeps.build ?_ id id rfl rfl rfl)

theorem State.readmit_keeps {s₀ s : State} (hk : Keeps s₀ s) (v : Word) : Keeps s₀ (s.readmit v) := by
  unfold State.readmit; try dsimp only
  repeat' (first | with_reducible assumption | with_reducible exact id | (intro hg; show Flt.grave _ = true; simpa using hg) | intro _ | with_reducible apply State.upFlt_keeps | with_reducible apply State.readmitEffect_keeps | split | rfl)

theorem State.inject_keeps {s₀ s : State} (hk : Keeps s₀ s) (v : Word) : Keeps s₀ (s.inject v) := by
  unfold State.inject; try dsimp only
  repeat' (first | with_reducible assumption | with_reducible exact id | intro _ | with_reducible apply State.collect_keeps | split | rfl)

/-! ### Force -/

theorem State.forceLoad_keeps {s₀ s : State} (hk : Keeps s₀ s) (n : Ch) : Keeps s₀ (s.forceLoad n) := by
  unfold State.forceLoad; try dsimp only
  repeat' (first | with_reducible assumption | with_reducible exact id | intro _ | with_reducible apply State.upCh_keeps | with_reducible apply State.noteCh_keeps | with_reducible apply State.refresh_keeps | with_reducible apply State.startRanging_keeps | split | rfl)

theorem State.modeLand_keeps {s₀ s : State} (hk : Keeps s₀ s) (n : Ch) (m : ForceMode) : Keeps s₀ (s.modeLand n m) := by
  unfold State.modeLand; try dsimp only
  repeat' (first | with_reducible assumption | with_reducible exact id | intro _ | with_reducible apply State.upCh_keeps | with_reducible apply State.noteCh_keeps | split | rfl)

theorem State.forceClose_keeps {s₀ s : State} (hk : Keeps s₀ s) (n : Ch) : Keeps s₀ (s.forceClose n) := by
  unfold State.forceClose; try dsimp only
  repeat' (first | with_reducible assumption | with_reducible exact id | intro _ | with_reducible apply State.upCh_keeps | with_reducible apply State.noteCh_keeps | with_reducible apply State.refresh_keeps | split | rfl)

theorem State.forceOpen_keeps {s₀ s : State} (hk : Keeps s₀ s) (n : Ch) : Keeps s₀ (s.forceOpen n) := by
  unfold State.forceOpen; try dsimp only
  repeat' (first | with_reducible assumption | with_reducible exact id | intro _ | with_reducible apply State.noteCh_keeps | with_reducible apply State.openSwitch_keeps | split | rfl)

theorem State.forceRest_keeps {s₀ s : State} (hk : Keeps s₀ s) (n : Ch) : Keeps s₀ (s.forceRest n) := by
  unfold State.forceRest; try dsimp only
  repeat' (first | with_reducible assumption | with_reducible exact id | intro _ | with_reducible apply State.noteCh_keeps | with_reducible apply State.refresh_keeps | with_reducible apply State.restStart_keeps | with_reducible apply State.endBy_keeps | with_reducible apply State.startRanging_keeps | split | rfl)

theorem State.streamAppend_keeps {s₀ s : State} (hk : Keeps s₀ s) (n : Ch) (v : Word) : Keeps s₀ (s.streamAppend n v) := by
  unfold State.streamAppend; try dsimp only
  repeat' (first | with_reducible assumption | with_reducible exact id | intro _ | with_reducible apply State.upCh_keeps | with_reducible apply State.wake_keeps | split | rfl)

/-! ### Strand -/

theorem State.strandStart_keeps {s₀ s : State} (hk : Keeps s₀ s) (n : Ch) (direct : Bool) (k : BitVec 10) : Keeps s₀ (s.strandStart n direct k) := by
  unfold State.strandStart; try dsimp only
  repeat' (first | with_reducible assumption | with_reducible exact id | intro _ | with_reducible apply State.upCh_keeps | split | rfl)

theorem State.strandStop_keeps {s₀ s : State} (hk : Keeps s₀ s) (n : Ch) : Keeps s₀ (s.strandStop n) := by
  unfold State.strandStop; try dsimp only
  repeat' (first | with_reducible assumption | with_reducible exact id | intro _ | with_reducible apply State.upCh_keeps | with_reducible apply State.endBy_keeps | split | rfl)

theorem State.strandAbort_keeps {s₀ s : State} (hk : Keeps s₀ s) (n : Ch) : Keeps s₀ (s.strandAbort n) := by
  unfold State.strandAbort; try dsimp only
  repeat' (first | with_reducible assumption | with_reducible exact id | intro _ | with_reducible apply State.refresh_keeps | with_reducible apply State.endBy_keeps | split | rfl)

theorem State.beadPass_keeps {s₀ s : State} (hk : Keeps s₀ s) (n : Ch) (p : Prep) : Keeps s₀ (s.beadPass n p) := by
  unfold State.beadPass; try dsimp only
  repeat' (first | with_reducible assumption | with_reducible exact id | intro _ | with_reducible apply State.upCh_keeps | with_reducible apply State.startPass_keeps | split | rfl)

theorem State.markOut_keeps {s₀ s : State} (hk : Keeps s₀ s) (n : Ch) (p : Prep) : Keeps s₀ (s.markOut n p) := by
  unfold State.markOut; try dsimp only
  repeat' (first | with_reducible assumption | with_reducible exact id | intro _ | split | rfl | refine Keeps.build ?_ id id rfl rfl rfl)

theorem State.commitOn_keeps {s₀ s : State} (hk : Keeps s₀ s) (n : Ch) (p : Prep) : Keeps s₀ (s.commitOn n p) := by
  unfold State.commitOn; try dsimp only
  repeat' (first | with_reducible assumption | with_reducible exact id | intro _ | with_reducible apply State.upCh_keeps | with_reducible apply State.post_keeps | with_reducible apply State.when_keeps | with_reducible apply State.writeRecord_keeps | with_reducible apply State.refresh_keeps | with_reducible apply State.startRanging_keeps | with_reducible apply State.beadPass_keeps | with_reducible apply State.markOut_keeps | split | rfl)

theorem State.commitNext_keeps {s₀ s : State} (hk : Keeps s₀ s) (n : Ch) : Keeps s₀ (s.commitNext n) := by
  unfold State.commitNext; try dsimp only
  repeat' (first | with_reducible assumption | with_reducible exact id | intro _ | with_reducible apply State.post_keeps | with_reducible apply State.endStrand_keeps | with_reducible apply State.refresh_keeps | with_reducible apply State.endBy_keeps | with_reducible apply State.commitOn_keeps | split | rfl)

theorem State.larderClear_keeps {s₀ s : State} (hk : Keeps s₀ s) (n : Ch) : Keeps s₀ (s.larderClear n) := by
  unfold State.larderClear; try dsimp only
  repeat' (first | with_reducible assumption | with_reducible exact id | intro _ | with_reducible apply State.upCh_keeps | with_reducible apply State.noteCh_keeps | split | rfl)

theorem State.wakeSet_keeps {s₀ s : State} (hk : Keeps s₀ s) (t : BitVec 8) : Keeps s₀ (s.wakeSet t) := by
  unfold State.wakeSet; try dsimp only
  repeat' (first | with_reducible assumption | with_reducible exact id | intro _ | with_reducible apply State.each_keepsAll | with_reducible apply State.wake_keeps | split | rfl)

theorem State.setStart_keeps {s₀ s : State} (hk : Keeps s₀ s) (t : BitVec 8) : Keeps s₀ (s.setStart t) := by
  unfold State.setStart; try dsimp only
  repeat' (first | with_reducible assumption | with_reducible exact id | intro _ | with_reducible apply State.upCh_keeps | with_reducible apply State.each_keepsAll | split | rfl)

theorem State.setFire_keeps {s₀ s : State} (hk : Keeps s₀ s) (t : BitVec 8) : Keeps s₀ (s.setFire t) := by
  unfold State.setFire; try dsimp only
  repeat' (first | with_reducible assumption | with_reducible exact id | intro _ | with_reducible apply State.upCh_keeps | with_reducible apply State.noteImg_keeps | with_reducible apply State.each_keepsAll | with_reducible apply State.refresh_keeps | with_reducible apply State.sample_keeps | with_reducible apply State.startRanging_keeps | split | rfl)

theorem State.setAbort_keeps {s₀ s : State} (hk : Keeps s₀ s) (t : BitVec 8) : Keeps s₀ (s.setAbort t) := by
  unfold State.setAbort; try dsimp only
  repeat' (first | with_reducible assumption | with_reducible exact id | intro _ | with_reducible apply State.each_keepsAll | with_reducible apply State.strandAbort_keeps | split | rfl)

theorem State.syncAct_keeps {s₀ s : State} (hk : Keeps s₀ s) (a : SyncAct) (t : BitVec 8) : Keeps s₀ (s.syncAct a t) := by
  unfold State.syncAct
  split
  · exact State.noteImg_keeps hk _
  · have hw := State.wakeSet_keeps hk t
    dsimp only
    split
    · exact hw.build id id rfl rfl rfl
    · split
      · exact State.setStart_keeps hw t
      · split
        · exact State.setFire_keeps hw t
        · exact hw.build id id rfl rfl rfl
      · split
        · exact State.setAbort_keeps hw t
        · exact hw.build id id rfl rfl rfl

theorem State.trigSet_keeps {s₀ s : State} (hk : Keeps s₀ s) (x : Fin 4) (cyc : Nat) (t : BitVec 8) : Keeps s₀ (s.trigSet x cyc t) := by
  unfold State.trigSet; try dsimp only
  repeat' (first | with_reducible assumption | with_reducible exact id | intro _ | split | rfl | refine Keeps.build ?_ id id rfl rfl rfl)

/-! ### Measure -/

theorem State.runAct_keeps {s₀ s : State} (hk : Keeps s₀ s) (n : Ch) : Keeps s₀ (s.runAct n) := by
  unfold State.runAct; try dsimp only
  repeat' (first | with_reducible assumption | with_reducible exact id | intro _ | with_reducible apply State.upCh_keeps | with_reducible apply State.when_keeps | with_reducible apply State.startPass_keeps | split | rfl)

theorem State.measStart_keeps {s₀ s : State} (hk : Keeps s₀ s) (n : Ch) : Keeps s₀ (s.measStart n) := by
  unfold State.measStart; try dsimp only
  repeat' (first | with_reducible assumption | with_reducible exact id | intro _ | with_reducible apply State.noteCh_keeps | with_reducible apply State.startPass_keeps | split | rfl)

theorem State.measCfgLand_keeps {s₀ s : State} (hk : Keeps s₀ s) (n : Ch) (v : Word) : Keeps s₀ (s.measCfgLand n v) := by
  unfold State.measCfgLand; try dsimp only
  repeat' (first | with_reducible assumption | with_reducible exact id | intro _ | with_reducible apply State.upCh_keeps | with_reducible apply State.noteCh_keeps | split | rfl)

theorem State.calDrive_keeps {s₀ s : State} (hk : Keeps s₀ s) (n : Ch) : Keeps s₀ (s.calDrive n) := by
  unfold State.calDrive; try dsimp only
  repeat' (first | with_reducible assumption | with_reducible exact id | intro _ | with_reducible apply State.upCell_keeps | split | rfl)

theorem State.deliverSeq_keeps {s₀ s : State} (hk : Keeps s₀ s) (n : Ch) (v : Conv) (r : ResultLo) : Keeps s₀ (s.deliverSeq n v r) := by
  unfold State.deliverSeq; try dsimp only
  repeat' (first | with_reducible assumption | with_reducible exact id | intro _ | with_reducible apply State.upCh_keeps | with_reducible apply State.when_keeps | with_reducible apply State.endPass_keeps | split | rfl)

theorem State.deliverInjected_keeps {s₀ s : State} (hk : Keeps s₀ s) (n : Ch) (v : Conv) (r : ResultLo) : Keeps s₀ (s.deliverInjected n v r) := by
  unfold State.deliverInjected; try dsimp only
  repeat' (first | with_reducible assumption | with_reducible exact id | intro _ | with_reducible apply State.upCh_keeps | with_reducible apply State.calDrive_keeps | split | rfl)

theorem State.readTemp_keeps {s₀ s : State} (hk : Keeps s₀ s) (k : CellIx) (v : BitVec 24) : Keeps s₀ (s.readTemp k v) := by
  unfold State.readTemp; try dsimp only
  repeat' (first | with_reducible assumption | with_reducible exact id | intro _ | with_reducible apply State.upCell_keeps | with_reducible apply State.post_keeps | with_reducible apply State.postCell_keeps | with_reducible apply State.beginLive_keeps | with_reducible apply State.endLive_keeps | split | rfl)

theorem State.injOpp_keeps {s₀ s : State} (hk : Keeps s₀ s) (n : Ch) (e : BitVec 4) : Keeps s₀ (s.injOpp n e) := by
  unfold State.injOpp; try dsimp only
  repeat' (first | with_reducible assumption | with_reducible exact id | intro _ | with_reducible apply State.upCh_keeps | split | rfl)

theorem State.calZero_keeps {s₀ s : State} (hk : Keeps s₀ s) (n : Ch) (t : BitVec 5) : Keeps s₀ (s.calZero n t) := by
  unfold State.calZero; try dsimp only
  repeat' (first | with_reducible assumption | with_reducible exact id | intro _ | with_reducible apply State.upCh_keeps | with_reducible apply State.calDrive_keeps | split | rfl)

theorem State.calCommit_keeps {s₀ s : State} (hk : Keeps s₀ s) (n : Ch) : Keeps s₀ (s.calCommit n) := by
  unfold State.calCommit; try dsimp only
  repeat' (first | with_reducible assumption | with_reducible exact id | intro _ | with_reducible apply State.upCh_keeps | with_reducible apply State.upCell_keeps | with_reducible apply State.celAsk_keeps | split | rfl)

/-! ### Range -/

theorem State.restartCheck_keeps {s₀ s : State} (hk : Keeps s₀ s) (n : Ch) : Keeps s₀ (s.restartCheck n) := by
  unfold State.restartCheck; try dsimp only
  repeat' (first | with_reducible assumption | with_reducible exact id | intro _ | with_reducible apply State.upCell_keeps | split | rfl)

theorem State.rangeSetLand_keeps {s₀ s : State} (hk : Keeps s₀ s) (n : Ch) (v : Word) : Keeps s₀ (s.rangeSetLand n v) := by
  unfold State.rangeSetLand; try dsimp only
  repeat' (first | with_reducible assumption | with_reducible exact id | intro _ | with_reducible apply State.upCh_keeps | with_reducible apply State.noteCh_keeps | split | rfl)

/-! ### Window -/

theorem State.sleepSample_keeps {s₀ s : State} (hk : Keeps s₀ s) (n : Ch) (w : WinId) (xs : List Int) (t : Nat) : Keeps s₀ (s.sleepSample n w xs t) := by
  unfold State.sleepSample; try dsimp only
  repeat' (first | with_reducible assumption | with_reducible exact id | intro _ | with_reducible apply State.upCh_keeps | with_reducible apply State.upCell_keeps | with_reducible apply State.when_keeps | with_reducible apply State.each_keepsAll | with_reducible apply State.wake_keeps | with_reducible apply State.comparators_keeps | split | rfl)

theorem State.winCfgLand_keeps {s₀ s : State} (hk : Keeps s₀ s) (n : Ch) (w : WinId) (v : Word) : Keeps s₀ (s.winCfgLand n w v) := by
  unfold State.winCfgLand; try dsimp only
  repeat' (first | with_reducible assumption | with_reducible exact id | intro _ | with_reducible apply State.upCh_keeps | split | rfl)

/-! ### ChanWrite -/

theorem State.land_keeps {s₀ s : State} (hk : Keeps s₀ s) (l : List Instr) : Keeps s₀ (s.land l) := by
  unfold State.land; try dsimp only
  repeat' (first | with_reducible assumption | with_reducible exact id | intro _ | split | rfl | refine Keeps.build ?_ id id rfl rfl rfl)

theorem State.landLast_keeps {s₀ s : State} (hk : Keeps s₀ s) (p : Instr → Bool) (l : List Instr) : Keeps s₀ (s.landLast p l) := by
  unfold State.landLast; try dsimp only
  repeat' (first | with_reducible assumption | with_reducible exact id | intro _ | split | rfl | refine Keeps.build ?_ id id rfl rfl rfl)

theorem State.upCfg_keeps {s₀ s : State} (hk : Keeps s₀ s) (n : Ch) (f : ChanCfg → ChanCfg) : Keeps s₀ (s.upCfg n f) := by
  unfold State.upCfg; try dsimp only
  repeat' (first | with_reducible assumption | with_reducible exact id | intro _ | with_reducible apply State.upCh_keeps | split | rfl)

theorem State.forceCtrl_keeps {s₀ s : State} (hk : Keeps s₀ s) (n : Ch) (v : Word) : Keeps s₀ (s.forceCtrl n v) := by
  unfold State.forceCtrl; try dsimp only
  repeat' (first | with_reducible assumption | with_reducible exact id | intro _ | with_reducible apply State.noteCh_keeps | with_reducible apply State.when_keeps | with_reducible apply State.forceLoad_keeps | with_reducible apply State.modeLand_keeps | with_reducible apply State.forceClose_keeps | with_reducible apply State.forceOpen_keeps | with_reducible apply State.forceRest_keeps | with_reducible apply State.land_keeps | with_reducible apply State.upCfg_keeps | split | rfl)

theorem State.loopCtrl_keeps {s₀ s : State} (hk : Keeps s₀ s) (n : Ch) (v : Word) : Keeps s₀ (s.loopCtrl n v) := by
  unfold State.loopCtrl; try dsimp only
  repeat' (first | with_reducible assumption | with_reducible exact id | intro _ | with_reducible apply State.noteCh_keeps | with_reducible apply State.loopClose_keeps | with_reducible apply State.loopOpen_keeps | with_reducible apply State.landLast_keeps | split | rfl)

theorem State.measCtrl_keeps {s₀ s : State} (hk : Keeps s₀ s) (n : Ch) (v : Word) : Keeps s₀ (s.measCtrl n v) := by
  unfold State.measCtrl; try dsimp only
  repeat' (first | with_reducible assumption | with_reducible exact id | intro _ | with_reducible apply State.upCh_keeps | with_reducible apply State.when_keeps | with_reducible apply State.measStart_keeps | with_reducible apply State.land_keeps | with_reducible apply State.landLast_keeps | with_reducible apply State.upCfg_keeps | split | rfl)

theorem State.injCtrl_keeps {s₀ s : State} (hk : Keeps s₀ s) (n : Ch) (v : Word) : Keeps s₀ (s.injCtrl n v) := by
  unfold State.injCtrl; try dsimp only
  repeat' (first | with_reducible assumption | with_reducible exact id | intro _ | with_reducible apply State.noteCh_keeps | with_reducible apply State.land_keeps | split | rfl)

theorem State.calCtrl_keeps {s₀ s : State} (hk : Keeps s₀ s) (n : Ch) (v : Word) : Keeps s₀ (s.calCtrl n v) := by
  unfold State.calCtrl; try dsimp only
  repeat' (first | with_reducible assumption | with_reducible exact id | intro _ | with_reducible apply State.noteCh_keeps | with_reducible apply State.calZero_keeps | with_reducible apply State.calCommit_keeps | with_reducible apply State.land_keeps | with_reducible apply State.upCfg_keeps | split | rfl)

theorem State.strandCtrl_keeps {s₀ s : State} (hk : Keeps s₀ s) (n : Ch) (v : Word) : Keeps s₀ (s.strandCtrl n v) := by
  unfold State.strandCtrl; try dsimp only
  repeat' (first | with_reducible assumption | with_reducible exact id | intro _ | with_reducible apply State.noteCh_keeps | with_reducible apply State.strandStart_keeps | with_reducible apply State.strandStop_keeps | with_reducible apply State.strandAbort_keeps | with_reducible apply State.land_keeps | split | rfl)

theorem State.strandCfg_keeps {s₀ s : State} (hk : Keeps s₀ s) (n : Ch) (v : Word) : Keeps s₀ (s.strandCfg n v) := by
  unfold State.strandCfg; try dsimp only
  repeat' (first | with_reducible assumption | with_reducible exact id | intro _ | with_reducible apply State.noteCh_keeps | with_reducible apply State.upCfg_keeps | split | rfl)

theorem State.larderCfg_keeps {s₀ s : State} (hk : Keeps s₀ s) (n : Ch) (v : Word) : Keeps s₀ (s.larderCfg n v) := by
  unfold State.larderCfg; try dsimp only
  repeat' (first | with_reducible assumption | with_reducible exact id | intro _ | with_reducible apply State.noteCh_keeps | with_reducible apply State.larderClear_keeps | with_reducible apply State.land_keeps | with_reducible apply State.upCfg_keeps | split | rfl)

theorem State.winThrLand_keeps {s₀ s : State} (hk : Keeps s₀ s) (n : Ch) (w : WinId) (v : Word) : Keeps s₀ (s.winThrLand n w v) := by
  unfold State.winThrLand; try dsimp only
  repeat' (first | with_reducible assumption | with_reducible exact id | intro _ | with_reducible apply State.land_keeps | with_reducible apply State.upCfg_keeps | split | rfl)

theorem State.storeCh_keeps {s₀ s : State} (hk : Keeps s₀ s) (n : Ch) (off : Nat) (v : Word) : Keeps s₀ (s.storeCh n off v) := by
  unfold State.storeCh; try dsimp only
  repeat' (first | with_reducible assumption | with_reducible exact id | intro _ | with_reducible apply State.upCh_keeps | split | rfl)

theorem State.writeCh_keeps {s₀ s : State} (hk : Keeps s₀ s) (n : Ch) (off : Nat) (v : Word) : Keeps s₀ (s.writeCh n off v) := by
  unfold State.writeCh; try dsimp only
  repeat' (first | with_reducible assumption | with_reducible exact id | intro _ | with_reducible apply State.upCh_keeps | with_reducible apply State.coefLand_keeps | with_reducible apply State.measCfgLand_keeps | with_reducible apply State.rangeSetLand_keeps | with_reducible apply State.winCfgLand_keeps | with_reducible apply State.land_keeps | with_reducible apply State.landLast_keeps | with_reducible apply State.upCfg_keeps | with_reducible apply State.forceCtrl_keeps | with_reducible apply State.loopCtrl_keeps | with_reducible apply State.measCtrl_keeps | with_reducible apply State.injCtrl_keeps | with_reducible apply State.calCtrl_keeps | with_reducible apply State.strandCtrl_keeps | with_reducible apply State.strandCfg_keeps | with_reducible apply State.larderCfg_keeps | with_reducible apply State.winThrLand_keeps | with_reducible apply State.storeCh_keeps | split | rfl)

theorem State.hostWriteCh_keeps {s₀ s : State} (hk : Keeps s₀ s) (n : Ch) (off : Nat) (v : Word) : Keeps s₀ (s.hostWriteCh n off v) := by
  unfold State.hostWriteCh
  split
  · exact State.pageWrite_keeps hk _ _ _ _ fun hk => State.upCh_keeps hk _ _
  · split
    · exact State.pageWrite_keeps hk _ _ _ _ fun hk => hk
    · split
      · exact State.pageWrite_keeps hk _ _ _ _ fun hk => State.strandCtrl_keeps hk _ _
      · exact State.chWrite_keeps hk _ _ _ _ fun hk => State.writeCh_keeps hk _ _ _

/-! ### RegWrite -/

theorem State.writeGlb_keeps {s₀ s : State} (hk : Keeps s₀ s) (off : Nat) (v : Word) : Keeps s₀ (s.writeGlb off v) := by
  unfold State.writeGlb; try dsimp only
  repeat' (first | with_reducible assumption | with_reducible exact id | intro _ | with_reducible apply State.noteImg_keeps | with_reducible apply State.land_keeps | split | rfl)

theorem State.writeImg_keeps {s₀ s : State} (hk : Keeps s₀ s) (off : Nat) (v : Word) : Keeps s₀ (s.writeImg off v) := by
  unfold State.writeImg; try dsimp only
  repeat' (first | with_reducible assumption | with_reducible exact id | intro _ | with_reducible apply State.upImg_keeps | with_reducible apply State.imgCtrl_keeps | with_reducible apply State.stageData_keeps | split | rfl)

theorem State.writePll_keeps {s₀ s : State} (hk : Keeps s₀ s) (p : PllId) (off : Nat) (v : Word) : Keeps s₀ (s.writePll p off v) := by
  unfold State.writePll; try dsimp only
  repeat' (first | with_reducible assumption | with_reducible exact id | intro _ | with_reducible apply State.upPll_keeps | with_reducible apply State.land_keeps | split | rfl)

theorem State.writeClk_keeps {s₀ s : State} (hk : Keeps s₀ s) (off : Nat) (v : Word) : Keeps s₀ (s.writeClk off v) := by
  unfold State.writeClk; try dsimp only
  repeat' (first | with_reducible assumption | with_reducible exact id | intro _ | with_reducible apply State.upClk_keeps | with_reducible apply State.upPll_keeps | with_reducible apply State.writeClkout_keeps | with_reducible apply State.writePll_keeps | split | rfl)

theorem State.writeFlt_keeps {s₀ s : State} (hk : Keeps s₀ s) (off : Nat) (v : Word) (jtag : Bool) : Keeps s₀ (s.writeFlt off v jtag) := by
  unfold State.writeFlt; try dsimp only
  repeat' (first | with_reducible assumption | with_reducible exact id | (intro hg; show Flt.grave _ = true; simpa using hg) | intro _ | with_reducible apply State.upFlt_keeps | with_reducible apply State.readmit_keeps | with_reducible apply State.inject_keeps | split | rfl)

theorem State.writeCel_keeps {s₀ s : State} (hk : Keeps s₀ s) (off : Nat) (v : Word) : Keeps s₀ (s.writeCel off v) := by
  unfold State.writeCel; try dsimp only
  repeat' (first | with_reducible assumption | with_reducible exact id | intro _ | with_reducible apply State.readSel_keeps | with_reducible apply State.setClock_keeps | with_reducible apply State.land_keeps | split | rfl | refine Keeps.build ?_ id id rfl rfl rfl)

theorem State.writeLnk_keeps {s₀ s : State} (hk : Keeps s₀ s) (off : Nat) (v : Word) : Keeps s₀ (s.writeLnk off v) := by
  unfold State.writeLnk; try dsimp only
  repeat' (first | with_reducible assumption | with_reducible exact id | intro _ | with_reducible apply State.upLnk_keeps | with_reducible apply State.land_keeps | split | rfl)

theorem State.writeAtt_keeps {s₀ s : State} (hk : Keeps s₀ s) (off : Nat) (v : Word) : Keeps s₀ (s.writeAtt off v) := by
  unfold State.writeAtt; try dsimp only
  repeat' (first | with_reducible assumption | with_reducible exact id | intro _ | with_reducible apply State.upAtt_keeps | with_reducible apply State.upMig_keeps | with_reducible apply State.land_keeps | split | rfl)

@[simp] theorem Pwr.write_inReset (p : Pwr) (off : Nat) (v : Word) : (p.write off v).inReset = p.inReset := by unfold Pwr.write; split <;> rfl
@[simp] theorem Pwr.write_source (p : Pwr) (off : Nat) (v : Word) : (p.write off v).source = p.source := by unfold Pwr.write; split <;> rfl

theorem State.writeBlock_keeps {s₀ s : State} (hk : Keeps s₀ s) (blk off : Nat) (v : Word) (jtag : Bool) : Keeps s₀ (s.writeBlock blk off v jtag) := by
  unfold State.writeBlock
  split
  · exact State.writeGlb_keeps hk _ _
  · exact hk.build id id rfl rfl rfl
  · exact State.writeImg_keeps hk _ _
  · exact State.writeClk_keeps hk _ _
  · exact State.writeFlt_keeps hk _ _ _
  · exact State.writeCel_keeps hk _ _
  · exact State.writeLnk_keeps hk _ _
  · exact hk.build id id rfl (Pwr.write_inReset ..) (Pwr.write_source ..)
  · exact State.writeAtt_keeps hk _ _
  · exact hk

theorem State.writeBead_keeps {s₀ s : State} (hk : Keeps s₀ s) (x : Nat) (v : Word) : Keeps s₀ (s.writeBead x v) := by
  unfold State.writeBead; try dsimp only
  repeat' (first | with_reducible assumption | with_reducible exact id | intro _ | with_reducible apply State.allCh_keeps | with_reducible apply State.upAtt_keeps | with_reducible apply State.hostMemWord_keeps | split | rfl)

theorem State.hostWriteCell_keeps {s₀ s : State} (hk : Keeps s₀ s) (k : CellIx) (off : Nat) (v : Word) : Keeps s₀ (s.hostWriteCell k off v) := by
  unfold State.hostWriteCell; try dsimp only
  repeat' (first | with_reducible assumption | with_reducible exact id | intro _ | with_reducible apply State.upCell_keeps | with_reducible apply State.pageWrite_keeps | split | rfl)

theorem State.writeMapped_keeps {s₀ s : State} (hk : Keeps s₀ s) (x : Nat) (v : Word) : Keeps s₀ (s.writeMapped x v) := by
  unfold State.writeMapped; try dsimp only
  repeat' (first | with_reducible assumption | with_reducible exact id | intro _ | with_reducible apply State.hostMemWord_keeps | with_reducible apply State.streamAppend_keeps | with_reducible apply State.hostWriteCh_keeps | with_reducible apply State.writeBead_keeps | with_reducible apply State.hostWriteCell_keeps | split | rfl)

theorem State.landWord_keeps {s₀ s : State} (hk : Keeps s₀ s) (a : Addr) (v : Word) (jtag : Bool) : Keeps s₀ (s.landWord a v jtag) := by
  unfold State.landWord; try dsimp only
  repeat' (first | with_reducible assumption | with_reducible exact id | intro _ | with_reducible apply State.live_keeps | with_reducible apply State.hostAct_keeps | with_reducible apply State.writeBlock_keeps | with_reducible apply State.writeMapped_keeps | split | rfl)

theorem State.latchTime_keeps {s₀ s : State} (hk : Keeps s₀ s) : Keeps s₀ (s.latchTime) := by
  unfold State.latchTime; try dsimp only
  repeat' (first | with_reducible assumption | with_reducible exact id | intro _ | split | rfl | refine Keeps.build ?_ id id rfl rfl rfl)

@[simp] theorem Lnk.readSide_strap (l : Lnk) (off : Nat) : (l.readSide off).strap = l.strap := by unfold Lnk.readSide; repeat' (first | rfl | split)

theorem State.readSideBlock_keeps {s₀ s : State} (hk : Keeps s₀ s) (blk off : Nat) : Keeps s₀ (s.readSideBlock blk off) := by
  unfold State.readSideBlock
  split
  · split
    · exact State.latchTime_keeps hk
    · exact hk
  · exact hk.build id id rfl rfl rfl
  · split
    · exact State.upClk_keeps hk _
    · exact hk
  · exact State.upFlt_keeps hk _ fun h => by simpa using h
  · exact hk.build id id rfl rfl rfl
  · exact State.upLnk_keeps hk _ (Lnk.readSide_strap ..)
  · exact State.upAtt_keeps hk _
  · exact hk

theorem State.readSide_keeps {s₀ s : State} (hk : Keeps s₀ s) (a : Addr) : Keeps s₀ (s.readSide a) := by
  unfold State.readSide; try dsimp only
  repeat' (first | with_reducible assumption | with_reducible exact id | intro _ | with_reducible apply State.upCh_keeps | with_reducible apply State.upCell_keeps | with_reducible apply State.readSideBlock_keeps | split | rfl)

/-! ### HostOps -/

theorem State.frameError_keeps {s₀ s : State} (hk : Keeps s₀ s) (op : BitVec 8) (kind addr : Nat) : Keeps s₀ (s.frameError op kind addr) := by
  unfold State.frameError; try dsimp only
  repeat' (first | with_reducible assumption | with_reducible exact id | intro _ | with_reducible apply State.post_keeps | split | rfl | refine Keeps.build ?_ id id rfl rfl rfl)

theorem State.badFrame_keeps {s₀ s : State} (hk : Keeps s₀ s) (op : BitVec 8) : Keeps s₀ (s.badFrame op) := by
  unfold State.badFrame; try dsimp only
  repeat' (first | with_reducible assumption | with_reducible exact id | intro _ | with_reducible apply State.frameError_keeps | split | rfl)

theorem State.silent_keeps {s₀ s : State} (hk : Keeps s₀ s) : Keeps s₀ (s.silent) := by
  unfold State.silent; try dsimp only
  repeat' (first | with_reducible assumption | with_reducible exact id | intro _ | split | rfl | refine Keeps.build ?_ id id rfl rfl rfl)

theorem State.fwdFails_keeps {s₀ s : State} (hk : Keeps s₀ s) (e : FwdError) : Keeps s₀ (s.fwdFails e) := by
  unfold State.fwdFails; try dsimp only
  repeat' (first | with_reducible assumption | with_reducible exact id | intro _ | with_reducible apply State.upLnk_keeps | split | rfl)

theorem State.forwardWrite_keeps {s₀ s : State} (hk : Keeps s₀ s) (dev : BitVec 12) (f : WriteFrame) : Keeps s₀ (s.forwardWrite dev f) := by
  unfold State.forwardWrite; try dsimp only
  repeat' (first | with_reducible assumption | with_reducible exact id | intro _ | with_reducible apply State.upLnk_keeps | with_reducible apply State.fwdFails_keeps | split | rfl)

theorem State.forwardRead_keeps {s₀ s : State} (hk : Keeps s₀ s) (dev : BitVec 12) (f : ReadFrame) : Keeps s₀ (s.forwardRead dev f) := by
  unfold State.forwardRead; try dsimp only
  repeat' (first | with_reducible assumption | with_reducible exact id | intro _ | with_reducible apply State.upLnk_keeps | with_reducible apply State.fwdFails_keeps | split | rfl)

theorem State.readWords_keeps {s₀ s : State} (hk : Keeps s₀ s) (op : BitVec 8) (a : Addr) (k : Nat) : Keeps s₀ (s.readWords op a k).1 := by
  induction k generalizing s a with
  | zero => exact hk
  | succ k ih =>
    unfold State.readWords
    split
    · exact ih (State.readSide_keeps hk a) _
    · exact ih hk _

theorem State.writeWords_keeps {s₀ s : State} (hk : Keeps s₀ s) (op : BitVec 8) (a : Addr) (l : List Word) : Keeps s₀ (s.writeWords op a l) := by
  induction l generalizing s a with
  | nil => exact hk
  | cons w l ih => exact ih (State.landWord_keeps hk a w false) _

theorem State.noteUnmapped_keeps {s₀ s : State} (hk : Keeps s₀ s) (op : BitVec 8) (a : Option Addr) : Keeps s₀ (s.noteUnmapped op a) := by
  unfold State.noteUnmapped; try dsimp only
  repeat' (first | with_reducible assumption | with_reducible exact id | intro _ | with_reducible apply State.frameError_keeps | split | rfl)

theorem State.drive_keeps {s₀ s : State} (hk : Keeps s₀ s) (op : BitVec 8) (l : List Word) (good : Bool) : Keeps s₀ (s.drive op l good) := by
  unfold State.drive; try dsimp only
  repeat' (first | with_reducible assumption | with_reducible exact id | intro _ | split | rfl | refine Keeps.build ?_ id id rfl rfl rfl)

theorem State.serveRead_keeps {s₀ s : State} (hk : Keeps s₀ s) (f : ReadFrame) : Keeps s₀ (s.serveRead f) :=
  State.noteUnmapped_keeps (State.drive_keeps (State.readWords_keeps hk ..) ..) ..

theorem State.readFrame_keeps {s₀ s : State} (hk : Keeps s₀ s) (f : ReadFrame) : Keeps s₀ (s.readFrame f) := by
  unfold State.readFrame; try dsimp only
  repeat' (first | with_reducible assumption | with_reducible exact id | intro _ | with_reducible apply State.frameError_keeps | with_reducible apply State.badFrame_keeps | with_reducible apply State.silent_keeps | with_reducible apply State.forwardRead_keeps | with_reducible apply State.drive_keeps | with_reducible apply State.serveRead_keeps | split | rfl)

theorem State.serveWrite_keeps {s₀ s : State} (hk : Keeps s₀ s) (f : WriteFrame) : Keeps s₀ (s.serveWrite f) :=
  State.noteUnmapped_keeps (State.writeWords_keeps (State.when_keeps hk _ _ fun h => h.build id id rfl rfl rfl) ..) ..

theorem State.writeFrame_keeps {s₀ s : State} (hk : Keeps s₀ s) (f : WriteFrame) : Keeps s₀ (s.writeFrame f) := by
  unfold State.writeFrame; try dsimp only
  repeat' (first | with_reducible assumption | with_reducible exact id | intro _ | with_reducible apply State.when_keeps | with_reducible apply State.frameError_keeps | with_reducible apply State.badFrame_keeps | with_reducible apply State.silent_keeps | with_reducible apply State.forwardWrite_keeps | with_reducible apply State.serveWrite_keeps | split | rfl)

/-! ### LinkOps -/

theorem State.checkPath_keeps {s₀ s : State} (hk : Keeps s₀ s) : Keeps s₀ (s.checkPath) := by
  unfold State.checkPath; try dsimp only
  repeat' (first | with_reducible assumption | with_reducible exact id | intro _ | with_reducible apply State.upLnk_keeps | split | rfl)

theorem State.portTo_keeps {s₀ s : State} (hk : Keeps s₀ s) (p : Port) (st : PortState) : Keeps s₀ (s.portTo p st) := by
  unfold State.portTo; try dsimp only
  repeat' (first | with_reducible assumption | with_reducible exact id | intro _ | with_reducible apply State.upPort_keeps | with_reducible apply State.when_keeps | with_reducible apply State.treeChanged_keeps | with_reducible apply State.checkPath_keeps | split | rfl)

theorem State.linkDown_keeps {s₀ s : State} (hk : Keeps s₀ s) (p : Port) : Keeps s₀ (s.linkDown p) := by
  unfold State.linkDown; try dsimp only
  repeat' (first | with_reducible assumption | with_reducible exact id | intro _ | with_reducible apply State.post_keeps | split | rfl)

theorem State.lineError_keeps {s₀ s : State} (hk : Keeps s₀ s) (p : Port) : Keeps s₀ (s.lineError p) := by
  unfold State.lineError; try dsimp only
  repeat' (first | with_reducible assumption | with_reducible exact id | intro _ | with_reducible apply State.upPort_keeps | with_reducible apply State.post_keeps | split | rfl)

theorem State.portUp_keeps {s₀ s : State} (hk : Keeps s₀ s) (p : Port) (lat : BitVec 16) : Keeps s₀ (s.portUp p lat) := by
  unfold State.portUp; try dsimp only
  repeat' (first | with_reducible assumption | with_reducible exact id | intro _ | with_reducible apply State.upLnk_keeps | with_reducible apply State.upPort_keeps | with_reducible apply State.treeChanged_keeps | split | rfl)

theorem State.refuseSelf_keeps {s₀ s : State} (hk : Keeps s₀ s) : Keeps s₀ (s.refuseSelf) := by
  unfold State.refuseSelf; try dsimp only
  repeat' (first | with_reducible assumption | with_reducible exact id | intro _ | with_reducible apply State.upLnk_keeps | split | rfl)

theorem State.readAnswered_keeps {s₀ s : State} (hk : Keeps s₀ s) (w : List Word) : Keeps s₀ (s.readAnswered w) := by
  unfold State.readAnswered; try dsimp only
  repeat' (first | with_reducible assumption | with_reducible exact id | intro _ | with_reducible apply State.upLnk_keeps | split | rfl)

theorem State.summary_keeps {s₀ s : State} (hk : Keeps s₀ s) (d : BitVec 12) (attn grave : Bool) : Keeps s₀ (s.summary d attn grave) := by
  unfold State.summary; try dsimp only
  repeat' (first | with_reducible assumption | with_reducible exact id | intro _ | with_reducible apply State.upLnk_keeps | split | rfl)

theorem State.relay_keeps {s₀ s : State} (hk : Keeps s₀ s) (d : BitVec 12) (k : Packet) : Keeps s₀ (s.relay d k) := by
  unfold State.relay; try dsimp only
  repeat' (first | with_reducible assumption | with_reducible exact id | intro _ | with_reducible apply State.upLnk_keeps | split | rfl)

theorem State.serveForwarded_keeps {s₀ s : State} (hk : Keeps s₀ s) (f : ReadFrame) : Keeps s₀ (s.serveForwarded f) :=
  State.relay_keeps (State.noteUnmapped_keeps (State.readWords_keeps hk ..) ..) ..

theorem State.packet_keeps {s₀ s : State} (hk : Keeps s₀ s) (k : Packet) : Keeps s₀ (s.packet k) := by
  unfold State.packet; try dsimp only
  repeat' (first | with_reducible assumption | with_reducible exact id | intro _ | with_reducible apply State.serveWrite_keeps | with_reducible apply State.readAnswered_keeps | with_reducible apply State.summary_keeps | with_reducible apply State.relay_keeps | with_reducible apply State.serveForwarded_keeps | split | rfl)

theorem State.sendMarker_keeps {s₀ s : State} (hk : Keeps s₀ s) : Keeps s₀ (s.sendMarker) := by
  unfold State.sendMarker; try dsimp only
  repeat' (first | with_reducible assumption | with_reducible exact id | intro _ | with_reducible apply State.upLnk_keeps | with_reducible apply State.when_keeps | with_reducible apply State.align_keeps | split | rfl)

theorem State.startStep_keeps {s₀ s : State} (hk : Keeps s₀ s) (e64 : Int) : Keeps s₀ (s.startStep e64) := by
  unfold State.startStep; try dsimp only
  repeat' (first | with_reducible assumption | with_reducible exact id | intro _ | with_reducible apply State.upLnk_keeps | with_reducible apply State.markAll_keeps | split | rfl)

theorem State.startTrim_keeps {s₀ s : State} (hk : Keeps s₀ s) (e64 : Int) : Keeps s₀ (s.startTrim e64) := by
  unfold State.startTrim; try dsimp only
  repeat' (first | with_reducible assumption | with_reducible exact id | intro _ | with_reducible apply State.upLnk_keeps | split | rfl)

theorem State.takeMarker_keeps {s₀ s : State} (hk : Keeps s₀ s) (m : Marker) : Keeps s₀ (s.takeMarker m) := by
  unfold State.takeMarker; try dsimp only
  repeat' (first | with_reducible assumption | with_reducible exact id | intro _ | with_reducible apply State.upLnk_keeps | with_reducible apply State.unalign_keeps | with_reducible apply State.align_keeps | with_reducible apply State.startStep_keeps | with_reducible apply State.startTrim_keeps | split | rfl)

theorem State.report_keeps {s₀ s : State} (hk : Keeps s₀ s) (r : Readiness) : Keeps s₀ (s.report r) := by
  unfold State.report; try dsimp only
  repeat' (first | with_reducible assumption | with_reducible exact id | intro _ | with_reducible apply State.upLnk_keeps | split | rfl)

theorem State.order_keeps {s₀ s : State} (hk : Keeps s₀ s) (t : BitVec 8) (b : Nat) : Keeps s₀ (s.order t b) := by
  unfold State.order; try dsimp only
  repeat' (first | with_reducible assumption | with_reducible exact id | intro _ | with_reducible apply State.upCh_keeps | with_reducible apply State.each_keepsAll | with_reducible apply State.setStart_keeps | split | rfl)

theorem State.spanAct_keeps {s₀ s : State} (hk : Keeps s₀ s) (a : SyncAct) (t : BitVec 8) : Keeps s₀ (s.spanAct a t) := by
  unfold State.spanAct; try dsimp only
  repeat' (first | with_reducible assumption | with_reducible exact id | intro _ | with_reducible apply State.setStart_keeps | with_reducible apply State.setFire_keeps | with_reducible apply State.setAbort_keeps | split | rfl)

theorem State.syncRequest_keeps {s₀ s : State} (hk : Keeps s₀ s) (a : SyncAct) (t : BitVec 8) : Keeps s₀ (s.syncRequest a t) := by
  unfold State.syncRequest; try dsimp only
  repeat' (first | with_reducible assumption | with_reducible exact id | intro _ | with_reducible apply State.upLnk_keeps | split | rfl)

theorem State.ownReport_keeps {s₀ s : State} (hk : Keeps s₀ s) (t : BitVec 8) : Keeps s₀ (s.ownReport t) := by
  unfold State.ownReport; try dsimp only
  repeat' (first | with_reducible assumption | with_reducible exact id | intro _ | with_reducible apply State.upLnk_keeps | with_reducible apply State.order_keeps | split | rfl)

theorem State.sendOrder_keeps {s₀ s : State} (hk : Keeps s₀ s) (t : BitVec 8) : Keeps s₀ (s.sendOrder t) := by
  unfold State.sendOrder; try dsimp only
  repeat' (first | with_reducible assumption | with_reducible exact id | intro _ | with_reducible apply State.upLnk_keeps | with_reducible apply State.order_keeps | split | rfl | refine Keeps.build ?_ id id rfl rfl rfl)

theorem State.rootSets_keeps {s₀ s : State} (hk : Keeps s₀ s) : Keeps s₀ (s.rootSets) := by
  unfold State.rootSets; try dsimp only
  repeat' (first | with_reducible assumption | with_reducible exact id | intro _ | with_reducible apply State.upLnk_keeps | with_reducible apply State.when_keeps | with_reducible apply State.each_keepsAll | with_reducible apply State.syncRequest_keeps | with_reducible apply State.ownReport_keeps | with_reducible apply State.sendOrder_keeps | split | rfl)

theorem State.dueActs_keeps {s₀ s : State} (hk : Keeps s₀ s) : Keeps s₀ (s.dueActs) := by
  unfold State.dueActs; try dsimp only
  repeat' (first | with_reducible assumption | with_reducible exact id | intro _ | with_reducible apply State.upLnk_keeps | with_reducible apply State.each_keepsAll | with_reducible apply State.wakeSet_keeps | with_reducible apply State.spanAct_keeps | split | rfl)

/-! ### PowerOps -/

theorem State.gates_keeps {s₀ s : State} (hk : Keeps s₀ s) (b : Bay) (on : Bool) : Keeps s₀ (s.gates b on) := by
  unfold State.gates; try dsimp only
  repeat' (first | with_reducible assumption | with_reducible exact id | intro _ | with_reducible apply State.upCell_keeps | with_reducible apply State.each_keepsAll | split | rfl)

theorem State.sleepBay_keeps {s₀ s : State} (hk : Keeps s₀ s) (b : Bay) : Keeps s₀ (s.sleepBay b) := by
  unfold State.sleepBay; try dsimp only
  repeat' (first | with_reducible assumption | with_reducible exact id | intro _ | with_reducible apply State.upCh_keeps | with_reducible apply State.upCell_keeps | with_reducible apply State.upBay_keeps | with_reducible apply State.each_keepsAll | with_reducible apply State.refresh_keeps | with_reducible apply State.gates_keeps | split | rfl)

theorem State.lateTrip_keeps {s₀ s : State} (hk : Keeps s₀ s) (n : Ch) (w : WinId) : Keeps s₀ (s.lateTrip n w) := by
  unfold State.lateTrip; try dsimp only
  repeat' (first | with_reducible assumption | with_reducible exact id | intro _ | with_reducible apply State.upCh_keeps | with_reducible apply State.each_keepsAll | with_reducible apply State.stageOpen_keeps | with_reducible apply State.trip_keeps | split | rfl)

theorem State.wakeBay_keeps {s₀ s : State} (hk : Keeps s₀ s) (b : Bay) : Keeps s₀ (s.wakeBay b) := by
  unfold State.wakeBay; try dsimp only
  repeat' (first | with_reducible assumption | with_reducible exact id | intro _ | with_reducible apply State.upCh_keeps | with_reducible apply State.upBay_keeps | with_reducible apply State.post_keeps | with_reducible apply State.when_keeps | with_reducible apply State.each_keepsAll | with_reducible apply State.refresh_keeps | with_reducible apply State.landWord_keeps | with_reducible apply State.gates_keeps | with_reducible apply State.lateTrip_keeps | split | rfl)

theorem State.stopPlls_keeps {s₀ s : State} (hk : Keeps s₀ s) : Keeps s₀ (s.stopPlls) := by
  unfold State.stopPlls; try dsimp only
  repeat' (first | with_reducible assumption | with_reducible exact id | intro _ | with_reducible apply State.upClk_keeps | with_reducible apply State.unalign_keeps | with_reducible apply State.leaveVco8_keeps | with_reducible apply State.outsStop_keeps | split | rfl)

theorem State.keeperHolds_keeps {s₀ s : State} (hk : Keeps s₀ s) (k : CellIx) : Keeps s₀ (s.keeperHolds k) := by
  unfold State.keeperHolds; try dsimp only
  repeat' (first | with_reducible assumption | with_reducible exact id | intro _ | with_reducible apply State.upCh_keeps | with_reducible apply State.upCell_keeps | with_reducible apply State.upPwr_keeps | with_reducible apply State.postCell_keeps | split | rfl)

theorem State.keeperOpened_keeps {s₀ s : State} (hk : Keeps s₀ s) (k : CellIx) : Keeps s₀ (s.keeperOpened k) := by
  unfold State.keeperOpened; try dsimp only
  repeat' (first | with_reducible assumption | with_reducible exact id | intro _ | with_reducible apply State.upCell_keeps | with_reducible apply State.postCell_keeps | with_reducible apply State.endLive_keeps | with_reducible apply State.openSwitch_keeps | split | rfl)

theorem State.aonFalls_keeps {s₀ s : State} (hk : Keeps s₀ s) : Keeps s₀ (s.aonFalls) := by
  unfold State.aonFalls; try dsimp only
  repeat' (first | with_reducible assumption | with_reducible exact id | intro _ | with_reducible apply State.upCell_keeps | with_reducible apply State.upPwr_keeps | with_reducible apply State.each_keepsAll | with_reducible apply State.keeperOpened_keeps | split | rfl)

theorem State.grantAll_keeps {s₀ s : State} (hk : Keeps s₀ s) : Keeps s₀ (s.grantAll) := by
  unfold State.grantAll; try dsimp only
  repeat' (first | with_reducible assumption | with_reducible exact id | intro _ | with_reducible apply State.allCh_keeps | split | rfl)

theorem State.govern_keeps {s₀ s : State} (hk : Keeps s₀ s) : Keeps s₀ (s.govern) := by
  unfold State.govern; try dsimp only
  repeat' (first | with_reducible assumption | with_reducible exact id | intro _ | with_reducible apply State.upPwr_keeps | with_reducible apply State.post_keeps | with_reducible apply State.endLive_keeps | with_reducible apply State.grantAll_keeps | split | rfl)

theorem State.railsMeasured_keeps {s₀ s : State} (hk : Keeps s₀ s) (vpos vneg : BitVec 16) : Keeps s₀ (s.railsMeasured vpos vneg) := by
  unfold State.railsMeasured; try dsimp only
  repeat' (first | with_reducible assumption | with_reducible exact id | intro _ | with_reducible apply State.allBays_keeps | with_reducible apply State.railGate_keeps | with_reducible apply State.bootRails_keeps | split | rfl)

/-! ### Tick -/

theorem State.slowPrepares_keeps {s₀ s : State} (hk : Keeps s₀ s) : Keeps s₀ (s.slowPrepares) := by
  unfold State.slowPrepares; try dsimp only
  repeat' (first | with_reducible assumption | with_reducible exact id | intro _ | with_reducible apply State.each_keepsAll | with_reducible apply State.prepare_keeps | split | rfl)

theorem State.keepersPass_keeps {s₀ s : State} (hk : Keeps s₀ s) : Keeps s₀ (s.keepersPass) := by
  unfold State.keepersPass; try dsimp only
  repeat' (first | with_reducible assumption | with_reducible exact id | intro _ | with_reducible apply State.allCells_keeps | split | rfl)

theorem State.baysPass_keeps {s₀ s : State} (hk : Keeps s₀ s) : Keeps s₀ (s.baysPass) := by
  unfold State.baysPass; try dsimp only
  repeat' (first | with_reducible assumption | with_reducible exact id | intro _ | with_reducible apply State.upBay_keeps | with_reducible apply State.when_keeps | with_reducible apply State.each_keepsAll | with_reducible apply State.wake_keeps | split | rfl)

theorem State.sampleAll_keeps {s₀ s : State} (hk : Keeps s₀ s) : Keeps s₀ (s.sampleAll) := by
  unfold State.sampleAll; try dsimp only
  repeat' (first | with_reducible assumption | with_reducible exact id | intro _ | with_reducible apply State.allCh_keeps | with_reducible apply State.each_keepsAll | with_reducible apply State.winAct_keeps | with_reducible apply State.grantAll_keeps | split | rfl)

theorem State.sendOut_keeps {s₀ s : State} (hk : Keeps s₀ s) : Keeps s₀ (s.sendOut) := by
  unfold State.sendOut; try dsimp only
  repeat' (first | with_reducible assumption | with_reducible exact id | intro _ | with_reducible apply State.upLnk_keeps | split | rfl)

theorem State.tickEnd_keeps {s₀ s : State} (hk : Keeps s₀ s) : Keeps s₀ (s.tickEnd) := by
  unfold State.tickEnd; try dsimp only
  repeat' (first | with_reducible assumption | with_reducible exact id | intro _ | with_reducible apply State.allCh_keeps | with_reducible apply State.when_keeps | with_reducible apply State.pinsOpen_keeps | with_reducible apply State.bootDone_keeps | with_reducible apply State.checkPath_keeps | with_reducible apply State.rootSets_keeps | with_reducible apply State.dueActs_keeps | with_reducible apply State.slowPrepares_keeps | with_reducible apply State.keepersPass_keeps | with_reducible apply State.baysPass_keeps | with_reducible apply State.sampleAll_keeps | with_reducible apply State.sendOut_keeps | split | rfl)

end Sys2Proof.Machine
end

