-- ==== Sys2Proof/Laws/ExecKeeps.lean ====
section
/-! SUPPORT. What no command but a reset, a release, the end of a time step or a test access port instruction does: one lemma per meaning. -/

set_option linter.unreachableTactic false
set_option linter.unusedTactic false

namespace Sys2Proof.Machine

theorem execLoopUpdate_keeps (n : Ch) (x : LoopIn) (s : State) : ∃ t, execLoopUpdate n x s = .next t ∧ Keeps s t := by
  unfold execLoopUpdate
  refine ⟨_, rfl, ?_⟩
  have hk := Keeps.refl s
  try dsimp only
  repeat' (first | with_reducible assumption | with_reducible exact id | intro _ | with_reducible apply State.upCh_keeps | with_reducible apply State.live_keeps | with_reducible apply State.loopUpdate_keeps | split | rfl | refine Keeps.build ?_ id id rfl rfl rfl)

theorem execSlewLimiterStep_keeps (n : Ch) (s : State) : ∃ t, execSlewLimiterStep n s = .next t ∧ Keeps s t := by
  unfold execSlewLimiterStep
  refine ⟨_, rfl, ?_⟩
  have hk := Keeps.refl s
  try dsimp only
  repeat' (first | with_reducible assumption | with_reducible exact id | intro _ | with_reducible apply State.upCh_keeps | with_reducible apply State.live_keeps | with_reducible apply State.latchDac_keeps | split | rfl)

theorem execLoopClose_keeps (n : Ch) (s : State) : ∃ t, execLoopClose n s = .next t ∧ Keeps s t := by
  unfold execLoopClose
  refine ⟨_, rfl, ?_⟩
  have hk := Keeps.refl s
  try dsimp only
  repeat' (first | with_reducible assumption | with_reducible exact id | intro _ | with_reducible apply State.chWrite_keeps | with_reducible apply State.sample_keeps | with_reducible apply State.loopClose_keeps | split | rfl)

theorem execLoopOpen_keeps (n : Ch) (s : State) : ∃ t, execLoopOpen n s = .next t ∧ Keeps s t := by
  unfold execLoopOpen
  refine ⟨_, rfl, ?_⟩
  have hk := Keeps.refl s
  try dsimp only
  repeat' (first | with_reducible assumption | with_reducible exact id | intro _ | with_reducible apply State.chWrite_keeps | with_reducible apply State.sample_keeps | with_reducible apply State.loopOpen_keeps | split | rfl)

theorem execLoopCmdWrite_keeps (n : Ch) (x : Code) (s : State) : ∃ t, execLoopCmdWrite n x s = .next t ∧ Keeps s t := by
  unfold execLoopCmdWrite
  refine ⟨_, rfl, ?_⟩
  have hk := Keeps.refl s
  try dsimp only
  repeat' (first | with_reducible assumption | with_reducible exact id | intro _ | with_reducible apply State.chWrite_keeps | with_reducible apply State.sample_keeps | with_reducible apply State.loopCmd_keeps | split | rfl)

theorem execCoefficientWrite_keeps (n : Ch) (w : WinId) (r : CoefReg) (v : Word) (s : State) : ∃ t, execCoefficientWrite n w r v s = .next t ∧ Keeps s t := by
  unfold execCoefficientWrite
  refine ⟨_, rfl, ?_⟩
  have hk := Keeps.refl s
  try dsimp only
  repeat' (first | with_reducible assumption | with_reducible exact id | intro _ | with_reducible apply State.chWrite_keeps | with_reducible apply State.sample_keeps | with_reducible apply State.coefLand_keeps | split | rfl)

theorem execComplianceWrite_keeps (n : Ch) (v : Word) (s : State) : ∃ t, execComplianceWrite n v s = .next t ∧ Keeps s t := by
  unfold execComplianceWrite
  refine ⟨_, rfl, ?_⟩
  have hk := Keeps.refl s
  try dsimp only
  repeat' (first | with_reducible assumption | with_reducible exact id | intro _ | with_reducible apply State.upCh_keeps | with_reducible apply State.chWrite_keeps | with_reducible apply State.sample_keeps | split | rfl | refine Keeps.build ?_ id id rfl rfl rfl)

theorem execAttMigrate_keeps (n : Ch) (keepOld : Bool) (s : State) : ∃ t, execAttMigrate n keepOld s = .next t ∧ Keeps s t := by
  unfold execAttMigrate
  refine ⟨_, rfl, ?_⟩
  have hk := Keeps.refl s
  try dsimp only
  repeat' (first | with_reducible assumption | with_reducible exact id | intro _ | with_reducible apply State.hostAct_keeps | with_reducible apply State.hostMigrate_keeps | split | rfl)

theorem execMigrationGrant_keeps (s : State) : ∃ t, execMigrationGrant s = .next t ∧ Keeps s t := by
  unfold execMigrationGrant
  refine ⟨_, rfl, ?_⟩
  have hk := Keeps.refl s
  try dsimp only
  repeat' (first | with_reducible assumption | with_reducible exact id | intro _ | with_reducible apply State.live_keeps | with_reducible apply State.grants_keeps | split | rfl)

theorem execShadowAwake_keeps (b : Bay) (s : State) : ∃ t, execShadowAwake b s = .next t ∧ Keeps s t := by
  unfold execShadowAwake
  refine ⟨_, rfl, ?_⟩
  have hk := Keeps.refl s
  try dsimp only
  repeat' (first | with_reducible assumption | with_reducible exact id | intro _ | with_reducible apply State.upCell_keeps | with_reducible apply State.upMig_keeps | with_reducible apply State.live_keeps | with_reducible apply State.wake_keeps | with_reducible apply State.shadowFollow_keeps | with_reducible apply State.powerCell_keeps | with_reducible apply State.coldMig_keeps | split | rfl | refine Keeps.build ?_ id id rfl rfl rfl)

theorem execForceCheckEnd_keeps (b : Bay) (s : State) : ∃ t, execForceCheckEnd b s = .next t ∧ Keeps s t := by
  unfold execForceCheckEnd
  refine ⟨_, rfl, ?_⟩
  have hk := Keeps.refl s
  try dsimp only
  repeat' (first | with_reducible assumption | with_reducible exact id | intro _ | with_reducible apply State.upCell_keeps | with_reducible apply State.upMig_keeps | with_reducible apply State.live_keeps | split | rfl | refine Keeps.build ?_ id id rfl rfl rfl)

theorem execSpareReject_keeps (b : Bay) (s : State) : ∃ t, execSpareReject b s = .next t ∧ Keeps s t := by
  unfold execSpareReject
  refine ⟨_, rfl, ?_⟩
  have hk := Keeps.refl s
  try dsimp only
  repeat' (first | with_reducible assumption | with_reducible exact id | intro _ | with_reducible apply State.live_keeps | with_reducible apply State.rejectSpare_keeps | split | rfl | refine Keeps.build ?_ id id rfl rfl rfl)

theorem execMigrationSwap_keeps (b : Bay) (s : State) : ∃ t, execMigrationSwap b s = .next t ∧ Keeps s t := by
  unfold execMigrationSwap
  refine ⟨_, rfl, ?_⟩
  have hk := Keeps.refl s
  try dsimp only
  repeat' (first | with_reducible assumption | with_reducible exact id | intro _ | with_reducible apply State.upMig_keeps | with_reducible apply State.live_keeps | with_reducible apply State.remapMig_keeps | with_reducible apply State.coldMig_keeps | split | rfl | refine Keeps.build ?_ id id rfl rfl rfl)

theorem execMigrationEnd_keeps (b : Bay) (s : State) : ∃ t, execMigrationEnd b s = .next t ∧ Keeps s t := by
  unfold execMigrationEnd
  refine ⟨_, rfl, ?_⟩
  have hk := Keeps.refl s
  try dsimp only
  repeat' (first | with_reducible assumption | with_reducible exact id | intro _ | with_reducible apply State.live_keeps | with_reducible apply State.completeMig_keeps | split | rfl | refine Keeps.build ?_ id id rfl rfl rfl)

theorem execSramPatrolRead_keeps (r : SramRegion) (e : SramRead) (s : State) : ∃ t, execSramPatrolRead r e s = .next t ∧ Keeps s t := by
  unfold execSramPatrolRead
  refine ⟨_, rfl, ?_⟩
  have hk := Keeps.refl s
  try dsimp only
  repeat' (first | with_reducible assumption | with_reducible exact id | intro _ | with_reducible apply State.upAtt_keeps | with_reducible apply State.live_keeps | with_reducible apply State.sramCorrected_keeps | with_reducible apply State.sramUncorrectable_keeps | split | rfl | refine Keeps.build ?_ id id rfl rfl rfl)

theorem execFormat_keeps (key : BitVec 8) (s : State) : ∃ t, execFormat key s = .next t ∧ Keeps s t := by
  unfold execFormat
  refine ⟨_, rfl, ?_⟩
  have hk := Keeps.refl s
  try dsimp only
  repeat' (first | with_reducible assumption | with_reducible exact id | intro _ | with_reducible apply State.hostAct_keeps | with_reducible apply State.celCommand_keeps | split | rfl)

theorem execWriteSlotA_keeps (s : State) : ∃ t, execWriteSlotA s = .next t ∧ Keeps s t := by
  unfold execWriteSlotA
  refine ⟨_, rfl, ?_⟩
  have hk := Keeps.refl s
  try dsimp only
  repeat' (first | with_reducible assumption | with_reducible exact id | intro _ | with_reducible apply State.hostAct_keeps | with_reducible apply State.celCommand_keeps | split | rfl)

theorem execWriteSlotB_keeps (s : State) : ∃ t, execWriteSlotB s = .next t ∧ Keeps s t := by
  unfold execWriteSlotB
  refine ⟨_, rfl, ?_⟩
  have hk := Keeps.refl s
  try dsimp only
  repeat' (first | with_reducible assumption | with_reducible exact id | intro _ | with_reducible apply State.hostAct_keeps | with_reducible apply State.celCommand_keeps | split | rfl)

theorem execClearSlotA_keeps (s : State) : ∃ t, execClearSlotA s = .next t ∧ Keeps s t := by
  unfold execClearSlotA
  refine ⟨_, rfl, ?_⟩
  have hk := Keeps.refl s
  try dsimp only
  repeat' (first | with_reducible assumption | with_reducible exact id | intro _ | with_reducible apply State.hostAct_keeps | with_reducible apply State.celCommand_keeps | split | rfl)

theorem execClearSlotB_keeps (s : State) : ∃ t, execClearSlotB s = .next t ∧ Keeps s t := by
  unfold execClearSlotB
  refine ⟨_, rfl, ?_⟩
  have hk := Keeps.refl s
  try dsimp only
  repeat' (first | with_reducible assumption | with_reducible exact id | intro _ | with_reducible apply State.hostAct_keeps | with_reducible apply State.celCommand_keeps | split | rfl)

theorem execSaveLibrary_keeps (s : State) : ∃ t, execSaveLibrary s = .next t ∧ Keeps s t := by
  unfold execSaveLibrary
  refine ⟨_, rfl, ?_⟩
  have hk := Keeps.refl s
  try dsimp only
  repeat' (first | with_reducible assumption | with_reducible exact id | intro _ | with_reducible apply State.hostAct_keeps | with_reducible apply State.celCommand_keeps | split | rfl)

theorem execPatrol_keeps (s : State) : ∃ t, execPatrol s = .next t ∧ Keeps s t := by
  unfold execPatrol
  refine ⟨_, rfl, ?_⟩
  have hk := Keeps.refl s
  try dsimp only
  repeat' (first | with_reducible assumption | with_reducible exact id | intro _ | with_reducible apply State.hostAct_keeps | with_reducible apply State.celCommand_keeps | split | rfl)

theorem execFlush_keeps (s : State) : ∃ t, execFlush s = .next t ∧ Keeps s t := by
  unfold execFlush
  refine ⟨_, rfl, ?_⟩
  have hk := Keeps.refl s
  try dsimp only
  repeat' (first | with_reducible assumption | with_reducible exact id | intro _ | with_reducible apply State.hostAct_keeps | with_reducible apply State.celCommand_keeps | split | rfl)

theorem execCellarOperationDone_keeps (o : FlashOutcome) (s : State) : ∃ t, execCellarOperationDone o s = .next t ∧ Keeps s t := by
  unfold execCellarOperationDone
  refine ⟨_, rfl, ?_⟩
  have hk := Keeps.refl s
  try dsimp only
  repeat' (first | with_reducible assumption | with_reducible exact id | intro _ | with_reducible apply State.live_keeps | with_reducible apply State.workDone_keeps | with_reducible apply State.programFailed_keeps | with_reducible apply State.nextWork_keeps | split | rfl | refine Keeps.build ?_ id id rfl rfl rfl)

theorem execGarbageCollection_keeps (s : State) : ∃ t, execGarbageCollection s = .next t ∧ Keeps s t := by
  unfold execGarbageCollection
  refine ⟨_, rfl, ?_⟩
  have hk := Keeps.refl s
  try dsimp only
  repeat' (first | with_reducible assumption | with_reducible exact id | intro _ | with_reducible apply State.live_keeps | with_reducible apply State.eraseBlock_keeps | with_reducible apply State.copyOut_keeps | with_reducible apply State.moveBlock_keeps | split | rfl | refine Keeps.build ?_ id id rfl rfl rfl)

theorem execPatrolPageRead_keeps (o : FlashOutcome) (s : State) : ∃ t, execPatrolPageRead o s = .next t ∧ Keeps s t := by
  unfold execPatrolPageRead
  refine ⟨_, rfl, ?_⟩
  have hk := Keeps.refl s
  try dsimp only
  repeat' (first | with_reducible assumption | with_reducible exact id | intro _ | with_reducible apply State.live_keeps | with_reducible apply State.readPage_keeps | split | rfl | refine Keeps.build ?_ id id rfl rfl rfl)

theorem execNotResponding_keeps (op : BitVec 8) (s : State) : ∃ t, execNotResponding op s = .next t ∧ Keeps s t := by
  unfold execNotResponding
  refine ⟨_, rfl, ?_⟩
  have hk := Keeps.refl s
  try dsimp only
  repeat' (first | with_reducible assumption | with_reducible exact id | intro _ | with_reducible apply State.post_keeps | with_reducible apply State.live_keeps | split | rfl)

theorem execCelReadSelWrite_keeps (v : Word) (s : State) : ∃ t, execCelReadSelWrite v s = .next t ∧ Keeps s t := by
  unfold execCelReadSelWrite
  refine ⟨_, rfl, ?_⟩
  have hk := Keeps.refl s
  try dsimp only
  repeat' (first | with_reducible assumption | with_reducible exact id | intro _ | with_reducible apply State.live_keeps | with_reducible apply State.readSel_keeps | split | rfl)

theorem execCelClockWrite_keeps (v : Word) (s : State) : ∃ t, execCelClockWrite v s = .next t ∧ Keeps s t := by
  unfold execCelClockWrite
  refine ⟨_, rfl, ?_⟩
  have hk := Keeps.refl s
  try dsimp only
  repeat' (first | with_reducible assumption | with_reducible exact id | intro _ | with_reducible apply State.hostAct_keeps | with_reducible apply State.setClock_keeps | split | rfl)

theorem execCellarHourTick_keeps (s : State) : ∃ t, execCellarHourTick s = .next t ∧ Keeps s t := by
  unfold execCellarHourTick
  refine ⟨_, rfl, ?_⟩
  have hk := Keeps.refl s
  try dsimp only
  repeat' (first | with_reducible assumption | with_reducible exact id | intro _ | with_reducible apply State.live_keeps | split | rfl | refine Keeps.build ?_ id id rfl rfl rfl)

theorem execRefDetectionEnd_keeps (edges : Nat) (s : State) : ∃ t, execRefDetectionEnd edges s = .next t ∧ Keeps s t := by
  unfold execRefDetectionEnd
  refine ⟨_, rfl, ?_⟩
  have hk := Keeps.refl s
  try dsimp only
  repeat' (first | with_reducible assumption | with_reducible exact id | intro _ | with_reducible apply State.live_keeps | with_reducible apply State.detected_keeps | split | rfl)

theorem execPllLockAcquired_keeps (p : PllId) (s : State) : ∃ t, execPllLockAcquired p s = .next t ∧ Keeps s t := by
  unfold execPllLockAcquired
  refine ⟨_, rfl, ?_⟩
  have hk := Keeps.refl s
  try dsimp only
  repeat' (first | with_reducible assumption | with_reducible exact id | intro _ | with_reducible apply State.live_keeps | with_reducible apply State.lockAcquired_keeps | split | rfl)

theorem execPllLockLost_keeps (p : PllId) (s : State) : ∃ t, execPllLockLost p s = .next t ∧ Keeps s t := by
  unfold execPllLockLost
  refine ⟨_, rfl, ?_⟩
  have hk := Keeps.refl s
  try dsimp only
  repeat' (first | with_reducible assumption | with_reducible exact id | intro _ | with_reducible apply State.upPll_keeps | with_reducible apply State.live_keeps | with_reducible apply State.unalign_keeps | with_reducible apply State.leaveVco8_keeps | with_reducible apply State.outsStop_keeps | with_reducible apply State.portsStop_keeps | split | rfl | refine Keeps.build ?_ id id rfl rfl rfl)

theorem execLockHoldEnd_keeps (p : PllId) (s : State) : ∃ t, execLockHoldEnd p s = .next t ∧ Keeps s t := by
  unfold execLockHoldEnd
  refine ⟨_, rfl, ?_⟩
  have hk := Keeps.refl s
  try dsimp only
  repeat' (first | with_reducible assumption | with_reducible exact id | intro _ | with_reducible apply State.live_keeps | with_reducible apply State.lockHeld_keeps | with_reducible apply State.bootNext_keeps | split | rfl)

theorem execRelockRetry_keeps (p : PllId) (s : State) : ∃ t, execRelockRetry p s = .next t ∧ Keeps s t := by
  unfold execRelockRetry
  refine ⟨_, rfl, ?_⟩
  have hk := Keeps.refl s
  try dsimp only
  repeat' (first | with_reducible assumption | with_reducible exact id | intro _ | with_reducible apply State.upPll_keeps | with_reducible apply State.live_keeps | split | rfl)

theorem execRefLost_keeps (s : State) : ∃ t, execRefLost s = .next t ∧ Keeps s t := by
  unfold execRefLost
  refine ⟨_, rfl, ?_⟩
  have hk := Keeps.refl s
  try dsimp only
  repeat' (first | with_reducible assumption | with_reducible exact id | intro _ | with_reducible apply State.upClk_keeps | with_reducible apply State.live_keeps | with_reducible apply State.unalign_keeps | with_reducible apply State.leaveVco8_keeps | with_reducible apply State.outsStop_keeps | with_reducible apply State.portsStop_keeps | split | rfl | refine Keeps.build ?_ id id rfl rfl rfl)

theorem execRefReturn_keeps (s : State) : ∃ t, execRefReturn s = .next t ∧ Keeps s t := by
  unfold execRefReturn
  refine ⟨_, rfl, ?_⟩
  have hk := Keeps.refl s
  try dsimp only
  repeat' (first | with_reducible assumption | with_reducible exact id | intro _ | with_reducible apply State.upClk_keeps | with_reducible apply State.live_keeps | split | rfl | refine Keeps.build ?_ id id rfl rfl rfl)

theorem execPllCommit_keeps (p : PllId) (s : State) : ∃ t, execPllCommit p s = .next t ∧ Keeps s t := by
  unfold execPllCommit
  refine ⟨_, rfl, ?_⟩
  have hk := Keeps.refl s
  try dsimp only
  repeat' (first | with_reducible assumption | with_reducible exact id | intro _ | with_reducible apply State.hostAct_keeps | with_reducible apply State.commitPll_keeps | split | rfl)

theorem execPllBandMeasure_keeps (p : PllId) (khz : List (Nat × Nat)) (s : State) : ∃ t, execPllBandMeasure p khz s = .next t ∧ Keeps s t := by
  unfold execPllBandMeasure
  refine ⟨_, rfl, ?_⟩
  have hk := Keeps.refl s
  try dsimp only
  repeat' (first | with_reducible assumption | with_reducible exact id | intro _ | with_reducible apply State.hostAct_keeps | with_reducible apply State.measureBands_keeps | split | rfl)

theorem execClkoutWrite_keeps (x : Fin 4) (v : Word) (s : State) : ∃ t, execClkoutWrite x v s = .next t ∧ Keeps s t := by
  unfold execClkoutWrite
  refine ⟨_, rfl, ?_⟩
  have hk := Keeps.refl s
  try dsimp only
  repeat' (first | with_reducible assumption | with_reducible exact id | intro _ | with_reducible apply State.hostAct_keeps | with_reducible apply State.writeClkout_keeps | split | rfl)

theorem execXtalQualified_keeps (s : State) : ∃ t, execXtalQualified s = .next t ∧ Keeps s t := by
  unfold execXtalQualified
  refine ⟨_, rfl, ?_⟩
  have hk := Keeps.refl s
  try dsimp only
  repeat' (first | with_reducible assumption | with_reducible exact id | intro _ | with_reducible apply State.upClk_keeps | split | rfl | refine Keeps.build ?_ id id rfl rfl rfl)

theorem execXtalLost_keeps (s : State) : ∃ t, execXtalLost s = .next t ∧ Keeps s t := by
  unfold execXtalLost
  refine ⟨_, rfl, ?_⟩
  have hk := Keeps.refl s
  try dsimp only
  repeat' (first | with_reducible assumption | with_reducible exact id | intro _ | with_reducible apply State.upClk_keeps | split | rfl | refine Keeps.build ?_ id id rfl rfl rfl)

theorem execFaultMessage_keeps (src : BitVec 10) (kind : BitVec 6) (addr : Word) (s : State) : ∃ t, execFaultMessage src kind addr s = .next t ∧ Keeps s t := by
  unfold execFaultMessage
  refine ⟨_, rfl, ?_⟩
  have hk := Keeps.refl s
  try dsimp only
  repeat' (first | with_reducible assumption | with_reducible exact id | intro _ | with_reducible apply State.collect_keeps | with_reducible apply State.live_keeps | split | rfl)

theorem execFaultConditionEnd_keeps (src : BitVec 10) (kind : BitVec 6) (s : State) : ∃ t, execFaultConditionEnd src kind s = .next t ∧ Keeps s t := by
  unfold execFaultConditionEnd
  refine ⟨_, rfl, ?_⟩
  have hk := Keeps.refl s
  try dsimp only
  repeat' (first | with_reducible assumption | with_reducible exact id | intro _ | with_reducible apply State.endLive_keeps | with_reducible apply State.live_keeps | split | rfl)

theorem execConseqWindowEnd_keeps (src : BitVec 10) (s : State) : ∃ t, execConseqWindowEnd src s = .next t ∧ Keeps s t := by
  unfold execConseqWindowEnd
  refine ⟨_, rfl, ?_⟩
  have hk := Keeps.refl s
  try dsimp only
  repeat' (first | with_reducible assumption | with_reducible exact id | (intro hg; show Flt.grave _ = true; simpa using hg) | intro _ | with_reducible apply State.upFlt_keeps | with_reducible apply State.live_keeps | split | rfl | refine Keeps.build ?_ id id rfl rfl rfl)

theorem execFaultReaction_keeps (s : State) : ∃ t, execFaultReaction s = .next t ∧ Keeps s t :=
  ⟨_, rfl, State.live_keeps (Keeps.refl s) _ fun hk => State.each_keepsAll (State.upFlt_keeps hk _ id) _ _ fun r _ ht => State.react_keeps ht r⟩

theorem execCofferWrite_keeps (s : State) : ∃ t, execCofferWrite s = .next t ∧ Keeps s t := by
  unfold execCofferWrite
  refine ⟨_, rfl, ?_⟩
  have hk := Keeps.refl s
  try dsimp only
  repeat' (first | with_reducible assumption | with_reducible exact id | (intro hg; show Flt.grave _ = true; simpa using hg) | intro _ | with_reducible apply State.upFlt_keeps | with_reducible apply State.live_keeps | with_reducible apply State.writeRecord_keeps | with_reducible apply State.reportLost_keeps | split | rfl | refine Keeps.build ?_ id id rfl rfl rfl)

theorem execCofferPersist_keeps (s : State) : ∃ t, execCofferPersist s = .next t ∧ Keeps s t := by
  unfold execCofferPersist
  refine ⟨_, rfl, ?_⟩
  have hk := Keeps.refl s
  try dsimp only
  repeat' (first | with_reducible assumption | with_reducible exact id | intro _ | with_reducible apply State.live_keeps | with_reducible apply State.persistAll_keeps | with_reducible apply State.persistEnd_keeps | split | rfl)

theorem execFltAck_keeps (v : Word) (s : State) : ∃ t, execFltAck v s = .next t ∧ Keeps s t := by
  unfold execFltAck
  refine ⟨_, rfl, ?_⟩
  have hk := Keeps.refl s
  try dsimp only
  repeat' (first | with_reducible assumption | with_reducible exact id | (intro hg; show Flt.grave _ = true; simpa using hg) | intro _ | with_reducible apply State.upFlt_keeps | with_reducible apply State.live_keeps | split | rfl)

theorem execFltReadmit_keeps (v : Word) (s : State) : ∃ t, execFltReadmit v s = .next t ∧ Keeps s t := by
  unfold execFltReadmit
  refine ⟨_, rfl, ?_⟩
  have hk := Keeps.refl s
  try dsimp only
  repeat' (first | with_reducible assumption | with_reducible exact id | intro _ | with_reducible apply State.live_keeps | with_reducible apply State.readmit_keeps | split | rfl)

theorem execAliveToggle_keeps (busAccepted slotWritten coreRan : Bool) (s : State) : ∃ t, execAliveToggle busAccepted slotWritten coreRan s = .next t ∧ Keeps s t := by
  unfold execAliveToggle
  refine ⟨_, rfl, ?_⟩
  have hk := Keeps.refl s
  try dsimp only
  repeat' (first | with_reducible assumption | with_reducible exact id | (intro hg; show Flt.grave _ = true; simpa using hg) | intro _ | with_reducible apply State.upFlt_keeps | with_reducible apply State.live_keeps | split | rfl | refine Keeps.build ?_ id id rfl rfl rfl)

theorem execFltInject_keeps (v : Word) (addr : Word) (s : State) : ∃ t, execFltInject v addr s = .next t ∧ Keeps s t := by
  unfold execFltInject
  refine ⟨_, rfl, ?_⟩
  have hk := Keeps.refl s
  try dsimp only
  repeat' (first | with_reducible assumption | with_reducible exact id | (intro hg; show Flt.grave _ = true; simpa using hg) | intro _ | with_reducible apply State.upFlt_keeps | with_reducible apply State.live_keeps | with_reducible apply State.inject_keeps | split | rfl | refine Keeps.build ?_ id id rfl rfl rfl)

theorem execForceLoad_keeps (n : Ch) (s : State) : ∃ t, execForceLoad n s = .next t ∧ Keeps s t := by
  unfold execForceLoad
  refine ⟨_, rfl, ?_⟩
  have hk := Keeps.refl s
  try dsimp only
  repeat' (first | with_reducible assumption | with_reducible exact id | intro _ | with_reducible apply State.chWrite_keeps | with_reducible apply State.sample_keeps | with_reducible apply State.forceLoad_keeps | split | rfl)

theorem execForceModeWrite_keeps (n : Ch) (m : ForceMode) (s : State) : ∃ t, execForceModeWrite n m s = .next t ∧ Keeps s t := by
  unfold execForceModeWrite
  refine ⟨_, rfl, ?_⟩
  have hk := Keeps.refl s
  try dsimp only
  repeat' (first | with_reducible assumption | with_reducible exact id | intro _ | with_reducible apply State.chWrite_keeps | with_reducible apply State.sample_keeps | with_reducible apply State.modeLand_keeps | split | rfl)

theorem execForceClassWrite_keeps (n : Ch) (k : UpdateClass) (s : State) : ∃ t, execForceClassWrite n k s = .next t ∧ Keeps s t := by
  unfold execForceClassWrite
  refine ⟨_, rfl, ?_⟩
  have hk := Keeps.refl s
  try dsimp only
  repeat' (first | with_reducible assumption | with_reducible exact id | intro _ | with_reducible apply State.chSet_keeps | split | rfl | refine Keeps.build ?_ id id rfl rfl rfl)

theorem execForceClose_keeps (n : Ch) (s : State) : ∃ t, execForceClose n s = .next t ∧ Keeps s t := by
  unfold execForceClose
  refine ⟨_, rfl, ?_⟩
  have hk := Keeps.refl s
  try dsimp only
  repeat' (first | with_reducible assumption | with_reducible exact id | intro _ | with_reducible apply State.chWrite_keeps | with_reducible apply State.sample_keeps | with_reducible apply State.forceClose_keeps | split | rfl)

theorem execSwitchClose_keeps (n : Ch) (raw : Vector (BitVec 24) 8) (s : State) : ∃ t, execSwitchClose n raw s = .next t ∧ Keeps s t := by
  unfold execSwitchClose
  refine ⟨_, rfl, ?_⟩
  have hk := Keeps.refl s
  try dsimp only
  repeat' (first | with_reducible assumption | with_reducible exact id | intro _ | with_reducible apply State.upCh_keeps | with_reducible apply State.live_keeps | with_reducible apply State.latchDac_keeps | with_reducible apply State.refresh_keeps | split | rfl | refine Keeps.build ?_ id id rfl rfl rfl)

theorem execForceOpen_keeps (n : Ch) (s : State) : ∃ t, execForceOpen n s = .next t ∧ Keeps s t := by
  unfold execForceOpen
  refine ⟨_, rfl, ?_⟩
  have hk := Keeps.refl s
  try dsimp only
  repeat' (first | with_reducible assumption | with_reducible exact id | intro _ | with_reducible apply State.chWrite_keeps | with_reducible apply State.sample_keeps | with_reducible apply State.forceOpen_keeps | split | rfl)

theorem execForceRest_keeps (n : Ch) (s : State) : ∃ t, execForceRest n s = .next t ∧ Keeps s t := by
  unfold execForceRest
  refine ⟨_, rfl, ?_⟩
  have hk := Keeps.refl s
  try dsimp only
  repeat' (first | with_reducible assumption | with_reducible exact id | intro _ | with_reducible apply State.chWrite_keeps | with_reducible apply State.sample_keeps | with_reducible apply State.forceRest_keeps | split | rfl)

theorem execRestHoldReached_keeps (n : Ch) (s : State) : ∃ t, execRestHoldReached n s = .next t ∧ Keeps s t := by
  unfold execRestHoldReached
  refine ⟨_, rfl, ?_⟩
  have hk := Keeps.refl s
  try dsimp only
  repeat' (first | with_reducible assumption | with_reducible exact id | intro _ | with_reducible apply State.upCh_keeps | with_reducible apply State.live_keeps | with_reducible apply State.refresh_keeps | with_reducible apply State.bootDone_keeps | split | rfl | refine Keeps.build ?_ id id rfl rfl rfl)

theorem execGraveOpenTimeout_keeps (n : Ch) (s : State) : ∃ t, execGraveOpenTimeout n s = .next t ∧ Keeps s t := by
  unfold execGraveOpenTimeout
  refine ⟨_, rfl, ?_⟩
  have hk := Keeps.refl s
  try dsimp only
  repeat' (first | with_reducible assumption | with_reducible exact id | intro _ | with_reducible apply State.live_keeps | with_reducible apply State.openSwitch_keeps | split | rfl)

theorem execStreamSample_keeps (n : Ch) (s : State) : ∃ t, execStreamSample n s = .next t ∧ Keeps s t := by
  unfold execStreamSample
  refine ⟨_, rfl, ?_⟩
  have hk := Keeps.refl s
  try dsimp only
  repeat' (first | with_reducible assumption | with_reducible exact id | intro _ | with_reducible apply State.upCh_keeps | with_reducible apply State.live_keeps | split | rfl)

theorem execStreamQueueAppend_keeps (n : Ch) (v : Word) (s : State) : ∃ t, execStreamQueueAppend n v s = .next t ∧ Keeps s t := by
  unfold execStreamQueueAppend
  refine ⟨_, rfl, ?_⟩
  have hk := Keeps.refl s
  try dsimp only
  repeat' (first | with_reducible assumption | with_reducible exact id | intro _ | with_reducible apply State.hostAct_keeps | with_reducible apply State.streamAppend_keeps | split | rfl)

theorem execStreamFlush_keeps (n : Ch) (s : State) : ∃ t, execStreamFlush n s = .next t ∧ Keeps s t := by
  unfold execStreamFlush
  refine ⟨_, rfl, ?_⟩
  have hk := Keeps.refl s
  try dsimp only
  repeat' (first | with_reducible assumption | with_reducible exact id | intro _ | with_reducible apply State.upCh_keeps | with_reducible apply State.chWrite_keeps | with_reducible apply State.sample_keeps | split | rfl | refine Keeps.build ?_ id id rfl rfl rfl)

theorem execOutTrippedClear_keeps (n : Ch) (s : State) : ∃ t, execOutTrippedClear n s = .next t ∧ Keeps s t := by
  unfold execOutTrippedClear
  refine ⟨_, rfl, ?_⟩
  have hk := Keeps.refl s
  try dsimp only
  repeat' (first | with_reducible assumption | with_reducible exact id | intro _ | with_reducible apply State.upCh_keeps | with_reducible apply State.chWrite_keeps | split | rfl)

theorem execStrandStart_keeps (n : Ch) (direct : Bool) (strand : BitVec 10) (s : State) : ∃ t, execStrandStart n direct strand s = .next t ∧ Keeps s t := by
  unfold execStrandStart
  refine ⟨_, rfl, ?_⟩
  have hk := Keeps.refl s
  try dsimp only
  repeat' (first | with_reducible assumption | with_reducible exact id | intro _ | with_reducible apply State.noteCh_keeps | with_reducible apply State.when_keeps | with_reducible apply State.pageWrite_keeps | with_reducible apply State.sample_keeps | with_reducible apply State.strandStart_keeps | split | rfl)

theorem execStrandStop_keeps (n : Ch) (s : State) : ∃ t, execStrandStop n s = .next t ∧ Keeps s t := by
  unfold execStrandStop
  refine ⟨_, rfl, ?_⟩
  have hk := Keeps.refl s
  try dsimp only
  repeat' (first | with_reducible assumption | with_reducible exact id | intro _ | with_reducible apply State.chWrite_keeps | with_reducible apply State.sample_keeps | with_reducible apply State.strandStop_keeps | split | rfl)

theorem execStrandAbort_keeps (n : Ch) (s : State) : ∃ t, execStrandAbort n s = .next t ∧ Keeps s t := by
  unfold execStrandAbort
  refine ⟨_, rfl, ?_⟩
  have hk := Keeps.refl s
  try dsimp only
  repeat' (first | with_reducible assumption | with_reducible exact id | intro _ | with_reducible apply State.chWrite_keeps | with_reducible apply State.sample_keeps | with_reducible apply State.strandAbort_keeps | split | rfl)

theorem execStrandEndAtDwell_keeps (n : Ch) (s : State) : ∃ t, execStrandEndAtDwell n s = .next t ∧ Keeps s t := by
  unfold execStrandEndAtDwell
  refine ⟨_, rfl, ?_⟩
  have hk := Keeps.refl s
  try dsimp only
  repeat' (first | with_reducible assumption | with_reducible exact id | intro _ | with_reducible apply State.live_keeps | with_reducible apply State.refresh_keeps | with_reducible apply State.endBy_keeps | split | rfl)

theorem execRunAheadSquash_keeps (n : Ch) (s : State) : ∃ t, execRunAheadSquash n s = .next t ∧ Keeps s t := by
  refine ⟨_, rfl, State.live_keeps (Keeps.refl s) _ fun hk => ?_⟩
  have hw := State.when_keeps hk (((s.ch n).strand.rcd.map (·.fast)).getD false) (fun s => s.writeRecord n) fun hk => State.writeRecord_keeps hk n
  generalize s.when _ _ = w at hw ⊢
  dsimp only
  split
  · exact State.refresh_keeps (State.endBy_keeps hw _ _ _ _ _) n
  · split
    · exact State.refresh_keeps (State.upCh_keeps hw _ _) n
    · exact hw

theorem execBeadCommit_keeps (n : Ch) (s : State) : ∃ t, execBeadCommit n s = .next t ∧ Keeps s t := by
  refine ⟨_, rfl, State.live_keeps (Keeps.refl s) _ fun hk => ?_⟩
  split
  · dsimp only
    split
    · exact State.commitNext_keeps hk n
    · exact State.each_keepsAll (hk.build id id rfl rfl rfl) _ _ fun m t ht => State.commitNext_keeps ht m
  · exact hk

theorem execPulseEnd_keeps (n : Ch) (s : State) : ∃ t, execPulseEnd n s = .next t ∧ Keeps s t := by
  unfold execPulseEnd
  refine ⟨_, rfl, ?_⟩
  have hk := Keeps.refl s
  try dsimp only
  repeat' (first | with_reducible assumption | with_reducible exact id | intro _ | with_reducible apply State.live_keeps | with_reducible apply State.pulseOver_keeps | split | rfl | refine Keeps.build ?_ id id rfl rfl rfl)

theorem execPulsePassStart_keeps (n : Ch) (s : State) : ∃ t, execPulsePassStart n s = .next t ∧ Keeps s t := by
  unfold execPulsePassStart
  refine ⟨_, rfl, ?_⟩
  have hk := Keeps.refl s
  try dsimp only
  repeat' (first | with_reducible assumption | with_reducible exact id | intro _ | with_reducible apply State.upCh_keeps | with_reducible apply State.live_keeps | with_reducible apply State.startPass_keeps | split | rfl | refine Keeps.build ?_ id id rfl rfl rfl)

theorem execMarkPulseEnd_keeps (n : Ch) (s : State) : ∃ t, execMarkPulseEnd n s = .next t ∧ Keeps s t := by
  unfold execMarkPulseEnd
  refine ⟨_, rfl, ?_⟩
  have hk := Keeps.refl s
  try dsimp only
  repeat' (first | with_reducible assumption | with_reducible exact id | intro _ | with_reducible apply State.live_keeps | split | rfl | refine Keeps.build ?_ id id rfl rfl rfl)

theorem execLarderRdWrite_keeps (n : Ch) (v : Word) (s : State) : ∃ t, execLarderRdWrite n v s = .next t ∧ Keeps s t := by
  unfold execLarderRdWrite
  refine ⟨_, rfl, ?_⟩
  have hk := Keeps.refl s
  try dsimp only
  repeat' (first | with_reducible assumption | with_reducible exact id | intro _ | with_reducible apply State.upCh_keeps | with_reducible apply State.chWrite_keeps | split | rfl)

theorem execLarderClear_keeps (n : Ch) (s : State) : ∃ t, execLarderClear n s = .next t ∧ Keeps s t := by
  unfold execLarderClear
  refine ⟨_, rfl, ?_⟩
  have hk := Keeps.refl s
  try dsimp only
  repeat' (first | with_reducible assumption | with_reducible exact id | intro _ | with_reducible apply State.chWrite_keeps | with_reducible apply State.sample_keeps | with_reducible apply State.larderClear_keeps | split | rfl)

theorem execSyncStart_keeps (set : BitVec 8) (s : State) : ∃ t, execSyncStart set s = .next t ∧ Keeps s t := by
  unfold execSyncStart
  refine ⟨_, rfl, ?_⟩
  have hk := Keeps.refl s
  try dsimp only
  repeat' (first | with_reducible assumption | with_reducible exact id | intro _ | with_reducible apply State.hostAct_keeps | with_reducible apply State.syncAct_keeps | split | rfl)

theorem execSyncFire_keeps (set : BitVec 8) (s : State) : ∃ t, execSyncFire set s = .next t ∧ Keeps s t := by
  unfold execSyncFire
  refine ⟨_, rfl, ?_⟩
  have hk := Keeps.refl s
  try dsimp only
  repeat' (first | with_reducible assumption | with_reducible exact id | intro _ | with_reducible apply State.hostAct_keeps | with_reducible apply State.syncAct_keeps | split | rfl)

theorem execSyncAbort_keeps (set : BitVec 8) (s : State) : ∃ t, execSyncAbort set s = .next t ∧ Keeps s t := by
  unfold execSyncAbort
  refine ⟨_, rfl, ?_⟩
  have hk := Keeps.refl s
  try dsimp only
  repeat' (first | with_reducible assumption | with_reducible exact id | intro _ | with_reducible apply State.hostAct_keeps | with_reducible apply State.syncAct_keeps | split | rfl)

theorem execTrigInEdge_keeps (x : Fin 4) (cyc : Nat) (s : State) : ∃ t, execTrigInEdge x cyc s = .next t ∧ Keeps s t := by
  refine ⟨_, rfl, State.live_keeps (Keeps.refl s) _ fun hk => ?_⟩
  generalize allSets = l
  exact State.each_keepsAll hk _ _ fun t u hu => State.trigSet_keeps hu x cyc t

theorem execMeasRunWrite_keeps (n : Ch) (m : RunMode) (s : State) : ∃ t, execMeasRunWrite n m s = .next t ∧ Keeps s t := by
  unfold execMeasRunWrite
  refine ⟨_, rfl, ?_⟩
  have hk := Keeps.refl s
  try dsimp only
  repeat' (first | with_reducible assumption | with_reducible exact id | intro _ | with_reducible apply State.upCh_keeps | with_reducible apply State.chWrite_keeps | with_reducible apply State.sample_keeps | with_reducible apply State.runAct_keeps | split | rfl | refine Keeps.build ?_ id id rfl rfl rfl)

theorem execMeasStart_keeps (n : Ch) (s : State) : ∃ t, execMeasStart n s = .next t ∧ Keeps s t := by
  unfold execMeasStart
  refine ⟨_, rfl, ?_⟩
  have hk := Keeps.refl s
  try dsimp only
  repeat' (first | with_reducible assumption | with_reducible exact id | intro _ | with_reducible apply State.chWrite_keeps | with_reducible apply State.sample_keeps | with_reducible apply State.measStart_keeps | split | rfl)

theorem execMeasCfgWrite_keeps (n : Ch) (v : Word) (s : State) : ∃ t, execMeasCfgWrite n v s = .next t ∧ Keeps s t := by
  unfold execMeasCfgWrite
  refine ⟨_, rfl, ?_⟩
  have hk := Keeps.refl s
  try dsimp only
  repeat' (first | with_reducible assumption | with_reducible exact id | intro _ | with_reducible apply State.chWrite_keeps | with_reducible apply State.sample_keeps | with_reducible apply State.measCfgLand_keeps | split | rfl)

theorem execSequenceEntryStart_keeps (n : Ch) (s : State) : ∃ t, execSequenceEntryStart n s = .next t ∧ Keeps s t := by
  unfold execSequenceEntryStart
  refine ⟨_, rfl, ?_⟩
  have hk := Keeps.refl s
  try dsimp only
  repeat' (first | with_reducible assumption | with_reducible exact id | intro _ | with_reducible apply State.upCh_keeps | with_reducible apply State.when_keeps | with_reducible apply State.live_keeps | with_reducible apply State.startPass_keeps | with_reducible apply State.calDrive_keeps | split | rfl)

theorem execInputSettlingEnd_keeps (n : Ch) (s : State) : ∃ t, execInputSettlingEnd n s = .next t ∧ Keeps s t := by
  unfold execInputSettlingEnd
  refine ⟨_, rfl, ?_⟩
  have hk := Keeps.refl s
  try dsimp only
  repeat' (first | with_reducible assumption | with_reducible exact id | intro _ | with_reducible apply State.upCh_keeps | with_reducible apply State.live_keeps | split | rfl)

theorem execConversionComplete_keeps (n : Ch) (m : Modulator) (x : ConvIn) (s : State) : ∃ t, execConversionComplete n m x s = .next t ∧ Keeps s t := by
  unfold execConversionComplete
  refine ⟨_, rfl, ?_⟩
  have hk := Keeps.refl s
  try dsimp only
  repeat' (first | with_reducible assumption | with_reducible exact id | intro _ | with_reducible apply State.live_keeps | with_reducible apply State.deliverSeq_keeps | with_reducible apply State.deliverInjected_keeps | with_reducible apply State.readTemp_keeps | split | rfl | refine Keeps.build ?_ id id rfl rfl rfl)

theorem execInjUrgent_keeps (n : Ch) (e : Entry) (s : State) : ∃ t, execInjUrgent n e s = .next t ∧ Keeps s t := by
  unfold execInjUrgent
  refine ⟨_, rfl, ?_⟩
  have hk := Keeps.refl s
  try dsimp only
  repeat' (first | with_reducible assumption | with_reducible exact id | intro _ | with_reducible apply State.upCh_keeps | with_reducible apply State.chWrite_keeps | with_reducible apply State.sample_keeps | split | rfl)

theorem execInjOpportunistic_keeps (n : Ch) (e : Entry) (s : State) : ∃ t, execInjOpportunistic n e s = .next t ∧ Keeps s t := by
  unfold execInjOpportunistic
  refine ⟨_, rfl, ?_⟩
  have hk := Keeps.refl s
  try dsimp only
  repeat' (first | with_reducible assumption | with_reducible exact id | intro _ | with_reducible apply State.chWrite_keeps | with_reducible apply State.sample_keeps | with_reducible apply State.injOpp_keeps | split | rfl)

theorem execCalZero_keeps (n : Ch) (target : BitVec 5) (s : State) : ∃ t, execCalZero n target s = .next t ∧ Keeps s t := by
  unfold execCalZero
  refine ⟨_, rfl, ?_⟩
  have hk := Keeps.refl s
  try dsimp only
  repeat' (first | with_reducible assumption | with_reducible exact id | intro _ | with_reducible apply State.upCh_keeps | with_reducible apply State.chWrite_keeps | with_reducible apply State.sample_keeps | with_reducible apply State.calZero_keeps | split | rfl | refine Keeps.build ?_ id id rfl rfl rfl)

theorem execCalFull_keeps (n : Ch) (s : State) : ∃ t, execCalFull n s = .next t ∧ Keeps s t := by
  unfold execCalFull
  refine ⟨_, rfl, ?_⟩
  have hk := Keeps.refl s
  try dsimp only
  repeat' (first | with_reducible assumption | with_reducible exact id | intro _ | with_reducible apply State.upCh_keeps | with_reducible apply State.chWrite_keeps | with_reducible apply State.sample_keeps | split | rfl)

theorem execCalCommit_keeps (n : Ch) (s : State) : ∃ t, execCalCommit n s = .next t ∧ Keeps s t := by
  unfold execCalCommit
  refine ⟨_, rfl, ?_⟩
  have hk := Keeps.refl s
  try dsimp only
  repeat' (first | with_reducible assumption | with_reducible exact id | intro _ | with_reducible apply State.latchDac_keeps | with_reducible apply State.chWrite_keeps | with_reducible apply State.sample_keeps | with_reducible apply State.calCommit_keeps | split | rfl)

theorem execCalDiscard_keeps (n : Ch) (s : State) : ∃ t, execCalDiscard n s = .next t ∧ Keeps s t := by
  unfold execCalDiscard
  refine ⟨_, rfl, ?_⟩
  have hk := Keeps.refl s
  try dsimp only
  repeat' (first | with_reducible assumption | with_reducible exact id | intro _ | with_reducible apply State.upCh_keeps | with_reducible apply State.latchDac_keeps | with_reducible apply State.chWrite_keeps | with_reducible apply State.sample_keeps | split | rfl)

theorem execCalConversionComplete_keeps (n : Ch) (x : ConvIn) (s : State) : ∃ t, execCalConversionComplete n x s = .next t ∧ Keeps s t := by
  unfold execCalConversionComplete
  refine ⟨_, rfl, ?_⟩
  have hk := Keeps.refl s
  try dsimp only
  repeat' (first | with_reducible assumption | with_reducible exact id | intro _ | with_reducible apply State.upCh_keeps | with_reducible apply State.live_keeps | with_reducible apply State.latchDac_keeps | with_reducible apply State.calDrive_keeps | split | rfl | refine Keeps.build ?_ id id rfl rfl rfl)

theorem execDemodWindowEnd_keeps (n : Ch) (s : State) : ∃ t, execDemodWindowEnd n s = .next t ∧ Keeps s t := by
  unfold execDemodWindowEnd
  refine ⟨_, rfl, ?_⟩
  have hk := Keeps.refl s
  try dsimp only
  repeat' (first | with_reducible assumption | with_reducible exact id | intro _ | with_reducible apply State.upCh_keeps | with_reducible apply State.live_keeps | split | rfl | refine Keeps.build ?_ id id rfl rfl rfl)

theorem execSinePhaseWrite_keeps (n : Ch) (v : Word) (s : State) : ∃ t, execSinePhaseWrite n v s = .next t ∧ Keeps s t := by
  unfold execSinePhaseWrite
  refine ⟨_, rfl, ?_⟩
  have hk := Keeps.refl s
  try dsimp only
  repeat' (first | with_reducible assumption | with_reducible exact id | intro _ | with_reducible apply State.upCh_keeps | with_reducible apply State.chWrite_keeps | with_reducible apply State.sample_keeps | split | rfl | refine Keeps.build ?_ id id rfl rfl rfl)

theorem execOverlapEngage_keeps (n : Ch) (s : State) : ∃ t, execOverlapEngage n s = .next t ∧ Keeps s t := by
  unfold execOverlapEngage
  refine ⟨_, rfl, ?_⟩
  have hk := Keeps.refl s
  try dsimp only
  repeat' (first | with_reducible assumption | with_reducible exact id | intro _ | with_reducible apply State.upCh_keeps | with_reducible apply State.live_keeps | with_reducible apply State.refresh_keeps | split | rfl | refine Keeps.build ?_ id id rfl rfl rfl)

theorem execHandoverStart_keeps (n : Ch) (s : State) : ∃ t, execHandoverStart n s = .next t ∧ Keeps s t := by
  unfold execHandoverStart
  refine ⟨_, rfl, ?_⟩
  have hk := Keeps.refl s
  try dsimp only
  repeat' (first | with_reducible assumption | with_reducible exact id | intro _ | with_reducible apply State.upCh_keeps | with_reducible apply State.live_keeps | with_reducible apply State.refresh_keeps | split | rfl)

theorem execOverlapSquash_keeps (n : Ch) (s : State) : ∃ t, execOverlapSquash n s = .next t ∧ Keeps s t := by
  unfold execOverlapSquash
  refine ⟨_, rfl, ?_⟩
  have hk := Keeps.refl s
  try dsimp only
  repeat' (first | with_reducible assumption | with_reducible exact id | intro _ | with_reducible apply State.upCh_keeps | with_reducible apply State.live_keeps | with_reducible apply State.refresh_keeps | split | rfl)

theorem execHoldOffEnd_keeps (n : Ch) (s : State) : ∃ t, execHoldOffEnd n s = .next t ∧ Keeps s t := by
  unfold execHoldOffEnd
  refine ⟨_, rfl, ?_⟩
  have hk := Keeps.refl s
  try dsimp only
  repeat' (first | with_reducible assumption | with_reducible exact id | intro _ | with_reducible apply State.upCh_keeps | with_reducible apply State.live_keeps | split | rfl | refine Keeps.build ?_ id id rfl rfl rfl)

theorem execVRangeSwitch_keeps (n : Ch) (s : State) : ∃ t, execVRangeSwitch n s = .next t ∧ Keeps s t := by
  unfold execVRangeSwitch
  refine ⟨_, rfl, ?_⟩
  have hk := Keeps.refl s
  try dsimp only
  repeat' (first | with_reducible assumption | with_reducible exact id | intro _ | with_reducible apply State.upCh_keeps | with_reducible apply State.live_keeps | with_reducible apply State.latchDac_keeps | with_reducible apply State.refresh_keeps | with_reducible apply State.restartCheck_keeps | split | rfl | refine Keeps.build ?_ id id rfl rfl rfl)

theorem execBoosterRangeChange_keeps (n : Ch) (s : State) : ∃ t, execBoosterRangeChange n s = .next t ∧ Keeps s t := by
  unfold execBoosterRangeChange
  refine ⟨_, rfl, ?_⟩
  have hk := Keeps.refl s
  try dsimp only
  repeat' (first | with_reducible assumption | with_reducible exact id | intro _ | with_reducible apply State.upCh_keeps | with_reducible apply State.live_keeps | with_reducible apply State.refresh_keeps | split | rfl)

theorem execBoosterGainSwitch_keeps (n : Ch) (s : State) : ∃ t, execBoosterGainSwitch n s = .next t ∧ Keeps s t := by
  unfold execBoosterGainSwitch
  refine ⟨_, rfl, ?_⟩
  have hk := Keeps.refl s
  try dsimp only
  repeat' (first | with_reducible assumption | with_reducible exact id | intro _ | with_reducible apply State.upCh_keeps | with_reducible apply State.live_keeps | with_reducible apply State.refresh_keeps | split | rfl | refine Keeps.build ?_ id id rfl rfl rfl)

theorem execWaitingChangeStart_keeps (n : Ch) (s : State) : ∃ t, execWaitingChangeStart n s = .next t ∧ Keeps s t := by
  unfold execWaitingChangeStart
  refine ⟨_, rfl, ?_⟩
  have hk := Keeps.refl s
  try dsimp only
  repeat' (first | with_reducible assumption | with_reducible exact id | intro _ | with_reducible apply State.upCh_keeps | with_reducible apply State.live_keeps | with_reducible apply State.refresh_keeps | split | rfl)

theorem execRangeCtrlWrite_keeps (n : Ch) (v : Word) (s : State) : ∃ t, execRangeCtrlWrite n v s = .next t ∧ Keeps s t := by
  unfold execRangeCtrlWrite
  refine ⟨_, rfl, ?_⟩
  have hk := Keeps.refl s
  try dsimp only
  repeat' (first | with_reducible assumption | with_reducible exact id | intro _ | with_reducible apply State.upCh_keeps | with_reducible apply State.refresh_keeps | with_reducible apply State.chWrite_keeps | with_reducible apply State.sample_keeps | split | rfl | refine Keeps.build ?_ id id rfl rfl rfl)

theorem execRangeSetWrite_keeps (n : Ch) (v : Word) (s : State) : ∃ t, execRangeSetWrite n v s = .next t ∧ Keeps s t := by
  unfold execRangeSetWrite
  refine ⟨_, rfl, ?_⟩
  have hk := Keeps.refl s
  try dsimp only
  repeat' (first | with_reducible assumption | with_reducible exact id | intro _ | with_reducible apply State.chWrite_keeps | with_reducible apply State.sample_keeps | with_reducible apply State.rangeSetLand_keeps | split | rfl)

theorem execWindowCrossing_keeps (n : Ch) (w : WinId) (x : WinIn) (cyc : Nat) (s : State) : ∃ t, execWindowCrossing n w x cyc s = .next t ∧ Keeps s t := by
  unfold execWindowCrossing
  refine ⟨_, rfl, ?_⟩
  have hk := Keeps.refl s
  try dsimp only
  repeat' (first | with_reducible assumption | with_reducible exact id | intro _ | with_reducible apply State.live_keeps | with_reducible apply State.judge_keeps | split | rfl)

theorem execWindowSample_keeps (n : Ch) (w : WinId) (x : WinIn) (cyc : Nat) (s : State) : ∃ t, execWindowSample n w x cyc s = .next t ∧ Keeps s t := by
  unfold execWindowSample
  refine ⟨_, rfl, ?_⟩
  have hk := Keeps.refl s
  try dsimp only
  repeat' (first | with_reducible assumption | with_reducible exact id | intro _ | with_reducible apply State.live_keeps | with_reducible apply State.judge_keeps | with_reducible apply State.sleepSample_keeps | split | rfl)

theorem execWindowFirstSample_keeps (n : Ch) (w : WinId) (x : WinIn) (s : State) : ∃ t, execWindowFirstSample n w x s = .next t ∧ Keeps s t := by
  unfold execWindowFirstSample
  refine ⟨_, rfl, ?_⟩
  have hk := Keeps.refl s
  try dsimp only
  repeat' (first | with_reducible assumption | with_reducible exact id | intro _ | with_reducible apply State.upCh_keeps | with_reducible apply State.live_keeps | with_reducible apply State.judge_keeps | split | rfl | refine Keeps.build ?_ id id rfl rfl rfl)

theorem execWinCfgWrite_keeps (n : Ch) (w : WinId) (v : Word) (s : State) : ∃ t, execWinCfgWrite n w v s = .next t ∧ Keeps s t := by
  unfold execWinCfgWrite
  refine ⟨_, rfl, ?_⟩
  have hk := Keeps.refl s
  try dsimp only
  repeat' (first | with_reducible assumption | with_reducible exact id | intro _ | with_reducible apply State.chWrite_keeps | with_reducible apply State.sample_keeps | with_reducible apply State.winAct_keeps | with_reducible apply State.winCfgLand_keeps | split | rfl)

theorem execWinThrWrite_keeps (n : Ch) (w : WinId) (v : Word) (s : State) : ∃ t, execWinThrWrite n w v s = .next t ∧ Keeps s t := by
  unfold execWinThrWrite
  refine ⟨_, rfl, ?_⟩
  have hk := Keeps.refl s
  try dsimp only
  repeat' (first | with_reducible assumption | with_reducible exact id | intro _ | with_reducible apply State.upCh_keeps | with_reducible apply State.chWrite_keeps | with_reducible apply State.sample_keeps | split | rfl | refine Keeps.build ?_ id id rfl rfl rfl)

theorem execHostReadFrame_keeps (f : ReadFrame) (s : State) : ∃ t, execHostReadFrame f s = .next t ∧ Keeps s t := by
  unfold execHostReadFrame
  refine ⟨_, rfl, ?_⟩
  have hk := Keeps.refl s
  try dsimp only
  repeat' (first | with_reducible assumption | with_reducible exact id | intro _ | with_reducible apply State.live_keeps | with_reducible apply State.readFrame_keeps | split | rfl)

theorem execHostWriteFrame_keeps (f : WriteFrame) (s : State) : ∃ t, execHostWriteFrame f s = .next t ∧ Keeps s t := by
  unfold execHostWriteFrame
  refine ⟨_, rfl, ?_⟩
  have hk := Keeps.refl s
  try dsimp only
  repeat' (first | with_reducible assumption | with_reducible exact id | intro _ | with_reducible apply State.live_keeps | with_reducible apply State.writeFrame_keeps | split | rfl)

theorem execRegisterWrite_keeps (a : Addr) (v : Word) (s : State) : ∃ t, execRegisterWrite a v s = .next t ∧ Keeps s t := by
  unfold execRegisterWrite
  refine ⟨_, rfl, ?_⟩
  have hk := Keeps.refl s
  try dsimp only
  repeat' (first | with_reducible assumption | with_reducible exact id | intro _ | with_reducible apply State.live_keeps | with_reducible apply State.landWord_keeps | split | rfl)

theorem execReadClearCounter_keeps (a : Addr) (s : State) : ∃ t, execReadClearCounter a s = .next t ∧ Keeps s t := by
  unfold execReadClearCounter
  refine ⟨_, rfl, ?_⟩
  have hk := Keeps.refl s
  try dsimp only
  repeat' (first | with_reducible assumption | with_reducible exact id | intro _ | with_reducible apply State.live_keeps | with_reducible apply State.readSide_keeps | split | rfl)

theorem execGlbTimeLoRead_keeps (s : State) : ∃ t, execGlbTimeLoRead s = .next t ∧ Keeps s t := by
  unfold execGlbTimeLoRead
  refine ⟨_, rfl, ?_⟩
  have hk := Keeps.refl s
  try dsimp only
  repeat' (first | with_reducible assumption | with_reducible exact id | intro _ | with_reducible apply State.live_keeps | with_reducible apply State.latchTime_keeps | split | rfl)

theorem execResultLoRead_keeps (n : Ch) (s : State) : ∃ t, execResultLoRead n s = .next t ∧ Keeps s t := by
  unfold execResultLoRead
  refine ⟨_, rfl, ?_⟩
  have hk := Keeps.refl s
  try dsimp only
  repeat' (first | with_reducible assumption | with_reducible exact id | intro _ | with_reducible apply State.upCh_keeps | with_reducible apply State.live_keeps | split | rfl | refine Keeps.build ?_ id id rfl rfl rfl)

theorem execResultHiRead_keeps (n : Ch) (s : State) : ∃ t, execResultHiRead n s = .next t ∧ Keeps s t := by
  unfold execResultHiRead
  refine ⟨_, rfl, ?_⟩
  have hk := Keeps.refl s
  try dsimp only
  repeat' (first | with_reducible assumption | with_reducible exact id | intro _ | with_reducible apply State.upCh_keeps | with_reducible apply State.live_keeps | split | rfl | refine Keeps.build ?_ id id rfl rfl rfl)

theorem execDemodViRead_keeps (n : Ch) (s : State) : ∃ t, execDemodViRead n s = .next t ∧ Keeps s t := by
  unfold execDemodViRead
  refine ⟨_, rfl, ?_⟩
  have hk := Keeps.refl s
  try dsimp only
  repeat' (first | with_reducible assumption | with_reducible exact id | intro _ | with_reducible apply State.upCh_keeps | with_reducible apply State.live_keeps | split | rfl | refine Keeps.build ?_ id id rfl rfl rfl)

theorem execCofferW0Read_keeps (s : State) : ∃ t, execCofferW0Read s = .next t ∧ Keeps s t := by
  unfold execCofferW0Read
  refine ⟨_, rfl, ?_⟩
  have hk := Keeps.refl s
  try dsimp only
  repeat' (first | with_reducible assumption | with_reducible exact id | (intro hg; show Flt.grave _ = true; simpa using hg) | intro _ | with_reducible apply State.upFlt_keeps | with_reducible apply State.live_keeps | split | rfl)

theorem execStageDataWrite_keeps (v : Word) (s : State) : ∃ t, execStageDataWrite v s = .next t ∧ Keeps s t := by
  unfold execStageDataWrite
  refine ⟨_, rfl, ?_⟩
  have hk := Keeps.refl s
  try dsimp only
  repeat' (first | with_reducible assumption | with_reducible exact id | intro _ | with_reducible apply State.hostAct_keeps | with_reducible apply State.stageData_keeps | split | rfl)

theorem execStageClear_keeps (s : State) : ∃ t, execStageClear s = .next t ∧ Keeps s t := by
  unfold execStageClear
  refine ⟨_, rfl, ?_⟩
  have hk := Keeps.refl s
  try dsimp only
  repeat' (first | with_reducible assumption | with_reducible exact id | intro _ | with_reducible apply State.hostAct_keeps | with_reducible apply State.imgCtrl_keeps | split | rfl)

theorem execImageAbort_keeps (s : State) : ∃ t, execImageAbort s = .next t ∧ Keeps s t := by
  unfold execImageAbort
  refine ⟨_, rfl, ?_⟩
  have hk := Keeps.refl s
  try dsimp only
  repeat' (first | with_reducible assumption | with_reducible exact id | intro _ | with_reducible apply State.hostAct_keeps | with_reducible apply State.imgCtrl_keeps | split | rfl)

theorem execLoadHost_keeps (s : State) : ∃ t, execLoadHost s = .next t ∧ Keeps s t := by
  unfold execLoadHost
  refine ⟨_, rfl, ?_⟩
  have hk := Keeps.refl s
  try dsimp only
  repeat' (first | with_reducible assumption | with_reducible exact id | intro _ | with_reducible apply State.hostAct_keeps | with_reducible apply State.imgCtrl_keeps | split | rfl)

theorem execLoadSlotA_keeps (s : State) : ∃ t, execLoadSlotA s = .next t ∧ Keeps s t := by
  unfold execLoadSlotA
  refine ⟨_, rfl, ?_⟩
  have hk := Keeps.refl s
  try dsimp only
  repeat' (first | with_reducible assumption | with_reducible exact id | intro _ | with_reducible apply State.hostAct_keeps | with_reducible apply State.imgCtrl_keeps | split | rfl)

theorem execLoadSlotB_keeps (s : State) : ∃ t, execLoadSlotB s = .next t ∧ Keeps s t := by
  unfold execLoadSlotB
  refine ⟨_, rfl, ?_⟩
  have hk := Keeps.refl s
  try dsimp only
  repeat' (first | with_reducible assumption | with_reducible exact id | intro _ | with_reducible apply State.hostAct_keeps | with_reducible apply State.imgCtrl_keeps | split | rfl)

theorem execImageSwap_keeps (s : State) : ∃ t, execImageSwap s = .next t ∧ Keeps s t := by
  unfold execImageSwap
  refine ⟨_, rfl, ?_⟩
  have hk := Keeps.refl s
  try dsimp only
  repeat' (first | with_reducible assumption | with_reducible exact id | intro _ | with_reducible apply State.live_keeps | with_reducible apply State.swapNow_keeps | split | rfl | refine Keeps.build ?_ id id rfl rfl rfl)

theorem execRootTimeout_keeps (s : State) : ∃ t, execRootTimeout s = .next t ∧ Keeps s t := by
  unfold execRootTimeout
  refine ⟨_, rfl, ?_⟩
  have hk := Keeps.refl s
  try dsimp only
  repeat' (first | with_reducible assumption | with_reducible exact id | intro _ | with_reducible apply State.live_keeps | with_reducible apply State.becomeRoot_keeps | split | rfl)

theorem execPartnerDetected_keeps (p : Port) (s : State) : ∃ t, execPartnerDetected p s = .next t ∧ Keeps s t := by
  unfold execPartnerDetected
  refine ⟨_, rfl, ?_⟩
  have hk := Keeps.refl s
  try dsimp only
  repeat' (first | with_reducible assumption | with_reducible exact id | intro _ | with_reducible apply State.live_keeps | with_reducible apply State.portTo_keeps | split | rfl | refine Keeps.build ?_ id id rfl rfl rfl)

theorem execPortTrainingDone_keeps (p : Port) (s : State) : ∃ t, execPortTrainingDone p s = .next t ∧ Keeps s t := by
  unfold execPortTrainingDone
  refine ⟨_, rfl, ?_⟩
  have hk := Keeps.refl s
  try dsimp only
  repeat' (first | with_reducible assumption | with_reducible exact id | intro _ | with_reducible apply State.live_keeps | with_reducible apply State.portTo_keeps | split | rfl)

theorem execHopMeasureDone_keeps (p : Port) (lat : BitVec 16) (s : State) : ∃ t, execHopMeasureDone p lat s = .next t ∧ Keeps s t := by
  unfold execHopMeasureDone
  refine ⟨_, rfl, ?_⟩
  have hk := Keeps.refl s
  try dsimp only
  repeat' (first | with_reducible assumption | with_reducible exact id | intro _ | with_reducible apply State.live_keeps | with_reducible apply State.portUp_keeps | split | rfl)

theorem execPauseReceived_keeps (p : Port) (s : State) : ∃ t, execPauseReceived p s = .next t ∧ Keeps s t := by
  unfold execPauseReceived
  refine ⟨_, rfl, ?_⟩
  have hk := Keeps.refl s
  try dsimp only
  repeat' (first | with_reducible assumption | with_reducible exact id | intro _ | with_reducible apply State.live_keeps | with_reducible apply State.portTo_keeps | split | rfl)

theorem execLinkAlignmentLost_keeps (p : Port) (s : State) : ∃ t, execLinkAlignmentLost p s = .next t ∧ Keeps s t := by
  unfold execLinkAlignmentLost
  refine ⟨_, rfl, ?_⟩
  have hk := Keeps.refl s
  try dsimp only
  repeat' (first | with_reducible assumption | with_reducible exact id | intro _ | with_reducible apply State.when_keeps | with_reducible apply State.live_keeps | with_reducible apply State.portTo_keeps | with_reducible apply State.linkDown_keeps | split | rfl | refine Keeps.build ?_ id id rfl rfl rfl)

theorem execPauseTimeout_keeps (p : Port) (s : State) : ∃ t, execPauseTimeout p s = .next t ∧ Keeps s t := by
  unfold execPauseTimeout
  refine ⟨_, rfl, ?_⟩
  have hk := Keeps.refl s
  try dsimp only
  repeat' (first | with_reducible assumption | with_reducible exact id | intro _ | with_reducible apply State.live_keeps | with_reducible apply State.linkDown_keeps | split | rfl)

theorem execLinkCodeError_keeps (p : Port) (s : State) : ∃ t, execLinkCodeError p s = .next t ∧ Keeps s t := by
  unfold execLinkCodeError
  refine ⟨_, rfl, ?_⟩
  have hk := Keeps.refl s
  try dsimp only
  repeat' (first | with_reducible assumption | with_reducible exact id | intro _ | with_reducible apply State.live_keeps | with_reducible apply State.lineError_keeps | split | rfl)

theorem execPacketReceive_keeps (p : Port) (k : Packet) (crcOk : Bool) (s : State) : ∃ t, execPacketReceive p k crcOk s = .next t ∧ Keeps s t := by
  unfold execPacketReceive
  refine ⟨_, rfl, ?_⟩
  have hk := Keeps.refl s
  try dsimp only
  repeat' (first | with_reducible assumption | with_reducible exact id | intro _ | with_reducible apply State.upPort_keeps | with_reducible apply State.live_keeps | with_reducible apply State.linkDown_keeps | with_reducible apply State.lineError_keeps | with_reducible apply State.packet_keeps | split | rfl | refine Keeps.build ?_ id id rfl rfl rfl)

theorem execSummaryReceive_keeps (dev : BitVec 12) (attn grave : Bool) (s : State) : ∃ t, execSummaryReceive dev attn grave s = .next t ∧ Keeps s t := by
  unfold execSummaryReceive
  refine ⟨_, rfl, ?_⟩
  have hk := Keeps.refl s
  try dsimp only
  repeat' (first | with_reducible assumption | with_reducible exact id | intro _ | with_reducible apply State.live_keeps | with_reducible apply State.summary_keeps | split | rfl)

theorem execForwardedReadDone_keeps (words : List Word) (s : State) : ∃ t, execForwardedReadDone words s = .next t ∧ Keeps s t := by
  unfold execForwardedReadDone
  refine ⟨_, rfl, ?_⟩
  have hk := Keeps.refl s
  try dsimp only
  repeat' (first | with_reducible assumption | with_reducible exact id | intro _ | with_reducible apply State.live_keeps | with_reducible apply State.readAnswered_keeps | split | rfl)

theorem execForwardedReadTimeout_keeps (s : State) : ∃ t, execForwardedReadTimeout s = .next t ∧ Keeps s t := by
  unfold execForwardedReadTimeout
  refine ⟨_, rfl, ?_⟩
  have hk := Keeps.refl s
  try dsimp only
  repeat' (first | with_reducible assumption | with_reducible exact id | intro _ | with_reducible apply State.upLnk_keeps | with_reducible apply State.live_keeps | split | rfl | refine Keeps.build ?_ id id rfl rfl rfl)

theorem execLnkEnum_keeps (s : State) : ∃ t, execLnkEnum s = .next t ∧ Keeps s t := by
  unfold execLnkEnum
  refine ⟨_, rfl, ?_⟩
  have hk := Keeps.refl s
  try dsimp only
  repeat' (first | with_reducible assumption | with_reducible exact id | intro _ | with_reducible apply State.upLnk_keeps | with_reducible apply State.hostAct_keeps | split | rfl | refine Keeps.build ?_ id id rfl rfl rfl)

theorem execEnumerationDone_keeps (x : EnumIn) (s : State) : ∃ t, execEnumerationDone x s = .next t ∧ Keeps s t := by
  unfold execEnumerationDone
  refine ⟨_, rfl, ?_⟩
  have hk := Keeps.refl s
  try dsimp only
  repeat' (first | with_reducible assumption | with_reducible exact id | intro _ | with_reducible apply State.upLnk_keeps | with_reducible apply State.live_keeps | with_reducible apply State.refuseSelf_keeps | split | rfl)

theorem execEpochNow_keeps (s : State) : ∃ t, execEpochNow s = .next t ∧ Keeps s t := by
  unfold execEpochNow
  refine ⟨_, rfl, ?_⟩
  have hk := Keeps.refl s
  try dsimp only
  repeat' (first | with_reducible assumption | with_reducible exact id | intro _ | with_reducible apply State.upLnk_keeps | with_reducible apply State.hostAct_keeps | split | rfl | refine Keeps.build ?_ id id rfl rfl rfl)

theorem execEpochMarkerSend_keeps (s : State) : ∃ t, execEpochMarkerSend s = .next t ∧ Keeps s t := by
  unfold execEpochMarkerSend
  refine ⟨_, rfl, ?_⟩
  have hk := Keeps.refl s
  try dsimp only
  repeat' (first | with_reducible assumption | with_reducible exact id | intro _ | with_reducible apply State.live_keeps | with_reducible apply State.sendMarker_keeps | split | rfl)

theorem execEpochMarkerReceive_keeps (m : Marker) (s : State) : ∃ t, execEpochMarkerReceive m s = .next t ∧ Keeps s t := by
  unfold execEpochMarkerReceive
  refine ⟨_, rfl, ?_⟩
  have hk := Keeps.refl s
  try dsimp only
  repeat' (first | with_reducible assumption | with_reducible exact id | intro _ | with_reducible apply State.live_keeps | with_reducible apply State.takeMarker_keeps | split | rfl)

theorem execReadinessReportReceive_keeps (r : Readiness) (s : State) : ∃ t, execReadinessReportReceive r s = .next t ∧ Keeps s t := by
  unfold execReadinessReportReceive
  refine ⟨_, rfl, ?_⟩
  have hk := Keeps.refl s
  try dsimp only
  repeat' (first | with_reducible assumption | with_reducible exact id | intro _ | with_reducible apply State.live_keeps | with_reducible apply State.report_keeps | split | rfl)

theorem execCommitOrderReceive_keeps (set : BitVec 8) (boundary : Nat) (s : State) : ∃ t, execCommitOrderReceive set boundary s = .next t ∧ Keeps s t := by
  unfold execCommitOrderReceive
  refine ⟨_, rfl, ?_⟩
  have hk := Keeps.refl s
  try dsimp only
  repeat' (first | with_reducible assumption | with_reducible exact id | intro _ | with_reducible apply State.live_keeps | with_reducible apply State.order_keeps | split | rfl)

theorem execSyncRequestReceive_keeps (a : SyncAct) (set : BitVec 8) (s : State) : ∃ t, execSyncRequestReceive a set s = .next t ∧ Keeps s t := by
  unfold execSyncRequestReceive
  refine ⟨_, rfl, ?_⟩
  have hk := Keeps.refl s
  try dsimp only
  repeat' (first | with_reducible assumption | with_reducible exact id | intro _ | with_reducible apply State.live_keeps | with_reducible apply State.syncRequest_keeps | split | rfl)

theorem execAvddSag_keeps (s : State) : ∃ t, execAvddSag s = .next t ∧ Keeps s t := by
  unfold execAvddSag
  refine ⟨_, rfl, ?_⟩
  have hk := Keeps.refl s
  try dsimp only
  repeat' (first | with_reducible assumption | with_reducible exact id | intro _ | with_reducible apply State.allCells_keeps | split | rfl | refine Keeps.build ?_ id id rfl rfl rfl)

theorem execAonvddSag_keeps (s : State) : ∃ t, execAonvddSag s = .next t ∧ Keeps s t := by
  unfold execAonvddSag
  refine ⟨_, rfl, ?_⟩
  have hk := Keeps.refl s
  try dsimp only
  repeat' (first | with_reducible assumption | with_reducible exact id | intro _ | with_reducible apply State.aonFalls_keeps | split | rfl)

theorem execPllStop_keeps (s : State) : ∃ t, execPllStop s = .next t ∧ Keeps s t := by
  unfold execPllStop
  refine ⟨_, rfl, ?_⟩
  have hk := Keeps.refl s
  try dsimp only
  repeat' (first | with_reducible assumption | with_reducible exact id | intro _ | with_reducible apply State.live_keeps | with_reducible apply State.stopPlls_keeps | split | rfl)

theorem execBaySleep_keeps (b : Bay) (s : State) : ∃ t, execBaySleep b s = .next t ∧ Keeps s t := by
  unfold execBaySleep
  refine ⟨_, rfl, ?_⟩
  have hk := Keeps.refl s
  try dsimp only
  repeat' (first | with_reducible assumption | with_reducible exact id | intro _ | with_reducible apply State.live_keeps | with_reducible apply State.sleepBay_keeps | split | rfl)

theorem execBayAwake_keeps (b : Bay) (s : State) : ∃ t, execBayAwake b s = .next t ∧ Keeps s t := by
  unfold execBayAwake
  refine ⟨_, rfl, ?_⟩
  have hk := Keeps.refl s
  try dsimp only
  repeat' (first | with_reducible assumption | with_reducible exact id | intro _ | with_reducible apply State.live_keeps | with_reducible apply State.wakeBay_keeps | split | rfl)

theorem execKeeperHold_keeps (k : CellIx) (s : State) : ∃ t, execKeeperHold k s = .next t ∧ Keeps s t := by
  unfold execKeeperHold
  refine ⟨_, rfl, ?_⟩
  have hk := Keeps.refl s
  try dsimp only
  repeat' (first | with_reducible assumption | with_reducible exact id | intro _ | with_reducible apply State.live_keeps | with_reducible apply State.keeperHolds_keeps | split | rfl)

theorem execKeeperOpen_keeps (k : CellIx) (s : State) : ∃ t, execKeeperOpen k s = .next t ∧ Keeps s t := by
  unfold execKeeperOpen
  refine ⟨_, rfl, ?_⟩
  have hk := Keeps.refl s
  try dsimp only
  repeat' (first | with_reducible assumption | with_reducible exact id | intro _ | with_reducible apply State.upCell_keeps | with_reducible apply State.keeperOpened_keeps | split | rfl)

theorem execRailsInSpan_keeps (vpos vneg : BitVec 16) (s : State) : ∃ t, execRailsInSpan vpos vneg s = .next t ∧ Keeps s t := by
  unfold execRailsInSpan
  refine ⟨_, rfl, ?_⟩
  have hk := Keeps.refl s
  try dsimp only
  repeat' (first | with_reducible assumption | with_reducible exact id | intro _ | with_reducible apply State.live_keeps | with_reducible apply State.railsMeasured_keeps | split | rfl)

theorem execGovernorUpdate_keeps (s : State) : ∃ t, execGovernorUpdate s = .next t ∧ Keeps s t := by
  unfold execGovernorUpdate
  refine ⟨_, rfl, ?_⟩
  have hk := Keeps.refl s
  try dsimp only
  repeat' (first | with_reducible assumption | with_reducible exact id | intro _ | with_reducible apply State.live_keeps | with_reducible apply State.govern_keeps | split | rfl)

theorem execGovFail_keeps (s : State) : ∃ t, execGovFail s = .next t ∧ Keeps s t := by
  unfold execGovFail
  refine ⟨_, rfl, ?_⟩
  have hk := Keeps.refl s
  try dsimp only
  repeat' (first | with_reducible assumption | with_reducible exact id | intro _ | with_reducible apply State.upPwr_keeps | with_reducible apply State.post_keeps | with_reducible apply State.live_keeps | split | rfl | refine Keeps.build ?_ id id rfl rfl rfl)

/-- The commands that work on the logic while it runs; the others are the resets, the release of one, the end of a time step and the
instructions of the test access port. -/
def isLogic : Instr → Bool
  | .alwaysOnPowerOnReset | .powerOnReset | .resetNAssert | .resetRelease _ | .timeStepEnd | .extest | .samplePreload | .idcode | .clamp | .highz | .chipReset | .factoryTest _ | .regAccess _ _ _ | .bypass | .testenLow => false
  | _ => true

theorem exec_keeps (c : Instr) (s : State) (h : isLogic c = true) : ∃ t, exec c s = .next t ∧ Keeps s t := by
  cases c
  case alwaysOnPowerOnReset => exact absurd h Bool.false_ne_true
  case powerOnReset => exact absurd h Bool.false_ne_true
  case resetNAssert => exact absurd h Bool.false_ne_true
  case resetRelease => exact absurd h Bool.false_ne_true
  case avddSag => exact execAvddSag_keeps s
  case aonvddSag => exact execAonvddSag_keeps s
  case refDetectionEnd edges => exact execRefDetectionEnd_keeps edges s
  case pllLockAcquired p => exact execPllLockAcquired_keeps p s
  case pllLockLost p => exact execPllLockLost_keeps p s
  case lockHoldEnd p => exact execLockHoldEnd_keeps p s
  case relockRetry p => exact execRelockRetry_keeps p s
  case refLost => exact execRefLost_keeps s
  case refReturn => exact execRefReturn_keeps s
  case pllCommit p => exact execPllCommit_keeps p s
  case pllBandMeasure p khz => exact execPllBandMeasure_keeps p khz s
  case clkoutWrite x v => exact execClkoutWrite_keeps x v s
  case xtalQualified => exact execXtalQualified_keeps s
  case xtalLost => exact execXtalLost_keeps s
  case pllStop => exact execPllStop_keeps s
  case hostReadFrame f => exact execHostReadFrame_keeps f s
  case hostWriteFrame f => exact execHostWriteFrame_keeps f s
  case registerWrite a v => exact execRegisterWrite_keeps a v s
  case readClearCounter a => exact execReadClearCounter_keeps a s
  case glbTimeLoRead => exact execGlbTimeLoRead_keeps s
  case resultLoRead n => exact execResultLoRead_keeps n s
  case resultHiRead n => exact execResultHiRead_keeps n s
  case demodViRead n => exact execDemodViRead_keeps n s
  case cofferW0Read => exact execCofferW0Read_keeps s
  case stageDataWrite v => exact execStageDataWrite_keeps v s
  case stageClear => exact execStageClear_keeps s
  case imageAbort => exact execImageAbort_keeps s
  case loadHost => exact execLoadHost_keeps s
  case loadSlotA => exact execLoadSlotA_keeps s
  case loadSlotB => exact execLoadSlotB_keeps s
  case imageSwap => exact execImageSwap_keeps s
  case loopUpdate n x => exact execLoopUpdate_keeps n x s
  case slewLimiterStep n => exact execSlewLimiterStep_keeps n s
  case forceLoad n => exact execForceLoad_keeps n s
  case forceModeWrite n m => exact execForceModeWrite_keeps n m s
  case forceClassWrite n c => exact execForceClassWrite_keeps n c s
  case forceClose n => exact execForceClose_keeps n s
  case switchClose n raw => exact execSwitchClose_keeps n raw s
  case forceOpen n => exact execForceOpen_keeps n s
  case forceRest n => exact execForceRest_keeps n s
  case restHoldReached n => exact execRestHoldReached_keeps n s
  case graveOpenTimeout n => exact execGraveOpenTimeout_keeps n s
  case streamSample n => exact execStreamSample_keeps n s
  case streamQueueAppend n v => exact execStreamQueueAppend_keeps n v s
  case streamFlush n => exact execStreamFlush_keeps n s
  case outTrippedClear n => exact execOutTrippedClear_keeps n s
  case loopClose n => exact execLoopClose_keeps n s
  case loopOpen n => exact execLoopOpen_keeps n s
  case loopCmdWrite n c => exact execLoopCmdWrite_keeps n c s
  case coefficientWrite n w r v => exact execCoefficientWrite_keeps n w r v s
  case complianceWrite n v => exact execComplianceWrite_keeps n v s
  case keeperHold k => exact execKeeperHold_keeps k s
  case keeperOpen k => exact execKeeperOpen_keeps k s
  case measRunWrite n m => exact execMeasRunWrite_keeps n m s
  case measStart n => exact execMeasStart_keeps n s
  case measCfgWrite n v => exact execMeasCfgWrite_keeps n v s
  case sequenceEntryStart n => exact execSequenceEntryStart_keeps n s
  case inputSettlingEnd n => exact execInputSettlingEnd_keeps n s
  case conversionComplete n m x => exact execConversionComplete_keeps n m x s
  case injUrgent n e => exact execInjUrgent_keeps n e s
  case injOpportunistic n e => exact execInjOpportunistic_keeps n e s
  case calZero n target => exact execCalZero_keeps n target s
  case calFull n => exact execCalFull_keeps n s
  case calCommit n => exact execCalCommit_keeps n s
  case calDiscard n => exact execCalDiscard_keeps n s
  case calConversionComplete n x => exact execCalConversionComplete_keeps n x s
  case demodWindowEnd n => exact execDemodWindowEnd_keeps n s
  case sinePhaseWrite n v => exact execSinePhaseWrite_keeps n v s
  case overlapEngage n => exact execOverlapEngage_keeps n s
  case handoverStart n => exact execHandoverStart_keeps n s
  case overlapSquash n => exact execOverlapSquash_keeps n s
  case holdOffEnd n => exact execHoldOffEnd_keeps n s
  case vRangeSwitch n => exact execVRangeSwitch_keeps n s
  case boosterRangeChange n => exact execBoosterRangeChange_keeps n s
  case boosterGainSwitch n => exact execBoosterGainSwitch_keeps n s
  case waitingChangeStart n => exact execWaitingChangeStart_keeps n s
  case rangeCtrlWrite n v => exact execRangeCtrlWrite_keeps n v s
  case rangeSetWrite n v => exact execRangeSetWrite_keeps n v s
  case strandStart n direct strand => exact execStrandStart_keeps n direct strand s
  case strandStop n => exact execStrandStop_keeps n s
  case strandAbort n => exact execStrandAbort_keeps n s
  case beadCommit n => exact execBeadCommit_keeps n s
  case strandEndAtDwell n => exact execStrandEndAtDwell_keeps n s
  case runAheadSquash n => exact execRunAheadSquash_keeps n s
  case markPulseEnd n => exact execMarkPulseEnd_keeps n s
  case pulseEnd n => exact execPulseEnd_keeps n s
  case pulsePassStart n => exact execPulsePassStart_keeps n s
  case larderRdWrite n v => exact execLarderRdWrite_keeps n v s
  case larderClear n => exact execLarderClear_keeps n s
  case syncStart set => exact execSyncStart_keeps set s
  case syncFire set => exact execSyncFire_keeps set s
  case syncAbort set => exact execSyncAbort_keeps set s
  case trigInEdge x cyc => exact execTrigInEdge_keeps x cyc s
  case windowCrossing n w x cyc => exact execWindowCrossing_keeps n w x cyc s
  case windowSample n w x cyc => exact execWindowSample_keeps n w x cyc s
  case windowFirstSample n w x => exact execWindowFirstSample_keeps n w x s
  case winCfgWrite n w v => exact execWinCfgWrite_keeps n w v s
  case winThrWrite n w v => exact execWinThrWrite_keeps n w v s
  case baySleep b => exact execBaySleep_keeps b s
  case bayAwake b => exact execBayAwake_keeps b s
  case attMigrate n keepOld => exact execAttMigrate_keeps n keepOld s
  case migrationGrant => exact execMigrationGrant_keeps s
  case shadowAwake b => exact execShadowAwake_keeps b s
  case forceCheckEnd b => exact execForceCheckEnd_keeps b s
  case spareReject b => exact execSpareReject_keeps b s
  case migrationSwap b => exact execMigrationSwap_keeps b s
  case migrationEnd b => exact execMigrationEnd_keeps b s
  case sramPatrolRead r e => exact execSramPatrolRead_keeps r e s
  case faultMessage src kind addr => exact execFaultMessage_keeps src kind addr s
  case faultReaction => exact execFaultReaction_keeps s
  case conseqWindowEnd src => exact execConseqWindowEnd_keeps src s
  case cofferWrite => exact execCofferWrite_keeps s
  case cofferPersist => exact execCofferPersist_keeps s
  case fltAck v => exact execFltAck_keeps v s
  case fltReadmit v => exact execFltReadmit_keeps v s
  case aliveToggle busAccepted slotWritten coreRan => exact execAliveToggle_keeps busAccepted slotWritten coreRan s
  case fltInject v addr => exact execFltInject_keeps v addr s
  case format key => exact execFormat_keeps key s
  case writeSlotA => exact execWriteSlotA_keeps s
  case writeSlotB => exact execWriteSlotB_keeps s
  case clearSlotA => exact execClearSlotA_keeps s
  case clearSlotB => exact execClearSlotB_keeps s
  case saveLibrary => exact execSaveLibrary_keeps s
  case patrol => exact execPatrol_keeps s
  case flush => exact execFlush_keeps s
  case celReadSelWrite v => exact execCelReadSelWrite_keeps v s
  case celClockWrite v => exact execCelClockWrite_keeps v s
  case cellarHourTick => exact execCellarHourTick_keeps s
  case cellarOperationDone o => exact execCellarOperationDone_keeps o s
  case garbageCollection => exact execGarbageCollection_keeps s
  case patrolPageRead o => exact execPatrolPageRead_keeps o s
  case notResponding op => exact execNotResponding_keeps op s
  case rootTimeout => exact execRootTimeout_keeps s
  case portTrainingDone p => exact execPortTrainingDone_keeps p s
  case hopMeasureDone p lat => exact execHopMeasureDone_keeps p lat s
  case pauseReceived p => exact execPauseReceived_keeps p s
  case linkAlignmentLost p => exact execLinkAlignmentLost_keeps p s
  case pauseTimeout p => exact execPauseTimeout_keeps p s
  case packetReceive p k crcOk => exact execPacketReceive_keeps p k crcOk s
  case lnkEnum => exact execLnkEnum_keeps s
  case enumerationDone x => exact execEnumerationDone_keeps x s
  case epochNow => exact execEpochNow_keeps s
  case epochMarkerSend => exact execEpochMarkerSend_keeps s
  case epochMarkerReceive m => exact execEpochMarkerReceive_keeps m s
  case timeStepEnd => exact absurd h Bool.false_ne_true
  case readinessReportReceive r => exact execReadinessReportReceive_keeps r s
  case commitOrderReceive set boundary => exact execCommitOrderReceive_keeps set boundary s
  case syncRequestReceive a set => exact execSyncRequestReceive_keeps a set s
  case summaryReceive dev attn grave => exact execSummaryReceive_keeps dev attn grave s
  case forwardedReadDone words => exact execForwardedReadDone_keeps words s
  case forwardedReadTimeout => exact execForwardedReadTimeout_keeps s
  case governorUpdate => exact execGovernorUpdate_keeps s
  case govFail => exact execGovFail_keeps s
  case extest => exact absurd h Bool.false_ne_true
  case samplePreload => exact absurd h Bool.false_ne_true
  case idcode => exact absurd h Bool.false_ne_true
  case clamp => exact absurd h Bool.false_ne_true
  case highz => exact absurd h Bool.false_ne_true
  case chipReset => exact absurd h Bool.false_ne_true
  case factoryTest => exact absurd h Bool.false_ne_true
  case regAccess => exact absurd h Bool.false_ne_true
  case bypass => exact absurd h Bool.false_ne_true
  case testenLow => exact absurd h Bool.false_ne_true
  case faultConditionEnd src kind => exact execFaultConditionEnd_keeps src kind s
  case partnerDetected p => exact execPartnerDetected_keeps p s
  case linkCodeError p => exact execLinkCodeError_keeps p s
  case railsInSpan vpos vneg => exact execRailsInSpan_keeps vpos vneg s

end Sys2Proof.Machine
end

