-- ==== Sys2Proof/Laws/Gates.lean ====
section
/-! SUPPORT. Which gate each command passes: the running logic, the Grave latch, or the gate of a host write to a channel page. -/

namespace Sys2Proof.Machine

/-- The commands but STRAND_START, whose refusal a clasp member shows (R258). -/
theorem exec_chWrite (c : Instr) (n : Ch) (s : State) (h : pageChannel c = some n) (hs : ∀ d k, c ≠ .strandStart n d k) :
    ∃ off w f, exec c s = .next (s.chWrite n off w f) := by
  cases c
  case forceLoad n => cases h; exact ⟨_, _, _, rfl⟩
  case forceModeWrite n m => cases h; exact ⟨_, _, _, rfl⟩
  case forceClassWrite n c => cases h; exact ⟨_, _, _, rfl⟩
  case forceClose n => cases h; exact ⟨_, _, _, rfl⟩
  case forceOpen n => cases h; exact ⟨_, _, _, rfl⟩
  case forceRest n => cases h; exact ⟨_, _, _, rfl⟩
  case streamFlush n => cases h; exact ⟨_, _, _, rfl⟩
  case outTrippedClear n => cases h; exact ⟨_, _, _, rfl⟩
  case loopClose n => cases h; exact ⟨_, _, _, rfl⟩
  case loopOpen n => cases h; exact ⟨_, _, _, rfl⟩
  case loopCmdWrite n c => cases h; exact ⟨_, _, _, rfl⟩
  case coefficientWrite n w r v => cases h; exact ⟨_, _, _, rfl⟩
  case complianceWrite n v => cases h; exact ⟨_, _, _, rfl⟩
  case measRunWrite n m => cases h; exact ⟨_, _, _, rfl⟩
  case measStart n => cases h; exact ⟨_, _, _, rfl⟩
  case measCfgWrite n v => cases h; exact ⟨_, _, _, rfl⟩
  case injUrgent n e => cases h; exact ⟨_, _, _, rfl⟩
  case injOpportunistic n e => cases h; exact ⟨_, _, _, rfl⟩
  case calZero n target => cases h; exact ⟨_, _, _, rfl⟩
  case calFull n => cases h; exact ⟨_, _, _, rfl⟩
  case calCommit n => cases h; exact ⟨_, _, _, rfl⟩
  case calDiscard n => cases h; exact ⟨_, _, _, rfl⟩
  case sinePhaseWrite n v => cases h; exact ⟨_, _, _, rfl⟩
  case rangeCtrlWrite n v => cases h; exact ⟨_, _, _, rfl⟩
  case rangeSetWrite n v => cases h; exact ⟨_, _, _, rfl⟩
  case strandStart n direct strand => cases h; exact absurd rfl (hs _ _)
  case strandStop n => cases h; exact ⟨_, _, _, rfl⟩
  case strandAbort n => cases h; exact ⟨_, _, _, rfl⟩
  case larderRdWrite n v => cases h; exact ⟨_, _, _, rfl⟩
  case larderClear n => cases h; exact ⟨_, _, _, rfl⟩
  case winCfgWrite n w v => cases h; exact ⟨_, _, _, rfl⟩
  case winThrWrite n w v => cases h; exact ⟨_, _, _, rfl⟩
  all_goals exact absurd (Eq.symm (show none = some n from h)) (Option.some_ne_none n)

theorem exec_pageWrite (c : Instr) (n : Ch) (s : State) (h : pageChannel c = some n) :
    ∃ a w f, exec c s = .next (s.pageWrite (chBay n) a w f) := by
  by_cases hs : ∀ d k, c ≠ .strandStart n d k
  · obtain ⟨_, _, _, e⟩ := exec_chWrite c n s h hs
    rw [e]
    unfold State.chWrite
    exact ⟨_, _, _, rfl⟩
  · simp only [not_forall, ne_eq, not_not] at hs
    obtain ⟨d, k, rfl⟩ := hs
    exact ⟨_, _, _, rfl⟩

theorem exec_hostAct (c : Instr) (s : State) (h : blockWrite c = true) : ∃ f, exec c s = .next (s.hostAct f) := by
  cases c
  case pllCommit p => exact ⟨_, rfl⟩
  case pllBandMeasure p khz => exact ⟨_, rfl⟩
  case clkoutWrite x v => exact ⟨_, rfl⟩
  case stageDataWrite v => exact ⟨_, rfl⟩
  case stageClear => exact ⟨_, rfl⟩
  case imageAbort => exact ⟨_, rfl⟩
  case loadHost => exact ⟨_, rfl⟩
  case loadSlotA => exact ⟨_, rfl⟩
  case loadSlotB => exact ⟨_, rfl⟩
  case streamQueueAppend n v => exact ⟨_, rfl⟩
  case syncStart set => exact ⟨_, rfl⟩
  case syncFire set => exact ⟨_, rfl⟩
  case syncAbort set => exact ⟨_, rfl⟩
  case attMigrate n keepOld => exact ⟨_, rfl⟩
  case format key => exact ⟨_, rfl⟩
  case writeSlotA => exact ⟨_, rfl⟩
  case writeSlotB => exact ⟨_, rfl⟩
  case clearSlotA => exact ⟨_, rfl⟩
  case clearSlotB => exact ⟨_, rfl⟩
  case saveLibrary => exact ⟨_, rfl⟩
  case patrol => exact ⟨_, rfl⟩
  case flush => exact ⟨_, rfl⟩
  case celClockWrite v => exact ⟨_, rfl⟩
  case lnkEnum => exact ⟨_, rfl⟩
  case epochNow => exact ⟨_, rfl⟩
  all_goals exact absurd (show false = true from h) Bool.false_ne_true

theorem exec_live (c : Instr) (s : State) (h : needsLogic c = true) : ∃ f, exec c s = .next (s.live f) := by
  have ha : ∀ c, blockWrite c = true → ∃ f, exec c s = .next (s.live f) := fun c h => by
    obtain ⟨f, e⟩ := exec_hostAct c s h
    rw [e]
    unfold State.hostAct
    exact ⟨_, rfl⟩
  have chw : ∀ c n, pageChannel c = some n → ∃ f, exec c s = .next (s.live f) := fun c n h => by
    obtain ⟨_, _, _, e⟩ := exec_pageWrite c n s h
    rw [e]
    unfold State.pageWrite State.hostAct
    exact ⟨_, rfl⟩
  cases c
  case refDetectionEnd edges => exact ⟨_, rfl⟩
  case pllLockAcquired p => exact ⟨_, rfl⟩
  case pllLockLost p => exact ⟨_, rfl⟩
  case lockHoldEnd p => exact ⟨_, rfl⟩
  case relockRetry p => exact ⟨_, rfl⟩
  case refLost => exact ⟨_, rfl⟩
  case refReturn => exact ⟨_, rfl⟩
  case pllCommit p => exact ha _ rfl
  case pllBandMeasure p khz => exact ha _ rfl
  case clkoutWrite x v => exact ha _ rfl
  case pllStop => exact ⟨_, rfl⟩
  case hostReadFrame f => exact ⟨_, rfl⟩
  case hostWriteFrame f => exact ⟨_, rfl⟩
  case registerWrite a v => exact ⟨_, rfl⟩
  case readClearCounter a => exact ⟨_, rfl⟩
  case glbTimeLoRead => exact ⟨_, rfl⟩
  case resultLoRead n => exact ⟨_, rfl⟩
  case resultHiRead n => exact ⟨_, rfl⟩
  case demodViRead n => exact ⟨_, rfl⟩
  case cofferW0Read => exact ⟨_, rfl⟩
  case stageDataWrite v => exact ha _ rfl
  case stageClear => exact ha _ rfl
  case imageAbort => exact ha _ rfl
  case loadHost => exact ha _ rfl
  case loadSlotA => exact ha _ rfl
  case loadSlotB => exact ha _ rfl
  case imageSwap => exact ⟨_, rfl⟩
  case loopUpdate n x => exact ⟨_, rfl⟩
  case slewLimiterStep n => exact ⟨_, rfl⟩
  case forceLoad n => exact chw _ _ rfl
  case forceModeWrite n m => exact chw _ _ rfl
  case forceClassWrite n c => exact chw _ _ rfl
  case forceClose n => exact chw _ _ rfl
  case switchClose n raw => exact ⟨_, rfl⟩
  case forceOpen n => exact chw _ _ rfl
  case forceRest n => exact chw _ _ rfl
  case restHoldReached n => exact ⟨_, rfl⟩
  case graveOpenTimeout n => exact ⟨_, rfl⟩
  case streamSample n => exact ⟨_, rfl⟩
  case streamQueueAppend n v => exact ha _ rfl
  case streamFlush n => exact chw _ _ rfl
  case outTrippedClear n => exact chw _ _ rfl
  case loopClose n => exact chw _ _ rfl
  case loopOpen n => exact chw _ _ rfl
  case loopCmdWrite n c => exact chw _ _ rfl
  case coefficientWrite n w r v => exact chw _ _ rfl
  case complianceWrite n v => exact chw _ _ rfl
  case keeperHold k => exact ⟨_, rfl⟩
  case measRunWrite n m => exact chw _ _ rfl
  case measStart n => exact chw _ _ rfl
  case measCfgWrite n v => exact chw _ _ rfl
  case sequenceEntryStart n => exact ⟨_, rfl⟩
  case inputSettlingEnd n => exact ⟨_, rfl⟩
  case conversionComplete n m x => exact ⟨_, rfl⟩
  case injUrgent n e => exact chw _ _ rfl
  case injOpportunistic n e => exact chw _ _ rfl
  case calZero n target => exact chw _ _ rfl
  case calFull n => exact chw _ _ rfl
  case calCommit n => exact chw _ _ rfl
  case calDiscard n => exact chw _ _ rfl
  case calConversionComplete n x => exact ⟨_, rfl⟩
  case demodWindowEnd n => exact ⟨_, rfl⟩
  case sinePhaseWrite n v => exact chw _ _ rfl
  case overlapEngage n => exact ⟨_, rfl⟩
  case handoverStart n => exact ⟨_, rfl⟩
  case overlapSquash n => exact ⟨_, rfl⟩
  case holdOffEnd n => exact ⟨_, rfl⟩
  case vRangeSwitch n => exact ⟨_, rfl⟩
  case boosterRangeChange n => exact ⟨_, rfl⟩
  case boosterGainSwitch n => exact ⟨_, rfl⟩
  case waitingChangeStart n => exact ⟨_, rfl⟩
  case rangeCtrlWrite n v => exact chw _ _ rfl
  case rangeSetWrite n v => exact chw _ _ rfl
  case strandStart n direct strand => exact chw _ _ rfl
  case strandStop n => exact chw _ _ rfl
  case strandAbort n => exact chw _ _ rfl
  case beadCommit n => exact ⟨_, rfl⟩
  case strandEndAtDwell n => exact ⟨_, rfl⟩
  case runAheadSquash n => exact ⟨_, rfl⟩
  case markPulseEnd n => exact ⟨_, rfl⟩
  case pulseEnd n => exact ⟨_, rfl⟩
  case pulsePassStart n => exact ⟨_, rfl⟩
  case larderRdWrite n v => exact chw _ _ rfl
  case larderClear n => exact chw _ _ rfl
  case syncStart set => exact ha _ rfl
  case syncFire set => exact ha _ rfl
  case syncAbort set => exact ha _ rfl
  case trigInEdge x cyc => exact ⟨_, rfl⟩
  case windowCrossing n w x cyc => exact ⟨_, rfl⟩
  case windowSample n w x cyc => exact ⟨_, rfl⟩
  case windowFirstSample n w x => exact ⟨_, rfl⟩
  case winCfgWrite n w v => exact chw _ _ rfl
  case winThrWrite n w v => exact chw _ _ rfl
  case baySleep b => exact ⟨_, rfl⟩
  case bayAwake b => exact ⟨_, rfl⟩
  case attMigrate n keepOld => exact ha _ rfl
  case migrationGrant => exact ⟨_, rfl⟩
  case shadowAwake b => exact ⟨_, rfl⟩
  case forceCheckEnd b => exact ⟨_, rfl⟩
  case spareReject b => exact ⟨_, rfl⟩
  case migrationSwap b => exact ⟨_, rfl⟩
  case migrationEnd b => exact ⟨_, rfl⟩
  case sramPatrolRead r e => exact ⟨_, rfl⟩
  case faultMessage src kind addr => exact ⟨_, rfl⟩
  case faultReaction => exact ⟨_, rfl⟩
  case conseqWindowEnd src => exact ⟨_, rfl⟩
  case cofferWrite => exact ⟨_, rfl⟩
  case cofferPersist => exact ⟨_, rfl⟩
  case fltAck v => exact ⟨_, rfl⟩
  case fltReadmit v => exact ⟨_, rfl⟩
  case aliveToggle busAccepted slotWritten coreRan => exact ⟨_, rfl⟩
  case fltInject v addr => exact ⟨_, rfl⟩
  case format key => exact ha _ rfl
  case writeSlotA => exact ha _ rfl
  case writeSlotB => exact ha _ rfl
  case clearSlotA => exact ha _ rfl
  case clearSlotB => exact ha _ rfl
  case saveLibrary => exact ha _ rfl
  case patrol => exact ha _ rfl
  case flush => exact ha _ rfl
  case celReadSelWrite v => exact ⟨_, rfl⟩
  case celClockWrite v => exact ha _ rfl
  case cellarHourTick => exact ⟨_, rfl⟩
  case cellarOperationDone o => exact ⟨_, rfl⟩
  case garbageCollection => exact ⟨_, rfl⟩
  case patrolPageRead o => exact ⟨_, rfl⟩
  case notResponding op => exact ⟨_, rfl⟩
  case rootTimeout => exact ⟨_, rfl⟩
  case portTrainingDone p => exact ⟨_, rfl⟩
  case hopMeasureDone p lat => exact ⟨_, rfl⟩
  case pauseReceived p => exact ⟨_, rfl⟩
  case linkAlignmentLost p => exact ⟨_, rfl⟩
  case pauseTimeout p => exact ⟨_, rfl⟩
  case packetReceive p k crcOk => exact ⟨_, rfl⟩
  case lnkEnum => exact ha _ rfl
  case enumerationDone x => exact ⟨_, rfl⟩
  case epochNow => exact ha _ rfl
  case epochMarkerSend => exact ⟨_, rfl⟩
  case epochMarkerReceive m => exact ⟨_, rfl⟩
  case timeStepEnd => exact ⟨_, rfl⟩
  case readinessReportReceive r => exact ⟨_, rfl⟩
  case commitOrderReceive set boundary => exact ⟨_, rfl⟩
  case syncRequestReceive a set => exact ⟨_, rfl⟩
  case summaryReceive dev attn grave => exact ⟨_, rfl⟩
  case forwardedReadDone words => exact ⟨_, rfl⟩
  case forwardedReadTimeout => exact ⟨_, rfl⟩
  case governorUpdate => exact ⟨_, rfl⟩
  case govFail => exact ⟨_, rfl⟩
  case faultConditionEnd src kind => exact ⟨_, rfl⟩
  case partnerDetected p => exact ⟨_, rfl⟩
  case linkCodeError p => exact ⟨_, rfl⟩
  case railsInSpan vpos vneg => exact ⟨_, rfl⟩
  all_goals exact absurd (show false = true from h) Bool.false_ne_true

end Sys2Proof.Machine
end

