-- ==== Sys2Proof/Laws/Sample.lean ====
section
/-! SUPPORT. Everything that the sampling of a channel's registers can do (R9). -/

namespace Sys2Proof.Machine

@[simp] theorem Chan.sampled_cfg (c : Chan) (p : Nat) : (c.sampled p).cfg = c.cfg := by
  obtain ⟨e, r, f, h, -⟩ := c.sampled_spec p; rw [h]

@[simp] theorem Chan.sampled_decl (c : Chan) (p : Nat) : (c.sampled p).decl = c.decl := by
  obtain ⟨e, r, f, h, -⟩ := c.sampled_spec p; rw [h]

@[simp] theorem Chan.sampled_loop (c : Chan) (p : Nat) : (c.sampled p).loop = c.loop := by
  obtain ⟨e, r, f, h, -⟩ := c.sampled_spec p; rw [h]

@[simp] theorem Chan.sampled_meas (c : Chan) (p : Nat) : (c.sampled p).meas = c.meas := by
  obtain ⟨e, r, f, h, -⟩ := c.sampled_spec p; rw [h]

@[simp] theorem Chan.sampled_strand (c : Chan) (p : Nat) : (c.sampled p).strand = c.strand := by
  obtain ⟨e, r, f, h, -⟩ := c.sampled_spec p; rw [h]

@[simp] theorem Chan.sampled_larder (c : Chan) (p : Nat) : (c.sampled p).larder = c.larder := by
  obtain ⟨e, r, f, h, -⟩ := c.sampled_spec p; rw [h]

@[simp] theorem Chan.sampled_queue (c : Chan) (p : Nat) : (c.sampled p).queue = c.queue := by
  obtain ⟨e, r, f, h, -⟩ := c.sampled_spec p; rw [h]

@[simp] theorem Chan.sampled_phase (c : Chan) (p : Nat) : (c.sampled p).phase = c.phase := by
  obtain ⟨e, r, f, h, -⟩ := c.sampled_spec p; rw [h]

@[simp] theorem Chan.sampled_winV (c : Chan) (p : Nat) : (c.sampled p).winV = c.winV := by
  obtain ⟨e, r, f, h, -⟩ := c.sampled_spec p; rw [h]

@[simp] theorem Chan.sampled_winI (c : Chan) (p : Nat) : (c.sampled p).winI = c.winI := by
  obtain ⟨e, r, f, h, -⟩ := c.sampled_spec p; rw [h]

@[simp] theorem Chan.sampled_streamOver (c : Chan) (p : Nat) : (c.sampled p).streamOver = c.streamOver := by
  obtain ⟨e, r, f, h, -⟩ := c.sampled_spec p; rw [h]

@[simp] theorem Chan.sampled_fence (c : Chan) (p : Nat) : (c.sampled p).fence = c.fence := by
  obtain ⟨e, r, f, h, -⟩ := c.sampled_spec p; rw [h]

@[simp] theorem Chan.sampled_eff (c : Chan) (p : Nat) : (c.sampled p).eff =
    { c.cfg with winV := { c.cfg.winV with mode := c.eff.winV.mode }, winI := { c.cfg.winI with mode := c.eff.winI.mode } } := by
  obtain ⟨e, r, f, h, he, -⟩ := c.sampled_spec p; rw [h, ← he]

/-- The force path as the sampling leaves it. -/
theorem Chan.sampled_force (c : Chan) (p : Nat) : (c.sampled p).force.code = c.force.code ∧ (c.sampled p).force.target = c.force.target ∧
    (c.sampled p).force.out = c.force.out ∧ (c.sampled p).force.applied = c.force.applied ∧ (c.sampled p).force.tripped = c.force.tripped ∧
    (c.sampled p).force.closeAt = c.force.closeAt ∧ (c.sampled p).force.closeRest = c.force.closeRest ∧
    (c.sampled p).force.restAt = c.force.restAt ∧ (c.sampled p).force.sat = c.force.sat := by
  obtain ⟨e, r, f, h, -, hf, -⟩ := c.sampled_spec p
  rw [h]
  dsimp only
  rw [hf]
  exact ⟨rfl, rfl, rfl, rfl, rfl, rfl, rfl, rfl, rfl⟩

theorem Chan.sampled_range (c : Chan) (p : Nat) : (c.sampled p).range.v = c.range.v ∧ (c.sampled p).range.i = c.range.i ∧
    (c.sampled p).range.wantV = c.range.wantV ∧ (c.sampled p).range.wantI = c.range.wantI ∧
    (c.sampled p).range.wantLevel = c.range.wantLevel := by
  obtain ⟨e, r, f, h, -, -, -, h1, h2, h3, h4, h5, -⟩ := c.sampled_spec p
  rw [h]
  exact ⟨h1, h2, h3, h4, h5⟩

end Sys2Proof.Machine
end

