-- ==== Sys2Proof/WellFormed.lean ====
section
/-! DEFINITION. Well-formed commands: what the spec's own ranges ask of a command's data beyond its type. Nothing in the machine rests
on it: `exec` answers a next state on every term. -/

namespace Sys2Proof

/-- An instant within a loop period of 256 cycles (R4). -/
def cycleOk (cyc : Nat) : Bool := decide (cyc < 256)

/-- The source numbers that R363 assigns. -/
def sourceUsed (src : BitVec 10) : Bool :=
  let x := src.toNat
  decide (x < 0x48) || (decide (0x80 ≤ x) && decide (x < 0xC0)) || (decide (0xC0 ≤ x) && decide (x < 0xCF)) ||
    (decide (0x100 ≤ x) && decide (x < 0x12B) && decide (x ≠ 0x123))

/-- A word cut short has fewer than 32 bits (R498). -/
def WriteFrame.wellFormed (f : WriteFrame) : Bool := decide (f.tail < 32)

/-- A packet carries one frame, read data of at most 64 words, or a summary (R466, R486). -/
def Packet.wellFormed : Packet → Bool
  | .write f => f.wellFormed
  | .read _ => true
  | .data words => decide (words.length ≤ 64)
  | .summary _ _ _ => true

/-- The unit of a region: a stream queue has 256 samples (R279), and a 64-bit word of a sine table starts at an even entry (R276). -/
def SramRegion.wellFormed : SramRegion → Bool
  | .stream _ i => decide (i < 256)
  | .sine w => decide (w.toNat % 2 = 0)
  | _ => true

/-- A band measurement brings at most one span per band, each with its lower end first (R438, R441). -/
def bandsOk (khz : List (Nat × Nat)) : Bool := decide (khz.length ≤ 64) && khz.all fun p => decide (p.1 ≤ p.2)

/-- What an enumeration can find (R470): depth at most 8 for a device that is taken in, and at most 4,096 devices. -/
def EnumIn.wellFormed (x : EnumIn) : Bool :=
  (x.refused || decide (x.depth ≤ 8)) && decide (x.maxDepth ≤ 8) && decide (1 ≤ x.devices) && decide (x.devices ≤ 4096)

/-- The number of bits that the part corrects in a codeword is at most 12 (R407). -/
def FlashOutcome.wellFormed : FlashOutcome → Bool
  | .corrected bits => decide (1 ≤ bits) && decide (bits ≤ 12)
  | _ => true

/-- A well-formed command. -/
def Instr.wellFormed : Instr → Bool
  | .hostWriteFrame f => f.wellFormed
  | .packetReceive _ k _ => k.wellFormed
  | .pllBandMeasure _ khz => bandsOk khz
  | .trigInEdge _ cyc => cycleOk cyc
  | .windowCrossing _ _ _ cyc => cycleOk cyc
  | .windowSample _ _ _ cyc => cycleOk cyc
  | .sramPatrolRead r _ => r.wellFormed
  | .faultMessage src _ _ => sourceUsed src
  | .faultConditionEnd src _ => sourceUsed src
  | .conseqWindowEnd src => sourceUsed src
  | .cellarOperationDone o => o.wellFormed
  | .patrolPageRead o => o.wellFormed
  | .enumerationDone x => x.wellFormed
  | .forwardedReadDone words => decide (words.length ≤ 64)
  | _ => true

end Sys2Proof
end

