-- ==== Sys2Proof/Tests/Slice0.lean ====
section
/-! SUPPORT. Tests. `test_…`: one command on a small state, its result taken from the manual. `witness_…`: for each statement of
Certificates/Slice0/Obligations.lean with hypotheses, states and operands that meet the hypotheses of each of its clauses together,
at the ends of their ranges. -/

namespace Sys2Proof.Tests
-- One test at a time: a thread for each asks for more memory than the check gives.
set_option Elab.async false
open Sys2Proof.Machine

/-! ### States -/

/-- The machine after reset with every bay awake. -/
def awake : State := { State.reset with bays := Vector.replicate 8 { awake := true } }

/-- As `awake`, with CH_3 enabled and available, and changed by `f`. -/
def chan (f : Chan → Chan) : State :=
  awake.upCh 3 fun c => f { c with map := { c.map with avail := true }, decl := { c.decl with enabled := true } }

def forced (f : ForceSt → ForceSt) : State := chan fun c => { c with force := f c.force }
def looped (f : LoopSt → LoopSt) : State := chan fun c => { c with loop := f c.loop }
def ranged (f : RangeSt → RangeSt) : State := chan fun c => { c with range := f c.range }
def measured (f : MeasSt → MeasSt) : State := chan fun c => { c with meas := f c.meas }
def stranded (f : StrandSt → StrandSt) : State := chan fun c => { c with strand := f c.strand }

def graveSet (s : State) : State := { s with flt := { s.flt with grave := true } }
def held (s : State) : State := { s with pwr := { s.pwr with inReset := true } }
def clocked (f : Clk → Clk) : State := { awake with clk := f awake.clk }

/-- The state after a command satisfies `p`. -/
def after (c : Instr) (s : State) (p : State → Bool) : Bool :=
  match exec c s with
  | .next t => p t
  | _ => false

/-! ### Well-formed commands: each check refuses an ill-formed one -/

def frame0 : WriteFrame := { opcode := 0xA0, devId := 0, addr := 0, len := 0, words := [], tail := 31, crc := 0, headerDone := true, collide := false }
def walk0 : EnumIn :=
  { id := 0, depth := 8, rootLat := 0, devices := 4096, maxDepth := 8, maxLat := 0, refused := false, refusedPorts := [], dup := false, peers := [], routes := [] }

theorem test_wellFormed_frame : (Instr.hostWriteFrame frame0).wellFormed = true ∧ (Instr.hostWriteFrame { frame0 with tail := 32 }).wellFormed = false := by decide

theorem test_wellFormed_packet :
    (Instr.packetReceive 0 (.data (List.replicate 64 0)) true).wellFormed = true ∧ (Instr.packetReceive 0 (.data (List.replicate 65 0)) true).wellFormed = false ∧
    (Instr.packetReceive 0 (.write { frame0 with tail := 32 }) true).wellFormed = false ∧ (Instr.forwardedReadDone (List.replicate 65 0)).wellFormed = false := by decide

theorem test_wellFormed_bands :
    (Instr.pllBandMeasure .a [(1, 1)]).wellFormed = true ∧ (Instr.pllBandMeasure .a [(2, 1)]).wellFormed = false ∧
    (Instr.pllBandMeasure .b (List.replicate 65 (1, 1))).wellFormed = false := by decide

theorem test_wellFormed_cycle :
    (Instr.trigInEdge 0 255).wellFormed = true ∧ (Instr.trigInEdge 0 256).wellFormed = false ∧ (Instr.windowCrossing 0 .v ⟨0, []⟩ 256).wellFormed = false ∧
    (Instr.windowSample 0 .i ⟨0, []⟩ 256).wellFormed = false := by decide

theorem test_wellFormed_region :
    (Instr.sramPatrolRead (.stream 0 255) .clean).wellFormed = true ∧ (Instr.sramPatrolRead (.stream 0 256) .clean).wellFormed = false ∧
    (Instr.sramPatrolRead (.sine 1) .clean).wellFormed = false := by decide

theorem test_wellFormed_source :
    (Instr.faultMessage 0x12A 0 0).wellFormed = true ∧ (Instr.faultMessage 0x48 0 0).wellFormed = false ∧ (Instr.faultConditionEnd 0xCF 0).wellFormed = false ∧
    (Instr.conseqWindowEnd 0x123).wellFormed = false := by decide

theorem test_wellFormed_flash :
    (Instr.cellarOperationDone (.corrected 12)).wellFormed = true ∧ (Instr.cellarOperationDone (.corrected 13)).wellFormed = false ∧
    (Instr.patrolPageRead (.corrected 0)).wellFormed = false := by decide

theorem test_wellFormed_enumeration :
    (Instr.enumerationDone walk0).wellFormed = true ∧ (Instr.enumerationDone { walk0 with depth := 9 }).wellFormed = false ∧
    (Instr.enumerationDone { walk0 with devices := 0 }).wellFormed = false ∧ (Instr.enumerationDone { walk0 with maxDepth := 9 }).wellFormed = false := by decide

/-! ### The queue -/

/-- No row of the table has bits. -/
theorem test_no_word_spells_a_command : decodeTableWord 8 0 = none ∧ (State.reset.withFetchWord 8 0).pending = [] := by decide

theorem test_step_takes_the_front :
    (match step { State.reset with pending := [.idcode, .bypass] } with
      | .next t => t.jtag.dr == 0x264729AB && t.pending == [.bypass]
      | _ => false) = true := by decide

/-! ### Worked values of the manual -/

/-- R497: the check value of CRC-16 over "123456789". -/
theorem test_crc16 : crc16 [0x31, 0x32, 0x33, 0x34, 0x35, 0x36, 0x37, 0x38, 0x39] = 0x29B1 := by decide +kernel

/-- R41: the check value of CRC-32. -/
theorem test_crc32 : crc32 [0x31, 0x32, 0x33, 0x34, 0x35, 0x36, 0x37, 0x38, 0x39] = 0xCBF43926 := by decide +kernel

/-- R19: CH_17 on cell 19, CH_63 on cell 70. -/
theorem test_bare_cells : (State.reset.ch 17).map.cell = some 19 ∧ (State.reset.ch 63).map.cell = some 70 := by decide

/-- The open-loop move of chapter 03: LOAD of 0x3555_5555 on ±6 V gives code 218,453. -/
theorem test_forceLoad_move :
    after (.forceLoad 3) (chan fun c => { c with cfg := { c.cfg with level := 0x35555555, setV := 15, setI := 15 }, force := { c.force with out := .closed } })
      (fun t => (t.ch 3).force.applied == 0x35555555 && (t.ch 3).force.target == 218453) = true := by decide +kernel

/-- The same move: the first step is 455 codes, the last one 53. -/
theorem test_limiter_move :
    (∀ x ∈ [((0 : Nat), (455 : Nat)), (218400, 218453)],
      after (.slewLimiterStep 3) (chan fun c => { c with eff := { c.eff with slewStep := 455 }, force := { c.force with out := .closed, code := BitVec.ofNat 20 x.1, target := 218453 } })
        (fun t => (t.ch 3).force.code.toNat == x.2) = true) := by
  decide +kernel

/-- The same move, stage 4: g = +2,100 and o = −37 give DAC 218,443. -/
theorem test_correction : (correctDac 218453 2100 (BitVec.ofInt 16 (-37)) (2 ^ 24)).1 = 218443 := by decide +kernel

/-- Chapter 04, period 2: the shifted products of the piezo loop. -/
theorem test_loop_products : rs (2 ^ 30 * 65536) 31 = 32768 ∧ rs (107374182 * 65536) 31 = 3277 ∧ rs (21474836 * 1069446857) 31 = 10694468 := by decide

/-- Chapter 05: F = 6,716,530, Z = −1,245 and X = 6,710,886 give gm = −1,101,110. -/
theorem test_gain_trim : gainTrim (-1245) 6716530 6710886 = -1101110 := by decide

/-- Chapter 06: CH_RANGE_CTRL = 0x001F_3203. -/
theorem test_rangeCtrl :
    after (.rangeCtrlWrite 3 0x001F3203) (chan id) (fun t => (t.ch 3).cfg.horizonM1 == 31 && (t.ch 3).cfg.boundHi == 3 && (t.ch 3).cfg.boundLo == 2 &&
      (t.ch 3).cfg.policy == .bounded) = true := by decide +kernel

/-- Chapter 08: 5 mA is code 2,560 on ±20 mA; with HI = 0x9F8 and H = 8 it trips just above, at its cycle, and only there. -/
theorem test_window_5mA :
    (∀ x ∈ [((2560 * 1024 : Int), WinState.inside), (2560 * 1024 + 1, .outHi)],
      after (.windowCrossing 3 .i ⟨x.1, []⟩ 100) (chan fun c => { c with eff := { c.eff with winI := { c.eff.winI with mode := .continuous } }, winI := { c.winI with appHi := 0x9F8 } })
        (fun t => (t.ch 3).winI.st == x.2 && (t.ch 3).winI.trips == BitVec.ofNat 32 (bit (x.2 == .outHi)) && (t.ch 3).winI.time == BitVec.ofNat 32 (100 * bit (x.2 == .outHi))) = true) := by
  decide +kernel

/-- Chapter 11: the first MOD_I_FAULT of cell 23 stays Minor and opens the window with a count of 1. -/
theorem test_fault_first :
    after (.faultMessage 0x17 7 0x07150001) { awake with ticks := 1000000 } (fun t => (t.flt.fifo.map fun r => r.words.take 3) == [[0x00011C17, 0x07150001, 0x000F4240]] &&
      (t.flt.srcSt 0x17).winCount == 1 && (t.flt.srcSt 0x17).unackMinor && t.flt.reactions.isEmpty) = true := by decide +kernel

/-- Chapter 11: the second is raised to Major with tag 0x01 and fences the cell. -/
theorem test_fault_second :
    after (.faultMessage 0x17 7 0x07150001) { awake with ticks := 1000040, flt := { awake.flt with srcs := [(0x17, { winStart := 1000000, winCount := 1, unackMinor := true })] } }
      (fun t => (t.flt.fifo.map fun r => r.words.take 3) == [[0x01121C17, 0x07150001, 0x000F4268]] && (t.flt.srcSt 0x17).winCount == 2 &&
        t.flt.reactions.map (·.unit) == [0x17] && t.flt.conseqs.map (fun w => (w.start, w.until_)) == [(1000040, 1000296)]) = true := by decide +kernel

/-- Chapter 13: 48,003 edges are 0xBB83 and 24.576 MHz. -/
theorem test_detection :
    after (.refDetectionEnd 48003) awake (fun t => t.clk.detect == 0xBB83 && t.clk.refClass == .mhz24 && t.clk.pllA.actN == 80) = true := by decide +kernel

/-- Chapter 18: a read of four words that runs off the ranging registers. -/
theorem test_read_runs_off :
    after (.hostReadFrame { opcode := 0xA5, devId := 0, addr := 0x01A218, len := 0, headerCrc := 0, count := 4, headerDone := true })
      (awake.upCh 40 fun c => { c with range := { c.range with squashes := 5 } })
      (fun t => t.host.out == [5, 0, 0, 0] && t.host.unmapped && t.host.lastOp == 0xA5 && t.host.badFrames == 1 && (t.ch 40).range.squashes == 0 &&
        t.flt.fifo.map (·.addr) == [0x01A21C]) = true := by decide +kernel

/-- Chapter 05: CH_INJ = 0x8000_0005 starts entry 5. -/
theorem test_urgent_injection :
    after (.injUrgent 3 5) (measured fun m => { m with convs := [] }) (fun t => (t.ch 3).meas.convs.map (·.entry) == [5] && (t.ch 3).meas.restarts == 0) = true := by
  decide +kernel

/-- R279: a full stream queue drops the sample and counts it. -/
theorem test_stream_full :
    after (.streamQueueAppend 3 7) (chan fun c => { c with queue := List.replicate 256 (some 0) })
      (fun t => (t.ch 3).queue.length == 256 && (t.ch 3).streamOver == 1) = true := by decide +kernel

/-- R258: a START of an entry that names another channel shows NOT_OWNER. -/
theorem test_strand_not_owner :
    after (.strandStart 3 false 0) (chan id) (fun t => (t.ch 3).strand.st == .idle && (t.ch 3).strand.reason == .notOwner && (t.ch 3).strand.ended) = true := by
  decide +kernel

/-- R294: set 0 raises a Note of the image loader. -/
theorem test_sync_zero : after (.syncStart 0) awake (fun t => t.flt.fifo.map (·.src) == [srcImage] && t.chans == awake.chans) = true := by decide +kernel

/-- R424: a command while another runs ends with BUSY. -/
theorem test_cellar_busy :
    after .patrol { awake with cel := { awake.cel with st := .ready, busy := true } } (fun t => t.cel.done && t.cel.result == .busy && t.cel.lastCmd == 7) = true := by
  decide +kernel

/-- R467: a partner that is detected makes an idle port train. -/
theorem test_partner :
    after (.partnerDetected 1) { awake with lnk := { awake.lnk with ports := awake.lnk.ports.set 1 { st := .idle } } }
      (fun t => t.lnk.ports[1].st == .training && t.lnk.ports[2].st == .off) = true := by decide +kernel

/-- R525: above the limit the ceiling falls by 10 mW. -/
theorem test_governor : after .governorUpdate { awake with pwr := { limitMw := 0 } } (fun t => t.pwr.ceilMw == 290 && t.pwr.govHit) = true := by decide +kernel

/-- R518: a falling AVDD opens a switch. -/
theorem test_avdd_sag : after .avddSag (awake.upCell 3 fun x => { x with switchOn := true, boostOn := true }) (fun t => !(t.cell 3).switchOn && !(t.cell 3).boostOn) = true := by
  decide +kernel

/-- R82: ABORT of a load ends it with ABORTED. -/
theorem test_image_abort :
    after .imageAbort { awake with img := { st := .loading, before := .bare, job := some { src := .host, part := false, vals := [], sets := [], sections := [], clamps := [], count := 0, crc := 0, required := [], beads := [] } } }
      (fun t => t.img.st == .bare && t.img.result == .aborted && t.img.done) = true := by decide +kernel

/-- R333: MIGRATE on a channel that is not available is refused. -/
theorem test_migrate_refused : after (.attMigrate 3 true) awake (fun t => (t.mig 0).done && (t.mig 0).result == .refused && t.att.requests.isEmpty) = true := by
  decide +kernel

/-! ### Witnesses: the block as a whole -/

theorem witness_AnEmptyQueueLetsALoopPeriodPass :
    (State.reset.runs ∧ State.reset.pending = [] ∧ State.reset.landed = [] ∧ State.reset.pwr.aonDown = false) ∧
    ((clocked fun c => { c with guard := .vco8 }).runs ∧ (clocked fun c => { c with guard := .vco8 }).pwr.aonDown = false ∧
      (clocked fun c => { c with guard := .vco8 }).lnk.step = none ∧ (clocked fun c => { c with guard := .vco8 }).clk.guard = .vco8 ∧
      (clocked fun c => { c with guard := .vco8 }).pending = [] ∧ (clocked fun c => { c with guard := .vco8 }).landed = []) ∧
    ({ awake with pwr := { awake.pwr with aonDown := true } } : State).pwr.aonDown = true := by
  simp only [State.runs]; decide

theorem witness_EveryStepKeepsTheMemoriesSound :
    State.memSound { State.reset with pending := [.idcode], mem := [(0x100000, 1)] } ∧
    ∃ t, step { State.reset with pending := [.idcode], mem := [(0x100000, 1)] } = .next t :=
  ⟨by simp only [State.memSound]; decide, _, rfl⟩

theorem witness_ResetStateIsTheBareMachine : CellIx.index 8 = 8 ∧ CellIx.index 71 = 8 ∧ CellIx.index 70 < 8 := by decide

theorem witness_OnlyAPowerOnResetClearsTheGraveLatch :
    (∃ t, exec .idcode (graveSet State.reset) = .next t) ∧ (graveSet State.reset).flt.grave = true ∧
    Instr.idcode ≠ .powerOnReset ∧ Instr.idcode ≠ .alwaysOnPowerOnReset :=
  ⟨⟨_, rfl⟩, by decide⟩

theorem witness_NoCommandTouchesTheQueue :
    (∃ t, exec .idcode { State.reset with pending := [.bypass] } = .next t) ∧ Instr.idcode ≠ .powerOnReset ∧
    Instr.idcode ≠ .alwaysOnPowerOnReset ∧ Instr.idcode ≠ .resetNAssert ∧ Instr.idcode ≠ .chipReset ∧ Instr.idcode ≠ .timeStepEnd :=
  ⟨⟨_, rfl⟩, by decide⟩

/-! ### Witnesses: when commands act -/

theorem witness_NothingActsWhileAResetHolds : (held State.reset).pwr.inReset = true ∧ needsLogic .loadHost = true := by decide

theorem witness_GraveIgnoresHostWrites :
    (graveSet State.reset).runs ∧ (graveSet State.reset).flt.grave = true ∧ (pageChannel (.forceLoad 3)).isSome = true ∧
    blockWrite .loadHost = true ∧ (0x4014 : Addr).toNat ∈ [0x4010, 0x4014, 0x4018, 0x4020, 0x4040, 0x5040] ∧
    (0x4024 : Addr).toNat ∉ [0x4010, 0x4014, 0x4018, 0x4020, 0x4040, 0x5040] ∧ (0x80000000 : Word).getLsbD 31 = true := by
  simp only [State.runs]; decide

def member : State := chan fun c => { c with map := { c.map with member := true } }

theorem witness_AMembersRegistersIgnoreWrites :
    (pageChannel (.forceLoad 3) = some 3 ∧ (∀ d k, Instr.forceLoad 3 ≠ .strandStart 3 d k) ∧ member.serves ∧ (member.bay (chBay 3)).awake = true ∧
      (member.ch 3).map.member = true) ∧
    (member.strandOf 3 true 0).channel.toNat = 3 ∧ ((member.strandOf 3 true 0).type = .stream ↔ (member.ch 3).cfg.cls = .stream) := by
  refine ⟨⟨rfl, (fun _ _ h => by cases h), ?_⟩, ?_⟩
  · simp only [State.serves]; decide
  · decide

theorem witness_ASleepingBayHoldsAWrite :
    pageChannel (.winThrWrite 63 .i 0) = some 63 ∧ State.reset.serves ∧ (State.reset.bay (chBay 63)).awake = false ∧
    State.reset.clk.pllOff = false := by
  simp only [State.serves]; decide

/-! ### Witnesses: resets, release, the test access port -/

def armed : State := awake.upCell 3 fun x => { x with keeper := { x.keeper with armed := true } }

theorem witness_ResetsTakeTheLogicToItsResetValues :
    (armed.flt.grave = false ∧ (armed.cell 3).keeper.armed = true ∧ (armed.cell 4).keeper.armed = false ∧ (armed.cell 4).keeper.hold = false) ∧
    (graveSet armed).flt.grave = true := by decide

def boot0 : BootIn := { straps := 0, refEdges := none, locked := false, nandId := 0, vpos := 0, vneg := 0, ticks := 0 }

theorem witness_AReleaseStartsTheDevice :
    ((held State.reset).jtag.ir ≠ .chipReset ∧ (held State.reset).pwr.inReset = true ∧ boot0.refEdges = none) ∧
    ({ held State.reset with jtag := { ir := .chipReset } } : State).jtag.ir = .chipReset := by decide

theorem witness_JtagInstructionsLoadThemselvesAndHoldThePins :
    State.reset.jtag.factory = false ∧
    (({ awake with jtag := { factory := true } } : State).jtag.factory = true ∧ ({ awake with jtag := { factory := true } } : State).runs) ∧
    ((looped fun l => { l with st := .primary }).runs ∧ ((looped fun l => { l with st := .primary }).ch 3).loop.st ≠ .opened ∧
      (Instr.highz = .extest ∨ Instr.highz = .clamp ∨ Instr.highz = .highz)) := by
  simp only [State.runs]; decide

/-! ### Witnesses: clocks -/

theorem witness_DetectionPicksTheClassAndItsDefaults :
    (awake.runs ∧ awake.pwr.step = .clocks ∧ awake.clk.refClass = .unfinished) ∧
    (∀ e : Nat, e ∈ [43200, 52800] → 43200 ≤ e ∧ e ≤ 52800) ∧ (∀ e : Nat, e ∈ [17578, 21484] → 17578 ≤ e ∧ e ≤ 21484) ∧
    ∀ e : Nat, e ∈ [0, 17577, 21485, 43199, 52801, 65536] → e < 17578 ∨ (21484 < e ∧ e < 43200) ∨ 52800 < e := by
  simp only [State.runs]; decide

def pllOf (g : Guard) (f : Pll → Pll) : State := clocked fun c => { c with guard := g, pllA := f c.pllA, pllB := f c.pllB }

theorem witness_LockAndItsHoldStartTheClocks :
    (∀ p ∈ [PllId.a, .b], ((pllOf .ref fun l => { l with refOk := true, phase := .startup }).clk.pll p).refOk = true ∧
      ((pllOf .ref fun l => { l with refOk := true, phase := .startup }).clk.pll p).locked = false ∧
      ((pllOf .ref fun l => { l with refOk := true, phase := .startup }).clk.pll p).phase ≠ .off) ∧
    (∀ p ∈ [PllId.a, .b], ∀ x ∈ [PllPhase.committing, .measuring, .startup],
      (pllOf .ref fun l => { l with locked := true, phase := x }).runs ∧ ((pllOf .ref fun l => { l with locked := true, phase := x }).clk.pll p).locked = true ∧
      ((pllOf .ref fun l => { l with locked := true, phase := x }).clk.pll p).held = false ∧
      ((pllOf .ref fun l => { l with locked := true, phase := x }).clk.pll p).phase = x ∧
      (pllOf .ref fun l => { l with locked := true, phase := x }).pwr.boot = none) := by
  simp only [State.runs]; decide

theorem witness_LossesTakeTheCoreToVco16 :
    ((pllOf .vco8 fun l => { l with locked := true, refOk := true, phase := .running }).runs ∧
      (pllOf .vco8 fun l => { l with locked := true, refOk := true, phase := .running }).clk.pllA.locked = true ∧
      (pllOf .vco8 fun l => { l with locked := true, refOk := true, phase := .running }).clk.pllB.locked = true ∧
      (pllOf .vco8 fun l => { l with locked := true, refOk := true, phase := .running }).clk.pllA.refOk = true ∧
      (pllOf .vco8 fun l => { l with locked := true, refOk := true, phase := .running }).clk.pllA.phase = .running ∧
      (pllOf .vco8 fun l => { l with locked := true, refOk := true, phase := .running }).clk.guard = .vco8) ∧
    ((clocked fun c => { c with refClass := .mhz24 }).clk.refClass = .mhz24 ∧ (clocked fun c => { c with refClass := .mhz10 }).clk.refClass = .mhz10) ∧
    ∀ p ∈ [PllId.a, .b], ∀ x ∈ [PllPhase.committing, .measuring], ((pllOf .ref fun l => { l with phase := x }).clk.pll p).phase = x ∧
      ((pllOf .ref fun l => { l with phase := x }).clk.pll p).locked = false := by
  simp only [State.runs]; decide

/-- REFIN at 24 MHz, the defaults of R436 in force, one band of each table known, and the shadow N one higher. -/
def commits : State :=
  clocked fun c =>
    { c with
      refClass := .mhz24
      pllA := { c.pllA with shM := 0, actM := 0, shN := 80, actN := 79, refOk := true, phase := .running,
                            bands := Vector.replicate 64 { valid := true, hi := 0xFFF, lo := 0 } }
      pllB := { c.pllB with shM := 0, actM := 0, shN := 80, actN := 79, refOk := true, phase := .running,
                            bands := Vector.replicate 64 { valid := true, hi := 0xFFF, lo := 0 } } }

theorem witness_ACommitIsRefusedOrAppliesTheShadows :
    (awake.serves ∧ (awake.commitCheck .a).1 = .noRef ∧ (awake.commitCheck .b).1 ≠ .ok ∧ awake.clk.pllBusy = false ∧ (awake.clk.pll .b).refOk = false) ∧
    (commits.serves ∧ (∀ p ∈ [PllId.a, .b], (commits.commitCheck p).1 = .ok ∧ (commits.clk.pll p).shN ≠ (commits.clk.pll p).actN)) ∧
    (∀ p ∈ [PllId.a, .b], let s := { commits with clk := { commits.clk with pllA := { commits.clk.pllA with actN := 80 }, pllB := { commits.clk.pllB with actN := 80 } } };
      (s.commitCheck p).1 = .ok ∧ (s.clk.pll p).shM = (s.clk.pll p).actM ∧ (s.clk.pll p).shN = (s.clk.pll p).actN ∧ (s.clk.pll p).shP = (s.clk.pll p).actP) ∧
    (pllOf .ref fun l => { l with phase := .committing }).clk.pllBusy = true ∧
    (let s := { commits with clk := { commits.clk with pllA := { commits.clk.pllA with shP := 7 } } };
      s.clk.pllBusy = false ∧ (s.clk.pll .a).refOk = true ∧ (s.clk.pll .a).shP ≠ 8) := by
  simp only [State.serves]; decide

theorem witness_AMeasurementRewritesTheBandTable :
    (awake.serves ∧ (pllOf .ref fun l => { l with phase := .measuring }).clk.pllBusy = true) ∧
    (awake.clk.pllBusy = false ∧ (awake.clk.pll .b).refOk = false) ∧
    (let s := commits.upCh 3 fun c => { c with loop := { c.loop with st := .primary } };
      s.clk.pllBusy = false ∧ s.clk.pllA.refOk = true ∧ s.allQuiet = false) ∧
    (let s := commits.upCell 3 fun x => { x with switchOn := true };
      s.clk.pllBusy = false ∧ s.clk.pllA.refOk = true ∧ s.allQuiet = true ∧ s.allSwitchesOpen = false) ∧
    (commits.clk.pllBusy = false ∧ (commits.clk.pll .a).refOk = true ∧ commits.allQuiet = true ∧ commits.allSwitchesOpen = true ∧
      [(4000001, 4000999)][0]? = some (4000001, 4000999)) := by
  simp only [State.serves]; decide +kernel

theorem witness_OutputsAndCrystalChangeAlone :
    awake.serves ∧ (0x05000000 : Word).toNat / 2 ^ 24 % 8 = 5 ∧ (0x87000000 : Word).toNat / 2 ^ 24 % 8 = 7 ∧ (0 : Word).toNat / 2 ^ 24 % 8 = 0 ∧
    (0x03000000 : Word).toNat / 2 ^ 24 % 8 = 3 ∧ awake.clk.xtal = false ∧ (clocked fun c => { c with xtal := true }).clk.xtal = true := by
  simp only [State.serves]; decide

/-! ### Witnesses: the host port -/

theorem witness_TimeReadsLatchTheHighHalf : ({ State.reset with time := 0x100000000 } : State).runs := rfl

theorem witness_ReadsLatchTheirSnapshots :
    awake.runs ∧ ((measured fun m => { m with loRead := true }).ch 3).meas.loRead = true ∧ (awake.ch 63).meas.loRead = false ∧
    findAt awake.flt.coffer awake.flt.cofferSel.toNat = some (powerUpRecord 1) ∧
    (let s := { awake with flt := { awake.flt with cofferSel := 0xFFF } }; findAt s.flt.coffer s.flt.cofferSel.toNat = none) := by
  simp only [State.runs]; decide

def readOf (op : BitVec 8) (a : Addr) (k : Nat) : ReadFrame :=
  { opcode := op, devId := 0, addr := a, len := 0, headerCrc := crc16 (headerBytes op 0 a 0), count := k, headerDone := true }

theorem witness_ReadFramesDriveTheirWords :
    ([0xA1, 0xA3, 0xA5, 0xA7, 0xA9, 0xAB, 0xAD, 0xAF].all fun op => let f := readOf op 0x1014 1;
      f.headerDone && f.devId == awake.lnk.devId.setWidth 16 && f.addr.extractLsb' 0 2 == 0 && f.count == 1 &&
      (awake.readWord f.addr).isSome && f.headerCrc == crc16 (headerBytes f.opcode f.devId f.addr f.len)) = true ∧
    awake.runs ∧ (readOf 0xA1 0x1014 0).count = 0 ∧ awake.readWord (readOf 0xA1 0xFFFFFC 1).addr = none ∧
    (let f := { readOf 0xA9 0x1014 1 with headerCrc := 0 }; f.headerCrc ≠ crc16 (headerBytes f.opcode f.devId f.addr f.len)) ∧
    ((readOf 0x9F 0 0).opcode.toNat < 0xA0 ∧ 0xB0 ≤ (readOf 0xB0 0 0).opcode.toNat) ∧
    (let f := { readOf 0xA1 0x1014 1 with devId := 0xFFF }; f.devId.extractLsb' 12 4 = 0 ∧ f.devId.extractLsb' 0 12 ≠ awake.lnk.devId ∧
      awake.lnk.root = false) := by
  simp only [State.runs]; decide +kernel

def writeOf (op : BitVec 8) (a : Addr) (l : List Word) : WriteFrame :=
  { opcode := op, devId := 0, addr := a, len := 0, words := l, tail := 0, crc := 0, headerDone := true, collide := false }

theorem witness_WriteFramesLandTheirWords :
    awake.serves ∧ awake.host.crcReq = false ∧ ({ awake with host := { crcReq := true } } : State).host.crcReq = true ∧
    (let f := writeOf 0xA0 0x1014 [7]; f.headerDone = true ∧ f.devId = awake.lnk.devId.setWidth 16 ∧ f.addr.extractLsb' 0 2 = 0 ∧
      f.collide = false ∧ f.tail = 0 ∧ awake.writable f.addr = true) ∧
    (let f := writeOf 0xA4 (chAddr 3 0x048) [7, 8]; f.devId = awake.lnk.devId.setWidth 16 ∧ f.addr.extractLsb' 0 2 = 0 ∧ awake.writable f.addr = true ∧
      awake.writable (f.addr + 4) = true) ∧
    awake.writable (writeOf 0xA0 0xFFFFFC [7]).addr = false ∧
    ([0xA2, 0xA6].all fun op => let f := writeOf op 0x1014 [7, 8]; f.tail == 0 && f.words == [7, 8] && awake.writable f.addr) = true ∧
    (([0xA0, 0xA2, 0xA4, 0xA6] : List (BitVec 8)).all fun op => op.extractLsb' 3 5 == 0b10100 && !op.getLsbD 0) = true ∧
    (let f := writeOf 0xA8 0x1014 [7]; f.words.length = f.len.toNat + 1 ∧ f.tail = 0 ∧
      f.crc ≠ crc16 (headerBytes f.opcode f.devId f.addr f.len ++ dataBytes f.words)) := by
  simp only [State.serves]; decide +kernel

theorem witness_IncrementingFramesJudgeEachWord :
    (0xA0 : BitVec 8).getLsbD 1 = false ∧ (awake.readWord 0x1014).isSome = true ∧ awake.readWord 0xFFFFFC = none := by decide +kernel

theorem witness_SingleWordsLandAndReadsClear :
    (awake.serves ∧ awake.readWord 0xFFFFFC = none ∧ awake.takes 0 ∧ awake.takes 63 ∧
      (([0x20, 0x22] : List Word).all fun v => !v.getLsbD 2 && !v.getLsbD 3 && !v.getLsbD 4 && v.getLsbD 5 &&
        v.getLsbD 0 == ((awake.ch 63).cfg.mode == .current)) = true) ∧
    0x200000 ≤ (0x200000 : Addr).toNat ∧ (0x2FFFFC : Addr).toNat < 0x300000 ∧ 0x32000 ≤ (0x32000 : Addr).toNat :=
  ⟨by simp only [State.takes, State.serves]; decide +kernel, by decide⟩

/-! ### Witnesses: the force path -/

/-- CH_3 keeps its ranges (0xF), in mode `m`, class `k`, with the switch at `o` and the loops at `l`. -/
def keepsRanges (m : ForceMode) (k : UpdateClass) (o : OutState) (l : LoopState) : State :=
  chan fun c => { c with cfg := { c.cfg with mode := m, cls := k, setV := 15, setI := 15 }, force := { c.force with out := o }, loop := { c.loop with st := l } }

theorem witness_ALoadStrobeAppliesTheLevel :
    (let s := chan fun c => { c with decl := { c.decl with syncSet := 1 } }; s.takes 3 ∧ (s.ch 3).decl.syncSet ≠ 0) ∧
    (let s := stranded fun g => { g with st := .armed }; s.takes 3 ∧ (s.ch 3).strand.st.active = true) ∧
    ∀ x ∈ [(ForceMode.voltage, UpdateClass.strobed, OutState.closed, LoopState.opened), (.voltage, .stream, .closed, .opened),
        (.voltage, .strobed, .resting, .opened),
        (.current, .strobed, .opened, .opened), (.current, .strobed, .closed, .primary)],
      let s := keepsRanges x.1 x.2.1 x.2.2.1 x.2.2.2;
      s.takes 3 ∧ (s.ch 3).decl.syncSet = 0 ∧ (s.ch 3).strand.st.active = false ∧ (s.ch 3).strand.pulse = none ∧
      (s.ch 3).loop.complPend = false ∧ (s.ch 3).cfg.setV = 15 ∧ (s.ch 3).cfg.setI = 15 ∧ ((s.sample 3).ch 3).range.wantV = none ∧
      ((s.sample 3).ch 3).range.wantI = none ∧ ((s.sample 3).ch 3).range.hst ≠ .vSwitch ∧ (s.ch 3).loop.manualNow = false ∧ (s.ch 3).cfg.mode = x.1 ∧ (s.ch 3).cfg.cls = x.2.1 ∧ (s.ch 3).force.out = x.2.2.1 ∧
      (s.ch 3).force.closeRest = false ∧ (s.ch 3).loop.st = x.2.2.2 := by
  simp only [State.takes, State.serves]; decide +kernel

theorem witness_StageTwoSaturatesToTheSpan :
    isBoost (awake.ch 3).range.i = false ∧ (∀ x ∈ [-524288, 524287], (-524288 : Int) ≤ x ∧ x ≤ 524287) ∧ (524287 : Int) < 524288 ∧ (-524289 : Int) < -524288 := by
  decide

theorem witness_ModeAndClassTakeEffectWithTheCommandHeld :
    (awake.takes 3 ∧ (awake.ch 3).loop.st.closed = false ∧ (awake.ch 3).strand.st.active = false ∧ (awake.ch 3).eff.cls = .strobed ∧
      (awake.ch 3).cfg.mode = .voltage) ∧
    (let s := looped fun l => { l with st := .primary }; s.takes 3 ∧ (s.ch 3).cfg.mode ≠ .current ∧ (s.ch 3).loop.st.closed = true) ∧
    (let s := stranded fun g => { g with st := .armed }; s.takes 3 ∧ (s.ch 3).cfg.mode ≠ .current ∧ (s.ch 3).strand.st.active = true) := by
  simp only [State.takes, State.serves]; decide

def output (o : OutState) : State := forced fun f => { f with out := o }

theorem witness_TheSwitchClosesAtThePinVoltage :
    (awake.takes 3 ∧ (awake.ch 3).map.avail = false) ∧ (∀ o ∈ [OutState.resting, .hold, .graveOpen], (output o).takes 3 ∧ ((output o).ch 3).force.out = o) ∧
    (∀ o ∈ [OutState.closing, .closed, .restHold, .opened, .restOpen, .tripOpen], (output o).takes 3 ∧
      (((output o).sample 3).ch 3).refusesSwitch (output o).time = false ∧ ((output o).ch 3).force.out = o ∧
      (((output o).sample 3).ch 3).restStarts (output o).time = false ∧ ((output o).ch 3).force.closeRest = false) ∧
    (∀ o ∈ [OutState.hold, .graveOpen], ((output o).ch 3).force.out = o ∧ (((output o).sample 3).ch 3).restStarts (output o).time = false) ∧
    (let s := forced fun f => { f with out := .closed, closeRest := true }; s.takes 3 ∧ (s.ch 3).force.out = .closed ∧ (s.ch 3).force.closeRest = true) ∧
    (∀ r ∈ [false, true], let s := { forced fun f => { f with out := .closing, closeAt := some 0, closeRest := r } with time := 2048 };
      s.runs ∧ (s.ch 3).map.cell = some 3 ∧ (s.bay (CellIx.bay 3)).awake = true ∧ s.jtag.ir.holdsPins = false ∧ 3 ∉ s.pwr.waitRest ∧ (s.ch 3).force.out = .closing ∧
      (s.ch 3).force.closeAt = some 0 ∧ 0 + 2048 ≤ s.time) ∧
    (let s := forced fun f => { f with out := .restHold, restAt := some 0 }; s.takes 3 ∧ ((s.sample 3).ch 3).restStarts s.time = true) ∧
    (let s := forced fun f => { f with tripped := true }; s.takes 3 ∧ (s.ch 3).force.tripped = true) := by
  refine ⟨?_, ?_, ?_, ?_, ?_, ?_, ?_, ?_⟩ <;> (try simp only [State.takes, State.serves, State.runs]) <;> decide +kernel

theorem witness_RestTakesTheOutputToItsRestValue :
    (awake.takes 3 ∧ (awake.ch 3).decl.enabled = false) ∧
    (∀ x ∈ [(false, OutState.closed, false), (true, .tripOpen, true), (true, .closed, false), (true, .opened, false)],
      let s := chan fun c => { c with decl := { c.decl with rsClose := x.1 }, force := { c.force with out := x.2.1, tripped := x.2.2 } };
      s.takes 3 ∧ (s.ch 3).decl.enabled = true ∧ (s.ch 3).map.cell.isSome = true ∧ (s.ch 3).strand.st.active = false ∧ (s.ch 3).strand.endAt ≠ some s.time ∧
      (s.ch 3).force.out = x.2.1 ∧ (s.ch 3).force.out ≠ .graveOpen ∧ (s.ch 3).force.out ≠ .hold ∧ 3 ∉ s.pwr.waitRest ∧
      (s.ch 3).decl.rsClose = x.1 ∧ (s.ch 3).force.tripped = x.2.2) ∧
    (let s := output .resting; s.runs ∧ (s.ch 3).force.out = .resting ∧ (s.ch 3).force.code = (s.ch 3).force.rsCode ∧ (s.ch 3).range.wantV = none ∧
      (s.ch 3).range.hst ≠ .vSwitch ∧ s.pwr.boot = none) ∧
    (∀ x ∈ [(OutState.resting, 262144), (.restOpen, 262144), (.restHold, 0)],
      let s := { graveSet (forced fun f => { f with out := x.1, restAt := some 0 }) with time := x.2 };
      s.runs ∧ s.flt.grave = true ∧ (s.ch 3).force.restAt = some 0 ∧ (s.ch 3).force.out ≠ .graveOpen ∧ (s.ch 3).canRest = true ∧
      ((s.ch 3).force.out = .restHold ∨ 0 + 262144 ≤ s.time)) := by
  simp only [State.takes, State.serves, State.runs]; decide +kernel

def queued (l : List (Option Level)) : State := chan fun c => { c with eff := { c.eff with cls := .stream }, queue := l }

theorem witness_TheStreamQueueIsAFifo :
    (let s := queued [some 1, some 2]; s.serves ∧ (s.ch 3).queue.length < 256 ∧ (s.ch 3).streamInstant s.period = true ∧
      (s.ch 3).queue = some 1 :: [some 2] ∧ (s.bay (chBay 3)).awake = true ∧ (s.ch 3).map.member = false) ∧
    (let s := queued (List.replicate 255 none); (s.ch 3).queue.length < 256) ∧
    (let s := queued (List.replicate 256 none); 256 ≤ (s.ch 3).queue.length) ∧
    (let s := queued []; (s.ch 3).streamInstant s.period = true ∧ (s.ch 3).queue = []) := by
  simp only [State.serves]; decide +kernel

def kept (f : Keeper → Keeper) : State := awake.upCell 3 fun x => { x with keeper := f x.keeper }

theorem witness_KeepersHoldThenOpen :
    (let s := kept fun x => { x with armed := true }; s.runs ∧ (s.cell 3).keeper.armed = true ∧ (s.cell 3).keeper.hold = false ∧ s.carried 3 = some 3) ∧
    (let s := (awake.upCell 8 fun x => { x with keeper := { x.keeper with armed := true } }); s.carried 8 = none ∧ (s.cell 8).keeper.armed = true) ∧
    (let s := held (kept fun x => { x with hold := true }); s.pwr.inReset = true ∧ (s.cell 3).keeper.hold = true) ∧
    (let s := kept fun x => { x with hold := true }; s.runs ∧ (s.cell 3).keeper.hold = true ∧ s.carried 3 = some 3) ∧
    (let s := awake.upCell 8 fun x => { x with keeper := { x.keeper with hold := true } }; s.runs ∧ (s.cell 8).keeper.hold = true ∧ s.carried 8 = none) ∧
    (awake.cell 71).keeper.hold = false := by
  simp only [State.runs]; decide +kernel

/-! ### Witnesses: the loop engine -/

def loopIn0 : LoopIn :=
  { rawV := 0, rawI := 0, rawOvl := 0, others := [], shadowTap := 0, vpos := 15000, vneg := 15000, check := .agree, memberChecks := [.agree], shadowAgrees := true }

theorem witness_ALoopUpdateFollowsTheStateTable :
    ∀ x ∈ [LoopState.opened, .pending, .preset, .primary, .confirmCmp, .compliance, .confirmPri, .held], let s := looped fun l => { l with st := x };
      s.runs ∧ (s.ch 3).map.cell = some 3 ∧ s.updates 3 = true ∧ loopIn0.check = .agree ∧ loopIn0.memberChecks = [.agree] ∧ s.migOf 3 = none ∧ (s.ch 3).range.hst ≠ .vSwitch ∧
      (s.ch 3).range.wantV = none ∧ (s.ch 3).range.wantLevel = none ∧ (s.ch 3).loop.st = x ∧ (s.ch 3).range.hst = .idle ∧ (s.ch 3).force.out = .opened := by
  simp only [State.runs]; decide +kernel

def limits (target : Code) (cnt : Nat) : State := forced fun f => { f with out := .closed, target := target, rateCnt := cnt }

theorem witness_TheLimiterStepsTowardItsTarget :
    (awake.runs ∧ awake.updates 3 = true ∧ (awake.ch 3).force.stepAt ≠ some awake.period ∧
      (awake.ch 3).force.out.switchClosed (awake.ch 3).force.tripped = false) ∧
    ((chan fun c => { c with decl := { c.decl with lowPower := true }, force := { c.force with stepAt := some 0 } }).ch 3).force.stepAt = some awake.period ∧
    (let s := { (chan fun c => { c with decl := { c.decl with lowPower := true } }) with time := 256 }; s.updates 3 = false) ∧
    ((limits 0 0).runs ∧ (limits 0 0).updates 3 = true ∧ ((limits 0 0).ch 3).decl.lowPower = false ∧ ((limits 0 0).ch 3).force.out = .closed ∧ ((limits 0 0).ch 3).force.code = ((limits 0 0).ch 3).force.target) ∧
    (((limits 1 1).ch 3).force.code ≠ ((limits 1 1).ch 3).force.target ∧ ((limits 1 1).ch 3).force.rateCnt ≠ 0) ∧
    (∀ x ∈ [(4096 : Int), -4096, 4097, -4097], let c := (limits (BitVec.ofInt 20 x) 0).ch 3;
      c.force.rateCnt = 0 ∧ c.eff.slewStep.toNat = 4096 ∧ c.force.target.toInt - c.force.code.toInt = x) := by
  simp only [State.runs]; decide +kernel

theorem witness_LoopRegistersActByState :
    (awake.takes 3 ∧ (awake.ch 3).map.avail = false) ∧ (∀ o ∈ [OutState.resting, .graveOpen], (output o).takes 3 ∧ ((output o).ch 3).force.out = o) ∧
    (∀ o ∈ [OutState.closed, .restHold, .opened], (output o).takes 3 ∧ (((output o).sample 3).ch 3).refusesClose = false ∧
      ((output o).ch 3).loop.st = .opened ∧ (output o).jtag.ir.holdsPins = false ∧ ((output o).ch 3).force.out = o ∧ ((output o).ch 3).force.closeRest = false) ∧
    (let s := forced fun f => { f with out := .closed, closeRest := true }; (s.ch 3).force.out = .closed ∧ (s.ch 3).force.closeRest = true ∧
      ((s.sample 3).ch 3).refusesClose = false ∧ (s.ch 3).loop.st = .opened) ∧
    (let s := looped fun l => { l with st := .primary }; s.takes 3 ∧ ((s.sample 3).ch 3).refusesClose = false ∧ (s.ch 3).loop.st ≠ .opened) ∧
    (let s := looped fun l => { l with complApplied := 0x1000 }; s.takes 3 ∧ mag (s.ch 3).loop.complApplied ≤ mag 0x1000 ∧
      mag (s.ch 3).loop.complApplied ≤ mag 0xFFFFF000 ∧ mag 0xFFF < mag (s.ch 3).loop.complApplied ∧ (s.ch 3).range.wantI = none) := by
  simp only [State.takes, State.serves]; decide +kernel

/-! ### Witnesses: measuring -/

/-- A conversion of kind `k` on input `i` of modulator `m`, from 0 to 256. -/
def conv (k : ConvKind) (m : Modulator) (i : BitVec 3) : Conv :=
  { kind := k, entry := 0, md := m, settling := false, tStart := 0, tEnd := 256, input := i, gain := 0, len := 256, disturbed := false,
    clip := false }

def running (r : RunMode) (f : MeasSt → MeasSt) : State :=
  chan fun c => { c with cfg := { c.cfg with run := r }, eff := { c.eff with run := r }, meas := f c.meas }

theorem witness_RunModesStartAndStopPasses :
    (let s := running .stop id; s.takes 3 ∧ (s.ch 3).meas.pass = none ∧ (s.ch 3).cfg.run = .stop ∧ (s.ch 3).meas.convs = [] ∧
      (s.ch 3).cfg.first.toNat ≤ min (s.ch 3).cfg.last.toNat ((s.ch 3).cfg.seqLen.toNat - 1)) ∧
    (let s := chan fun c => { c with cfg := { c.cfg with first := 2, last := 1, run := .single } }; s.takes 3 ∧ (s.ch 3).cfg.run = .single ∧
      (s.ch 3).meas.pass = none ∧ min (s.ch 3).cfg.last.toNat ((s.ch 3).cfg.seqLen.toNat - 1) < (s.ch 3).cfg.first.toNat) ∧
    (let s := running .single fun m => { m with pass := some { next := 0, last := 0 } }; s.takes 3 ∧ (s.ch 3).cfg.run = .single ∧ (s.ch 3).meas.pass ≠ none) ∧
    (let s := running .stop fun m => { m with convs := [conv .seq .v 0] }; s.takes 3 ∧ (s.ch 3).meas.convs ≠ []) ∧
    (let s := running .continuous id; s.takes 3 ∧ (s.ch 3).cfg.run ≠ .single ∧ (s.ch 3).cfg.run ≠ .stop) ∧
    (State.reset.runs ∧ State.reset.converts 3 = false) ∧
    (∀ l ∈ [[], [conv .seq .v 0]], let s := running .single fun m => { m with convs := l, pass := some { next := 0, last := 0 } };
      s.runs ∧ s.converts 3 = true ∧ (s.ch 3).meas.cal.st = .idle ∧ (s.ch 3).meas.injHeld = none ∧ (s.ch 3).meas.redo = [] ∧ (s.ch 3).meas.convs.all (fun v => v.kind == .seq) = true ∧
      (s.ch 3).meas.pass = some { next := 0, last := 0 } ∧
      (let q := (s.ch 3).seqEntry (BitVec.ofNat 4 0); (s.ch 3).modFree (modOf q.input (effGain q.input q.gain)) q.input = l.isEmpty)) := by
  simp only [State.takes, State.serves, State.runs]; decide +kernel

def convIn0 : ConvIn := { raw := 0x200000, second := none, others := [], overSpan := false }

theorem witness_ConversionsDeliverTheirResults :
    (∀ v ∈ [conv .seq .v 0, conv .urgent .v 0, conv .seq .ovl 4], let s := { measured fun m => { m with convs := [v] } with time := 256 };
      s.runs ∧ (s.ch 3).map.cell = some 3 ∧ (s.ch 3).map.member = false ∧ (s.ch 3).endedConv v.md false s.time = some v ∧ (s.ch 3).eff.run ≠ .strand) ∧
    ((awake.ch 3).eff.pubMask.getLsbD 0 = true ∧ (awake.ch 3).eff.pubMask.getLsbD 1 = false) ∧
    (let v := conv .seq .v 0; v.input = 0 ∧ v.md = .v ∧ v.gain = 0 ∧ convIn0.overSpan = false ∧ (awake.bay (CellIx.bay 3)).vrefExt = false) ∧
    (let s := measured fun m => { m with convs := [conv .seq .v 0], resAt := 256, pairDone := false, res := { m.res with entry := 1 } };
      let r := s.resultOf 3 3 (conv .seq .v 0) convIn0; (s.ch 3).meas.resAt = (conv .seq .v 0).tEnd ∧ (s.ch 3).meas.pairDone = false ∧
      r.rank < (s.ch 3).meas.res.rank) ∧
    (let d := ((measured fun m => { m with demod := { m.demod with open_ := true, wraps := 0, n := 1 } }).ch 3).meas.demod;
      d.open_ = true ∧ (1 : BitVec 10).toNat ≤ d.wraps + 1) ∧
    ((measured fun m => { m with demod := { m.demod with fin := some (1, -1, 0, 512, 1, 0) } }).ch 3).meas.demod.fin = some (1, -1, 0, 512, 1, 0) ∧
    (awake.ch 3).meas.demod.fin = none ∧ awake.takes 3 := by
  refine ⟨?_, ?_, ?_, ?_, ?_, ?_, ?_, ?_⟩ <;> (try simp only [State.takes, State.serves, State.runs]) <;> decide +kernel

theorem witness_InjectionsFollowTheSlotOfDepthOne :
    (let s := measured fun m => { m with convs := [conv .seq .v 0] }; let c := (s.sample 3).ch 3;
      s.takes 3 ∧ c.injRuns = false ∧ c.calRuns = false ∧ c.range.ovl = none ∧ c.meas.convs ≠ []) ∧
    (let s := measured fun m => { m with convs := [conv .opp .v 0] }; let c := (s.sample 3).ch 3; s.takes 3 ∧ c.injRuns = true ∧ c.meas.injHeld = none) ∧
    (let s := measured fun m => { m with convs := [conv .cal .v 0], injHeld := some 15 }; let c := (s.sample 3).ch 3;
      s.takes 3 ∧ c.calRuns = true ∧ c.meas.injHeld ≠ none) ∧
    (let s := chan fun c => { c with meas := { c.meas with pass := some { next := 0, last := 0 } } }; let c := (s.sample 3).ch 3;
      s.takes 3 ∧ c.meas.convs = [] ∧ c.startsNow = true) ∧
    (let c := ((chan id).sample 3).ch 3; (chan id).takes 3 ∧ c.meas.convs = [] ∧ c.startsNow = false ∧ c.eff.run ≠ .strand ∧ c.range.ovl = none) := by
  simp only [State.takes, State.serves]; decide +kernel

/-- A calibration session at `st`, TARGET 1, with REF 2²¹ and the zero point `z`. -/
def session (st : CalState) (z : Int) (l : List Conv) : State :=
  chan fun c => { c with eff := { c.eff with calRef := 0x200000 }, cfg := { c.cfg with calRef := 0x200000 },
                         meas := { c.meas with convs := l, cal := { c.meas.cal with st := st, target := 1, z := z } } }

theorem witness_CalibrationSessionsFollowTheirSteps :
    (let s := chan id; s.takes 3 ∧
      (let d := ((s.upCh 3 fun x => { x with cfg := { x.cfg with calTarget := 1 } }).sample 3).ch 3; d.calCheck 1 = none) ∧
      (let d := ((s.upCh 3 fun x => { x with cfg := { x.cfg with calTarget := 30 } }).sample 3).ch 3; d.calCheck 30 = none) ∧
      (let d := ((s.upCh 3 fun x => { x with cfg := { x.cfg with calTarget := 31 } }).sample 3).ch 3; d.calCheck 31 = some .badTarget) ∧
      (let c := (s.sample 3).ch 3; c.injRuns = false ∧ c.meas.injHeld = none ∧ c.calRuns = false)) ∧
    (let s := measured fun m => { m with convs := [conv .opp .v 0] }; let c := (s.sample 3).ch 3; s.takes 3 ∧ c.injRuns = true ∧
      (((s.upCh 3 fun x => { x with cfg := { x.cfg with calTarget := 1 } }).sample 3).ch 3).calCheck 1 = none) ∧
    (let s := session .zeroDone 0 []; let c := (s.sample 3).ch 3; s.takes 3 ∧ c.meas.cal.st = .zeroDone ∧ c.injRuns = false ∧ c.meas.injHeld = none ∧
      c.meas.cal.target ≠ 30) ∧
    (∀ x ∈ [CalState.zeroRun, .wait, .fullRun], (session x 0 []).takes 3 ∧ (((session x 0 []).sample 3).ch 3).meas.cal.st = x ∧
      ((session x 0 []).ch 3).map.cell = some 3) ∧
    (let s := session .ready 0 []; let c := (s.sample 3).ch 3; s.takes 3 ∧ c.meas.cal.st = .ready ∧ (s.ch 3).map.cell = some 3 ∧ c.meas.cal.target ≠ 30 ∧
      s.cel.st ≠ .ready ∧ c.meas.cal.st ≠ .idle ∧ c.meas.cal.st ≠ .storing) ∧
    ∀ x ∈ [(CalState.zeroRun, (0 : Int)), (.fullRun, 0), (.fullRun, 0x200000)],
      let s := { session x.1 x.2 [conv .cal .v 0] with time := 256 }; let c := s.ch 3; let r := s.convValue 3 3 (conv .cal .v 0) convIn0 (some 1);
      s.runs ∧ c.map.cell = some 3 ∧ c.endedConv (calMod c.meas.cal.target) true s.time = some (conv .cal .v 0) ∧ c.meas.cal.target.toNat < 29 ∧
      r.2 = false ∧ convIn0.overSpan = false ∧ c.meas.cal.st = x.1 ∧
      (2 : Int) ^ 21 ≤ (c.eff.calRef.toInt.natAbs : Int) * 2 ^ (calInput c.meas.cal.target).2.toNat ∧
      (x.2 = 0 → r.1 ≠ c.meas.cal.z ∧ (r.1 - c.meas.cal.z < 0 ↔ c.eff.calRef.toInt < 0) ∧ gmOk (gainTrim c.meas.cal.z r.1 c.eff.calRef.toInt) = true ∧
        omOk c.meas.cal.z = true) ∧ (x.2 ≠ 0 → r.1 = c.meas.cal.z) := by
  refine ⟨?_, ?_, ?_, ?_, ?_, ?_⟩ <;> (try simp only [State.takes, State.serves, State.runs]) <;> decide +kernel

/-! ### Witnesses: ranging -/

theorem witness_OverlapsEngageHandOverAndSquash :
    (∀ x ∈ [(some 6, none), (none, some 6)], let s := chan fun c => { c with eff := { c.eff with policy := .full }, range := { c.range with wantI := x.1, fire := x.2 } };
      let c := s.ch 3;
      s.runs ∧ s.mayRange 3 = true ∧ c.range.hst = .idle ∧ isBoost c.range.i = false ∧ isBoost 6 = false ∧ c.range.wantI = x.1 ∧
      c.prearm s.time = none ∧ c.fired = x.2) ∧
    (∀ x ∈ [(some 6, Origin.command, 1, 0, 0), (none, .predictor, 0, 2, 0), (none, .predictor, 127, 0, 15), (none, .predictor, 127, 0, 16), (none, .predictor, 128, 0, 15)],
      let s := ranged fun r => { r with hst := .overlap, ovl := some 6, wantI := x.1, origin := x.2.1, steps := x.2.2.1, cross := x.2.2.2.1, miss := x.2.2.2.2 };
      let c := s.ch 3;
      s.runs ∧ s.mayRange 3 = true ∧ c.range.hst = .overlap ∧ c.range.ovl = some 6 ∧ isBoost c.range.i = false ∧ c.range.wantLevel = none ∧
      c.range.wantI = x.1 ∧ c.range.origin = x.2.1 ∧ c.range.steps = x.2.2.1 ∧ c.range.cross = x.2.2.2.1 ∧ c.range.miss = x.2.2.2.2 ∧ 4 * c.horizon = 128) ∧
    (∀ h ∈ [HState.blend, .resettle, .release], let s := ranged fun r => { r with hst := h }; s.runs ∧ s.mayRange 3 = true ∧ (s.ch 3).range.hst = h) ∧
    (∀ k ∈ [15, 16], let s := ranged fun r => { r with hold := some k }; s.runs ∧ s.mayRange 3 = true ∧ (s.ch 3).range.hold = some k) := by
  refine ⟨?_, ?_, ?_, ?_⟩ <;> simp only [State.runs] <;> decide +kernel

/-- CH_3 with every booster range at 100 mA, the range code `i`, the fast-path current `x` and the range `w` wanted. -/
def booster (i : BitVec 4) (x : Level) (w : BitVec 4) : State :=
  chan fun c => { c with decl := { c.decl with boost := Vector.replicate 3 (true, 1000000, 100000) }, loop := { c.loop with fastI := x },
                         range := { c.range with i := i, wantI := some w } }

theorem witness_RangeChangesFollowTheirSequences :
    (let s := { (ranged fun r => { r with hst := .vSwitch, steps := 0, wantV := some 2, vAt := 0 }) with time := 256 }; let c := s.ch 3; s.runs ∧
      c.range.hst = .vSwitch ∧ c.range.steps = 0 ∧ c.range.vAt + 256 ≤ s.time ∧ c.range.wantV = some 2 ∧ c.force.out.switchClosed c.force.tripped = false ∧ c.overSpan 2 = false) ∧
    (let s := { (ranged fun r => { r with hst := .vSwitch, vAt := 0 }) with time := 255 }; s.time < (s.ch 3).range.vAt + 256) ∧
    (let s := booster 7 0 8; let c := s.ch 3; s.runs ∧ s.mayRange 3 = true ∧ c.range.hst = .idle ∧ c.range.wantI = some 8 ∧ c.range.i = 7 ∧ isBoost 8 = true) ∧
    (let s := booster 8 0 7; let c := s.ch 3; s.mayRange 3 = true ∧ isBoost c.range.i = true ∧ c.range.i = c.lowBoost ∧ isBoost 7 = false ∧ c.below16mA = true) ∧
    (let s := booster 8 0x7FFFFFFF 7; let c := s.ch 3; isBoost c.range.i = true ∧ c.range.i = c.lowBoost ∧ c.below16mA = false) ∧
    (let s := booster 8 0 10; let c := s.ch 3; isBoost c.range.i = true ∧ isBoost 10 = true ∧ (10 : BitVec 4) ≠ c.range.i ∧ c.range.wantLevel = none) ∧
    (let s := chan id; let c := s.ch 3; s.takes 3 ∧ c.range.hst ≠ .vSwitch ∧ 2 < ((0x30 : Word).extractLsb' 4 4).toNat ∧
      10 < ((0x0B : Word).extractLsb' 0 4).toNat ∧ c.declared ((0x08 : Word).extractLsb' 0 4) = false ∧
      ((0x27 : Word).extractLsb' 4 4).toNat ≤ 2 ∧ c.declared ((0x27 : Word).extractLsb' 0 4) = true) := by
  refine ⟨?_, ?_, ?_, ?_, ?_, ?_, ?_⟩ <;> (try simp only [State.takes, State.serves, State.runs]) <;> decide +kernel

/-! ### Witnesses: strands -/

/-- A Major fault of CH_3's source reacts at this boundary. -/
def faulted (s : State) : State :=
  { s with time := 256, flt := { s.flt with reactions := [{ msg := { src := srcCh 3, kind := 1, addr := 0 }, cls := .major, unit := srcCh 3, tag := 1 }] } }

theorem witness_StrandsStartAndEndOnCommand :
    (let s := chan id; let c := (s.sample 3).ch 3; let e := (s.sample 3).strandOf 3 false 0; s.takes 3 ∧ e.channel.toNat ≠ 3 ∧
      (let e := (s.sample 3).strandOf 3 true 0; e.channel.toNat = 3 ∧ (decide (e.type = .stream) = decide (c.eff.cls = .stream)) ∧ c.map.avail = true ∧
        c.strand.st.active = false ∧ c.meas.cal.st = .idle)) ∧
    (let s := chan fun c => { c with cfg := { c.cfg with type := .stream } }; let c := (s.sample 3).ch 3; let e := (s.sample 3).strandOf 3 true 0;
      s.takes 3 ∧ e.channel.toNat = 3 ∧ e.type = .stream ∧ c.eff.cls ≠ .stream) ∧
    (let s := awake; let c := (s.sample 3).ch 3; let e := (s.sample 3).strandOf 3 true 0; s.takes 3 ∧ e.channel.toNat = 3 ∧ e.type ≠ .stream ∧
      c.eff.cls ≠ .stream ∧ c.map.avail = false) ∧
    (let s := session .ready 0 []; let c := (s.sample 3).ch 3; let e := (s.sample 3).strandOf 3 true 0; s.takes 3 ∧ e.channel.toNat = 3 ∧ e.type ≠ .stream ∧
      c.eff.cls ≠ .stream ∧ c.map.avail = true ∧ c.meas.cal.st ≠ .idle) ∧
    (∀ x ∈ [none, some 0], let s := stranded fun g => { g with st := .running, committed := x }; let c := (s.sample 3).ch 3;
      s.takes 3 ∧ c.strand.st.active = true ∧ c.strand.committed = x ∧ c.strand.endReq = none ∧ (s.sample 3).faultDue 3 = false) ∧
    (let s := faulted (stranded fun g => { g with st := .running }); s.takes 3 ∧ ((s.sample 3).ch 3).strand.st.active = true ∧ (s.sample 3).faultDue 3 = true) ∧
    (let s := stranded fun g => { g with st := .stopped, endAt := some 0, reason := .stop }; let c := (s.sample 3).ch 3; s.takes 3 ∧
      c.strand.st.active = false ∧ c.strand.endAt = some s.time ∧ c.strand.reason = .stop ∧ c.strand.committed = none ∧ (s.sample 3).faultDue 3 = false) ∧
    (let s := chan id; let c := (s.sample 3).ch 3; s.takes 3 ∧ c.strand.st.active = false ∧ c.strand.endAt ≠ some s.time) := by
  refine ⟨?_, ?_, ?_, ?_, ?_, ?_, ?_, ?_⟩ <;> (try simp only [State.takes, State.serves]) <;> decide +kernel

def bead (flags : BitVec 12) (bad : Option Reason) : Prep :=
  { index := 0, endIndex := 0, point := 0, points := 1, level := 0, compl := 0x7FFFFFFF, v := 15, i := 15, dwell := 1, sel := 0, flags := flags, link := 0,
    bad := bad, fixed := false, ue := false }

theorem witness_BeadsCommitAndRunAheadIsSquashed :
    (awake.runs ∧ awake.mayCommit 3 = false) ∧
    (∀ b ∈ [none, some Reason.badRange], let s := stranded fun g => { g with st := .running, ahead := [bead 0x20 b] }; let c := s.ch 3;
      s.runs ∧ s.mayCommit 3 = true ∧ c.decl.syncSet = 0 ∧ c.front = some (bead 0x20 b) ∧ (bead 0x20 b).ue = false ∧ (bead 0x20 b).bad = b ∧
      (bead 0x20 b).isSilent = true ∧ (bead 0x20 b).v = 15 ∧ (bead 0x20 b).i = 15 ∧ c.range.wantV = none ∧ c.range.wantI = none ∧ c.range.hst = .idle ∧
      c.eff.cls = .strobed ∧ c.strand.endReq = none ∧ s.faultDue 3 = false) ∧
    (∀ x ∈ [(true, false), (false, true)],
      let s := { stranded fun g => { g with st := .running, committed := some 0, dwell := 1, last := x.1, stopReq := x.2 } with time := 256 }; let c := s.ch 3;
      s.runs ∧ c.strand.st.runs = true ∧ c.strand.committed ≠ none ∧ c.dwellEnd ≤ s.time / 256 ∧ c.strand.endReq = none ∧ s.faultDue 3 = false ∧ c.strand.last = x.1 ∧ c.strand.stopReq = x.2) ∧
    (let s := { stranded fun g => { g with st := .running, committed := some 0, dwell := 1 } with time := 255 }; s.runs ∧ s.time / 256 < (s.ch 3).dwellEnd ∧
      (s.ch 3).strand.last = false ∧ (s.ch 3).strand.stopReq = false) ∧
    (let s := stranded fun g => { g with st := .running, endReq := some .abort }; let c := s.ch 3; s.runs ∧ (c.strand.rcd.map (·.fast)).getD false = false ∧
      c.strand.st.active = true ∧ c.strand.endReq = some .abort ∧ s.faultDue 3 = false) ∧
    (let s := stranded fun g => { g with st := .running, squashReq := true }; let c := s.ch 3; s.runs ∧ (c.strand.rcd.map (·.fast)).getD false = false ∧
      c.strand.endReq = none ∧ c.strand.squashReq = true ∧ c.strand.order = none) := by
  refine ⟨?_, ?_, ?_, ?_, ?_, ?_⟩ <;> simp only [State.runs] <;> decide +kernel

theorem witness_PulsesAndTheLarderFollowTheirRegisters :
    (∀ e ∈ [255, 256], let s := chan fun c => { c with loop := { c.loop with st := .primary }, strand := { c.strand with pulse := some (e, 0) } };
      s.runs ∧ (s.ch 3).strand.pulse = some (e, 0) ∧ (s.ch 3).loop.st.closed = true) ∧
    (∀ e ∈ [0, 1], let s := chan fun c => { c with eff := { c.eff with run := .strand }, strand := { c.strand with passAt := some e } };
      s.runs ∧ s.time = 0 ∧ (s.ch 3).strand.passAt = some e ∧ (s.ch 3).eff.run = .strand ∧ (s.ch 3).eff.first.toNat ≤ (s.ch 3).lastEntry) ∧
    (let s := chan fun c => { c with larder := { c.larder with wr := 1, rd := 0xFFFFFFFF } }; let c := s.ch 3; s.takes 3 ∧
      ((1 : Word) - c.larder.rd).toNat ≤ (c.larder.wr - c.larder.rd).toNat ∧ (c.larder.wr - c.larder.rd).toNat < ((2 : Word) - c.larder.rd).toNat ∧
      c.strand.st.runs = false ∧ c.strand.pulse = none) ∧
    (let s := stranded fun g => { g with st := .running }; s.takes 3 ∧ (s.ch 3).strand.st.runs = true) := by
  refine ⟨?_, ?_, ?_, ?_⟩ <;> simp only [State.takes, State.serves, State.runs] <;> decide +kernel

/-- CH_3 in sync set 1, its strobe on TRIG_IN_0. -/
def inSet (f : Chan → Chan) : State :=
  { chan fun c => f { c with decl := { c.decl with syncSet := 1 } } with img := { st := .ready, vals := [(0x3003 * 0x10000 + 1, [1])] } }

theorem witness_SyncSetsActTogether :
    (let s := inSet fun c => { c with strand := { c.strand with st := .armed } }; s.serves ∧ (1 : BitVec 8) ≠ 0 ∧ s.setSpans 1 = false ∧ s.setMembers 1 = [3] ∧
      (s.bay (chBay 3)).awake = true ∧ (s.ch 3).strand.st = .armed ∧ (s.ch 3).strand.endReq = none ∧ s.flt.reactions = [] ∧ s.runners 1 = []) ∧
    (let s := inSet fun c => { c with cfg := { c.cfg with setV := 15, setI := 15 } }; s.serves ∧ s.setSpans 1 = false ∧ s.setMembers 1 = [3] ∧ s.runners 1 = [] ∧
      (s.ch 3).cfg.cls = .strobed ∧ (s.ch 3).cfg.setV = 15 ∧ (s.ch 3).cfg.setI = 15 ∧ (s.ch 3).range.wantV = none ∧ (s.ch 3).range.wantI = none ∧
      (s.ch 3).range.hst ≠ .vSwitch) ∧
    (let s := inSet fun c => { c with strand := { c.strand with st := .waitSet, ahead := [bead 0 none] } }; s.serves ∧ (s.ch 3).decl.syncSet = 1 ∧ s.mayCommit 3 = true ∧
      s.runners 1 = [3] ∧ (s.ch 3).front = some (bead 0 none) ∧ (bead 0 none).ue = false ∧ (bead 0 none).bad = none ∧ (s.ch 3).strand.st.active = true ∧
      (s.ch 3).strand.endReq = none ∧ s.setStrobe 1 = (0 : Fin 4).val + 1 ∧ s.waitsStrobe 1 = false) ∧
    (let s := inSet fun c => { c with strand := { c.strand with st := .waitSet, ahead := [bead 4 none] } }; s.setStrobe 1 = (0 : Fin 4).val + 1 ∧
      s.setSpans 1 = false ∧ s.waitsStrobe 1 = true ∧ s.strobes.any (fun y => y.1 == 1) = false) := by
  refine ⟨?_, ?_, ?_, ?_⟩ <;> simp only [State.serves] <;> decide +kernel

/-! ### Witnesses: windows -/

/-- CH_3's voltage window in mode `m` and state `st`, thresholds 0x700 and 0x900 with HYST 8. -/
def windowed (m : WinMode) (st : WinState) (f : WinSt → WinSt) : State :=
  chan fun c => { c with eff := { c.eff with winV := { c.eff.winV with mode := m } }, winV := f { c.winV with appHi := 0x900, appLo := 0x700, st := st } }

theorem witness_WindowsFollowTheStateTable :
    (∀ m ∈ [WinMode.continuous, .sampled], ∀ st ∈ [WinState.inside, .outHi, .outLo], let s := windowed m st id; let c := s.ch 3;
      s.runs ∧ c.map.member = false ∧ (c.eff.win .v).mode = m ∧ (c.win .v).st = st ∧ (s.bay (chBay 3)).awake = true ∧ c.blanked .v = false ∧ (c.win .v).arming = none ∧
      (c.win .v).hiOff = false ∧ (c.win .v).loOff = false ∧ (c.eff.win .v).hyst.toNat = 8 ∧ edge (c.win .v).appHi 8 = 264 * 4096 ∧
      edge (c.win .v).appHi (-8) = 248 * 4096 ∧ edge (c.win .v).appLo 8 = -248 * 4096 ∧ edge (c.win .v).appLo (-8) = -264 * 4096) ∧
    (∀ y ∈ [(264 * 1024 : Int), 264 * 1024 + 1, 248 * 1024 - 1, 248 * 1024, -248 * 1024, -248 * 1024 + 1, -264 * 1024, -264 * 1024 - 1],
      ((windowed .continuous .inside id).winOns 3 .v [2048 * 1024 + y]).map (fun p => (p.1.appHi, p.1.appLo, p.1.hiOff, p.1.loOff, p.2)) =
        [(0x900, 0x700, false, false, 4 * y)]) ∧
    ((awake.ch 3).eff.winV.route = 0 ∧ ((chan fun c => { c with eff := { c.eff with winV := { c.eff.winV with route := 2 } } }).ch 3).eff.winV.route.getLsbD 1 = true ∧
      (awake.ch 3).eff.winV.mode ≠ .continuous ∧ (awake.ch 3).eff.winV.mode ≠ .sampled) ∧
    (∀ x ∈ [(0, 0), (5, 5)],
      let s := { chan fun c => { c with eff := { c.eff with winV := { c.eff.winV with mode := .sampled, tick := BitVec.ofNat 5 x.1 } } } with bays := State.reset.bays };
      s.runs ∧ (s.ch 3).map.member = false ∧ (s.ch 3).eff.winV.mode = .sampled ∧ (s.bay (chBay 3)).awake = false ∧ ((s.ch 3).eff.winV.tick = 0 ↔ x.1 = 0)) ∧
    (∀ t ∈ [511, 512], let s := { windowed .continuous .inside fun w => { w with arming := some 0 } with time := t };
      s.runs ∧ (s.ch 3).map.member = false ∧ ((s.ch 3).win .v).arming = some 0 ∧ s.time = t ∧ (s.ch 3).blanked .v = false ∧ ((s.ch 3).eff.win .v).mode ≠ .off) ∧
    (awake.takes 3 ∧ (((awake.ch 3).cfg.win .v).setCfg 0x40000000 awake.isBare).mode ≠ ((awake.ch 3).eff.win .v).mode ∧
      (((awake.ch 3).cfg.win .v).setCfg 0 awake.isBare).mode = ((awake.ch 3).eff.win .v).mode) := by
  refine ⟨?_, ?_, ?_, ?_, ?_, ?_⟩ <;> (try simp only [State.takes, State.serves, State.runs]) <;> decide +kernel

/-! ### Witnesses: sleep, the memories, migrations -/

def idleFor (k : Nat) : State := awake.upBay 0 fun b => { b with idle := k }

/-- Bay 0 wakes after `k` loop periods with the late trips `l` on CH_3. -/
def wakes (k : Nat) (l : List (WinState × Nat)) : State :=
  { ((State.reset.upBay 0 fun b => { b with waking := true, wakePeriods := k }).upCh 3 fun c => { c with winV := { c.winV with late := l } }) with
    clk := (clocked fun c => { c with guard := .vco8, refClass := .mhz24, pllA := { c.pllA with locked := true, held := true, phase := .running }, pllB := { c.pllB with phase := .running } }).clk }

theorem witness_BaysSleepWhenIdleAndWakeWithTheirWrites :
    (let s := idleFor 1023; s.runs ∧ (s.bay 0).idle < 1024) ∧
    (let s := idleFor 1024; s.runs ∧ (s.bay 0).awake = true ∧ (s.bay 0).sleepOk = true ∧ s.pwr.holdAwake.getLsbD 0 = false ∧ s.bayHeld 0 = false ∧
      1024 ≤ (s.bay 0).idle) ∧
    (∀ k ∈ [96, 97], let s := wakes k []; s.runs ∧ (s.bay 0).waking = true ∧ s.clk.started = true ∧ (s.bay 0).wakePeriods = k ∧ (s.bay 0).held = [] ∧
      ∀ n ∈ bayChs 0, (s.ch n).force.tripReq = false ∧ (s.ch n).winV.late = [] ∧ (s.ch n).winI.late = []) ∧
    (let s := wakes 1 [(.outLo, 5), (.outHi, 7)]; s.runs ∧ (s.bay 0).waking = true ∧ s.clk.started = true ∧ (s.bay 0).held = [] ∧ (3 : Ch) ∈ bayChs 0 ∧
      ((s.ch 3).win .v).late = [(.outLo, 5)] ++ [(.outHi, 7)]) ∧
    ((awake.bay 0).waking = false ∧ State.reset.clk.started = false) := by
  refine ⟨?_, ?_, ?_, ?_, ?_⟩ <;> (try simp only [State.runs]) <;> decide +kernel

theorem witness_ThePatrolCorrectsOrReportsAWord :
    (awake.runs ∧ findAt awake.att.rowErrs 0 ≠ some 1 ∧ (findAt awake.att.rowsUsed 0).getD 0 < 16) ∧
    (let s := { awake with att := { awake.att with patrol := 524287, rowErrs := [(32767, 1)] } }; 8 * s.att.patrol / 128 = 32767 ∧
      findAt s.att.rowErrs (8 * s.att.patrol / 128) = some 1 ∧ (findAt s.att.rowsUsed (8 * s.att.patrol / 131072)).getD 0 < 16) ∧
    (let s := { awake with att := { awake.att with rowErrs := [(0, 1)], rowsUsed := [(0, 16)] } }; findAt s.att.rowErrs 0 = some 1 ∧
      16 ≤ (findAt s.att.rowsUsed 0).getD 0) ∧
    (let s := queued [some 1]; 0 < (s.ch 3).queue.length ∧ (s.ch 3).queue.length ≤ 1) ∧ awake.memSound := by
  refine ⟨?_, ?_, ?_, ?_, ?_⟩ <;> (try simp only [State.runs, State.memSound]) <;> decide +kernel

def req (c : MigCause) : MigReq := { ch := 3, cause := c, keepOld := true, cold := false }

/-- A request of CH_3 waits; its switch closed. -/
def asks (c : MigCause) (f : Chan → Chan) : State :=
  let s := chan fun x => f { x with force := { x.force with out := .closed } }
  { s with att := { s.att with requests := [req c] } }

/-- A migration of CH_3 from CELL_3 to CELL_8 in phase `p`. -/
def migrates (p : MigPhase) (o : OutState) (f : BayMig → BayMig) : State :=
  (forced fun x => { x with out := o }).upMig 0 fun m =>
    f { m with busy := true, phase := p, newCell := some 8, oldCell := some 3, ch := some 3, cause := .host, keepOld := true, confirmed := true }

theorem witness_MigrationsRunFromRequestToEnd :
    ((3 : Ch) = 3 ∧ chBay 3 = 0 ∧ awake.serves ∧ (awake.ch 3).map.avail = false) ∧
    (let s := migrates .wake .closed id; s.serves ∧ s.migrating 3 = true) ∧
    (let s := chan id; s.serves ∧ (s.ch 3).map.avail = true ∧ (s.ch 3).map.member = false ∧ s.migrating 3 = false ∧ s.att.requests = []) ∧
    (let s := asks .host id; (s.ch 3).map.avail = true ∧ ∃ q ∈ s.att.requests, q.ch = 3) ∧ (graveSet awake).grantsBlocked = true ∧
    (let s := asks .host id; s.runs ∧ s.grantsBlocked = false ∧ s.homecomings = [] ∧ s.causeHolds (req .host) = true ∧ (s.mig 0).busy = false ∧
      s.spares 0 = [8] ∧ (s.bay 0).fenced = false ∧ s.cel.st ≠ .fenced ∧ (s.ch (s.pins 3)).moves = true) ∧
    (let s := (asks .host fun c => { c with range := { c.range with i := 6 } }).upCell 8 fun x => { x with role := .fenced };
      s.grantsBlocked = false ∧ s.homecomings = [] ∧ s.causeHolds (req .host) = true ∧ s.spares 0 = [] ∧ s.lenderFor 3 = some (1, 0) ∧ s.spares 1 = [17] ∧
      (s.mig 1).busy = false) ∧
    (let s := (asks .fault fun c => { c with strand := { c.strand with st := .running } }).upCell 8 fun x => { x with role := .fenced };
      s.grantsBlocked = false ∧ s.homecomings = [] ∧ s.causeHolds (req .fault) = true ∧ s.spares 0 = [] ∧ s.lenderFor 3 = none ∧ (s.ch 3).map.member = false ∧
      s.members 3 = [] ∧ (s.ch 3).map.cell = some 3 ∧ (s.ch 3).strand.st.active = true ∧ (s.ch 3).strand.endReq = none) ∧
    ((awake.mig 0).runs = false ∧
      ∀ o ∈ [OutState.closed, .opened], let s := migrates .wake o id; s.runs ∧ (s.mig 0).runs = true ∧ (s.mig 0).ch = some 3 ∧ (s.mig 0).newCell = some 8 ∧
        (s.bay (CellIx.bay 8)).awake = true ∧ s.coldNow (s.mig 0) 3 = (o == .opened) ∧ (s.ch 3).map.cell ≠ some 8 ∧ (s.mig 0).oldCell ≠ some 8 ∧
        ({ s with bays := State.reset.bays }.bay (CellIx.bay 8)).awake = false) ∧
    (∀ r ∈ [63, 64], let s := (migrates .forceCheck .closed id).upCell 8 fun x => { x with role := .shadow, run := BitVec.ofNat 8 r };
      s.runs ∧ (s.mig 0).runs = true ∧ (s.mig 0).phase = .forceCheck ∧ (s.cell 8).run.toNat = r ∧ (s.mig 0).confirmed = true ∧ (s.mig 0).failed = false ∧
      (s.cell 8).locketSt ≠ .nominal ∧ s.rejectReason (s.mig 0) 8 = none) ∧
    (∀ l ∈ [[], [(7 : CellIx)]],
      let s := ((migrates .forceCheck .closed fun m => { m with failed := true }).upCell 8 fun x => { x with role := .shadow }).upCell 7 fun x =>
        { x with role := if l.isEmpty then .active else .spare };
      s.runs ∧ (s.rejectReason (s.mig 0) 8).isSome = true ∧ (s.mig 0).lender = none ∧ s.spares 0 = l ∧ (s.bay 0).fenced = false ∧ (s.ch 3).map.cell ≠ none ∧
      (s.ch 3).decl.enabled = true ∧ (s.ch 3).fence = .none ∧ (s.mig 0).cause = .host ∧ (s.mig 0).keepOld = true ∧ (s.ch 3).mayBorrow = false ∧
      s.mapLoads = false) ∧
    (let s := ((migrates .forceCheck .closed fun m => { m with failed := true }).upCell 8 fun x => { x with role := .shadow });
      let s := { s with img := { s.img with job := some { src := .host, part := true, vals := [], sets := [], sections := [3], clamps := [], count := 0, crc := 0, required := [], beads := [] } } };
      (s.rejectReason (s.mig 0) 8).isSome = true ∧ (s.mig 0).lender = none ∧ s.spares 0 = [] ∧ (s.ch 3).map.cell ≠ none ∧ (s.ch 3).decl.enabled = true ∧
      (s.ch 3).fence = .none ∧ (s.mig 0).cause ≠ .readmit ∧ (s.mig 0).cause ≠ .homecoming ∧ s.mapLoads = true ∧ ∀ q ∈ s.att.requests, q.ch ≠ 3) ∧
    (∀ b ∈ [false, true], let s := (migrates .mirror .closed fun m => { m with failed := b }).upCell 8 fun x => { x with role := .shadow };
      s.runs ∧ (s.mig 0).phase = .mirror ∧ s.coldNow (s.mig 0) 3 = false ∧ s.swapDue (s.mig 0) 3 = !b ∧ (s.ch 3).map.cell ≠ some 8 ∧ (s.mig 0).oldCell = some 3) ∧
    (let s := migrates .drain .closed id; s.runs ∧ (s.mig 0).phase = .drain ∧ (s.ch (s.pins 3)).drains (s.mig 0) = false) ∧
    (let s := (migrates .drain .closed id).upCh 3 fun c => { c with meas := { c.meas with convs := [conv .seq .i 1] } };
      (s.mig 0).phase = .drain ∧ (s.ch (s.pins 3)).drains (s.mig 0) = true) := by
  refine ⟨?_, ?_, ?_, ?_, ?_, ?_, ?_, ?_, ?_, ?_, ?_, ?_, ?_, ?_, ?_⟩ <;> (try simp only [State.serves, State.runs]) <;> decide +kernel

/-! ### Witnesses: the fault collector -/

/-- The machine with the collector changed by `f`. -/
def flt (f : Flt → Flt) : State := { awake with flt := f awake.flt }

theorem witness_MessagesAreCountedRaisedAndReactedTo :
    (awake.runs ∧ codeInfo 3 0x3F = none ∧ codeInfo 0x48 0 = none ∧ codeInfo 0x12A 3 ≠ none ∧ awake.flt.holds 3 0 = false ∧ awake.flt.fifo.length < 56 ∧
      awake.flt.grave = false ∧ awake.flt.conseqTag 3 (some 0) awake.ticks = none) ∧
    ((graveSet awake).flt.grave = true ∧ ((flt fun f => { f with conseqs := [{ src := 3, cell := none, start := 0, until_ := 1, tag := 1 }] }).flt.conseqTag 3
      (some 0) 0).isSome = true) ∧
    (awake.codeClass 3 0xC = .note ∧ awake.codeClass 3 0 = .minor ∧ awake.codeClass 3 1 = .major ∧ awake.codeClass 0x128 1 = .grave) ∧
    (∀ k ∈ [2, 3], let s := flt fun f => { f with srcs := [(3, { winStart := 0, winCount := k })] }; let x := s.flt.srcSt 3;
      (if x.winCount = 0 ∨ x.winStart + s.ftW 3 ≤ s.ticks then 0 else x.winCount) + 1 = k + 1 ∧ s.ftN 3 = 4 ∧ x.unackMinor = false ∧ x.unackMajor = false) ∧
    (let s := flt fun f => { f with srcs := [(3, { winCount := 1, unackMinor := true, unackMajor := true })] }; (s.flt.srcSt 3).unackMinor = true ∧
      (s.flt.srcSt 3).unackMajor = true) ∧
    (majorUnit { src := 3, kind := 1, addr := 0 } = some 3 ∧ awake.flt.fencedOrDue 3 = false ∧
      (flt fun f => { f with srcs := [(3, { fenced := true })] }).flt.fencedOrDue 3 = true) := by
  refine ⟨?_, ?_, ?_, ?_, ?_, ?_⟩ <;> (try simp only [State.runs]) <;> decide +kernel

theorem witness_AcknowledgementsAliveAndInjection :
    (awake.runs ∧ awake.flt.grave = false ∧ awake.pwr.aonDown = false ∧ awake.ticks % 16 = 0 ∧ (flt id).jtag.factory = false ∧
      findAt awake.flt.coffer 0 = some (powerUpRecord 1)) ∧
    ({ awake with ticks := 15 } : State).ticks % 16 ≠ 0 ∧
    (let s := { awake with jtag := { factory := true } }; s.runs ∧ s.jtag.factory = true ∧ s.flt.grave = false ∧ (0x7FFFFFFF : Word).getLsbD 31 = false ∧
      (0x80000003 : Word).getLsbD 31 = true ∧ codeInfo ((0x80000003 : Word).extractLsb' 0 10) ((0x80000003 : Word).extractLsb' 10 6).toNat ≠ none ∧
      s.flt.holds ((0x80000003 : Word).extractLsb' 0 10) ((0x80000003 : Word).extractLsb' 10 6) = false ∧ s.flt.fifo.length < 56) := by
  refine ⟨?_, ?_, ?_⟩ <;> (try simp only [State.runs]) <;> decide +kernel

/-- One reaction waits: a message of `src` and `kind` in class `c`, on unit `u`. -/
def reacts (c : FClass) (src : BitVec 10) (kind : BitVec 6) : State :=
  let s := chan fun c => { c with strand := { c.strand with st := .running } }
  { s with flt := { s.flt with reactions := [{ msg := { src := src, kind := kind, addr := 0 }, cls := c, unit := src, tag := 1 }] } }

def record (c : FClass) : FRec := { powerUpRecord 1 with src := 3, cls := c, seq := 2 }

/-- The unit of `v` is fenced, with the live and sticky bits given. -/
def fencedUnit (u : Nat) (live sticky : BitVec 64) : State :=
  let s := (awake.upCell 8 fun x => { x with role := .fenced })
  { s with flt := { s.flt with srcs := [(u, { fenced := true, live := live, sticky := sticky })] } }

theorem witness_ReactionsRecordsAndReadmission :
    (awake.runs ∧ awake.flt.reactions = [] ∧ awake.flt.fifo = [] ∧ awake.flt.coal = [] ∧ awake.flt.lost = false ∧ awake.cel.st ≠ .ready ∧ awake.persistDue = false) ∧
    (let s := reacts .grave 0x128 1; s.runs ∧ s.flt.reactions.map (·.cls) = [.grave] ∧ (s.ch 3).strand.st.active = true ∧ (s.ch 3).strand.endReq = none) ∧
    (srcGroup 0x124 = .link 0 ∧ srcGroup 0x122 = .cellar ∧ srcGroup 3 = .cell 3 ∧ srcGroup 8 = .cell 8 ∧ srcGroup 0x83 = .channel 3 ∧ srcGroup 0xC0 = .bay 0 ∧
      srcGroup 0xC8 = .bridge 0) ∧
    (∀ k ∈ [1, 10], let s := reacts .major 3 (BitVec.ofNat 6 k); s.runs ∧ (s.cell 3).role = .active ∧ s.channelOf 3 = some 3 ∧ (s.ch 3).decl.enabled = true ∧
      s.migrating 3 = false ∧ s.att.requests = [] ∧ coldKind (BitVec.ofNat 6 k) = (k == 1)) ∧
    (let s := reacts .major 8 1; (s.cell 8).role = .spare ∧ ∀ b : Bay, (s.mig b).runs = false) ∧
    (let s := reacts .major 0xC0 2; (s.ch 3).map.avail = true ∧ chBay 3 = 0 ∧ (s.ch 3).strand.st.active = true ∧ (s.ch 3).strand.endReq = none) ∧
    (let s := reacts .major 0xC8 0; let s := { s with att := { s.att with bridge := s.att.bridge.set 0 (some 3) } }; s.att.bridge[0] = some 3 ∧
      s.spares (chBay 3) ≠ [] ∧ s.migrating 3 = false ∧ s.att.requests = []) ∧
    (let s := flt fun f => { f with fifo := [record .minor], coal := [{ src := 3, kind := 0, count := 1, first := 0, last := 0, cls := .minor, escalated := false, conseq := false, tag := 0 }] };
      s.flt.fifo = record .minor :: [] ∧ s.flt.coffer.length < 4096 ∧ (earliest s.flt.coal).isSome = true ∧ s.flt.lost = false) ∧
    (let s := flt fun f => { f with fifo := [record .minor], coffer := (List.range 4096).map fun i => (i, record .minor) }; 4096 ≤ s.flt.coffer.length ∧ s.flt.coal = []) ∧
    (let s := flt fun f => { f with coffer := f.coffer ++ [(1, record .minor)] }; let s := { s with cel := { s.cel with st := .ready } };
      s.runs ∧ s.cel.st = .ready ∧ s.flt.persistOff = false ∧ s.persistDue = true ∧ s.flt.unpersisted.getLast?.isSome = true ∧
      s.flt.unpersisted.length ≤ s.flash.pageSize / 32 ∧ s.flash.target .coffer = none ∧
      ({ s.flash with desc := some (0, 8, 1, 0) } : Flash).target .coffer ≠ none) ∧
    ((0x7FFFFFFF : Word).getLsbD 31 = false ∧ (0x86000000 : Word).getLsbD 31 = true ∧ readmitUnit 0x86000000 = none ∧ readmitUnit 0x80000048 = none ∧
      readmitUnit 0x80000008 = some 8 ∧ (0x80000008 : Word).getLsbD 31 = true ∧ (awake.flt.srcSt 8).fenced = false) ∧
    (∀ x ∈ [((0 : Nat), (0 : Nat)), (1, 0), (0, 1)], let s := fencedUnit 8 (BitVec.ofNat 64 x.1) (BitVec.ofNat 64 x.2); s.runs ∧ s.flt.grave = false ∧ (s.flt.srcSt 8).fenced = true ∧ s.unitBusy 8 = false ∧
      (s.flt.srcSt 8).live.toNat = x.1 ∧ (s.flt.srcSt 8).sticky.toNat = x.2 ∧ s.readmitNoSpare 8 = false ∧ (s.cell 8).role = .fenced) ∧
    (let s := (fencedUnit 8 0 0).upMig 0 fun m => { m with busy := true }; (s.flt.srcSt 8).fenced = true ∧ s.unitBusy 8 = true) ∧
    (∀ x ∈ [ChFence.atRest, .noCell], let s := (fencedUnit 0x83 0 0).upCh 3 fun c => { c with fence := x, decl := { c.decl with enabled := true } };
      readmitUnit 0x81000003 = some 0x83 ∧ s.flt.grave = false ∧ (s.flt.srcSt 0x83).fenced = true ∧ s.unitBusy 0x83 = false ∧ (s.flt.srcSt 0x83).live = 0 ∧
      (s.flt.srcSt 0x83).sticky = 0 ∧ s.readmitNoSpare 0x83 = (x == .noCell) ∧ (s.ch 3).fence = x) ∧
    (let s := ((fencedUnit 0x83 0 0).upCh 3 fun c => { c with fence := .noCell, decl := { c.decl with enabled := true } }).upCell 8 fun x => { x with role := .spare };
      s.readmitNoSpare 0x83 = false ∧ s.unitBusy 0x83 = false ∧ (s.flt.srcSt 0x83).fenced = true ∧ (s.flt.srcSt 0x83).live = 0 ∧ (s.flt.srcSt 0x83).sticky = 0 ∧
      (s.ch 3).fence = .noCell ∧ (s.ch 3).decl.enabled = true ∧ s.migrating 3 = false ∧ s.att.requests = []) ∧
    (readmitUnit 0x82000000 = some 0xC0 ∧ readmitUnit 0x83000000 = some 0xC8 ∧ readmitUnit 0x84000000 = some 0x122 ∧ readmitUnit 0x85000000 = some 0x124) := by
  refine ⟨?_, ?_, ?_, ?_, ?_, ?_, ?_, ?_, ?_, ?_, ?_, ?_, ?_, ?_, ?_, ?_⟩ <;> (try simp only [State.runs]) <;> decide +kernel

/-! ### Witnesses: the cellar -/

/-- The cellar in state `st`, with the flash `f`. -/
def cellar (st : CelState) (f : Flash) (g : Cel → Cel) : State := { awake with cel := g { awake.cel with st := st }, flash := f, img := { st := .bare } }

/-- A small flash: 8 blocks, one page of the rest values in each block of `l`. -/
def flashOf (l : List Nat) : Flash :=
  { desc := some (0, 8, 1, 0), pages := l.map fun b => { block := b, page := 0, region := .rest, setLast := true, lpage := 0, seq := b, set := b, hour := 0, data := [1] } }

/-- LENGTH in the staging buffer. -/
def staged (n : Nat) (s : State) : State := { s with img := { s.img with stage := writeMemWord stageBackground s.img.stage 0x0C (BitVec.ofNat 32 n) } }

theorem witness_CellarCommandsAreRefusedOrBecomeWork :
    (∀ x ∈ [CelState.fenced, .start, .mounting, .unformatted, .sealed, .ready], let s := cellar x {} id; s.serves ∧ s.cel.st = x ∧ s.cel.busy = false) ∧
    (let s := cellar .ready {} fun c => { c with busy := true }; s.cel.st ≠ .fenced ∧ s.cel.busy = true) ∧
    (let s := cellar .ready {} id; (∀ n : Ch, (s.ch n).quiesced = true) ∧ s.cel.running = none) ∧
    (let s := (cellar .ready {} id).upCh 63 fun c => { c with loop := { c.loop with st := .primary } }; (s.ch 63).quiesced = false) ∧
    (∀ n ∈ [64, 262144], let s := staged n (cellar .ready {} id); s.img.st ≠ .boot ∧ s.img.st ≠ .loading ∧ s.stagedLength = n ∧ n % 4 = 0) ∧
    (∀ n ∈ [60, 262148, 66], let s := staged n (cellar .ready {} id); s.stagedLength = n ∧ (n < 64 ∨ 262144 < n ∨ n % 4 ≠ 0)) ∧
    (let s := cellar .ready {} fun c => { c with running := some .persist }; s.cel.running ≠ none) := by
  refine ⟨?_, ?_, ?_, ?_, ?_, ?_, ?_⟩ <;> (try simp only [State.serves]) <;> decide +kernel

theorem witness_CellarWorkEndsAsTheFlashReports :
    (awake.runs ∧ awake.cel.running = none ∧ awake.cel.work = []) ∧
    (let s := cellar .ready (flashOf [1]) fun c => { c with work := [.persist, .confirm 0 false] }; s.runs ∧ s.cel.running = none ∧ s.cel.work ≠ []) ∧
    (∀ x ∈ [(CelState.sealed, (2 : Nat)), (.sealed, 7), (.ready, 7), (.ready, 2), (.ready, 3), (.unformatted, 1), (.ready, 1), (.ready, 8)],
      let s := cellar x.1 (flashOf [1]) fun c => { c with busy := true, running := some (.command (BitVec.ofNat 8 x.2)) };
      s.runs ∧ s.cel.running = some (.command (BitVec.ofNat 8 x.2)) ∧ s.cel.st = x.1) ∧
    (let s := cellar .ready (flashOf [1]) fun c => { c with running := some .writeRest }; s.runs ∧ s.cel.running = some .writeRest ∧ s.cel.st = .ready ∧
      s.flash.target .rest = some 1 ∧ s.flash.target .library = some 2) ∧
    (∀ x ∈ [(CelState.ready, none), (.sealed, none), (.ready, some 1)], let s := (cellar x.1 (flashOf [1]) fun c => { c with running := some (.storeLocket 3 (some 3) x.2) }).upCh 3 fun c =>
        { c with meas := { c.meas with cal := { c.meas.cal with st := .storing } } };
      s.runs ∧ s.cel.running = some (.storeLocket 3 (some 3) x.2) ∧ s.cel.st = x.1 ∧ (s.ch 3).meas.cal.st = .storing ∧ s.flash.target .lockets = some 2) ∧
    (∀ x ∈ [false, true], let s := { migrates .forceCheck .closed id with cel := { awake.cel with st := .ready, running := some (.confirm 0 x) } }; s.runs ∧
      s.cel.running = some (.confirm 0 x) ∧ (s.mig 0).runs = true ∧ (s.mig 0).newCell = some 8) := by
  refine ⟨?_, ?_, ?_, ?_, ?_, ?_⟩ <;> (try simp only [State.runs]) <;> decide +kernel

theorem witness_TheCellarCollectsPatrolsAndReadsBack :
    (awake.runs ∧ awake.cel.st ≠ .ready ∧ awake.cel.st ≠ .sealed) ∧
    (let s := cellar .ready (flashOf [1]) id; s.cel.st = .ready ∧ s.flt.grave = false ∧ s.flash.garbage = none ∧ s.flash.levelling = none ∧
      ∀ k : CellIx, (s.cell k).role ≠ .shadow) ∧
    (flashOf [1, 2, 3]).garbage.isSome = true ∧
    (let f := { flashOf [1] with desc := some (0, 3, 1, 0), erases := [(1, 0), (2, 257)] }; f.garbage = none ∧ f.levelling = some (1, 2)) ∧
    (let s := cellar .sealed {} id; s.cel.pass = [] ∧ s.flash.validPages = []) ∧
    (∀ st ∈ [CelState.ready, .sealed], let s := cellar st (flashOf [1]) fun c => { c with pass := [1] }; s.cel.st = st ∧ s.cel.pass = 1 :: [] ∧
      (s.flash.pages.find? (fun p => p.seq == 1 && s.flash.isValid p && !p.lost)).isSome = true ∧ s.cel.refreshBits = 8 ∧ s.cel.maxAgeDays * 24 = 8760 ∧
      s.cel.clock.toNat - 0 < 8760 ∧ s.flash.target .rest = some 1 ∧ 1 ∉ s.flash.bad) ∧
    (let s := cellar .ready (flashOf [1]) fun c => { c with pass := [7], clock := 8760 }; (∀ p ∈ s.flash.validPages, p.lost = false → p.seq ≠ 7) ∧
      s.cel.maxAgeDays * 24 ≤ s.cel.clock.toNat - 0) ∧
    (let f : Flash := { flashOf [] with pages := [{ block := 1, page := 0, region := .coffer, setLast := true, lpage := 0, seq := 1, set := 1, hour := 0, data := List.replicate 32 1 }] };
      (f.records false)[((0 : Word).extractLsb' 0 16).toNat]? = some (List.replicate 8 0x01010101, false) ∧ (f.records false)[((1 : Word).extractLsb' 0 16).toNat]? = none ∧
      (({ f with pages := f.pages.map fun p => { p with lost := true } } : Flash).records false)[((0 : Word).extractLsb' 0 16).toNat]? =
        some (List.replicate 8 0x01010101, true)) ∧
    (awake.flt.grave = false ∧ awake.cel.clock.toNat < (1 : Word).toNat ∧ (0 : Word).toNat ≤ awake.cel.clock.toNat) := by
  refine ⟨?_, ?_, ?_, ?_, ?_, ?_, ?_, ?_, ?_⟩ <;> (try simp only [State.runs]) <;> decide +kernel

/-! ### Witnesses: the link -/

/-- The machine with its link changed by `f`. -/
def linked (f : Lnk → Lnk) : State := { awake with lnk := f awake.lnk }

def port (p : Port) (x : PortSt) : State := linked fun l => { l with ports := l.ports.set p.val x }

def enum0 : EnumIn :=
  { id := 5, depth := 1, rootLat := 0, devices := 2, maxDepth := 1, maxLat := 12666, refused := false, refusedPorts := [], dup := false, peers := [], routes := [(7, 1)] }

theorem witness_LinkPortsPacketsAndTheTree :
    (let s := clocked fun c => { c with pllB := { c.pllB with locked := true } }; s.runs ∧ s.lnk.ports[0].wasUp = false ∧ s.lnk.refused = false ∧
      s.clk.pllB.locked = true ∧ s.lnk.root = false) ∧
    (awake.runs ∧ awake.clk.pllB.locked = false ∧ awake.lnk.fwdBusy = false ∧ awake.lnk.root = false ∧ awake.flt.grave = false ∧ awake.lnk.enumBusy = false) ∧
    (∀ p ∈ [(0 : Port), 3], ∀ x ∈ [PortState.idle, .paused, .training, .measuring, .up], ∀ c ∈ [false, true],
      let s := port p { st := x, wasUp := c, coded := c, sends := 2 + bit c }; s.runs ∧ s.lnk.ports[p.val].st = x ∧ s.lnk.ports[p.val].wasUp = c ∧
        s.lnk.ports[p.val].coded = c ∧ s.lnk.ports[p.val].sends = 2 + bit c) ∧
    (let s := linked fun l => { l with fwdBusy := true, fwdDev := 7, routes := [(7, 1)], root := true }; s.lnk.fwdBusy = true ∧ s.lnk.root = true ∧
      s.lnk.routes = [(s.lnk.fwdDev, 1)]) ∧
    (let f := writeOf 0xA0 0x1014 [7]; f.devId.extractLsb' 0 12 = awake.lnk.devId ∧ awake.firstUnmapped f.opcode f.addr f.words = none ∧ f.collide = false ∧
      ({ f with devId := 9 } : WriteFrame).devId.extractLsb' 0 12 ≠ awake.lnk.devId) ∧
    ((readOf 0xA1 0x1014 1).devId.extractLsb' 0 12 = awake.lnk.devId ∧ ({ readOf 0xA1 0x1014 1 with devId := 9 } : ReadFrame).devId.extractLsb' 0 12 ≠ awake.lnk.devId) ∧
    (let s := linked fun l => { l with root := true, enumBusy := true }; s.lnk.root = true ∧ s.lnk.enumBusy = true ∧ enum0.refused = false) ∧
    (3 * 12666 ≤ 38000 ∧ 38000 < 3 * 12667 ∧ 3 * 21000 ≤ 63000) := by
  refine ⟨?_, ?_, ?_, ?_, ?_, ?_, ?_, by decide⟩ <;> (try simp only [State.runs]) <;> decide +kernel

/-- An epoch marker that arrives `e` in 1/64 cycle early. -/
def marker (e : Nat) (r : Bool) : Marker := { time := 2, residence := e - 128, number := 1, resync := r, arrival := 0 }

theorem witness_LinkTimeAndSpanningSets :
    (let s := linked fun l => { l with root := true, epochReq := true }; s.runs ∧ s.flt.grave = false ∧ s.lnk.root = true ∧ s.lnk.epochReq = true) ∧
    (awake.lnk.root = false ∧ awake.lnk.epochReq = false ∧ awake.ticks < awake.lnk.lastMarker + awake.lnk.epochTicks) ∧
    (let s := { linked fun l => { l with root := true } with ticks := 32768 }; s.lnk.root = true ∧ s.lnk.lastMarker + s.lnk.epochTicks ≤ s.ticks) ∧
    (∀ u ∈ [false, true], ∀ h ∈ [false, true],
      let s := { port 0 { st := .up } with clk := (clocked fun c => { c with unaligned := u, guard := .vco8, pllB := { c.pllB with held := h } }).clk };
      s.runs ∧ s.lnk.root = false ∧ s.lnk.refused = false ∧ s.lnk.ports[0].st = .up ∧ s.clk.unaligned = u ∧ (s.clk.guard == .vco8 && s.clk.pllB.held) = h) ∧
    (∀ e ∈ [128, 129], (rha (((((marker e false).time * 64 + (marker e false).residence : Nat) : Int) - (marker e false).arrival) * 3125 +
      awake.lnk.rootLat.toNat * 6144) 3125).natAbs = e) ∧
    (let s := linked fun l => { l with step := some (5, 0) }; s.runs ∧ s.lnk.step = some (5, 0) ∧ (0 : Int) ≤ (s.time : Int) + 5 + (-5) % 1024) ∧
    (∀ e : Int, e ∈ [5] → (linked fun l => { l with step := some (5, 1) }).lnk.step ≠ some (e, 0)) ∧
    (let s := inSet fun c => { c with strand := { c.strand with st := .waitSet } }; s.lnk.root = false ∧ s.lnk.refused = false ∧ s.runners 1 ≠ []) ∧
    (let s := inSet fun c => { c with strand := { c.strand with st := .armed } }; s.lnk.root = false ∧ s.lnk.refused = false ∧ s.runners 1 = [] ∧ (3 : Ch) ∈ s.setMembers 1 ∧
      (s.ch 3).strand.st = .armed) ∧
    (awake.clk.unaligned = true ∧ SyncAct.start ≠ .abort ∧ (clocked fun c => { c with unaligned := false }).clk.unaligned = false) := by
  refine ⟨?_, ?_, ?_, ?_, ?_, ?_, ?_, ?_, ?_, ?_⟩ <;> (try simp only [State.runs]) <;> decide +kernel

/-! ### Witnesses: the image loader -/

/-- An image of 64 bytes with sections 1 and 3, both empty; its CRC from R41. -/
def image (part : Bool) : List Byte :=
  let l : List Byte := [0x50, 0x4C, 0x49, 0x4D, 0, 1, BitVec.ofNat 8 (bit part), 0, 0, 0, 0, 0, 64, 0, 0, 0, 2, 0, 0, 0, 0, 0, 0, 0,
    0, 0, 0, 1, 48, 0, 0, 0, 0, 0, 0, 0, 0, 0, 0, 3, 48, 0, 0, 0, 0, 0, 0, 0, 0, 0, 0, 0, 0, 0, 0, 0, 0, 0, 0, 0]
  l ++ wordBytes (crc32 l)

/-- The image stands in the staging buffer, the loader in `st`. -/
def loads (st : ImgState) (b : List Byte) : State := { awake with img := { (({ st := st } : Img).stageBytes b) with written := b.length } }

def job (secs : List Nat) (part : Bool) (l : List Ch) : LoadJob :=
  { src := .host, part := part, vals := [], sets := [fieldKey (fieldId 4 7) 3], sections := secs, clamps := [], count := 0, crc := 0, required := l, beads := [] }

/-- The loader holds a job. -/
def jobs (j : LoadJob) : State := { awake with img := { st := .loading, before := .bare, job := some j } }

theorem witness_ImagesAreJudgedAndSwapped :
    (∀ x ∈ [ImgState.boot, .loading], let s := loads x []; s.serves ∧ s.img.st = x) ∧
    (let s := { loads .bare [] with cel := { awake.cel with running := some (.command 2) } }; s.serves ∧ s.cel.slotWriting = true ∧ s.img.st ≠ .boot ∧ s.img.st ≠ .loading) ∧
    (let s := loads .bare []; s.serves ∧ s.img.st ≠ .boot ∧ s.img.st ≠ .loading ∧ s.cel.slotWriting = false ∧ s.memSound ∧ s.slotBytes .slotA = none ∧
      s.slotBytes .slotB = none) ∧
    (let s := jobs (job [1, 3] false []); s.serves ∧ s.img.st = .loading ∧ s.img.job = some (job [1, 3] false [])) ∧
    (let s := { loads .bare [] with cel := { awake.cel with st := .ready }, flash := { flashOf [] with pages :=
        [{ block := 1, page := 0, region := .slotA, setLast := true, lpage := 0, seq := 1, set := 1, hour := 0, data := image false }] } };
      s.serves ∧ s.slotBytes .slotA = some (padPage 2048 (image false))) ∧
    (let s := loads .bare [0]; word32 (readByte stageBackground s.img.stage) 0 ≠ 0x4D494C50) ∧
    (∀ p ∈ [false, true], let s := loads .bare (image p); s.serves ∧ s.img.st ≠ .ready ∧
      (match parseImage (readByte stageBackground s.img.stage) s.img.written s.lnk.devId s.img.stageUe with
        | .ok k => k.part == p
        | .error _ => false) = true ∧ ∀ n : Ch, (s.ch n).quiesced = true) ∧
    (let s := (loads .bare (image false)).upCh 3 fun c => { c with loop := { c.loop with st := .primary } }; (s.ch 3).quiesced = false ∧
      ∀ i : Ch, i < 3 → (s.ch i).quiesced = true) ∧
    (awake.img.job = none) ∧
    (let s := (jobs (job [1, 3] false [])).upMig 7 fun m => { m with busy := true }; s.runs ∧ 3 ∈ (job [1, 3] false []).sections ∧ (s.mig 7).busy = true) ∧
    (∀ x ∈ [([1, 3], false), ([4], true)], let s := jobs (job x.1 x.2 [0, 63]); s.runs ∧ s.img.job = some (job x.1 x.2 [0, 63]) ∧ (∀ b : Bay, (s.mig b).busy = false) ∧
      (∀ n ∈ (job x.1 x.2 [0, 63]).required, (s.ch n).quiesced = true) ∧ (x.2 = true → 3 ∉ x.1)) ∧
    (let s := (jobs (job [4] true [0, 63])).upCh 63 fun c => { c with loop := { c.loop with st := .primary } };
      (job [4] true [0, 63]).required.find? (fun n => !(s.ch n).quiesced) = some 63 ∧ 2 ∉ (job [4] true [0, 63]).sections ∧ 3 ∉ (job [4] true [0, 63]).sections) := by
  refine ⟨?_, ?_, ?_, ?_, ?_, ?_, ?_, ?_, ?_, ?_, ?_, ?_⟩ <;> (try simp only [State.serves, State.runs, State.memSound]) <;> decide +kernel

/-! ### Witnesses: power -/

def powered (f : Pwr → Pwr) : State := { awake with pwr := f awake.pwr }

theorem witness_TheGovernorTheRailsAndThePllsFollowPower :
    (State.reset.runs ∧ (∀ k : CellIx, (State.reset.cell k).awake = false) ∧ State.reset.totalMw = 3644) ∧
    (∀ l ∈ [3643, 3644, 4144, 4145], (powered fun p => { p with limitMw := BitVec.ofNat 16 l }).pwr.limitMw.toNat = l ∧
      (powered fun p => { p with limitMw := BitVec.ofNat 16 l }).totalMw = 3644) ∧
    (∀ k ∈ [1023, 1024], (powered fun p => { p with overCount := k }).pwr.overCount = k) ∧
    (let s := { State.reset with pwr := { pllSleep := true } }; s.runs ∧ s.pwr.pllSleep = true ∧ s.clk.pllOff = false ∧
      (∀ b : Bay, (s.bay b).awake = false ∧ (s.bay b).waking = false) ∧ (∀ n : Ch, (s.ch n).eff.winV.mode = .off ∧ (s.ch n).eff.winI.mode = .off) ∧
      (∀ p : Port, s.lnk.ports[p.val].st = .off) ∧ s.cel.running = none ∧ s.cel.work = []) ∧
    (let s := chan fun c => { c with eff := { c.eff with winI := { c.eff.winI with mode := .sampled } } }; s.runs ∧ (s.ch 3).eff.winI.mode ≠ .off ∧ s.pwr.pllSleep = false ∧
      (s.bay 0).awake = true ∧ (port 1 { st := .idle }).lnk.ports[1].st ≠ .off) ∧
    (let s := { powered fun p => { p with step := .rails } with img := { st := .ready } }; s.pwr.step = .rails ∧ s.img.st ≠ .bare ∧
      (∀ b : Bay, (s.bay b).awake = true → 13500 ≤ (13500 : BitVec 16).toNat ∧ 13500 ≤ (13500 : BitVec 16).toNat) ∧
      ¬ (∀ b : Bay, (s.bay b).awake = true → 13500 ≤ (13499 : BitVec 16).toNat)) ∧
    (let s := (chan id).upPwr fun p => { p with step := .done, waitRest := [3] }; s.pwr.step ≠ .rails ∧ s.pwr.waitRest ≠ [] ∧ s.pwr.gateDone = false ∧
      (s.ch 3).canRest = true ∧ (s.ch 3).force.out ≠ .graveOpen) ∧
    (let s := powered fun p => { p with step := .done }; s.pwr.step ≠ .rails ∧ s.pwr.waitRest = []) := by
  refine ⟨?_, ?_, ?_, ?_, ?_, ?_, ?_, ?_⟩ <;> (try simp only [State.runs]) <;> decide +kernel

end Sys2Proof.Tests
end

section
/-! SUPPORT. The statements of scope: what a step on an empty queue moves, what no command moves, when MODE and CLASS act, how single words
land and what reads clear. -/

namespace Sys2Proof.Machine

/-! ### A command at the front of the queue, and an empty queue -/

theorem step_cons (s : State) (c : Instr) (rest : List Instr) :
    step { s with pending := c :: rest } = exec c { s with pending := rest } := rfl

theorem step_empty {s : State} (h : s.pending = []) : step s = .next (tick s) := by
  unfold step
  rw [h]

/-! ### The clocks over one loop period (R4, R433) -/

/-- Always-on time is all that `advanceTicks` changes. -/
theorem State.advanceTicks_eq (s : State) (u : Nat) :
    s.advanceTicks u = { s with ticks := (s.advanceTicks u).ticks, frac := (s.advanceTicks u).frac } := by
  unfold State.advanceTicks
  split <;> rfl

theorem State.advanceTicks_down {s : State} (u : Nat) (h : s.pwr.aonDown = true) : s.advanceTicks u = s := by
  simp [State.advanceTicks, h]

/-- While AONVDD stands no unit of always-on time is lost: the fraction carries what does not fill a tick. -/
theorem State.advanceTicks_units {s : State} (u : Nat) (h : s.pwr.aonDown = false) :
    (s.advanceTicks u).ticks * 937500 + (s.advanceTicks u).frac = s.ticks * 937500 + s.frac + u := by
  simp only [State.advanceTicks, h, Bool.false_eq_true, if_false]
  have := Nat.div_add_mod (s.frac + u) 937500
  omega

/-- The length of the coming loop period in units of always-on time, with what a time step adds (R479). -/
def State.nextUnits (s : State) : Nat := s.periodUnits * (256 + s.extra) / 256

theorem State.nextUnits_vco8 {s : State} (hg : s.clk.guard = .vco8) (hs : s.lnk.step = none) : s.nextUnits = 32000 := by
  simp [State.nextUnits, State.periodUnits, State.extra, hg, hs]

/-- What the beginning of a loop period changes. -/
theorem State.nextPeriod_eq (s : State) : s.nextPeriod =
    { s with time := s.time + 256, ticks := (s.advanceTicks s.nextUnits).ticks, frac := (s.advanceTicks s.nextUnits).frac,
             fresh := [], cel := { s.cel with sent := [] }, lnk := s.lnk.pass s.extra s.trimDue } := by
  unfold State.nextPeriod State.upLnk
  dsimp only
  rw [State.advanceTicks_eq]
  rfl

theorem State.nextPeriod_ticks (s : State) : s.nextPeriod.ticks = (s.advanceTicks s.nextUnits).ticks := by rw [State.nextPeriod_eq]

theorem State.nextPeriod_frac (s : State) : s.nextPeriod.frac = (s.advanceTicks s.nextUnits).frac := by rw [State.nextPeriod_eq]

/-! ### One loop period without landed requests -/

theorem State.tickBegin_keeps {s : State} (h : s.runs) : Keeps s.nextPeriod s.tickBegin := by
  unfold State.tickBegin
  rw [if_neg (by rw [h]; decide)]
  exact State.each_keepsAll (State.allCh_keeps (Keeps.refl _) _) allChs _ fun n _ hk => State.stageOpen_keeps hk n

theorem tick_noneLanded {s : State} (h : s.landed = []) : tick s = s.tickBegin.tickEnd := by
  have hs : { s with landed := [] } = s := by rw [← h]
  unfold tick
  rw [hs, h]
  rfl

/-- Behind the beginning of the loop period nothing in it moves the queue or either time. -/
theorem tick_keeps {s : State} (h : s.runs) (hl : s.landed = []) : Keeps s.nextPeriod (tick s) := by
  rw [tick_noneLanded hl]
  exact State.tickEnd_keeps (State.tickBegin_keeps h)

/-! ### What no command moves -/

/-- The queue and both times are as they were. -/
structure SameTimes (s t : State) : Prop where
  pending : t.pending = s.pending
  time : t.time = s.time
  ticks : t.ticks = s.ticks
  frac : t.frac = s.frac

theorem Keeps.sameTimes {s t : State} (h : Keeps s t) : SameTimes s t := ⟨h.pending, h.time, h.ticks, h.frac⟩

theorem SameTimes.trans {a b c : State} (h : SameTimes a b) (k : SameTimes b c) : SameTimes a c :=
  ⟨k.pending.trans h.pending, k.time.trans h.time, k.ticks.trans h.ticks, k.frac.trans h.frac⟩

theorem State.upJtag_sameTimes (s : State) (f : Jtag → Jtag) : SameTimes s (s.upJtag f) := ⟨rfl, rfl, rfl, rfl⟩

theorem State.loadIr_sameTimes (s : State) (i : JtagIr) : SameTimes s (s.loadIr i) := s.upJtag_sameTimes _

/-- An instruction that takes the pins over opens the outputs while the logic runs (R553). -/
theorem State.loadIr_pinsOpen_sameTimes (s : State) (i : JtagIr) : SameTimes s ((s.loadIr i).live State.pinsOpen) :=
  (s.loadIr_sameTimes i).trans (State.live_keeps (Keeps.refl _) _ State.pinsOpen_keeps).sameTimes

theorem State.regAccess_sameTimes (s : State) (write : Bool) (a : Addr) (v : Word) : SameTimes s (s.regAccess write a v) := by
  unfold State.regAccess
  split
  · exact (State.landWord_keeps (Keeps.refl s) a v true).sameTimes.trans (State.upJtag_sameTimes _ _)
  · exact (State.readSide_keeps (Keeps.refl s) a).sameTimes.trans (State.upJtag_sameTimes _ _)

theorem State.live_sameTimes (s : State) (f : State → State) (h : SameTimes s (f s)) : SameTimes s (s.live f) := by
  unfold State.live
  split
  · exact ⟨rfl, rfl, rfl, rfl⟩
  · exact h

theorem State.release_sameTimes (s : State) (b : BootIn) : SameTimes s (s.release b) := by
  unfold State.release
  dsimp only
  split
  · exact ⟨rfl, rfl, rfl, rfl⟩
  · next e _ =>
    have hd : ∀ r : State, Keeps r (r.detected e) := fun r => State.detected_keeps (Keeps.refl r) e
    split
    · refine SameTimes.trans ?_ (State.bootNext_keeps (State.lockHeld_keeps (State.lockHeld_keeps (State.lockAcquired_keeps
        (State.lockAcquired_keeps (hd _) .a) .b) .a) .b)).sameTimes
      exact ⟨rfl, rfl, rfl, rfl⟩
    · refine SameTimes.trans ?_ (hd _).sameTimes
      exact ⟨rfl, rfl, rfl, rfl⟩

/-- The commands that move a time: the resets, and the end of an epoch marker's time step (R479, R512, R554). -/
def movesTime : Instr → Bool
  | .powerOnReset | .alwaysOnPowerOnReset | .resetNAssert | .chipReset | .timeStepEnd => true
  | _ => false

theorem exec_sameTimes (c : Instr) (s : State) (h : movesTime c = false) : ∃ t, exec c s = .next t ∧ SameTimes s t := by
  cases hc : isLogic c with
  | true =>
    obtain ⟨t, e, hk⟩ := exec_keeps c s hc
    exact ⟨t, e, hk.sameTimes⟩
  | false =>
    cases c
    case powerOnReset => exact absurd h.symm Bool.false_ne_true
    case alwaysOnPowerOnReset => exact absurd h.symm Bool.false_ne_true
    case resetNAssert => exact absurd h.symm Bool.false_ne_true
    case chipReset => exact absurd h.symm Bool.false_ne_true
    case timeStepEnd => exact absurd h.symm Bool.false_ne_true
    case resetRelease b =>
      refine ⟨_, rfl, ?_⟩
      split
      · exact s.release_sameTimes b
      · exact (Keeps.refl s).sameTimes
    case extest => exact ⟨_, rfl, s.loadIr_pinsOpen_sameTimes _⟩
    case clamp => exact ⟨_, rfl, s.loadIr_pinsOpen_sameTimes _⟩
    case highz => exact ⟨_, rfl, s.loadIr_pinsOpen_sameTimes _⟩
    case samplePreload => exact ⟨_, rfl, (s.loadIr_sameTimes _).trans (State.upJtag_sameTimes _ _)⟩
    case idcode => exact ⟨_, rfl, (s.loadIr_sameTimes _).trans (State.upJtag_sameTimes _ _)⟩
    case bypass => exact ⟨_, rfl, s.loadIr_sameTimes _⟩
    case factoryTest testen => exact ⟨_, rfl, s.upJtag_sameTimes _⟩
    case testenLow => exact ⟨_, rfl, s.upJtag_sameTimes _⟩
    case regAccess write a v =>
      refine ⟨_, rfl, ?_⟩
      split
      · exact (s.loadIr_sameTimes _).trans (State.live_sameTimes _ _ (State.regAccess_sameTimes _ write a v))
      · exact s.loadIr_sameTimes _
    all_goals exact absurd (show false = true from hc.symm) Bool.false_ne_true

/-- A reset keeps the queue, and one that the Grave latch refuses keeps everything (R377). -/
theorem State.softReset_pending (s : State) (source : BitVec 2) (jtag : Jtag) : (s.softReset source jtag).pending = s.pending := by
  unfold State.softReset
  split <;> rfl

theorem State.endStep_pending (s : State) : s.endStep.pending = s.pending := by
  unfold State.endStep
  split <;> rfl

theorem exec_pending (c : Instr) (s : State) : ∃ t, exec c s = .next t ∧ t.pending = s.pending := by
  cases hm : movesTime c with
  | false =>
    obtain ⟨t, e, hk⟩ := exec_sameTimes c s hm
    exact ⟨t, e, hk.pending⟩
  | true =>
    cases c
    case powerOnReset => exact ⟨_, rfl, rfl⟩
    case alwaysOnPowerOnReset => exact ⟨_, rfl, rfl⟩
    case resetNAssert => exact ⟨_, rfl, s.softReset_pending _ _⟩
    case chipReset => exact ⟨_, rfl, (s.loadIr .chipReset).softReset_pending _ _⟩
    case timeStepEnd =>
      refine ⟨_, rfl, ?_⟩
      unfold State.live
      split
      · rfl
      · exact s.endStep_pending
    all_goals exact absurd (show false = true from hm) Bool.false_ne_true

/-- The commands that move a time, from the other side: every command but these five. -/
theorem movesTime_of_ne {c : Instr} (h1 : c ≠ .powerOnReset) (h2 : c ≠ .alwaysOnPowerOnReset) (h3 : c ≠ .resetNAssert)
    (h4 : c ≠ .chipReset) (h5 : c ≠ .timeStepEnd) : movesTime c = false := by
  unfold movesTime
  split
  · exact absurd rfl h1
  · exact absurd rfl h2
  · exact absurd rfl h3
  · exact absurd rfl h4
  · exact absurd rfl h5
  · rfl

/-- Settles O1: the two branches of `step` are told apart by the queue alone. -/
theorem stepRunsTheFrontCommand : Obligations.StepRunsTheFrontCommand := step_cons

/-- Settles O2: the clocks move at the beginning of the loop period, and nothing behind it moves them. -/
theorem anEmptyQueueLetsALoopPeriodPass : Obligations.AnEmptyQueueLetsALoopPeriodPass := by
  intro s hr hp hl
  have hk := tick_keeps hr hl
  have hn := s.nextPeriod_eq
  refine ⟨tick s, step_empty hp, ?_, ?_, ?_, ?_, ?_, ?_, ?_⟩
  · rw [hk.pending, hn]; exact hp
  · rw [hk.time, hn]
  · exact hk.inReset.trans (by rw [hn]; exact hr)
  · rw [hk.strap, hn]; rfl
  · rw [hk.jtag, hn]
  · intro hd
    rw [hk.ticks, hk.frac, s.nextPeriod_ticks, s.nextPeriod_frac, State.advanceTicks_down _ hd]
    exact ⟨rfl, rfl⟩
  · intro hu hg hs
    rw [hk.ticks, hk.frac, s.nextPeriod_ticks, s.nextPeriod_frac, State.advanceTicks_units _ hu, State.nextUnits_vco8 hg hs]

/-- Settles O6: the logic's commands keep queue and times, a release and the test access port do so too, and the resets and the end of a
time step keep the queue. -/
theorem noCommandTouchesTheQueue : Obligations.NoCommandTouchesTheQueue := by
  intro c s t he
  constructor
  · obtain ⟨u, e, hu⟩ := exec_pending c s
    cases he.symm.trans e
    exact hu
  · intro h1 h2 h3 h4 h5
    obtain ⟨u, e, hu⟩ := exec_sameTimes c s (movesTime_of_ne h1 h2 h3 h4 h5)
    cases he.symm.trans e
    exact ⟨hu.time, hu.ticks, hu.frac⟩

/-! ### The gates of a host write to a channel -/

theorem State.takes.chWrite {s : State} {n : Ch} (h : s.takes n) (off : Nat) (w : Word) (f : State → State) : s.chWrite n off w f = f s := by
  obtain ⟨⟨hr, hg⟩, ha, hm⟩ := h
  exact s.chWrite_of n off w f hr hg ha hm

/-! ### MODE and CLASS (R95, R97) -/

/-- A channel written with what it holds is the same channel. -/
theorem State.upCh_same (s : State) (n : Ch) (f : Chan → Chan) (h : f (s.ch n) = s.ch n) : s.upCh n f = s := by
  have hv : s.chans.set n.val (s.ch n) = s.chans := Vector.set_getElem_self n.isLt
  show { s with chans := s.chans.set n.val (f (s.ch n)) } = s
  rw [h, hv]

theorem State.modeLand_repeat {s : State} {n : Ch} {m : ForceMode} (h : (s.ch n).cfg.mode = m) : s.modeLand n m = s := by
  simp [State.modeLand, h]

theorem State.modeLand_refused {s : State} {n : Ch} {m : ForceMode} (h : (s.ch n).cfg.mode ≠ m)
    (hb : (s.ch n).loop.st.closed = true ∨ (s.ch n).strand.st.active = true) : s.modeLand n m = s.noteCh n 0x040 := by
  simp [State.modeLand, h, hb]

/-- With the loops open and no strand MODE takes the written value, which a repetition of it holds already. -/
theorem State.modeLand_open {s : State} {n : Ch} (m : ForceMode) (hl : (s.ch n).loop.st.closed = false)
    (ht : (s.ch n).strand.st.active = false) : s.modeLand n m = s.upCh n fun c => { c with cfg := { c.cfg with mode := m } } := by
  by_cases h : (s.ch n).cfg.mode = m
  · rw [State.modeLand_repeat h, s.upCh_same n _ (by subst h; rfl)]
  · simp [State.modeLand, h, hl, ht]

theorem exec_forceModeWrite_takes {s : State} {n : Ch} (m : ForceMode) (h : s.takes n) :
    exec (.forceModeWrite n m) s = .next ((s.modeLand n m).sample n) :=
  congrArg _ (h.chWrite _ _ _)

theorem exec_forceClassWrite_takes {s : State} {n : Ch} (k : UpdateClass) (h : s.takes n) :
    exec (.forceClassWrite n k) s = .next ((s.upCh n fun c => { c with cfg := { c.cfg with cls := k } }).sample n) :=
  congrArg _ (h.chWrite _ _ _)

/-- A register written at the boundary that samples it: the channel takes the register with code and target held, its loops are left
alone, and a change of CLASS to stream starts the stream count. -/
theorem State.cfgSample_spec (s : State) (n : Ch) (g : ChanCfg) (t : State)
    (ht : t = (s.upCh n fun c => { c with cfg := g }).sample n) :
    s.chOnly t n ∧ (t.ch n).cfg = g ∧ (t.ch n).eff.mode = g.mode ∧ (t.ch n).eff.cls = g.cls ∧
      (t.ch n).force.code = (s.ch n).force.code ∧ (t.ch n).force.target = (s.ch n).force.target ∧ (t.ch n).loop = (s.ch n).loop ∧
      (g.cls = .stream → (s.ch n).eff.cls = .strobed →
        (t.ch n).force.streamStart = s.period ∧ (t.ch n).force.streamLast = (s.ch n).force.applied) := by
  subst ht
  have hc : ((s.upCh n fun c => { c with cfg := g }).sample n).ch n = Chan.sampled { s.ch n with cfg := g } s.period := by
    rw [State.sample_ch, State.upCh_ch]
    rfl
  obtain ⟨hcode, htarget, -⟩ := Chan.sampled_force { s.ch n with cfg := g } s.period
  obtain ⟨e, r, f, hs, -, -, hstream, -⟩ := Chan.sampled_spec { s.ch n with cfg := g } s.period
  refine ⟨(s.upCh_chOnly n _).trans (State.sample_chOnly _ n), ?_⟩
  rw [hc]
  refine ⟨by simp, by simp, by simp, hcode, htarget, by simp, fun hk he => ?_⟩
  rw [hs]
  exact hstream hk he

/-- Settles O29: the gate passes, the write lands by `modeLand`, and the sampling holds the command. -/
theorem modeAndClassTakeEffectWithTheCommandHeld : Obligations.ModeAndClassTakeEffectWithTheCommandHeld := by
  intro n s h
  refine ⟨fun m hm hb => ?_, fun m hm => ?_, fun m hl ht => ?_, fun k => ?_⟩
  · rw [exec_forceModeWrite_takes m h, State.modeLand_refused hm hb]
  · rw [exec_forceModeWrite_takes m h, State.modeLand_repeat hm]
  · refine ⟨_, exec_forceModeWrite_takes m h, ?_⟩
    obtain ⟨honly, hcfg, hmode, -, hcode, htarget, hloop, -⟩ := s.cfgSample_spec n { (s.ch n).cfg with mode := m } _
      (congrArg (State.sample · n) (State.modeLand_open m hl ht))
    exact ⟨honly, hcfg, hmode, hcode, htarget, hloop⟩
  · refine ⟨_, exec_forceClassWrite_takes k h, ?_⟩
    obtain ⟨honly, hcfg, -, hcls, hcode, htarget, hloop, hstream⟩ := s.cfgSample_spec n { (s.ch n).cfg with cls := k } _ rfl
    exact ⟨honly, hcfg, hcls, hcode, htarget, hloop, hstream⟩

/-! ### The addresses of a channel page (R547, R549) -/

theorem chAddr_toNat (n : Ch) {off : Nat} (h : off < 0x400) : (chAddr n off).toNat = 0x10000 + n.val * 0x400 + off := by
  simp only [chAddr, BitVec.toNat_ofNat]
  omega

theorem chAddr_page (n : Ch) {off : Nat} (h : off < 0x400) : ((chAddr n off).toNat - 0x10000) / 0x400 = n.val := by
  rw [chAddr_toNat n h]
  omega

theorem chAddr_offset (n : Ch) {off : Nat} (h : off < 0x400) : (chAddr n off).toNat % 0x400 = off := by
  rw [chAddr_toNat n h]
  omega

/-- The map's region of the channel pages. -/
theorem chAddr_region (n : Ch) {off : Nat} (h : off < 0x400) : 0x10000 ≤ (chAddr n off).toNat ∧ (chAddr n off).toNat < 0x20000 := by
  rw [chAddr_toNat n h]
  omega

theorem State.readWord_chAddr (s : State) (n : Ch) {off : Nat} (h : off < 0x400) : s.readWord (chAddr n off) = s.readCh n off := by
  obtain ⟨hlo, hhi⟩ := chAddr_region n h
  have hn : (⟨((chAddr n off).toNat - 0x10000) / 0x400, by omega⟩ : Ch) = n := Fin.ext (chAddr_page n h)
  simp only [State.readWord, Nat.not_lt.mpr hlo, if_false, hhi, dif_pos, hn, chAddr_offset n h]

theorem State.readSide_chAddr (s : State) (n : Ch) {off : Nat} (h : off < 0x400) :
    s.readSide (chAddr n off) = s.upCh n fun c => c.readSide off := by
  obtain ⟨hlo, hhi⟩ := chAddr_region n h
  have hn : (⟨((chAddr n off).toNat - 0x10000) / 0x400, by omega⟩ : Ch) = n := Fin.ext (chAddr_page n h)
  simp only [State.readSide, Nat.not_lt.mpr hlo, if_false, hlo, hhi, and_self, dif_pos, hn, chAddr_offset n h]

theorem State.writeMapped_chAddr (s : State) (n : Ch) {off : Nat} (v : Word) (h : off < 0x400) :
    s.writeMapped (chAddr n off).toNat v = s.hostWriteCh n off v := by
  obtain ⟨hlo, hhi⟩ := chAddr_region n h
  have hn : (⟨((chAddr n off).toNat - 0x10000) / 0x400, by omega⟩ : Ch) = n := Fin.ext (chAddr_page n h)
  simp only [State.writeMapped, hlo, hhi, and_self, dif_pos, hn, chAddr_offset n h]

/-! ### A written word (R6, R377, R501, R551) -/

theorem State.landWord_unwritable {s : State} {a : Addr} (v : Word) (jtag : Bool) (h : s.writable a = false) : s.landWord a v jtag = s := by
  simp [State.landWord, h]

theorem State.writable_unmapped {s : State} {a : Addr} (h : s.readWord a = none) : s.writable a = false := by
  simp [State.writable, h]

theorem State.writable_larder {s : State} {a : Addr} (hlo : 0x200000 ≤ a.toNat) (hhi : a.toNat < 0x300000) : s.writable a = false := by
  simp [State.writable, hlo, hhi]

theorem State.writable_chAddr {s : State} {n : Ch} {off : Nat} (h : off < 0x400) (hm : (s.readCh n off).isSome = true) :
    s.writable (chAddr n off) = true := by
  obtain ⟨-, hhi⟩ := chAddr_region n h
  have hlow : ¬ 0x200000 ≤ (chAddr n off).toNat := by omega
  simp [State.writable, s.readWord_chAddr n h, hm, hlow]

/-- The registers that the Grave latch excepts lie in the system blocks. -/
theorem graveServes_chAddr (n : Ch) {off : Nat} (h : off < 0x400) : graveServes (chAddr n off) = false := by
  obtain ⟨hlo, -⟩ := chAddr_region n h
  have hne : ∀ k : Nat, k < 0x10000 → (chAddr n off).toNat ≠ k := fun k hk => by omega
  simp [graveServes, hne]

theorem State.landWord_chAddr {s : State} {n : Ch} {off : Nat} (v : Word) (jtag : Bool) (hs : s.serves) (h : off < 0x400)
    (hm : (s.readCh n off).isSome = true) : s.landWord (chAddr n off) v jtag = s.hostWriteCh n off v := by
  obtain ⟨hlo, -⟩ := chAddr_region n h
  simp only [State.landWord, State.writable_chAddr h hm, graveServes_chAddr n h, Bool.not_true, Bool.false_eq_true, if_false,
    s.hostAct_of _ hs.1 hs.2, Nat.not_lt.mpr hlo, s.writeMapped_chAddr n v h]

/-- A data-path register that has a writable field and is no START of a strand. -/
theorem State.hostWriteCh_takes {s : State} {n : Ch} (h : s.takes n) {off : Nat} (v : Word) (hattn : off ≠ 0x3E0) (hro : roCh off = false)
    (hstart : off ≠ 0x240) : s.hostWriteCh n off v = s.writeCh n off v := by
  simp [State.hostWriteCh, hattn, hro, hstart, h.chWrite]

theorem exec_registerWrite_runs {s : State} (a : Addr) (v : Word) (h : s.runs) :
    exec (.registerWrite a v) s = .next (s.landWord a v false) := congrArg _ (s.live_of _ h)

theorem exec_registerWrite_chAddr {s : State} {n : Ch} (h : s.takes n) {off : Nat} (v : Word) (hlt : off < 0x3E0)
    (hro : roCh off = false) (hstart : off ≠ 0x240) (hm : (s.readCh n off).isSome = true) :
    exec (.registerWrite (chAddr n off) v) s = .next (s.writeCh n off v) := by
  rw [exec_registerWrite_runs _ v h.1.1, State.landWord_chAddr v false h.1 (by omega) hm,
    State.hostWriteCh_takes h v (by omega) hro hstart]

/-- HOST_SCRATCH (R509). -/
theorem State.landWord_scratch {s : State} (v : Word) (jtag : Bool) (h : s.serves) :
    s.landWord 0x1014 v jtag = { s with host := { s.host with scratch := v } } := by
  have hw : s.writable 0x1014 = true := rfl
  have hg : graveServes 0x1014 = false := by decide
  rw [State.landWord, hw, hg, if_neg (by decide), if_neg (by decide), s.hostAct_of _ h.1 h.2, if_pos (by decide)]
  rfl

@[simp] theorem State.upCfg_ch (s : State) (n : Ch) (f : ChanCfg → ChanCfg) : (s.upCfg n f).ch n = { s.ch n with cfg := f (s.ch n).cfg } :=
  s.upCh_ch n _

@[simp] theorem State.land_ch (s : State) (l : List Instr) (n : Ch) : (s.land l).ch n = s.ch n := rfl

/-- CH_LEVEL is stored; the data path takes it at the next boundary (R9, R113). -/
theorem State.writeCh_level (s : State) (n : Ch) (v : Word) :
    s.writeCh n 0x044 v = s.upCh n fun c => { c with cfg := { c.cfg with level := v } } := by
  have hseq : ∀ c : Chan, c.seqChanged 0x044 v = false := fun _ => rfl
  show s.storeCh n 0x044 v = _
  unfold State.storeCh
  simp only [hseq]
  simp [Chan.clear, ChanCfg.store]

/-- A word to CH_FORCE_CTRL that repeats MODE, with LOAD as its one request: CLASS is stored and the strobe waits (R9, R113). -/
theorem State.writeCh_load (s : State) (n : Ch) (v : Word) (h2 : v.getLsbD 2 = false) (h3 : v.getLsbD 3 = false) (h4 : v.getLsbD 4 = false)
    (h5 : v.getLsbD 5 = true) (h0 : v.getLsbD 0 = ((s.ch n).cfg.mode == .current)) :
    s.writeCh n 0x040 v =
      (s.upCfg n fun g => { g with cls := if v.getLsbD 1 then .stream else .strobed }).land [.forceLoad n] := by
  have hmode : (s.ch n).cfg.mode = if v.getLsbD 0 then .current else .voltage := by
    rw [h0]
    cases (s.ch n).cfg.mode <;> rfl
  show s.forceCtrl n v = _
  simp only [State.forceCtrl, State.modeLand_repeat hmode, h2, h3, h4, h5]
  rfl

/-! ### Reads with a side effect (R6, R500, R551) -/

theorem exec_readClearCounter_runs {s : State} (a : Addr) (h : s.runs) :
    exec (.readClearCounter a) s = .next (s.readSide a) := congrArg _ (s.live_of _ h)

/-- HOST_CRC_ERROR_COUNT clears (R509). -/
theorem State.readSide_crcErrs (s : State) : s.readSide 0x1008 = { s with host := { s.host with crcErrs := 0 } } := rfl

/-- Behind the cell pages no read has a side effect: what stands there is memory, or unmapped. -/
theorem State.readSide_memory (s : State) {a : Addr} (h : 0x32000 ≤ a.toNat) : s.readSide a = s := by
  have h1 : ¬ a.toNat < 0x10000 := by omega
  have h2 : ¬ a.toNat < 0x20000 := by omega
  have h3 : ¬ a.toNat < 0x32000 := by omega
  simp [State.readSide, h1, h2, h3]

/-- Settles O26: each address is brought to its region of the map, and the register's own lemma says what the word does there. -/
theorem singleWordsLandAndReadsClear : Obligations.SingleWordsLandAndReadsClear := by
  intro s hs
  refine ⟨fun v => ?_, fun a v ha => ?_, fun a v hlo hhi => ?_, fun n v hn => ?_, fun n v hn h2 h3 h4 h5 h0 => ?_, fun n => ?_, ?_,
    fun a ha => ?_⟩
  · rw [exec_registerWrite_runs _ v hs.1, State.landWord_scratch v false hs]
  · rw [exec_registerWrite_runs _ v hs.1, State.landWord_unwritable v false (State.writable_unmapped ha)]
  · rw [exec_registerWrite_runs _ v hs.1, State.landWord_unwritable v false (State.writable_larder hlo hhi)]
  · refine ⟨_, exec_registerWrite_chAddr hn v (by decide) (by decide) (by decide) rfl, ?_⟩
    rw [State.writeCh_level]
    exact ⟨s.upCh_chOnly n _, s.upCh_ch n _⟩
  · refine ⟨_, exec_registerWrite_chAddr hn v (by decide) (by decide) (by decide) rfl, ?_⟩
    rw [State.writeCh_load s n v h2 h3 h4 h5 h0]
    exact ⟨rfl, by rw [State.land_ch, State.upCfg_ch], rfl⟩
  · refine ⟨_, exec_readClearCounter_runs _ hs.1, ?_⟩
    rw [s.readSide_chAddr n (by decide)]
    exact ⟨s.upCh_chOnly n _, s.upCh_ch n _⟩
  · rw [exec_readClearCounter_runs _ hs.1, s.readSide_crcErrs]
  · rw [exec_readClearCounter_runs _ hs.1, s.readSide_memory ha]

end Sys2Proof.Machine
end

section
/-! SUPPORT. The reset state's channels and cells, and what a host write to a clasp member does. -/

namespace Sys2Proof.Machine

/-! ### Channels and cells at reset (R19, R32, R554) -/

@[simp] theorem State.reset_ch (n : Ch) : State.reset.ch n = Chan.reset n := tabulate_get 64 Chan.reset n

@[simp] theorem State.reset_cell (k : CellIx) : State.reset.cell k = Cell.reset k := tabulate_get 72 Cell.reset k

/-- The cells 0 … 7 of a bay carry that bay's channels in order. -/
theorem Cell.reset_active {k : CellIx} (h : CellIx.index k < 8) : (Cell.reset k).role = .active ∧
    ∃ n, (Cell.reset k).channel = some n ∧ n.val = (CellIx.bay k).val * 8 + CellIx.index k := by
  rw [Cell.reset, dif_pos h]
  exact ⟨rfl, _, rfl, rfl⟩

/-- The other cell of a bay is its spare. -/
theorem Cell.reset_spare {k : CellIx} (h : ¬ CellIx.index k < 8) : (Cell.reset k).role = .spare ∧ (Cell.reset k).channel = none := by
  rw [Cell.reset, dif_neg h]
  exact ⟨rfl, rfl⟩

theorem State.reset_memSound : State.reset.memSound := ⟨rfl, rfl⟩

/-- Settles O4: the state's own fields by evaluation, a channel by `Chan.reset`, a cell by its place in its bay. -/
theorem resetStateIsTheBareMachine : Obligations.ResetStateIsTheBareMachine := by
  refine ⟨State.reset_memSound, rfl, rfl, rfl, rfl, rfl, rfl, rfl, fun n => ?_, fun k => ?_⟩
  · rw [State.reset_ch]
    exact ⟨rfl, rfl, rfl, rfl, ⟨bareCell n, rfl, rfl⟩, rfl, rfl, rfl, rfl, rfl, rfl, rfl, rfl⟩
  · rw [State.reset_cell]
    exact ⟨fun h => Cell.reset_spare (by omega), Cell.reset_active⟩

/-! ### A host write to a clasp member (R24) -/

theorem State.chWrite_member {s : State} {n : Ch} (hs : s.serves) (ha : (s.bay (chBay n)).awake = true)
    (hm : (s.ch n).map.member = true) (off : Nat) (w : Word) (f : State → State) : s.chWrite n off w f = s.noteCh n off := by
  rw [State.chWrite, State.pageWrite_of _ _ _ _ _ hs.1 hs.2 ha, if_pos hm]

/-! ### A refused START (R258) -/

/-- A member's START is refused, whatever its strand. -/
theorem Chan.startRefused_member {c : Chan} (n : Ch) (e : LibEntry) (h : c.map.member = true) : ∃ r, c.startRefused n e = some r := by
  unfold Chan.startRefused
  split
  · exact ⟨_, rfl⟩
  · split
    · exact ⟨_, rfl⟩
    · exact ⟨_, by rw [if_pos (by simp [h])]⟩

/-- NO_CHANNEL stands behind NOT_OWNER and WRONG_CLASS alone in R258's table. -/
theorem Chan.startRefused_noChannel {c : Chan} {n : Ch} {e : LibEntry} (h : c.map.member = true) (ho : e.channel.toNat = n.val)
    (hc : e.type = .stream ↔ c.eff.cls = .stream) : c.startRefused n e = some .noChannel := by
  have hclass : ((e.type == .stream) != (c.eff.cls == .stream)) = false := by simp [hc]
  rw [Chan.startRefused, if_neg (not_not.mpr ho), hclass, if_neg Bool.false_ne_true, if_pos (by simp [h])]

/-- A refused START shows its reason and changes nothing else. -/
theorem State.strandStart_refused {s : State} {n : Ch} {d : Bool} {k : BitVec 10} {r : Reason}
    (h : (s.ch n).startRefused n (s.strandOf n d k) = some r) :
    s.strandStart n d k = s.upCh n fun c => { c with strand := { c.strand with reason := r, ended := true } } := by
  simp only [State.strandStart, h]

/-- The sampling leaves the registers that select a START's strand. -/
theorem State.strandOf_sample (s : State) (n : Ch) (d : Bool) (k : BitVec 10) : (s.sample n).strandOf n d k = s.strandOf n d k := by
  simp [State.strandOf]

theorem State.strandStart_member {s : State} {n : Ch} (d : Bool) (k : BitVec 10) (hm : (s.ch n).map.member = true) :
    ∃ r, s.strandStart n d k = (s.upCh n fun c => { c with strand := { c.strand with reason := r, ended := true } }) ∧
      ((s.strandOf n d k).channel.toNat = n.val → ((s.strandOf n d k).type = .stream ↔ (s.ch n).eff.cls = .stream) → r = .noChannel) := by
  obtain ⟨r, hr⟩ := Chan.startRefused_member n (s.strandOf n d k) hm
  exact ⟨r, State.strandStart_refused hr, fun ho hc => Option.some.inj (hr.symm.trans (Chan.startRefused_noChannel hm ho hc))⟩

/-- A START on a member passes the gate of R24 for REASON's sake: behind its Note it is sampled and refused. -/
theorem exec_strandStart_member {s : State} {n : Ch} (d : Bool) (k : BitVec 10) (hs : s.serves)
    (ha : (s.bay (chBay n)).awake = true) (hm : (s.ch n).map.member = true) :
    ∃ r, exec (.strandStart n d k) s = .next (((s.noteCh n 0x240).sample n).upCh n fun c =>
        { c with strand := { c.strand with reason := r, ended := true } }) ∧
      ((s.strandOf n d k).channel.toNat = n.val → ((s.strandOf n d k).type = .stream ↔ (s.ch n).cfg.cls = .stream) → r = .noChannel) := by
  obtain ⟨r, hstart, hreason⟩ := State.strandStart_member (s := (s.noteCh n 0x240).sample n) (n := n) d k (by simpa using hm)
  have he : exec (.strandStart n d k) s = .next (s.pageWrite (chBay n) (chAddr n 0x240) (strandWord true false false d k.toNat) fun s =>
      ((s.when (s.ch n).map.member fun s => s.noteCh n 0x240).sample n).strandStart n d k) := rfl
  refine ⟨r, ?_, ?_⟩
  · rw [he, State.pageWrite_of _ _ _ _ _ hs.1 hs.2 ha, hm, State.when_true, hstart]
  · rw [State.strandOf_sample, State.sample_ch, Chan.sampled_eff] at hreason
    exact hreason

/-- Settles O9: every other command passes `chWrite`, which posts the Note alone; a START is sampled and refused behind its Note. -/
theorem aMembersRegistersIgnoreWrites : Obligations.AMembersRegistersIgnoreWrites := by
  refine ⟨fun c n s hc hne hs ha hm => ?_, fun n d k s hs ha hm => ?_⟩
  · obtain ⟨off, w, f, he⟩ := exec_chWrite c n s hc hne
    rw [State.chWrite_member hs ha hm] at he
    exact ⟨_, off, he, rfl, rfl, rfl⟩
  · obtain ⟨r, he, hreason⟩ := exec_strandStart_member d k hs ha hm
    refine ⟨_, he, rfl, fun m hne => ?_, ?_, ?_, fun hown hcls => ?_⟩
    · rw [State.upCh_ch_ne _ _ hne, State.sample_ch_ne _ hne, State.noteCh_ch]
    · simp
    · simp
    · rw [State.upCh_ch, hreason hown hcls]

end Sys2Proof.Machine
end

section
/-! SUPPORT. The canonical form of the memories through every command, every landed request and every loop period (R79, R247, R276, R282). -/

namespace Sys2Proof.Machine

/-! ### The commands that are not the logic's own -/

/-- A reset leaves both memories as they are right after reset: nothing differs from the background. -/
theorem State.logicReset_memSound (s : State) (source : BitVec 2) (sag : Bool) (jtag : Jtag) : (s.logicReset source sag jtag).memSound :=
  State.reset_memSound

theorem State.softReset_memSound {s : State} (source : BitVec 2) (jtag : Jtag) (h : s.memSound) : (s.softReset source jtag).memSound := by
  unfold State.softReset
  split
  · exact h
  · exact s.logicReset_memSound source false jtag

/-- Start-up is work of the logic behind the release itself. -/
theorem State.release_memSound {s : State} (b : BootIn) (h : s.memSound) : (s.release b).memSound := by
  unfold State.release
  dsimp only
  split
  · exact h
  · next e _ =>
    have hd (r : State) : Keeps r (r.detected e) := State.detected_keeps (Keeps.refl r) e
    split
    · exact (State.bootNext_keeps (State.lockHeld_keeps (State.lockHeld_keeps (State.lockAcquired_keeps
        (State.lockAcquired_keeps (hd _) .a) .b) .a) .b)).memSound h
    · exact (hd _).memSound h

theorem State.endStep_memSound {s : State} (h : s.memSound) : s.endStep.memSound := by
  unfold State.endStep
  split
  · exact h
  · exact h

theorem State.live_memSound {s : State} (f : State → State) (h : s.memSound) (hf : (f s).memSound) : (s.live f).memSound := by
  unfold State.live
  split
  · exact h
  · exact hf

/-- A word written through the test access port lands as a host's word does; a read has a host read's side effects. -/
theorem State.regAccess_memSound {s : State} (write : Bool) (a : Addr) (v : Word) (h : s.memSound) : (s.regAccess write a v).memSound := by
  unfold State.regAccess
  split
  · exact (State.landWord_keeps (Keeps.refl s) a v true).memSound h
  · exact (State.readSide_keeps (Keeps.refl s) a).memSound h

theorem State.loadIr_pinsOpen_memSound {s : State} (i : JtagIr) (h : s.memSound) : ((s.loadIr i).live State.pinsOpen).memSound :=
  (State.live_keeps (Keeps.refl (s.loadIr i)) _ State.pinsOpen_keeps).memSound h

/-! ### Every command, and every list of commands -/

/-- A command answers a next state whose memories are sound when the memories before it are. -/
theorem exec_memSound (c : Instr) {s : State} (h : s.memSound) : ∃ t, exec c s = .next t ∧ t.memSound := by
  cases hc : isLogic c with
  | true =>
    obtain ⟨t, e, hk⟩ := exec_keeps c s hc
    exact ⟨t, e, hk.memSound h⟩
  | false =>
    cases c
    case powerOnReset => exact ⟨_, rfl, s.logicReset_memSound _ _ _⟩
    case alwaysOnPowerOnReset => exact ⟨_, rfl, s.logicReset_memSound _ _ _⟩
    case resetNAssert => exact ⟨_, rfl, State.softReset_memSound _ _ h⟩
    case chipReset => exact ⟨_, rfl, State.softReset_memSound (s := s.loadIr .chipReset) _ _ h⟩
    case timeStepEnd => exact ⟨_, rfl, State.live_memSound _ h (State.endStep_memSound h)⟩
    case resetRelease b =>
      refine ⟨_, rfl, ?_⟩
      split
      · exact State.release_memSound b h
      · exact h
    case extest => exact ⟨_, rfl, State.loadIr_pinsOpen_memSound _ h⟩
    case clamp => exact ⟨_, rfl, State.loadIr_pinsOpen_memSound _ h⟩
    case highz => exact ⟨_, rfl, State.loadIr_pinsOpen_memSound _ h⟩
    case samplePreload => exact ⟨_, rfl, h⟩
    case idcode => exact ⟨_, rfl, h⟩
    case bypass => exact ⟨_, rfl, h⟩
    case factoryTest testen => exact ⟨_, rfl, h⟩
    case testenLow => exact ⟨_, rfl, h⟩
    case regAccess write a v =>
      refine ⟨_, rfl, ?_⟩
      split
      · exact State.live_memSound (s := s.loadIr .regAccess) _ h (State.regAccess_memSound write a v h)
      · exact h
    all_goals exact absurd (show false = true from hc.symm) Bool.false_ne_true

theorem runAll_memSound (l : List Instr) {s : State} (h : s.memSound) : (runAll l s).memSound := by
  induction l generalizing s with
  | nil => exact h
  | cons c l ih =>
    obtain ⟨t, e, ht⟩ := exec_memSound c h
    have hr : runAll (c :: l) s = runAll l t := by simp only [runAll, List.foldl_cons, e]
    rw [hr]
    exact ih ht

/-! ### A loop period, and a step -/

theorem State.nextPeriod_memSound {s : State} (h : s.memSound) : s.nextPeriod.memSound := by
  rw [State.nextPeriod_eq]
  exact h

theorem State.tickBegin_memSound {s : State} (h : s.memSound) : s.tickBegin.memSound := by
  cases hr : s.pwr.inReset with
  | true =>
    have hb : s.tickBegin = s.advanceTicks s.periodUnits := by simp [State.tickBegin, hr]
    rw [hb, State.advanceTicks_eq]
    exact h
  | false => exact (State.tickBegin_keeps hr).memSound (State.nextPeriod_memSound h)

theorem tick_memSound {s : State} (h : s.memSound) : (tick s).memSound :=
  have hb : ({ s with landed := [] } : State).tickBegin.memSound := State.tickBegin_memSound h
  (State.tickEnd_keeps (Keeps.refl _)).memSound (runAll_memSound (landOrder s.landed) hb)

/-- Settles O3: a step is one command, or a loop period in which the landed requests are commands between two parts of the logic's own work;
each of them keeps the memories sound. -/
theorem everyStepKeepsTheMemoriesSound : Obligations.EveryStepKeepsTheMemoriesSound := by
  intro s t h he
  cases hp : s.pending with
  | nil =>
    cases he.symm.trans (step_empty hp)
    exact tick_memSound h
  | cons c rest =>
    obtain ⟨u, hu, hs⟩ := exec_memSound c (s := { s with pending := rest }) h
    have hstep : step s = exec c { s with pending := rest } := by rw [step, hp]
    cases he.symm.trans (hstep.trans hu)
    exact hs

end Sys2Proof.Machine
end

section
/-! SUPPORT. The image loader's commands: which action each is, what a load judges, and how a rejected load ends (R42, R43, R79 … R83). -/

namespace Sys2Proof.Machine

/-! ### IMG_CTRL and IMG_STAGE_DATA (R79 … R81) -/

theorem State.imgCtrl_clear (s : State) : s.imgCtrl 0x10 = s.stageClear := rfl

theorem State.imgCtrl_abort (s : State) : s.imgCtrl 8 = s.imageAbort := by
  by_cases h : s.img.st = .loading <;> simp [State.imgCtrl, bits, State.imageAbort, State.when, h]

/-- A load bit alone asks for its source; in LOADING neither the bit nor the load does anything. -/
theorem State.imgCtrl_load {v : Word} {src : ImgSource} (s : State)
    (h : (v, src) ∈ [((1 : Word), ImgSource.host), (2, .slotA), (4, .slotB)]) : s.imgCtrl v = s.loadBit src := by
  have hl : s.img.st = .loading → s.loadBit src = s := fun hs => by rw [State.loadBit, if_pos (.inr hs)]
  simp only [List.mem_cons, Prod.mk.injEq, List.not_mem_nil, or_false] at h
  obtain ⟨rfl, rfl⟩ | ⟨rfl, rfl⟩ | ⟨rfl, rfl⟩ := h <;> by_cases hs : s.img.st = .loading <;> simp [State.imgCtrl, bits, hs, hl]

/-- The commands that ask for a load, with their sources. -/
def loadCommands : List (Instr × ImgSource) := [(.loadHost, .host), (.loadSlotA, .slotA), (.loadSlotB, .slotB)]

theorem exec_load {s : State} {c : Instr} {src : ImgSource} (hs : s.serves) (h : (c, src) ∈ loadCommands) :
    exec c s = .next (s.loadBit src) := by
  have hx (v : Word) : s.hostAct (fun s => s.imgCtrl v) = s.imgCtrl v := s.hostAct_of _ hs.1 hs.2
  simp only [loadCommands, List.mem_cons, Prod.mk.injEq, List.not_mem_nil, or_false] at h
  obtain ⟨rfl, rfl⟩ | ⟨rfl, rfl⟩ | ⟨rfl, rfl⟩ := h
  · exact congrArg Host.Outcome.next ((hx 1).trans (s.imgCtrl_load (by decide)))
  · exact congrArg Host.Outcome.next ((hx 2).trans (s.imgCtrl_load (by decide)))
  · exact congrArg Host.Outcome.next ((hx 4).trans (s.imgCtrl_load (by decide)))

theorem exec_stageDataWrite {s : State} (v : Word) (hs : s.serves) : exec (.stageDataWrite v) s = .next (s.stageData v) :=
  congrArg Host.Outcome.next (s.hostAct_of (fun s => s.stageData v) hs.1 hs.2)

theorem exec_stageClear {s : State} (hs : s.serves) : exec .stageClear s = .next s.stageClear :=
  congrArg Host.Outcome.next ((s.hostAct_of (fun s => s.imgCtrl 0x10) hs.1 hs.2).trans s.imgCtrl_clear)

theorem exec_imageAbort {s : State} (hs : s.serves) : exec .imageAbort s = .next s.imageAbort :=
  congrArg Host.Outcome.next ((s.hostAct_of (fun s => s.imgCtrl 8) hs.1 hs.2).trans s.imgCtrl_abort)

theorem State.stagingBusy_iff (s : State) : s.stagingBusy = true ↔ s.img.st = .boot ∨ s.img.st = .loading ∨ s.cel.slotWriting = true := by
  simp [State.stagingBusy, or_assoc]

theorem State.stagingBusy_false {s : State} (h1 : s.img.st ≠ .boot) (h2 : s.img.st ≠ .loading) (h3 : s.cel.slotWriting = false) :
    s.stagingBusy = false := by
  simp [State.stagingBusy, h1, h2, h3]

theorem State.stageData_busy {s : State} (v : Word) (h : s.stagingBusy = true) : s.stageData v = s.noteImg 0x200C := by
  rw [State.stageData, if_pos h]

theorem State.stageClear_busy {s : State} (h : s.stagingBusy = true) : s.stageClear = s.noteImg 0x2000 := by
  rw [State.stageClear, if_pos h]

theorem State.stageData_free {s : State} (v : Word) (h : s.stagingBusy = false) : s.stageData v =
    { s with img := { s.img with stage := writeMemWord stageBackground s.img.stage (4 * s.img.word.toNat) v,
                                 written := max s.img.written (4 * s.img.word.toNat + 4), word := s.img.word + 1 } } := by
  rw [State.stageData, h]; rfl

theorem State.stageClear_free {s : State} (h : s.stagingBusy = false) :
    s.stageClear = { s with img := { s.img with stage := [], written := 0, word := 0, stageUe := false } } := by
  rw [State.stageClear, h]; rfl

theorem State.loadBit_free {s : State} (src : ImgSource) (h1 : s.img.st ≠ .boot) (h2 : s.img.st ≠ .loading) (h3 : s.cel.slotWriting = false) :
    s.loadBit src = s.load src := by
  simp [State.loadBit, h1, h2, h3]

theorem State.loadBit_ignored {s : State} (src : ImgSource) (h : s.img.st = .boot ∨ s.img.st = .loading) : s.loadBit src = s := by
  rw [State.loadBit, if_pos h]

theorem State.loadBit_slotWriting {s : State} (src : ImgSource) (h1 : s.img.st ≠ .boot) (h2 : s.img.st ≠ .loading)
    (h3 : s.cel.slotWriting = true) : s.loadBit src = s.noteImg 0x2000 := by
  simp [State.loadBit, h1, h2, h3]

/-! ### The copy of a slot (R81) -/

/-- Bytes laid from `k` on leave every byte below `k`. -/
theorem readByte_layBytes_below {bg : Nat → Byte} (b : List Byte) {k a : Nat} (m : Memory) (h : a < k) :
    readByte bg ((b.zipIdx k).foldl (fun m x => writeByte bg m x.2 x.1) m) a = readByte bg m a := by
  induction b generalizing k m with
  | nil => rfl
  | cons x b ih => rw [List.zipIdx_cons, List.foldl_cons, ih _ (by omega), readByte_writeByte_ne _ _ _ (by omega)]

/-- Bytes laid from `k` on read back in their order. -/
theorem readByte_layBytes {bg : Nat → Byte} (b : List Byte) (k : Nat) (m : Memory) (hm : Memory.wf bg m = true) (i : Nat) (h : i < b.length) :
    readByte bg ((b.zipIdx k).foldl (fun m x => writeByte bg m x.2 x.1) m) (k + i) = b[i] := by
  induction b generalizing k m i with
  | nil => exact absurd h (Nat.not_lt_zero i)
  | cons x b ih =>
    rw [List.zipIdx_cons, List.foldl_cons]
    cases i with
    | zero => exact (readByte_layBytes_below b _ (Nat.lt_succ_self k)).trans (readByte_writeByte_same k x hm)
    | succ i =>
      rw [show k + (i + 1) = k + 1 + i by omega]
      exact ih (k + 1) _ (writeByte_wf k x hm) i (Nat.lt_of_succ_lt_succ h)

theorem Img.readByte_stageBytes (g : Img) (b : List Byte) (i : Nat) (h : i < b.length) :
    readByte stageBackground (g.stageBytes b).stage i = b[i] := by
  have hl := readByte_layBytes (bg := stageBackground) b 0 [] rfl i h
  rwa [Nat.zero_add] at hl

/-! ### Judging a copy (R42, R71, R72) -/

/-- The verdict on what the checks of the layout gave. -/
def State.verdictOn (u : State) (src : ImgSource) (x : Except ImgResult ImgCopy) : Verdict :=
  match x with
  | .error q => .error (q, 0xFF)
  | .ok k => u.judgeCopy src k

/-- A load with its verdict: a job that waits for its swap, or a rejection. -/
def State.loadWith (u : State) (src : ImgSource) (v : Verdict) : State :=
  match v with
  | .ok j => u.startLoad j
  | .error e => u.rejectLoad src e.1 e.2

theorem State.judgeStaged_eq (u : State) (src : ImgSource) (avail : Nat) (id : BitVec 12) : u.judgeStaged src avail id =
    u.verdictOn src (parseImage (readByte stageBackground u.img.stage) avail id u.img.stageUe) := rfl

theorem State.load_host (s : State) : s.load .host = s.loadWith .host (s.judgeStaged .host s.img.written s.lnk.devId) := rfl

/-- The cellar sends its page reads before a slot can prove unreadable. -/
theorem State.load_slot_none {s : State} {src : ImgSource} {r : Region} (hr : slotRegion src = some r) (hb : s.slotBytes r = none) :
    s.load src = (s.send (s.regionReads r)).rejectLoad src .slotUnreadable 0xFF := by
  have hb' : (s.send (s.regionReads r)).slotBytes r = none := hb
  simp only [State.load, hr, hb']

theorem State.load_slot_some {s u : State} {src : ImgSource} {r : Region} {b : List Byte} (hr : slotRegion src = some r)
    (hb : s.slotBytes r = some b) (hu : u = (s.send (s.regionReads r)).upImg fun g => g.stageBytes b) :
    s.load src = u.loadWith src (u.judgeStaged src 262144 u.lnk.devId) := by
  have hb' : (s.send (s.regionReads r)).slotBytes r = some b := hb
  subst hu
  simp only [State.load, hr, hb']
  rfl

/-- A rejection writes the loader's result and raises its message. -/
theorem State.rejectLoad_eq (u : State) (src : ImgSource) (q : ImgResult) (n : BitVec 8) : u.rejectLoad src q n =
    { u with img := { u.img with result := q, done := true, firstCh := n, job := none }, flt := (u.rejectLoad src q n).flt } := by
  cases src <;> rfl

theorem parseImage_badMagic {rd : Nat → Byte} (avail : Nat) (id : BitVec 12) (bad : Bool) (h : word32 rd 0 ≠ imgMagic) :
    parseImage rd avail id bad = .error .badMagic := by
  rw [parseImage, if_pos h]

theorem State.judgeCopy_needsFull {u : State} (src : ImgSource) {k : ImgCopy} (hp : k.part = true) (hr : u.img.st ≠ .ready) :
    u.judgeCopy src k = .error (.needsFull, 0xFF) := by
  simp [State.judgeCopy, hp, hr]

/-- A full load asks every channel, so the lowest one that is not quiesced ends it. -/
theorem State.judgeCopy_notQuiescent {u : State} (src : ImgSource) {k : ImgCopy} {n : Ch} (hp : k.part = false)
    (hn : (u.ch n).quiesced = false) (hlow : ∀ i, i < n → (u.ch i).quiesced = true) :
    u.judgeCopy src k = .error (.notQuiescent, BitVec.ofNat 8 n.val) := by
  have hfirst : u.firstUnquiet allChs = some n :=
    (List.find?_ofFn_eq_some_of_injective Function.injective_id).mpr ⟨by simp [hn], fun i hi => by simp [hlow i hi]⟩
  simp [State.judgeCopy, State.required, hp, hfirst]

/-- With every channel quiesced no channel that a load requires stands in its way. -/
theorem State.judgeCopy_ok {u : State} (src : ImgSource) {k : ImgCopy} (hp : k.part = false ∨ u.img.st = .ready)
    (hq : ∀ n, (u.ch n).quiesced = true) :
    ∃ j, u.judgeCopy src k = .ok j ∧ j.src = src ∧ j.part = k.part ∧ j.crc = k.crc ∧ j.sections = k.sections.map (·.1) := by
  have hfull : (k.part && u.img.st != .ready) = false := by rcases hp with hp | hp <;> simp [hp]
  have hfirst (l : List Ch) : u.firstUnquiet l = none := by simp [State.firstUnquiet, hq]
  simp only [State.judgeCopy, hfull, hfirst, Bool.false_eq_true, if_false]
  exact ⟨_, rfl, rfl, rfl, rfl, rfl⟩

end Sys2Proof.Machine
end

section
/-! SUPPORT. The swap of a structure image: what each of its parts leaves alone, and what it puts in force (R46, R72 … R76). -/

namespace Sys2Proof.Machine

/-! ### A channel's registers through the swap -/

theorem Chan.cfg_ite {p : Prop} [Decidable p] {a b : Chan} {g : ChanCfg} (ha : a.cfg = g) (hb : b.cfg = g) : (if p then a else b).cfg = g := by
  split
  · exact ha
  · exact hb

@[simp] theorem Chan.calInterrupt_cfg (c : Chan) : c.calInterrupt.cfg = c.cfg := by
  obtain ⟨m, h⟩ := c.calInterrupt_spec
  rw [h]

@[simp] theorem Chan.calRange_cfg (c : Chan) (cur : Bool) : (c.calRange cur).cfg = c.cfg := Chan.cfg_ite c.calInterrupt_cfg rfl

@[simp] theorem Chan.beginPass_cfg (c : Chan) : c.beginPass.cfg = c.cfg := Chan.cfg_ite rfl rfl

@[simp] theorem Chan.newRate_cfg (c : Chan) : c.newRate.cfg = c.cfg := Chan.cfg_ite (Chan.beginPass_cfg _) rfl

@[simp] theorem Chan.swapRanges_cfg (c : Chan) (v i : BitVec 4) : (c.swapRanges v i).cfg = c.cfg := by
  unfold Chan.swapRanges
  refine Chan.cfg_ite ((Chan.calRange_cfg _ _).trans ?_) ?_
  all_goals refine Chan.cfg_ite ((Chan.calRange_cfg _ _).trans ?_) ?_
  all_goals exact Chan.cfg_ite (Chan.cfg_ite rfl rfl) (Chan.cfg_ite rfl rfl)

@[simp] theorem Chan.upWin_cfg (c : Chan) (w : WinId) (f : WinSt → WinSt) : (c.upWin w f).cfg = c.cfg := by cases w <;> rfl

@[simp] theorem Chan.takeMode_cfg (c : Chan) (w : WinId) (now : Nat) : (c.takeMode w now).cfg = c.cfg := Chan.upWin_cfg _ w _

@[simp] theorem Chan.swapWin_cfg (c : Chan) (j : LoadJob) (n : Ch) (w : WinId) (now : Nat) : (c.swapWin j n w now).cfg = c.cfg := by
  have href : ∀ f : WinSt → WinSt, ∀ p : Prop, [Decidable p] → (if p then c.upWin w f else c).cfg = c.cfg := fun f p _ =>
    Chan.cfg_ite (c.upWin_cfg w f) rfl
  exact Chan.cfg_ite ((Chan.takeMode_cfg _ w now).trans (href _ _)) (href _ _)

/-- The swap writes the image's registers, and nothing behind it in the swap writes another. -/
theorem Chan.swap_cfg (c : Chan) (j : LoadJob) (n : Ch) (rate : Bool) (now : Nat) : (c.swap j n rate now).cfg = j.chanCfg n.val c.cfg := by
  simp only [Chan.swap, Chan.applyThr, apply_ite Chan.cfg, Chan.newRate_cfg, Chan.calInterrupt_cfg, Chan.swapWin_cfg, Chan.swapRanges_cfg,
    Chan.sampled_cfg, ite_self]

/-! ### What the parts of a swap leave alone -/

/-- Neither the loader, nor the cellar's count of corrected bits for a refresh, nor any channel's registers differ. -/
structure SameRegs (s t : State) : Prop where
  img : t.img = s.img
  bits : t.cel.refreshBits = s.cel.refreshBits
  cfg : ∀ n, (t.ch n).cfg = (s.ch n).cfg

theorem SameRegs.refl (s : State) : SameRegs s s := ⟨rfl, rfl, fun _ => rfl⟩

theorem SameRegs.trans {a b c : State} (h : SameRegs a b) (k : SameRegs b c) : SameRegs a c :=
  ⟨k.img.trans h.img, k.bits.trans h.bits, fun n => (k.cfg n).trans (h.cfg n)⟩

/-- Work that leaves the channels, the loader and the cellar's settings. -/
theorem SameRegs.of_eq {s t : State} (hi : t.img = s.img) (hb : t.cel.refreshBits = s.cel.refreshBits) (hc : t.chans = s.chans) : SameRegs s t :=
  ⟨hi, hb, fun n => by rw [State.ch, State.ch, hc]⟩

theorem SameRegs.pwr (s : State) (p : Pwr) : SameRegs s { s with pwr := p } := SameRegs.of_eq rfl rfl rfl

theorem SameRegs.ite {s a b : State} {p : Prop} [Decidable p] (ha : SameRegs s a) (hb : SameRegs s b) : SameRegs s (if p then a else b) := by
  split
  · exact ha
  · exact hb

theorem SameRegs.when {s : State} (b : Bool) (f : State → State) (h : SameRegs s (f s)) : SameRegs s (s.when b f) := SameRegs.ite h (SameRegs.refl s)

theorem SameRegs.each {α : Type} (f : α → State → State) (h : ∀ a t, SameRegs t (f a t)) (l : List α) (s : State) : SameRegs s (s.each l f) :=
  State.each_inv (SameRegs s) f (fun a t ht => ht.trans (h a t)) l s (SameRegs.refl s)

theorem SameRegs.upCh {s : State} (n : Ch) (f : Chan → Chan) (h : ∀ c, (f c).cfg = c.cfg) : SameRegs s (s.upCh n f) := by
  refine ⟨rfl, rfl, fun m => ?_⟩
  by_cases e : m = n
  · rw [e, State.upCh_ch, h]
  · rw [State.upCh_ch_ne _ _ e]

theorem SameRegs.allCh {s : State} (f : Ch → Chan → Chan) (h : ∀ n c, (f n c).cfg = c.cfg) : SameRegs s (s.allCh f) :=
  ⟨rfl, rfl, fun n => by rw [State.allCh_ch, h]⟩

/-- Work on one channel's path: its registers decide. -/
theorem SameRegs.path {s t : State} {n : Ch} (h : s.pathFlt t n) (hc : (t.ch n).cfg = (s.ch n).cfg) : SameRegs s t := by
  refine ⟨by rw [h.rest], by rw [h.rest], fun m => ?_⟩
  by_cases e : m = n
  · rw [e, hc]
  · rw [h.ch m e]

theorem State.upCell_sameRegs (s : State) (k : CellIx) (f : Cell → Cell) : SameRegs s (s.upCell k f) := SameRegs.of_eq rfl rfl rfl

theorem State.post_sameRegs (s : State) (src : BitVec 10) (kind addr : Nat) : SameRegs s (s.post src kind addr) := SameRegs.of_eq rfl rfl rfl

theorem State.refresh_sameRegs (s : State) (n : Ch) : SameRegs s (s.refresh n) := SameRegs.path (s.refresh_path n).flt (by rw [s.refresh_ch])

theorem State.latchDac_sameRegs (s : State) (n : Ch) : SameRegs s (s.latchDac n) := SameRegs.path (s.latchDac_path n).flt (by rw [s.latchDac_ch])

theorem State.releaseKeepers_sameRegs (s : State) (n : Ch) : SameRegs s (s.releaseKeepers n) :=
  SameRegs.path (s.releaseKeepers_flt n) (by rw [s.releaseKeepers_ch])

/-! ### The clocks and the link (R442, R469) -/

theorem State.upPll_sameRegs (s : State) (p : PllId) (f : Pll → Pll) : SameRegs s (s.upPll p f) := by
  cases p <;> exact SameRegs.of_eq rfl rfl rfl

theorem State.leaveVco8_sameRegs (s : State) (g : Guard) : SameRegs s (s.leaveVco8 g) := by
  by_cases h : s.clk.guard = .vco8
  · obtain ⟨l, f, e, -⟩ := s.leaveVco8_of g h
    rw [e]
    exact (SameRegs.allCh (fun _ c => (c.markWindows s.time).calInterrupt) fun _ c => Chan.calInterrupt_cfg _).trans (SameRegs.of_eq rfl rfl rfl)
  · rw [s.leaveVco8_else g h]
    exact SameRegs.of_eq rfl rfl rfl

theorem State.portsEnable_sameRegs (s : State) : SameRegs s s.portsEnable := by
  obtain ⟨l, e⟩ := s.portsEnable_spec
  rw [e]
  exact SameRegs.of_eq rfl rfl rfl

theorem State.pllAway_sameRegs (s : State) (p : PllId) (g : Guard) : SameRegs s (s.pllAway p g) := by
  cases p with
  | a => exact s.leaveVco8_sameRegs g
  | b =>
    obtain ⟨o, l, f, e, -⟩ := s.stopB_spec true
    rw [State.pllAway, e]
    exact SameRegs.of_eq rfl rfl rfl

theorem State.commitPll_sameRegs (s : State) (p : PllId) : SameRegs s (s.commitPll p) := by
  unfold State.commitPll
  dsimp only
  split
  · refine SameRegs.ite (s.upPll_sameRegs p _) ?_
    exact ((s.pllAway_sameRegs p .vco16).trans (State.upPll_sameRegs _ p _)).trans (SameRegs.when _ _ (State.portsEnable_sameRegs _))
  · exact s.upPll_sameRegs p _

theorem State.swapClocks_sameRegs (s : State) (j : LoadJob) : SameRegs s (s.swapClocks j) := by
  have hcommit (p : PllId) (t : State) : SameRegs t
      (if (t.clk.pll p).shM = (t.clk.pll p).actM ∧ (t.clk.pll p).shN = (t.clk.pll p).actN ∧ (t.clk.pll p).shP = (t.clk.pll p).actP then t
        else t.commitPll p) := SameRegs.ite (SameRegs.refl t) (t.commitPll_sameRegs p)
  have hup (f : Clk → Clk) (t : State) : SameRegs t (t.upClk f) := SameRegs.of_eq rfl rfl rfl
  unfold State.swapClocks
  refine SameRegs.ite (hup _ s) (SameRegs.ite ((hup _ s).trans (hup _ _)) ?_)
  exact (hup _ s).trans ((hcommit .a _).trans (hcommit .b _))

theorem State.swapLink_sameRegs (s : State) (j : LoadJob) : SameRegs s (s.swapLink j) := by
  have hup (f : Lnk → Lnk) (t : State) : SameRegs t (t.upLnk f) := SameRegs.of_eq rfl rfl rfl
  have hroot (t : State) : SameRegs t t.becomeRoot := SameRegs.ite (SameRegs.refl t) (hup _ t)
  unfold State.swapLink
  dsimp only
  exact SameRegs.trans ((hup _ s).trans (State.portsEnable_sameRegs _)) (SameRegs.ite (SameRegs.refl _) (hroot _))

/-! ### The first rest sequences (R108, R514) -/

theorem State.wake_sameRegs (s : State) (b : Bay) : SameRegs s (s.wake b) := by
  have hstart (t : State) : SameRegs t t.pllsStart := SameRegs.ite (SameRegs.refl t) (SameRegs.of_eq rfl rfl rfl)
  exact SameRegs.ite (SameRegs.refl s) ((SameRegs.when _ _ (hstart s)).trans (SameRegs.of_eq rfl rfl rfl))

@[simp] theorem Chan.restBegin_cfg (c : Chan) (now : Nat) : (c.restBegin now).cfg = c.cfg := by
  obtain ⟨r, m, l, f, e, -⟩ := c.restBegin_spec now
  rw [e]

@[simp] theorem Chan.startV_cfg (c : Chan) (now : Nat) : (c.startV now).cfg = c.cfg := by
  obtain ⟨r, x, e⟩ := c.startV_spec now
  rw [e]

theorem State.restStart_sameRegs (s : State) (n : Ch) : SameRegs s (s.restStart n) := by
  have hwake : SameRegs s (s.wakeFor n) := SameRegs.each _ (fun b t => t.wake_sameRegs b) _ _
  unfold State.restStart
  dsimp only
  refine SameRegs.ite ?_ (SameRegs.refl s)
  refine ((hwake.trans (SameRegs.upCh n _ ?_)).trans (SameRegs.when _ _ ?_)).trans (State.refresh_sameRegs _ n)
  · exact fun c => c.restBegin_cfg _
  · exact State.releaseKeepers_sameRegs _ n

theorem State.startRanging_sameRegs (s : State) (n : Ch) : SameRegs s (s.startRanging n) := by
  unfold State.startRanging
  split
  · exact SameRegs.refl s
  · exact SameRegs.upCh n _ fun c => c.startV_cfg _

theorem State.restFirst_sameRegs (s : State) (n : Ch) : SameRegs s (s.restFirst n) :=
  ((s.restStart_sameRegs n).trans (State.startRanging_sameRegs _ n)).trans (State.refresh_sameRegs _ n)

theorem State.railGate_sameRegs (s : State) : SameRegs s s.railGate := by
  have hwait (t : State) : SameRegs t t.restWaiting :=
    (SameRegs.pwr t _).trans (SameRegs.each _ (fun n u => u.restFirst_sameRegs n) t.pwr.waitRest _)
  exact SameRegs.ite (SameRegs.refl s) (SameRegs.ite ((SameRegs.pwr s _).trans (hwait _)) (SameRegs.pwr s _))

theorem State.swapRest_sameRegs (s old : State) : SameRegs s (s.swapRest old) :=
  SameRegs.ite ((SameRegs.pwr s _).trans (State.railGate_sameRegs _)) (SameRegs.pwr s _)

/-! ### Windows, reports and cells -/

theorem State.swapComparators_sameRegs (s : State) (j : LoadJob) : SameRegs s (s.swapComparators j) := by
  have hpower (n : Ch) (w : WinId) (t : State) : SameRegs t (t.powerWindow n w) := by
    unfold State.powerWindow
    exact SameRegs.each _ (fun k u => u.upCell_sameRegs k _) _ t
  exact SameRegs.each _ (fun n t => SameRegs.each _ (fun w u => SameRegs.ite (hpower n w u) (SameRegs.refl u)) _ t) _ s

theorem State.celAsk_sameRegs (s : State) (w : CelWork) : SameRegs s (s.celAsk w) :=
  SameRegs.ite (SameRegs.of_eq rfl rfl rfl) (SameRegs.of_eq rfl rfl rfl)

theorem State.swapReports_sameRegs (s : State) (j : LoadJob) (old : State) : SameRegs s (s.swapReports j old) := by
  unfold State.swapReports
  dsimp only
  refine (((SameRegs.when _ _ ?_).trans (SameRegs.when _ _ ?_)).trans (SameRegs.when _ _ ?_)).trans (SameRegs.when _ _ ?_)
  · exact SameRegs.each _ (fun t u => u.post_sameRegs _ _ _) _ s
  · exact State.post_sameRegs _ _ _ _
  · exact State.celAsk_sameRegs _ _
  · exact State.celAsk_sameRegs _ _

/-! ### The mapping change leaves the loader (R15 … R31) -/

@[simp] theorem State.pushRecord_img (s : State) (n : Ch) (w : Word × Word × Word × Word) : (s.pushRecord n w).img = s.img := by
  unfold State.pushRecord
  dsimp only
  split
  · rfl
  · simp

@[simp] theorem State.writeRecord_img (s : State) (n : Ch) : (s.writeRecord n).img = s.img := by
  unfold State.writeRecord
  dsimp only
  split
  · split
    · rfl
    · simp
  · rfl

theorem State.when_img (s : State) (b : Bool) (f : State → State) (h : (f s).img = s.img) : (s.when b f).img = s.img := by
  cases b
  · rfl
  · exact h

@[simp] theorem State.settleRecord_img (s : State) (n : Ch) (f : RecFate) : (s.settleRecord n f).img = s.img := by
  cases f with
  | normal => exact s.when_img _ _ (s.writeRecord_img n)
  | now => exact s.writeRecord_img n
  | dropped => rfl

@[simp] theorem State.endStrand_img (s : State) (n : Ch) (st : StrandState) (r : Reason) (f : RecFate) (count : Bool) :
    (s.endStrand n st r f count).img = s.img := by
  have hsettle (t : State) (p : Prop) [Decidable p] (f : RecFate) : (if p then t.settleRecord n f else t).img = t.img := by split <;> simp
  unfold State.endStrand State.endAs State.endAgain
  dsimp only
  split
  · refine (State.when_img _ _ _ rfl).trans ((State.when_img _ _ _ rfl).trans (hsettle s _ _))
  · split
    · exact hsettle s _ _
    · rfl

@[simp] theorem State.openSwitch_img (s : State) (n : Ch) (o : OutState) : (s.openSwitch n o).img = s.img := by
  rw [(s.openSwitch_flt n o).rest]

@[simp] theorem State.leaveService_img (s : State) (n : Ch) : (s.leaveService n).img = s.img := by simp [State.leaveService]

@[simp] theorem State.remapped_img (s old : State) : (s.remapped old).img = s.img := rfl

@[simp] theorem State.swapMap_img (s : State) (j : LoadJob) : (s.swapMap j).img = s.img := by
  have heach {α : Type} (f : α → State → State) (h : ∀ a t, (f a t).img = t.img) (l : List α) (t : State) : (t.each l f).img = t.img :=
    State.each_keeps State.img f h l t
  unfold State.swapMap
  dsimp only
  rw [State.remapped_img, State.upAtt_img, State.allCells_img, State.allCh_img]
  refine (heach _ (fun n t => ?_) _ _).trans ((heach _ (fun n t => t.leaveService_img n) _ _).trans (heach _ (fun n t => t.post_img _ _ _) _ s))
  split <;> rfl

/-! ### The fields (R46, R61, R74) -/

/-- The beads and library entries of a load: nothing but memory, library and the marks of lost beads. -/
theorem State.swapStrands_spec (s : State) (j : LoadJob) :
    ∃ lib m a, s.swapStrands j = { s with img := { s.img with library := lib }, mem := m, att := a } := by
  have hbeads (l : List (Nat × Word)) (t : State) : ∃ m, (t.each l fun x s => s.setMemWord (0x100000 + 4 * x.1) x.2) = { t with mem := m } := by
    induction l generalizing t with
    | nil => exact ⟨_, rfl⟩
    | cons x l ih => exact ih (t.setMemWord (0x100000 + 4 * x.1) x.2)
  unfold State.swapStrands
  dsimp only
  obtain ⟨m, e⟩ := hbeads j.beads _
  rw [e]
  exact ⟨_, _, _, rfl⟩

/-- What the fields of an image put in force: the loader's registers, the cellar's settings and every channel's registers. -/
theorem State.swapFields_spec (s : State) (j : LoadJob) (old : State) :
    ∃ lib, (s.swapFields j old).img = { s.img.accepted j with library := lib } ∧
      (s.swapFields j old).cel.refreshBits = j.pick 0x10 1 0 id s.cel.refreshBits ∧
      ∀ n, ((s.swapFields j old).ch n).cfg = j.chanCfg n.val (s.ch n).cfg := by
  unfold State.swapFields
  dsimp only
  generalize hu : (State.allCh _ _ : State) = u
  have hui : u.img = s.img.accepted j := by rw [← hu]; rfl
  have huc : u.cel = s.cel := by rw [← hu]; rfl
  have hug (n : Ch) : (u.ch n).cfg = j.chanCfg n.val (s.ch n).cfg := by rw [← hu, State.allCh_ch, Chan.swap_cfg]; rfl
  obtain ⟨lib, m, a, e⟩ := u.swapStrands_spec j
  rw [e]
  have hclk (v : State) : SameRegs v ((v.swapClocks j).swapLink j) := (v.swapClocks_sameRegs j).trans (State.swapLink_sameRegs _ j)
  refine ⟨lib, (hclk _).img.trans ?_, congrArg (j.pick 0x10 1 0 id) ((hclk _).bits.trans ?_), fun n => ((hclk _).cfg n).trans (hug n)⟩
  · rw [State.upFlt_img, hui]
  · rw [State.upFlt_cel, huc]

/-! ### The swap (R73, R76) -/

/-- R76 changes what a job sets and reports, never what it is a load of. -/
theorem State.fixFenced_spec (s : State) (j : LoadJob) (n : Ch) :
    ∃ v x c k, s.fixFenced j n = { j with vals := v, sets := x, clamps := c, count := k } := by
  unfold State.fixFenced
  dsimp only
  split
  · exact ⟨_, _, _, _, rfl⟩
  · exact ⟨_, _, _, _, rfl⟩

/-- The job as the swap takes it: with CHANNELS, fenced cells replaced first. -/
def State.fixedJob (s : State) (j : LoadJob) : LoadJob := if j.carries 0x03 then allChs.foldl (fun j n => s.fixFenced j n) j else j

theorem State.fixedJob_spec (s : State) (j : LoadJob) : ∃ v x c k, s.fixedJob j = { j with vals := v, sets := x, clamps := c, count := k } := by
  have hfold (l : List Ch) (j : LoadJob) : ∃ v x c k, l.foldl (fun j n => s.fixFenced j n) j = { j with vals := v, sets := x, clamps := c, count := k } := by
    induction l generalizing j with
    | nil => exact ⟨_, _, _, _, rfl⟩
    | cons n l ih =>
      obtain ⟨v, x, c, k, e⟩ := s.fixFenced_spec j n
      rw [List.foldl_cons, e]
      exact ih _
  unfold State.fixedJob
  split
  · exact hfold allChs j
  · exact ⟨_, _, _, _, rfl⟩

theorem State.fixedJob_of {s : State} {j : LoadJob} (h : 3 ∉ j.sections) : s.fixedJob j = j := by
  rw [State.fixedJob, if_neg (by simpa [LoadJob.carries] using h)]

/-- The state whose fields the swap writes: with CHANNELS, behind the mapping change. -/
def State.remappedFor (s : State) (j : LoadJob) : State := if j.carries 0x03 then s.swapMap j else s

@[simp] theorem State.remappedFor_img (s : State) (j : LoadJob) : (s.remappedFor j).img = s.img := by
  unfold State.remappedFor
  split <;> simp

theorem State.remappedFor_of {s : State} {j : LoadJob} (h : 3 ∉ j.sections) : s.remappedFor j = s := by
  rw [State.remappedFor, if_neg (by simpa [LoadJob.carries] using h)]

theorem State.swapImage_eq (s : State) (j : LoadJob) : s.swapImage j =
    (((((s.remappedFor (s.fixedJob j)).swapFields (s.fixedJob j) s).swapComparators (s.fixedJob j)).swapReports (s.fixedJob j) s).each allChs
      fun n s => (s.latchDac n).refresh n).swapRest s := rfl

/-- Behind the fields nothing in the swap writes the loader or a register. -/
theorem State.swapImage_sameRegs (s : State) (j : LoadJob) :
    SameRegs ((s.remappedFor (s.fixedJob j)).swapFields (s.fixedJob j) s) (s.swapImage j) := by
  have hcells (t : State) : SameRegs t (t.each allChs fun n s => (s.latchDac n).refresh n) :=
    SameRegs.each _ (fun n u => (u.latchDac_sameRegs n).trans (State.refresh_sameRegs _ n)) allChs t
  rw [s.swapImage_eq j]
  exact (((State.swapComparators_sameRegs _ _).trans (State.swapReports_sameRegs _ _ s)).trans (hcells _)).trans (State.swapRest_sameRegs _ s)

/-- What a swap leaves in the loader, in the cellar's settings and in every channel's registers. -/
theorem State.swapImage_spec (s : State) (j : LoadJob) :
    ∃ lib, (s.swapImage j).img = { s.img.accepted (s.fixedJob j) with library := lib } ∧
      (s.swapImage j).cel.refreshBits = (s.fixedJob j).pick 0x10 1 0 id (s.remappedFor (s.fixedJob j)).cel.refreshBits ∧
      ∀ n, ((s.swapImage j).ch n).cfg = (s.fixedJob j).chanCfg n.val ((s.remappedFor (s.fixedJob j)).ch n).cfg := by
  obtain ⟨lib, hi, hb, hg⟩ := (s.remappedFor (s.fixedJob j)).swapFields_spec (s.fixedJob j) s
  have h := s.swapImage_sameRegs j
  exact ⟨lib, by rw [h.img, hi, State.remappedFor_img], by rw [h.bits, hb], fun n => by rw [h.cfg, hg]⟩

/-! ### What a load sets (R46, R74) -/

/-- A full load sets every field. -/
theorem LoadJob.pick_full {α : Type} {j : LoadJob} (h : j.part = false) (sec no inst : Nat) (f : Nat → α) (old : α) :
    j.pick sec no inst f old = f (Vals.num j.vals sec no inst) := by
  simp [LoadJob.pick, LoadJob.has, h]

/-- A section load sets the fields that its job names. -/
theorem LoadJob.pick_part {α : Type} {j : LoadJob} (h : j.part = true) (sec no inst : Nat) (f : Nat → α) (old : α) :
    j.pick sec no inst f old = if fieldKey (fieldId sec no) inst ∈ j.sets then f (Vals.num j.vals sec no inst) else old := by
  simp [LoadJob.pick, LoadJob.has, h]

/-! ### The swap's turn (R72, R75) -/

theorem exec_imageSwap_none {s : State} (hr : s.runs) (h : s.img.job = none) : exec .imageSwap s = .next s := by
  refine congrArg Host.Outcome.next ((s.live_of _ hr).trans ?_)
  rw [h]

theorem exec_imageSwap {s : State} {j : LoadJob} (hr : s.runs) (h : s.img.job = some j) :
    exec .imageSwap s = .next (if s.swapWaits j then s else s.swapNow j) := by
  refine congrArg Host.Outcome.next ((s.live_of _ hr).trans ?_)
  rw [h]

theorem State.swapWaits_iff (s : State) (j : LoadJob) :
    s.swapWaits j = true ↔ (2 ∈ j.sections ∨ 3 ∈ j.sections) ∧ ∃ b, (s.mig b).busy = true := by
  simp [State.swapWaits, LoadJob.carries, allBayIxs]

theorem State.unload_eq (s : State) :
    s.unload = { s with img := { s.img with st := if s.img.st = .loading then s.img.before else s.img.st } } := by
  by_cases h : s.img.st = .loading <;> simp [State.unload, State.upImg, h]

theorem exec_imageSwap_waits {s : State} {j : LoadJob} (hr : s.runs) (hj : s.img.job = some j)
    (h : (2 ∈ j.sections ∨ 3 ∈ j.sections) ∧ ∃ b, (s.mig b).busy = true) : exec .imageSwap s = .next s := by
  rw [exec_imageSwap hr hj, if_pos ((s.swapWaits_iff j).mpr h)]

/-- A load that names neither BAYS nor CHANNELS, or finds no migration running, takes its turn. -/
theorem exec_imageSwap_free {s : State} {j : LoadJob} (hr : s.runs) (hj : s.img.job = some j)
    (h : (2 ∉ j.sections ∧ 3 ∉ j.sections) ∨ ∀ b, (s.mig b).busy = false) : exec .imageSwap s = .next (s.swapNow j) := by
  have hnow : ¬ s.swapWaits j = true := fun hw => by
    obtain ⟨h23, b, hb⟩ := (s.swapWaits_iff j).mp hw
    obtain ⟨h2, h3⟩ | hidle := h
    · exact h23.elim h2 h3
    · exact absurd hb (by simp [hidle b])
  rw [exec_imageSwap hr hj, if_neg hnow]

/-- A load that fails the second check of quiescence, or that ABORT ends, is rejected in the state before LOADING (R82). -/
theorem State.endLoad_eq {s : State} {j : LoadJob} (h : s.img.job = some j) (q : ImgResult) (n : BitVec 8) : s.endLoad q n =
    { s with img := { s.img with st := if s.img.st = .loading then s.img.before else s.img.st, result := q, done := true, firstCh := n, job := none },
             flt := (s.endLoad q n).flt } := by
  have he : s.endLoad q n = s.unload.rejectLoad j.src q n := by rw [State.endLoad, h]
  rw [he, State.rejectLoad_eq, s.unload_eq]

theorem State.swapNow_unquiet {s : State} {j : LoadJob} {n : Ch} (h : j.required.find? (fun n => !(s.ch n).quiesced) = some n) :
    s.swapNow j = s.endLoad .notQuiescent (BitVec.ofNat 8 n.val) := by
  have hf : s.firstUnquiet j.required = some n := h
  rw [State.swapNow, hf]

theorem State.swapNow_quiet {s : State} {j : LoadJob} (h : ∀ n, n ∈ j.required → (s.ch n).quiesced = true) : s.swapNow j = s.swapImage j := by
  have hf : s.firstUnquiet j.required = none := List.find?_eq_none.mpr fun n hn => by simp [h n hn]
  rw [State.swapNow, hf]

/-! ### The load commands -/

/-- The command ends with the load rejected: behind the work on the copy nothing differs but the loader's result and the message. -/
def State.rejects (s u : State) (c : Instr) (q : ImgResult) (n : BitVec 8) : Prop :=
  ∃ t, exec c s = .next t ∧ t = { u with img := { u.img with result := q, done := true, firstCh := n, job := none }, flt := t.flt }

theorem State.rejects_of_next {s u : State} {c : Instr} {src : ImgSource} {q : ImgResult} {n : BitVec 8}
    (h : exec c s = .next (u.rejectLoad src q n)) : s.rejects u c q n := ⟨_, h, u.rejectLoad_eq src q n⟩

/-! A load with the verdict on `x`, what the checks of the layout gave for the copy. -/

section
variable {s u : State} {c : Instr} {src : ImgSource} {x : Except ImgResult ImgCopy} (hx : exec c s = .next (u.loadWith src (u.verdictOn src x)))
include hx

theorem State.rejects_unparsed {q : ImgResult} (h : x = .error q) : s.rejects u c q 0xFF := by
  rw [h] at hx
  exact State.rejects_of_next hx

theorem State.rejects_judged {k : ImgCopy} {q : ImgResult} {n : BitVec 8} (h : x = .ok k) (hj : u.judgeCopy src k = .error (q, n)) :
    s.rejects u c q n := by
  rw [h, State.verdictOn, hj] at hx
  exact State.rejects_of_next hx

theorem exec_load_accepted {k : ImgCopy} {j : LoadJob} (h : x = .ok k) (hj : u.judgeCopy src k = .ok j) : exec c s = .next (u.startLoad j) := by
  rw [h, State.verdictOn, hj] at hx
  exact hx

end

/-- The host's load judges the staging buffer as it stands. -/
theorem exec_loadHost_copy {s : State} (hs : s.serves) (h1 : s.img.st ≠ .boot) (h2 : s.img.st ≠ .loading) (h3 : s.cel.slotWriting = false) :
    exec .loadHost s = .next (s.loadWith .host (s.judgeStaged .host s.img.written s.lnk.devId)) := by
  rw [exec_load (src := .host) hs (by decide), State.loadBit_free _ h1 h2 h3, State.load_host]

/-- A slot's load judges the slot's bytes, which then lie in the staging buffer. -/
theorem exec_loadSlot_copy {s u : State} {c : Instr} {src : ImgSource} {r : Region} {b : List Byte} (hs : s.serves)
    (hc : (c, src) ∈ loadCommands) (hr : slotRegion src = some r) (h1 : s.img.st ≠ .boot) (h2 : s.img.st ≠ .loading)
    (h3 : s.cel.slotWriting = false) (hb : s.slotBytes r = some b) (hu : u = (s.send (s.regionReads r)).upImg fun g => g.stageBytes b) :
    exec c s = .next (u.loadWith src (u.judgeStaged src 262144 u.lnk.devId)) := by
  rw [exec_load hs hc, State.loadBit_free _ h1 h2 h3, State.load_slot_some hr hb hu]

/-- The commands that ask for a load of a slot, with their regions. -/
theorem slotRegion_of_command {c : Instr} {src : ImgSource} {r : Region}
    (h : (c, src, r) ∈ [(Instr.loadSlotA, ImgSource.slotA, Region.slotA), (.loadSlotB, .slotB, .slotB)]) :
    (c, src) ∈ loadCommands ∧ slotRegion src = some r := by
  simp only [List.mem_cons, Prod.mk.injEq, List.not_mem_nil, or_false] at h
  obtain ⟨rfl, rfl, rfl⟩ | ⟨rfl, rfl, rfl⟩ := h
  · exact ⟨by decide, rfl⟩
  · exact ⟨by decide, rfl⟩

theorem loadCommand_source {c : Instr} (h : c ∈ [Instr.loadHost, .loadSlotA, .loadSlotB]) : ∃ src, (c, src) ∈ loadCommands := by
  simp only [List.mem_cons, List.not_mem_nil, or_false] at h
  obtain rfl | rfl | rfl := h
  · exact ⟨.host, by decide⟩
  · exact ⟨.slotA, by decide⟩
  · exact ⟨.slotB, by decide⟩

/-- The copies that the three load commands judge: command, source, slot, the slot's bytes, the bytes that count, the staging buffer with the
copy in it, and how far it is written. -/
def State.copies (s : State) (b : List Byte) : List (Instr × ImgSource × Option Region × List Byte × Nat × Memory × Nat) :=
  [(.loadHost, .host, none, [], s.img.written, s.img.stage, s.img.written),
   (.loadSlotA, .slotA, some .slotA, b, 262144, (s.img.stageBytes b).stage, b.length),
   (.loadSlotB, .slotB, some .slotB, b, 262144, (s.img.stageBytes b).stage, b.length)]

/-- A copy is the host's staging buffer, or a slot's bytes laid into it. -/
theorem State.mem_copies {s : State} {c : Instr} {src : ImgSource} {r : Option Region} {b : List Byte} {avail w : Nat} {m : Memory}
    (h : (c, src, r, b, avail, m, w) ∈ s.copies b) :
    (c = .loadHost ∧ src = .host ∧ r = none ∧ avail = s.img.written ∧ m = s.img.stage ∧ w = s.img.written) ∨
    ∃ x, r = some x ∧ (c, src) ∈ loadCommands ∧ slotRegion src = some x ∧ avail = 262144 ∧ m = (s.img.stageBytes b).stage ∧ w = b.length := by
  simp only [State.copies, List.mem_cons, Prod.mk.injEq, List.not_mem_nil, or_false] at h
  obtain ⟨rfl, rfl, rfl, -, h⟩ | ⟨rfl, rfl, rfl, -, h⟩ | ⟨rfl, rfl, rfl, -, h⟩ := h
  · exact .inl ⟨rfl, rfl, rfl, h⟩
  · exact .inr ⟨_, rfl, by decide, rfl, h⟩
  · exact .inr ⟨_, rfl, by decide, rfl, h⟩

/-- A load of a copy is its verdict on that copy, in the state `u` in which the copy lies in the staging buffer. -/
theorem exec_load_copy {s u : State} {c : Instr} {src : ImgSource} {r : Option Region} {b : List Byte} {avail w : Nat} {m : Memory} {e : Bool}
    {o : List NandOp} (hs : s.serves) (hc : (c, src, r, b, avail, m, w) ∈ s.copies b) (h1 : s.img.st ≠ .boot) (h2 : s.img.st ≠ .loading)
    (h3 : s.cel.slotWriting = false) (hb : ∀ x, r = some x → s.slotBytes x = some b)
    (hhost : r = none → e = s.img.stageUe ∧ o = []) (hslot : ∀ x, r = some x → e = false ∧ o = s.regionReads x)
    (hu : u = { s with img := { s.img with stage := m, written := w, stageUe := e }, cel := { s.cel with sent := s.cel.sent ++ o } }) :
    exec c s = .next (u.loadWith src (u.verdictOn src (parseImage (readByte stageBackground m) avail s.lnk.devId e))) := by
  have hstage : u.img.stage = m := by rw [hu]
  have hue : u.img.stageUe = e := by rw [hu]
  have hdev : u.lnk = s.lnk := by rw [hu]
  rw [← hstage, ← hue, ← hdev, ← State.judgeStaged_eq]
  obtain ⟨rfl, rfl, hr, rfl, rfl, rfl⟩ | ⟨x, hr, hl, hsrc, rfl, rfl, rfl⟩ := State.mem_copies hc
  · obtain ⟨rfl, rfl⟩ := hhost hr
    have hus : u = s := by rw [hu, List.append_nil]
    rw [hus]
    exact exec_loadHost_copy hs h1 h2 h3
  · obtain ⟨rfl, rfl⟩ := hslot x hr
    exact exec_loadSlot_copy hs hl hsrc h1 h2 h3 (hb x hr) hu

/-! ### What a swap has put in force -/

/-- A swap that puts the structure in force: what it shows, and which registers it sets. -/
theorem State.swapImage_putsInForce (s : State) (j : LoadJob) :
    let t := s.swapImage j
    t.img.st = .ready ∧ t.img.done = true ∧ t.img.result = .ok ∧ t.img.firstCh = 0xFF ∧ t.img.part = j.part ∧
      t.img.source = (if j.part then s.img.source else j.src) ∧ t.img.crc = j.crc ∧ t.img.job = none ∧
      t.img.vals = (s.fixedJob j).vals ∧ t.img.clamps = (s.fixedJob j).clamps := by
  obtain ⟨lib, hi, -, -⟩ := s.swapImage_spec j
  obtain ⟨v, x, c, k, hj⟩ := s.fixedJob_spec j
  dsimp only
  rw [hi, hj]
  exact ⟨rfl, rfl, rfl, rfl, rfl, rfl, rfl, rfl, rfl, rfl⟩

/-- A full load sets every register from the applied values. -/
theorem State.swapImage_full {s : State} {j : LoadJob} (hp : j.part = false) (n : Ch) :
    let t := s.swapImage j
    t.cel.refreshBits = Vals.num t.img.vals 0x10 1 0 ∧ (t.ch n).cfg.ilimitNa = BitVec.ofNat 32 (Vals.num t.img.vals 4 7 n.val) ∧
      (t.ch n).cfg.vlimitUv = BitVec.ofNat 32 (Vals.num t.img.vals 4 8 n.val) ∧ (t.ch n).cfg.setV = BitVec.ofNat 4 (Vals.num t.img.vals 4 1 n.val) ∧
      (t.ch n).cfg.setI = BitVec.ofNat 4 (Vals.num t.img.vals 4 2 n.val) ∧
      (t.ch n).cfg.pulseWidth = BitVec.ofNat 28 (Vals.num t.img.vals 9 1 n.val) := by
  obtain ⟨lib, hi, hb, hg⟩ := s.swapImage_spec j
  have hf : (s.fixedJob j).part = false := by
    obtain ⟨v, x, c, k, hj⟩ := s.fixedJob_spec j
    rw [hj]
    exact hp
  have hv : (s.swapImage j).img.vals = (s.fixedJob j).vals := by rw [hi]; rfl
  dsimp only
  rw [hv, hg n, hb]
  exact ⟨LoadJob.pick_full hf _ _ _ _ _, LoadJob.pick_full hf _ _ _ _ _, LoadJob.pick_full hf _ _ _ _ _, LoadJob.pick_full hf _ _ _ _ _,
    LoadJob.pick_full hf _ _ _ _ _, LoadJob.pick_full hf _ _ _ _ _⟩

/-- A section load without CHANNELS sets the registers whose fields it sets, and leaves the others. -/
theorem State.swapImage_part {s : State} {j : LoadJob} (hp : j.part = true) (h3 : 3 ∉ j.sections) (n : Ch) :
    let t := s.swapImage j
    t.cel.refreshBits = (if fieldKey (fieldId 0x10 1) 0 ∈ j.sets then Vals.num j.vals 0x10 1 0 else s.cel.refreshBits) ∧
      (t.ch n).cfg.ilimitNa = (if fieldKey (fieldId 4 7) n.val ∈ j.sets then BitVec.ofNat 32 (Vals.num j.vals 4 7 n.val) else (s.ch n).cfg.ilimitNa) ∧
      (t.ch n).cfg.pulseWidth = (if fieldKey (fieldId 9 1) n.val ∈ j.sets then BitVec.ofNat 28 (Vals.num j.vals 9 1 n.val) else (s.ch n).cfg.pulseWidth) ∧
      (t.ch n).cfg.setV = (if fieldKey (fieldId 4 1) n.val ∈ j.sets then BitVec.ofNat 4 (Vals.num j.vals 4 1 n.val) else (s.ch n).cfg.setV) ∧
      (t.ch n).cfg.level = (s.ch n).cfg.level ∧ (t.ch n).cfg.mode = (s.ch n).cfg.mode := by
  obtain ⟨lib, -, hb, hg⟩ := s.swapImage_spec j
  rw [State.fixedJob_of h3, State.remappedFor_of h3] at hb hg
  dsimp only
  rw [hb, hg n]
  exact ⟨LoadJob.pick_part hp _ _ _ _ _, LoadJob.pick_part hp _ _ _ _ _, LoadJob.pick_part hp _ _ _ _ _, LoadJob.pick_part hp _ _ _ _ _, rfl, rfl⟩

/-- Settles O59: the staging buffer by its two actions, a load by the verdict on its copy (`exec_load_copy`), the swap by what its parts leave
alone (`State.swapImage_spec`). -/
theorem imagesAreJudgedAndSwapped : Obligations.ImagesAreJudgedAndSwapped := by
  intro s
  refine ⟨fun hs hb => ?_, fun hs h1 h2 h3 => ?_, fun hs hl => ?_, fun hs j hl hj => ?_, fun hs c hc => ?_,
    fun hs c src r hc h1 h2 h3 hb => ?_, fun hs c src r b avail m w hc h1 h2 h3 hb e o u he ho hu => ?_, exec_imageSwap_none, fun hr j hj => ?_⟩
  · have hbusy := s.stagingBusy_iff.mpr hb
    exact ⟨fun v => by rw [exec_stageDataWrite v hs, State.stageData_busy v hbusy], by rw [exec_stageClear hs, State.stageClear_busy hbusy]⟩
  · have hfree := State.stagingBusy_false h1 h2 h3
    refine ⟨fun v => ⟨_, (exec_stageDataWrite v hs).trans (by rw [State.stageData_free v hfree]), rfl, fun hm => ?_, fun a ha => ?_⟩,
      _, (exec_stageClear hs).trans (by rw [State.stageClear_free hfree]), rfl, fun a => rfl⟩
    · exact readMemWord_writeMemWord_same _ v hm.2
    · exact readByte_writeMemWord_ne _ _ v ha
  · rw [exec_imageAbort hs, State.imageAbort, if_neg hl]
  · refine ⟨_, exec_imageAbort hs, ?_⟩
    rw [State.imageAbort, if_pos hl]
    have he := State.endLoad_eq hj .aborted 0xFF
    rwa [if_pos hl] at he
  · obtain ⟨src, hx⟩ := loadCommand_source hc
    rw [exec_load hs hx]
    exact ⟨fun hb => by rw [State.loadBit_ignored src hb], fun h1 h2 h3 => by rw [State.loadBit_slotWriting src h1 h2 h3]⟩
  · obtain ⟨hx, hr⟩ := slotRegion_of_command hc
    refine ⟨_, (exec_load hs hx).trans (by rw [State.loadBit_free src h1 h2 h3, State.load_slot_none hr hb]), ?_⟩
    exact (s.send (s.regionReads r)).rejectLoad_eq src .slotUnreadable 0xFF
  · have hx := exec_load_copy hs hc h1 h2 h3 hb (fun h => by subst h; exact ⟨he, ho⟩) (fun x h => by subst h; exact ⟨he, ho⟩) hu
    have hst : u.img.st = s.img.st := by rw [hu]
    have hch (n : Ch) : u.ch n = s.ch n := by rw [hu]; rfl
    refine ⟨fun x hr i h => ?_, fun q h => State.rejects_unparsed hx h, fun h => State.rejects_unparsed hx (parseImage_badMagic _ _ _ h),
      fun k hk => ⟨fun hp hr => ?_, fun hp n hn hlow => ?_, fun hp hq => ?_⟩⟩
    · obtain ⟨-, -, hn, -⟩ | ⟨_, -, -, -, -, rfl, -⟩ := State.mem_copies hc
      · exact absurd (hn.symm.trans hr) (by simp)
      · exact s.img.readByte_stageBytes b i h
    · exact State.rejects_judged hx hk (State.judgeCopy_needsFull src hp (by rwa [hst]))
    · exact State.rejects_judged hx hk (State.judgeCopy_notQuiescent src hp (by rw [hch, hn]) fun i hi => by rw [hch, hlow i hi])
    · obtain ⟨j, hj, hsrc⟩ := State.judgeCopy_ok (u := u) src (by rwa [hst]) fun n => by rw [hch, hq n]
      exact ⟨j, by rw [exec_load_accepted hx hk hj, ← hst]; rfl, hsrc⟩
  · refine ⟨fun h23 hb => exec_imageSwap_waits hr hj ⟨h23, hb⟩, fun hfree => ⟨fun n hn => ?_, fun hq => ?_⟩⟩
    · exact ⟨_, (exec_imageSwap_free hr hj hfree).trans (by rw [State.swapNow_unquiet hn]), State.endLoad_eq hj _ _⟩
    · obtain ⟨h1, h2, h3, h4, h5, h6, h7, h8, hv, hc⟩ := s.swapImage_putsInForce j
      refine ⟨_, (exec_imageSwap_free hr hj hfree).trans (by rw [State.swapNow_quiet hq]), h1, h2, h3, h4, h5, h6, h7, h8, fun hp => ?_, fun hp hs => ?_⟩
      · exact ⟨(State.swapImage_full hp 0).1, fun n => (State.swapImage_full hp n).2⟩
      · rw [State.fixedJob_of hs] at hv hc
        exact ⟨hv, hc, (State.swapImage_part hp hs 0).1, fun n => (State.swapImage_part hp hs n).2⟩

end Sys2Proof.Machine
end

section
/-! SUPPORT. Codes and the limiter: the spans of stage 2, the words of the DAC, and what one step of the limiter moves (R86, R89, R91). -/

namespace Sys2Proof.Machine

/-! ### Codes within the signed span (R86) -/

theorem toInt_ofInt_code {x : Int} (hlo : -524288 ≤ x) (hhi : x ≤ 524287) : (BitVec.ofInt 20 x).toInt = x := by
  rw [BitVec.toInt_ofInt]
  exact Int.bmod_eq_of_le_mul_two (by omega) (by omega)

theorem code_toInt_span (d : Code) : -524288 ≤ d.toInt ∧ d.toInt ≤ 524287 :=
  ⟨by have := BitVec.le_toInt d; omega, by have := BitVec.toInt_lt (x := d); omega⟩

/-! ### Stage 2 (R86, R103) -/

theorem Chan.spanHi_internal {c : Chan} (h : isBoost c.range.i = false) : c.spanHi = 524287 := by
  simp [Chan.spanHi, h]

/-- On an internal range stage 2 holds a code to the signed span of 20 bits, and says whether that changes it. -/
theorem Chan.stage2_internal {c : Chan} (h : isBoost c.range.i = false) (x : Int) :
    c.stage2 x = (BitVec.ofInt 20 (max (-524288) (min 524287 x)), decide (max (-524288) (min 524287 x) ≠ x)) := by
  simp only [Chan.stage2, Chan.spanHi_internal h, if_true]

theorem Chan.stage2_passes {c : Chan} (h : isBoost c.range.i = false) {x : Int} (hlo : -524288 ≤ x) (hhi : x ≤ 524287) :
    (c.stage2 x).1.toInt = x ∧ (c.stage2 x).2 = false := by
  have hx : max (-524288) (min 524287 x) = x := by omega
  rw [Chan.stage2_internal h, hx]
  exact ⟨toInt_ofInt_code hlo hhi, by simp⟩

theorem Chan.stage2_above {c : Chan} (h : isBoost c.range.i = false) {x : Int} (hx : 524287 < x) :
    (c.stage2 x).1.toInt = 524287 ∧ (c.stage2 x).2 = true := by
  have he : max (-524288) (min 524287 x) = 524287 := by omega
  rw [Chan.stage2_internal h, he]
  exact ⟨toInt_ofInt_code (by decide) (by decide), decide_eq_true (by omega)⟩

theorem Chan.stage2_below {c : Chan} (h : isBoost c.range.i = false) {x : Int} (hx : x < -524288) :
    (c.stage2 x).1.toInt = -524288 ∧ (c.stage2 x).2 = true := by
  have he : max (-524288) (min 524287 x) = -524288 := by omega
  rw [Chan.stage2_internal h, he]
  exact ⟨toInt_ofInt_code (by decide) (by decide), decide_eq_true (by omega)⟩

/-! ### The DAC's words (R89) -/

/-- Offset binary: the signed code, moved up by half the span. -/
theorem dacWord_toNat (d : Code) : ((dacWord d).toNat : Int) = d.toInt + 524288 := by
  have half : (524288 : Code).toNat = 524288 := by decide
  rw [dacWord, BitVec.toNat_add, half, BitVec.toInt_eq_toNat_cond]
  have := d.isLt
  split <;> omega

/-- A 20-bit word is its two strings' taps. -/
theorem dacWord_strings (d : Code) : (dacWord d).toNat = (dacCoarse d).toNat * 1024 + (dacFine d).toNat := by
  rw [dacCoarse, dacFine]
  generalize dacWord d = w
  rw [BitVec.extractLsb'_toNat, BitVec.extractLsb'_toNat, Nat.shiftRight_zero, Nat.shiftRight_eq_div_pow]
  have := w.isLt
  omega

/-- Settles O28: the three parts of the span, and offset binary. -/
theorem stageTwoSaturatesToTheSpan : Obligations.StageTwoSaturatesToTheSpan := by
  refine ⟨fun d => ⟨dacWord_toNat d, dacWord_strings d⟩, fun c x h => ⟨fun hlo hhi => ?_, fun hx => ?_, fun hx => ?_⟩⟩
  · obtain ⟨hcode, hsat⟩ := Chan.stage2_passes h hlo hhi
    exact ⟨hcode, by simp [Chan.toLimiter, hsat]⟩
  · obtain ⟨hcode, hsat⟩ := Chan.stage2_above h hx
    exact ⟨hcode, by simp [Chan.toLimiter, hsat]⟩
  · obtain ⟨hcode, hsat⟩ := Chan.stage2_below h hx
    exact ⟨hcode, by simp [Chan.toLimiter, hsat]⟩

/-! ### One loop period of the limiter (R91) -/

/-- The limiter's step of a target that is not reached. -/
def limMove (step : Nat) (d : Int) : Int := max (-(step : Int)) (min step d)

theorem ForceSt.limStep_reached {f : ForceSt} (h : f.code = f.target) (step rate : Nat) : f.limStep step rate = { f with rateCnt := 0 } := by
  simp [ForceSt.limStep, h]

theorem ForceSt.limStep_waits {f : ForceSt} (h : f.code ≠ f.target) (hr : f.rateCnt ≠ 0) (step rate : Nat) :
    f.limStep step rate = { f with rateCnt := (f.rateCnt + 1) % rate } := by
  simp [ForceSt.limStep, h, hr]

theorem ForceSt.limStep_due {f : ForceSt} (h : f.code ≠ f.target) (hr : f.rateCnt = 0) (step rate : Nat) : f.limStep step rate =
    { f with code := BitVec.ofInt 20 (f.code.toInt + limMove step (f.target.toInt - f.code.toInt)), rateCnt := 1 % rate } := by
  simp [ForceSt.limStep, h, hr, limMove]

/-- A move that is due leads to a code between the present one and the target, which the code's 20 bits hold. -/
theorem toInt_limMove (c t : Code) (step : Nat) :
    (BitVec.ofInt 20 (c.toInt + limMove step (t.toInt - c.toInt))).toInt = c.toInt + limMove step (t.toInt - c.toInt) := by
  have hc := code_toInt_span c
  have ht := code_toInt_span t
  exact toInt_ofInt_code (by unfold limMove; omega) (by unfold limMove; omega)

/-- The limiter changes its code and its count alone. -/
theorem ForceSt.limStep_frame (f : ForceSt) (step rate : Nat) :
    f.limStep step rate = { f with code := (f.limStep step rate).code, rateCnt := (f.limStep step rate).rateCnt } := by
  unfold ForceSt.limStep
  split <;> rfl

/-- A due step from the code toward the target `d` codes away, whether that is reached or not. -/
theorem ForceSt.limStep_due_toInt {f : ForceSt} (hr : f.rateCnt = 0) (step rate : Nat) :
    (f.limStep step rate).code.toInt = f.code.toInt + limMove step (f.target.toInt - f.code.toInt) := by
  by_cases h : f.code = f.target
  · rw [ForceSt.limStep_reached h, h]
    simp [limMove]
  · rw [ForceSt.limStep_due h hr]
    exact toInt_limMove _ _ _

theorem ForceSt.limStep_le (f : ForceSt) (step rate : Nat) :
    (f.limStep step rate).code.toInt - f.code.toInt ≤ step ∧ f.code.toInt - (f.limStep step rate).code.toInt ≤ step := by
  by_cases hr : f.rateCnt = 0
  · rw [ForceSt.limStep_due_toInt hr]
    unfold limMove
    omega
  · have hcode : (f.limStep step rate).code = f.code := by
      by_cases h : f.code = f.target
      · rw [ForceSt.limStep_reached h]
      · rw [ForceSt.limStep_waits h hr]
    rw [hcode]
    omega

theorem ForceSt.limSteps_frame (f : ForceSt) (step rate k : Nat) :
    f.limSteps step rate k = { f with code := (f.limSteps step rate k).code, rateCnt := (f.limSteps step rate k).rateCnt } := by
  induction k generalizing f with
  | zero => rfl
  | succ k ih =>
    rw [ForceSt.limSteps, ih, f.limStep_frame]

/-- `k` loop periods move the code by at most `k` steps. -/
theorem ForceSt.limSteps_le (f : ForceSt) (step rate k : Nat) :
    (f.limSteps step rate k).code.toInt - f.code.toInt ≤ step * k ∧ f.code.toInt - (f.limSteps step rate k).code.toInt ≤ step * k := by
  induction k generalizing f with
  | zero => simp [ForceSt.limSteps]
  | succ k ih =>
    obtain ⟨hup, hdn⟩ := ih (f.limStep step rate)
    obtain ⟨hup', hdn'⟩ := f.limStep_le step rate
    rw [ForceSt.limSteps]
    push_cast
    rw [mul_add]
    omega

/-! ### The limiter of a channel -/

theorem Chan.limit_of {c : Chan} (h : c.moves = true) (k : Nat) :
    c.limit k = { c with force := c.force.limSteps c.eff.slewStep.toNat (c.eff.slewRateM1.toNat + 1) k } := by
  simp [Chan.limit, h]

theorem Chan.limit_open {c : Chan} (h : c.moves = false) (k : Nat) : c.limit k = c := by
  simp [Chan.limit, h]

/-- The limiter of a channel changes its code and count, and nothing else. -/
theorem Chan.limit_frame (c : Chan) (k : Nat) :
    c.limit k = { c with force := { c.force with code := (c.limit k).force.code, rateCnt := (c.limit k).force.rateCnt } } := by
  cases h : c.moves with
  | true =>
    rw [Chan.limit_of h]
    exact congrArg (fun f => { c with force := f }) (c.force.limSteps_frame _ _ k)
  | false => rw [Chan.limit_open h]

theorem Chan.limit_le (c : Chan) (k : Nat) : (c.limit k).force.code.toInt - c.force.code.toInt ≤ c.eff.slewStep.toNat * k ∧
    c.force.code.toInt - (c.limit k).force.code.toInt ≤ c.eff.slewStep.toNat * k := by
  cases h : c.moves with
  | true =>
    rw [Chan.limit_of h]
    exact c.force.limSteps_le _ _ k
  | false =>
    rw [Chan.limit_open h]
    have : (0 : Int) ≤ c.eff.slewStep.toNat * k := by positivity
    omega

theorem Chan.limitIn_again {c : Chan} {p : Nat} (h : c.force.stepAt = some p) : c.limitIn p = c := by
  simp [Chan.limitIn, h]

theorem Chan.limitIn_first {c : Chan} {p : Nat} (h : c.force.stepAt ≠ some p) :
    c.limitIn p = { c.limit c.lpStep with force := { (c.limit c.lpStep).force with stepAt := some p } } := by
  simp [Chan.limitIn, h]

/-- In a loop period a channel's limiter changes its code, its count and the period of its last step. -/
theorem Chan.limitIn_frame (c : Chan) (p : Nat) : ∃ x k a, c.limitIn p = { c with force := { c.force with code := x, rateCnt := k, stepAt := a } } := by
  by_cases h : c.force.stepAt = some p
  · exact ⟨_, _, _, Chan.limitIn_again h⟩
  · refine ⟨(c.limit c.lpStep).force.code, (c.limit c.lpStep).force.rateCnt, some p, ?_⟩
    rw [Chan.limitIn_first h]
    exact congrArg (fun d : Chan => { d with force := { d.force with stepAt := some p } }) (c.limit_frame c.lpStep)

theorem Chan.limitIn_open {c : Chan} (h : c.moves = false) (p : Nat) : (c.limitIn p).force.code = c.force.code := by
  unfold Chan.limitIn
  split
  · rfl
  · rw [Chan.limit_open h]

/-- In a loop period the code moves by at most STEP for each period of the update (R91, R93). -/
theorem Chan.limitIn_le (c : Chan) (p : Nat) : (c.limitIn p).force.code.toInt - c.force.code.toInt ≤ c.eff.slewStep.toNat * c.lpStep ∧
    c.force.code.toInt - (c.limitIn p).force.code.toInt ≤ c.eff.slewStep.toNat * c.lpStep := by
  by_cases h : c.force.stepAt = some p
  · rw [Chan.limitIn_again h]
    have : (0 : Int) ≤ c.eff.slewStep.toNat * c.lpStep := by positivity
    omega
  · rw [Chan.limitIn_first h]
    exact c.limit_le c.lpStep

/-- Outside low-power mode a channel on a closed switch takes one step of the limiter. -/
theorem Chan.limitIn_once {c : Chan} {p : Nat} (h : c.force.stepAt ≠ some p) (hm : c.moves = true) (hl : c.decl.lowPower = false) :
    (c.limitIn p).force = { c.force.limStep c.eff.slewStep.toNat (c.eff.slewRateM1.toNat + 1) with stepAt := some p } := by
  have hk : c.lpStep = 1 := by simp [Chan.lpStep, hl]
  rw [Chan.limitIn_first h, Chan.limit_of hm, hk]
  rfl

/-! ### SLEW_LIMITER_STEP -/

theorem exec_slewLimiterStep_idle {s : State} {n : Ch} (hr : s.runs) (h : s.updates n = false ∨ (s.ch n).force.stepAt = some s.period) :
    exec (.slewLimiterStep n) s = .next s := by
  have hg : (s.updates n && (s.ch n).force.stepAt != some s.period) = false := by
    rcases h with h | h <;> simp [h]
  refine (congrArg Host.Outcome.next (s.live_of _ hr)).trans ?_
  rw [hg]
  rfl

theorem exec_slewLimiterStep_steps {s : State} {n : Ch} (hr : s.runs) (hu : s.updates n = true) (h : (s.ch n).force.stepAt ≠ some s.period) :
    exec (.slewLimiterStep n) s = .next ((s.upCh n fun c => c.limitIn s.period).latchDac n) := by
  refine (congrArg Host.Outcome.next (s.live_of _ hr)).trans ?_
  simp [hu, h]

/-- Settles O35: the limiter's step is `limitIn`, and the DAC latches its code. -/
theorem theLimiterStepsTowardItsTarget : Obligations.TheLimiterStepsTowardItsTarget := by
  intro n s hr
  refine ⟨exec_slewLimiterStep_idle hr, fun hu hs => ⟨_, exec_slewLimiterStep_steps hr hu hs, ?_⟩⟩
  obtain ⟨x, k, a, hframe⟩ := (s.ch n).limitIn_frame s.period
  have hpath : s.pathOnly ((s.upCh n fun c => c.limitIn s.period).latchDac n) n :=
    (s.upCh_path n _ (by rw [hframe])).trans (State.latchDac_path _ n)
  rw [State.latchDac_ch, State.upCh_ch]
  obtain ⟨hup, hdown⟩ := (s.ch n).limitIn_le s.period
  refine ⟨hpath, by rw [hframe], by rw [hframe], by rw [Chan.limitIn_first hs], fun ho => Chan.limitIn_open ho _, hup, hdown, fun hl ho => ?_⟩
  have hm : (s.ch n).moves = true := by
    show (s.ch n).force.out.switchClosed _ = true
    rw [ho]
    rfl
  rw [Chan.limitIn_once hs hm hl]
  refine ⟨fun h => ?_, fun h hc => ?_, fun hc d hd => ?_⟩
  · rw [ForceSt.limStep_reached h]
    exact ⟨h, rfl⟩
  · rw [ForceSt.limStep_waits h hc]
  · have hstep := ForceSt.limStep_due_toInt hc (s.ch n).eff.slewStep.toNat ((s.ch n).eff.slewRateM1.toNat + 1)
    refine ⟨fun hlo hhi => BitVec.eq_of_toInt_eq ?_, fun hup => ?_, fun hdn => ?_⟩
    · rw [hstep]; unfold limMove; omega
    · rw [hstep]; unfold limMove; omega
    · rw [hstep]; unfold limMove; omega

end Sys2Proof.Machine
end

section
/-! SUPPORT. The output switch: when a CLOSE and an OPEN are refused, act or do nothing, and what an opening and a closing leave (R99, R100, R117). -/

namespace Sys2Proof.Machine

/-! ### The force path behind the sampling (R9) -/

@[simp] theorem Chan.sampled_code (c : Chan) (p : Nat) : (c.sampled p).force.code = c.force.code := by
  obtain ⟨h, -⟩ := c.sampled_force p; exact h

@[simp] theorem Chan.sampled_target (c : Chan) (p : Nat) : (c.sampled p).force.target = c.force.target := by
  obtain ⟨-, h, -⟩ := c.sampled_force p; exact h

@[simp] theorem Chan.sampled_out (c : Chan) (p : Nat) : (c.sampled p).force.out = c.force.out := by
  obtain ⟨-, -, h, -⟩ := c.sampled_force p; exact h

@[simp] theorem Chan.sampled_tripped (c : Chan) (p : Nat) : (c.sampled p).force.tripped = c.force.tripped := by
  obtain ⟨-, -, -, -, h, -⟩ := c.sampled_force p; exact h

@[simp] theorem Chan.sampled_closeRest (c : Chan) (p : Nat) : (c.sampled p).force.closeRest = c.force.closeRest := by
  obtain ⟨-, -, -, -, -, -, h, -⟩ := c.sampled_force p; exact h

/-! ### CLOSE (R99, R100) -/

theorem exec_forceClose_takes {s : State} {n : Ch} (h : s.takes n) : exec (.forceClose n) s = .next ((s.sample n).forceClose n) :=
  congrArg _ (h.chWrite _ _ _)

theorem Chan.refusesSwitch_of {c : Chan} (now : Nat) (h : c.map.avail = false ∨ c.force.tripped = true ∨ c.force.out = .resting ∨
    c.force.out = .hold ∨ c.force.out = .graveOpen) : c.refusesSwitch now = true := by
  rcases h with h | h | h | h | h <;> simp [Chan.refusesSwitch, h]

theorem State.forceClose_refused {s : State} {n : Ch} (h : (s.ch n).refusesSwitch s.time = true) : s.forceClose n = s.noteCh n 0x040 := by
  simp [State.forceClose, h]

/-- In CLOSING and on a closed switch a CLOSE has no effect. -/
theorem State.forceClose_idle {s : State} {n : Ch} (h : (s.ch n).refusesSwitch s.time = false)
    (ho : (s.ch n).force.out = .closing ∨ (s.ch n).force.out = .closed ∨ (s.ch n).force.out = .restHold) : s.forceClose n = s := by
  rcases ho with ho | ho | ho <;> simp [State.forceClose, h, ho]

theorem State.forceClose_starts {s : State} {n : Ch} (h : (s.ch n).refusesSwitch s.time = false)
    (ho : (s.ch n).force.out = .opened ∨ (s.ch n).force.out = .restOpen ∨ (s.ch n).force.out = .tripOpen) :
    s.forceClose n = (s.upCh n fun c => (c.startClosing s.time false).calKeep).refresh n := by
  rcases ho with ho | ho | ho <;> simp [State.forceClose, h, ho]

@[simp] theorem Chan.calKeep_map (c : Chan) : c.calKeep.map = c.map := by
  obtain ⟨m, h⟩ := c.calKeep_spec; rw [h]

@[simp] theorem Chan.calKeep_force (c : Chan) : c.calKeep.force = c.force := by
  obtain ⟨m, h⟩ := c.calKeep_spec; rw [h]

@[simp] theorem Chan.calKeep_loop (c : Chan) : c.calKeep.loop = c.loop := by
  obtain ⟨m, h⟩ := c.calKeep_spec; rw [h]

/-! ### The end of the closing sequence (R99, R108) -/

theorem Chan.closingDone_of {c : Chan} {t now : Nat} (ho : c.force.out = .closing) (ha : c.force.closeAt = some t) (ht : t + 2048 ≤ now) :
    c.closingDone now = true := by
  simp [Chan.closingDone, ho, ha, ht]

theorem exec_switchClose_closes {s : State} {n : Ch} {k : CellIx} {t : Nat} (raw : Vector (BitVec 24) 8) (hr : s.runs)
    (hk : (s.ch n).map.cell = some k) (ha : (s.bay (CellIx.bay k)).awake = true) (hp : s.jtag.ir.holdsPins = false) (hw : n ∉ s.pwr.waitRest)
    (ho : (s.ch n).force.out = .closing) (hc : (s.ch n).force.closeAt = some t) (ht : t + 2048 ≤ s.time) :
    exec (.switchClose n raw) s = .next (((s.upCh n fun c => c.closeAtPin (s.pinCode n k raw)).latchDac n).refresh n) := by
  refine (congrArg Host.Outcome.next (s.live_of _ hr)).trans ?_
  simp [hk, ha, hp, hw, Chan.closingDone_of ho hc ht]

/-- A rest sequence ramps from the loop period behind the closing; otherwise the switch stays closed. -/
theorem Chan.afterClosing_out {c : Chan} (h : c.force.out = .closed) : c.afterClosing.force.out = if c.force.closeRest then .resting else .closed := by
  cases hr : c.force.closeRest with
  | true => simp [Chan.afterClosing, h, hr]
  | false =>
    by_cases hp : c.loop.st = .pending
    · simp [Chan.afterClosing, h, hr, hp, Chan.presetLoops, Chan.reclamp]
    · simp [Chan.afterClosing, h, hr, hp]

/-! ### OPEN (R100, R140) -/

theorem exec_forceOpen_takes {s : State} {n : Ch} (h : s.takes n) : exec (.forceOpen n) s = .next ((s.sample n).forceOpen n) :=
  congrArg _ (h.chWrite _ _ _)

theorem State.forceOpen_refused {s : State} {n : Ch} (h : (s.ch n).force.out = .resting ∨
    ((s.ch n).force.out = .closed ∧ (s.ch n).force.closeRest = true) ∨ (s.ch n).restStarts s.time = true) : s.forceOpen n = s.noteCh n 0x040 :=
  if_pos h

theorem State.forceOpen_opens {s : State} {n : Ch} (h : (s.ch n).restStarts s.time = false)
    (ho : ((s.ch n).force.out = .closed ∧ (s.ch n).force.closeRest = false) ∨ (s.ch n).force.out = .restHold ∨ (s.ch n).force.out = .hold) :
    s.forceOpen n = s.openSwitch n .opened := by
  rcases ho with ⟨ho, hr⟩ | ho | ho
  · simp [State.forceOpen, h, ho, hr]
  · simp [State.forceOpen, h, ho]
  · simp [State.forceOpen, h, ho]

/-- On a switch that is open already, or not yet closed, an OPEN has no effect. -/
theorem State.forceOpen_idle {s : State} {n : Ch} (h : (s.ch n).restStarts s.time = false) (ho : (s.ch n).force.out = .opened ∨
    (s.ch n).force.out = .closing ∨ (s.ch n).force.out = .restOpen ∨ (s.ch n).force.out = .tripOpen ∨ (s.ch n).force.out = .graveOpen) :
    s.forceOpen n = s := by
  rcases ho with ho | ho | ho | ho | ho <;> simp [State.forceOpen, h, ho]

/-- An opening leaves the output as asked, the loops open and the code held. -/
theorem Chan.openOut_opens (c : Chan) (o : OutState) :
    (c.openOut o).force.out = o ∧ (c.openOut o).loop.st = .opened ∧ (c.openOut o).force.code = c.force.code := by
  obtain ⟨m, h⟩ := c.openOut_spec o
  obtain ⟨l, f, hl, hst, hout, hcode, -⟩ := Chan.openLoops_spec { c with force := { c.force with
    out := o, closeAt := none, closeRest := false, fromRest := false, restAt := if o = OutState.graveOpen then none else c.force.restAt } }
  rw [h, hl]
  exact ⟨hout, hst, hcode⟩

/-! ### The trip flag (R117) -/

theorem exec_outTrippedClear_takes {s : State} {n : Ch} (h : s.takes n) : exec (.outTrippedClear n) s = .next (s.upCh n Chan.clearTripped) :=
  congrArg _ (h.chWrite _ _ _)

theorem Chan.clearTripped_eq (c : Chan) : c.clearTripped =
    { c with force := { c.force with tripped := c.force.tripped && (c.winV.stage || c.winI.stage) } } := by
  unfold Chan.clearTripped
  split
  · next h => simp [h]
  · next h => simp [Bool.eq_false_iff.mpr h]

/-- Settles O30: each write by the branch of R100 that its state takes, and the end of the closing sequence by `closeAtPin`. -/
theorem theSwitchClosesAtThePinVoltage : Obligations.TheSwitchClosesAtThePinVoltage := by
  rintro n s _ rfl
  have hu := s.sample_path n
  refine ⟨fun ht h => ?_, fun ht h => ⟨fun ho => ?_, fun ho => ?_⟩, fun hr raw k t0 hk ha hp hw ho hc h => ?_, fun ht h => ?_,
    fun ht h => ⟨fun ho => ?_, fun ho => ?_⟩, fun ht => ?_⟩
  · rw [exec_forceClose_takes ht, State.forceClose_refused (Chan.refusesSwitch_of _ (by simpa using h))]
  · rw [exec_forceClose_takes ht, State.forceClose_idle h (by simpa using ho)]
  · have he := (exec_forceClose_takes ht).trans (congrArg _ (State.forceClose_starts h (by simpa using ho)))
    have hclosing := (s.sample n).upCh_path n (fun c => (c.startClosing s.time false).calKeep) (Chan.calKeep_map _)
    refine ⟨_, he, hu.trans (hclosing.trans (State.refresh_path _ n)), ?_⟩
    simp [Chan.startClosing]
  · refine ⟨_, exec_switchClose_closes raw hr hk ha hp hw ho hc h, ?_⟩
    have hpath := (s.upCh_path n (fun c => c.closeAtPin (s.pinCode n k raw)) rfl).trans ((State.latchDac_path _ n).trans (State.refresh_path _ n))
    rw [State.refresh_ch, State.latchDac_ch, State.upCh_ch]
    exact ⟨hpath, rfl, rfl, Chan.afterClosing_out rfl, rfl, rfl, rfl⟩
  · rw [exec_forceOpen_takes ht, State.forceOpen_refused (by simpa using h)]
  · have he := (exec_forceOpen_takes ht).trans (congrArg _ (State.forceOpen_opens h (by simpa using ho)))
    refine ⟨_, he, hu.flt.trans (State.openSwitch_flt _ n _), ?_⟩
    have hopen := Chan.openOut_opens ((s.sample n).ch n) .opened
    rw [State.openSwitch_ch]
    simpa using hopen
  · rw [exec_forceOpen_takes ht, State.forceOpen_idle h (by simpa using ho)]
  · refine ⟨_, exec_outTrippedClear_takes ht, s.upCh_chOnly n _, ?_⟩
    rw [State.upCh_ch, Chan.clearTripped_eq]

end Sys2Proof.Machine
end

section
/-! SUPPORT. Rest: the start of a rest sequence with the bays it wakes and the output it leaves, its end in REST_HOLD, and the opening at
Grave (R69, R108, R109). -/

namespace Sys2Proof.Machine

/-! ### The frame of a rest sequence's start -/

/-- Nothing differs but channel `n`, cells, and what a wake request and a keeper's release change: bays, clocks and the collector. -/
structure State.restOnly (s t : State) (n : Ch) : Prop where
  rest : t = { s with chans := t.chans, cells := t.cells, flt := t.flt, bays := t.bays, clk := t.clk }
  ch : ∀ m, m ≠ n → t.ch m = s.ch m

theorem State.restOnly.refl (s : State) (n : Ch) : s.restOnly s n := ⟨rfl, fun _ _ => rfl⟩

theorem State.restOnly.trans {a b c : State} {n : Ch} (h : a.restOnly b n) (k : b.restOnly c n) : a.restOnly c n := by
  refine ⟨?_, fun m e => (k.ch m e).trans (h.ch m e)⟩
  rw [k.rest, h.rest]

theorem State.pathFlt.restOnly {s t : State} {n : Ch} (h : s.pathFlt t n) : s.restOnly t n := by
  refine ⟨?_, h.ch⟩
  rw [h.rest]

theorem State.pathOnly.restOnly {s t : State} {n : Ch} (h : s.pathOnly t n) : s.restOnly t n := h.flt.restOnly

/-! ### What a wake request leaves (R522, R523) -/

/-- A wake request changes bays and clocks alone. -/
theorem State.wake_frame (s : State) (b : Bay) : s.wake b = { s with bays := (s.wake b).bays, clk := (s.wake b).clk } := by
  unfold State.wake State.when State.pllsStart
  repeat' split
  all_goals rfl

theorem State.wakeFor_frame (s : State) (n : Ch) : s.wakeFor n = { s with bays := (s.wakeFor n).bays, clk := (s.wakeFor n).clk } :=
  State.each_inv (fun t => t = { s with bays := t.bays, clk := t.clk }) (fun b t => t.wake b)
    (fun b t h => by rw [t.wake_frame b, h]) (s.chBays n) s rfl

@[simp] theorem State.wakeFor_ch (s : State) (n m : Ch) : (s.wakeFor n).ch m = s.ch m := by
  rw [s.wakeFor_frame n]; rfl

theorem State.wakeFor_restOnly (s : State) (n : Ch) : s.restOnly (s.wakeFor n) n := by
  refine ⟨?_, fun m _ => s.wakeFor_ch n m⟩
  rw [s.wakeFor_frame n]

/-! ### The start of a voltage range change (R227, R344) -/

theorem State.startRanging_cases (s : State) (n : Ch) : s.startRanging n = s ∨ s.startRanging n = s.upCh n fun c => c.startV s.time := by
  unfold State.startRanging
  split
  · exact .inl rfl
  · exact .inr rfl

@[simp] theorem Chan.startV_map (c : Chan) (now : Nat) : (c.startV now).map = c.map := by
  obtain ⟨r, x, e⟩ := c.startV_spec now; rw [e]

theorem State.startRanging_path (s : State) (n : Ch) : s.pathOnly (s.startRanging n) n := by
  rcases s.startRanging_cases n with h | h <;> rw [h]
  · exact State.pathOnly.refl s n
  · exact s.upCh_path n (fun c => c.startV s.time) (Chan.startV_map _ s.time)

/-- Ranging, and the limiter's target on its way into a new span, are all that it changes. -/
theorem State.startRanging_ch (s : State) (n : Ch) :
    ∃ r x, (s.startRanging n).ch n = { s.ch n with range := r, force := { (s.ch n).force with target := x } } := by
  rcases s.startRanging_cases n with h | h <;> rw [h]
  · exact ⟨_, _, rfl⟩
  · rw [State.upCh_ch]
    exact (s.ch n).startV_spec s.time

/-! ### The start of a rest sequence (R69, R108) -/

@[simp] theorem Chan.restBegin_map (c : Chan) (now : Nat) : (c.restBegin now).map = c.map := by
  obtain ⟨r, m, l, f, e, -⟩ := c.restBegin_spec now; rw [e]

/-- The start of a rest sequence up to its switch: the overlap is squashed, the loops open, the ranges are commanded, and the rest values are
taken as they stand. -/
def Chan.restTake (c : Chan) (now : Nat) : Chan :=
  let d := c.squash.openLoops
  let v : BitVec 4 := if d.decl.rsClose then d.decl.rsRange.setWidth 4 else 15
  let e := (d.command v (restRange d.decl.rsIlimitNa)).commandedBy v 0 false
  { e with range := { e.range with wantLevel := none },
           force := { e.force with restAt := some now, rsCode := e.decl.rsCode, rsIlimitNa := e.decl.rsIlimitNa } }

/-- The switch at the start of a rest sequence: as the rest values ask for it, and as it stood before (`was`). -/
def Chan.restOut (d : Chan) (was : Bool) (now : Nat) : Chan :=
  if d.force.out = .hold then d
  else if d.decl.rsClose && !d.force.tripped then
    if was then { d with force := { d.force with out := .resting, closeAt := none, closeRest := false, fromRest := false } }
    else d.startClosing now true
  else { d with force := { d.force with out := .restOpen, closeAt := none, closeRest := false, fromRest := false } }

/-- The two parts, and the clamp that follows. -/
theorem Chan.restBegin_force (c : Chan) (now : Nat) :
    ∃ on x, (c.restBegin now).force = { ((c.restTake now).restOut c.moves now).force with clampOn := on, clamp := x } := by
  have h : c.restBegin now = ((c.restTake now).restOut c.moves now).reclamp.calKeep := rfl
  rw [h, Chan.calKeep_force]
  exact ⟨_, _, rfl⟩

/-- Behind the first part the switch stands as it did, and the rest values are those in force. -/
theorem Chan.restTake_spec (c : Chan) (now : Nat) : (c.restTake now).decl = c.decl ∧ (c.restTake now).force.out = c.force.out ∧
    (c.restTake now).force.tripped = c.force.tripped ∧ (c.restTake now).force.rsCode = c.decl.rsCode ∧
    (c.restTake now).force.rsIlimitNa = c.decl.rsIlimitNa := by
  obtain ⟨r, hr, -⟩ := Chan.squash_spec c
  obtain ⟨l, f, hl, -, hout, -, htrip⟩ := Chan.openLoops_spec { c with range := r }
  obtain ⟨r2, m2, x2, hc⟩ := Chan.command_spec { c with range := r, loop := l, force := f }
    (if c.decl.rsClose then c.decl.rsRange.setWidth 4 else 15) (restRange c.decl.rsIlimitNa)
  unfold Chan.restTake
  rw [hr, hl]
  dsimp only at hc ⊢
  rw [hc]
  exact ⟨rfl, hout, htrip, rfl, rfl⟩

theorem Chan.restOut_opens {d : Chan} (was : Bool) (now : Nat) (hh : d.force.out ≠ .hold) (h : d.decl.rsClose = false ∨ d.force.tripped = true) :
    (d.restOut was now).force.out = .restOpen := by
  have hb : (d.decl.rsClose && !d.force.tripped) = false := by rcases h with h | h <;> simp [h]
  rw [Chan.restOut, if_neg hh, hb]
  rfl

theorem Chan.restOut_ramps {d : Chan} (now : Nat) (hh : d.force.out ≠ .hold) (hc : d.decl.rsClose = true) (ht : d.force.tripped = false) :
    (d.restOut true now).force.out = .resting := by
  simp [Chan.restOut, hh, hc, ht]

theorem Chan.restOut_closes {d : Chan} (now : Nat) (hh : d.force.out ≠ .hold) (hc : d.decl.rsClose = true) (ht : d.force.tripped = false) :
    (d.restOut false now).force.out = .closing ∧ (d.restOut false now).force.closeRest = true := by
  simp [Chan.restOut, hh, hc, ht, Chan.startClosing]

/-- The rest values stand as they were when the switch follows. -/
theorem Chan.restOut_values (d : Chan) (was : Bool) (now : Nat) :
    (d.restOut was now).force.rsCode = d.force.rsCode ∧ (d.restOut was now).force.rsIlimitNa = d.force.rsIlimitNa := by
  unfold Chan.restOut
  repeat' split
  all_goals exact ⟨rfl, rfl⟩

/-- The rest values and the output behind the start of a rest sequence (R69, R108). -/
theorem Chan.restBegin_out (c : Chan) (now : Nat) (hh : c.force.out ≠ .hold) :
    (c.restBegin now).force.rsCode = c.decl.rsCode ∧ (c.restBegin now).force.rsIlimitNa = c.decl.rsIlimitNa ∧
    (c.decl.rsClose = false ∨ c.force.tripped = true → (c.restBegin now).force.out = .restOpen) ∧
    (c.decl.rsClose = true → c.force.tripped = false → c.moves = true → (c.restBegin now).force.out = .resting) ∧
    (c.decl.rsClose = true → c.force.tripped = false → c.moves = false →
      (c.restBegin now).force.out = .closing ∧ (c.restBegin now).force.closeRest = true) := by
  obtain ⟨hdecl, hout, htrip, hcode, hlim⟩ := c.restTake_spec now
  obtain ⟨hcode', hlim'⟩ := (c.restTake now).restOut_values c.moves now
  have hdh : (c.restTake now).force.out ≠ .hold := by rwa [hout]
  obtain ⟨on, x, hforce⟩ := c.restBegin_force now
  rw [hforce]
  dsimp only
  refine ⟨hcode'.trans hcode, hlim'.trans hlim, fun h => ?_, fun hc ht hm => ?_, fun hc ht hm => ?_⟩
  · exact Chan.restOut_opens _ now hdh (by rwa [hdecl, htrip])
  · rw [hm]
    exact Chan.restOut_ramps now hdh (by rwa [hdecl]) (by rwa [htrip])
  · rw [hm]
    exact Chan.restOut_closes now hdh (by rwa [hdecl]) (by rwa [htrip])

theorem State.restStart_of {s : State} {n : Ch} (hc : (s.ch n).canRest = true) (ho : (s.ch n).force.out ≠ .graveOpen) (hw : n ∉ s.pwr.waitRest) :
    s.restStart n = (((s.wakeFor n).upCh n fun c => c.restBegin s.time).when
      ((((s.wakeFor n).upCh n fun c => c.restBegin s.time).ch n).force.out == .restOpen) fun t => t.releaseKeepers n).refresh n := by
  simp [State.restStart, hc, ho, hw]

/-- Where a rest sequence runs its start is `restBegin`; all else is the frame's. -/
theorem State.restStart_spec {s : State} {n : Ch} (hc : (s.ch n).canRest = true) (ho : (s.ch n).force.out ≠ .graveOpen) (hw : n ∉ s.pwr.waitRest) :
    s.restOnly (s.restStart n) n ∧ (s.restStart n).ch n = (s.ch n).restBegin s.time := by
  rw [State.restStart_of hc ho hw]
  refine ⟨?_, ?_⟩
  · have hbegin : (s.wakeFor n).restOnly ((s.wakeFor n).upCh n fun c => c.restBegin s.time) n :=
      ((s.wakeFor n).upCh_path n (fun c => c.restBegin s.time) (Chan.restBegin_map _ s.time)).restOnly
    have hkeep (u : State) (b : Bool) : u.pathFlt (u.when b fun t => t.releaseKeepers n) n := u.when_flt n b _ fun t => t.releaseKeepers_flt n
    exact (((s.wakeFor_restOnly n).trans hbegin).trans (hkeep _ _).restOnly).trans (State.refresh_path _ n).restOnly
  · rw [State.refresh_ch, State.when_ch _ _ _ fun t m => t.releaseKeepers_ch n m, State.upCh_ch, State.wakeFor_ch]

/-! ### REST (R108) -/

theorem exec_forceRest_takes {s : State} {n : Ch} (h : s.takes n) : exec (.forceRest n) s = .next ((s.sample n).forceRest n) :=
  congrArg _ (h.chWrite _ _ _)

theorem State.forceRest_refused {s : State} {n : Ch} (h : (s.ch n).canRest = false) : s.forceRest n = s.noteCh n 0x040 := by
  simp [State.forceRest, h]

/-- Where no strand runs or has just ended, a REST ends none. -/
theorem State.endBy_idle {s : State} {n : Ch} (ha : (s.ch n).strand.st.active = false) (he : (s.ch n).strand.endAt ≠ some s.time)
    (st : StrandState) (r : Reason) (f : RecFate) (count : Bool) : s.endBy n st r f count = s := by
  have hend : ∀ st r f count, s.endStrand n st r f count = s := fun st r f count => by
    simp [State.endStrand, State.endAgain, ha, he]
  simp [State.endBy, hend]

theorem State.forceRest_idle {s : State} {n : Ch} (hc : (s.ch n).canRest = true) (ha : (s.ch n).strand.st.active = false)
    (he : (s.ch n).strand.endAt ≠ some s.time) : s.forceRest n = ((s.restStart n).startRanging n).refresh n := by
  rw [State.forceRest, if_pos hc, State.endBy_idle ha he]

/-! ### REST_HOLD_REACHED and GRAVE_OPEN_TIMEOUT (R108, R109) -/

/-- The channel in REST_HOLD: its target and its command hold RS_CODE. -/
def Chan.holdRest (c : Chan) : Chan :=
  { c with force := { c.force with out := .restHold, target := c.force.rsCode }, loop := { c.loop with cmd := c.force.rsCode } }

theorem State.bootDone_of {s : State} (h : s.pwr.boot = none) : s.bootDone = s := by
  simp [State.bootDone, h]

theorem Chan.atRestCode_of {c : Chan} (ho : c.force.out = .resting) (hc : c.force.code = c.force.rsCode) (hw : c.range.wantV = none)
    (hh : c.range.hst ≠ .vSwitch) : c.atRestCode = true := by
  simp [Chan.atRestCode, ho, hc, hw, hh]

theorem exec_restHoldReached_holds {s : State} {n : Ch} (hr : s.runs) (h : (s.ch n).atRestCode = true) (hb : s.pwr.boot = none) :
    exec (.restHoldReached n) s = .next ((s.upCh n Chan.holdRest).refresh n) := by
  have hpwr : ((s.upCh n Chan.holdRest).refresh n).pwr = s.pwr := by rw [(State.refresh_path _ n).rest]; rfl
  have hboot : ((s.upCh n Chan.holdRest).refresh n).bootDone = (s.upCh n Chan.holdRest).refresh n := State.bootDone_of (by rw [hpwr, hb])
  exact congrArg Host.Outcome.next ((s.live_of _ hr).trans ((if_pos h).trans hboot))

theorem exec_graveOpenTimeout_opens {s : State} {n : Ch} {t : Nat} (hr : s.runs) (hg : s.flt.grave = true)
    (ht : (s.ch n).force.restAt = some t) (ho : (s.ch n).force.out ≠ .graveOpen) (hc : (s.ch n).canRest = true)
    (hd : (s.ch n).force.out = .restHold ∨ t + 262144 ≤ s.time) : exec (.graveOpenTimeout n) s = .next (s.openSwitch n .graveOpen) := by
  have hdue : s.graveDue n = true := by simp [State.graveDue, hg, hc, ho, ht, hd]
  exact congrArg Host.Outcome.next ((s.live_of _ hr).trans (if_pos hdue))

/-- Settles O31: a refused REST by `canRest`, the start by `restStart_spec` and `restBegin`, the end and the opening at Grave by their guards. -/
theorem restTakesTheOutputToItsRestValue : Obligations.RestTakesTheOutputToItsRestValue := by
  rintro n s _ rfl
  refine ⟨fun ht h => ?_, fun ht hen hcell ha he ho hh hw => ?_, fun hr ho hc hv hst hb => ?_, fun hr hg t0 ha ho hc hd => ?_⟩
  · have hc : ((s.sample n).ch n).canRest = false := by rcases h with h | h <;> simp [Chan.canRest, h]
    rw [exec_forceRest_takes ht, State.forceRest_refused hc]
  · have hm : (s.ch n).map.member = false := ht.2.2
    have hc : ((s.sample n).ch n).canRest = true := by simp [Chan.canRest, hen, hcell, hm]
    have hexec := (exec_forceRest_takes ht).trans (congrArg _ (State.forceRest_idle hc (by simpa using ha) (by simpa using he)))
    obtain ⟨hframe, hch⟩ := State.restStart_spec hc (by simpa using ho) hw
    have hall := ((s.sample_path n).restOnly.trans hframe).trans
      ((State.startRanging_path _ n).restOnly.trans (State.refresh_path _ n).restOnly)
    obtain ⟨r, x, hrange⟩ := ((s.sample n).restStart n).startRanging_ch n
    obtain ⟨_, _, l, f, hbegin, hloop, hat, hcode, -⟩ := ((s.sample n).ch n).restBegin_spec s.time
    obtain ⟨hrs, hlim, hopen, hramp, hclose⟩ := ((s.sample n).ch n).restBegin_out s.time (by simpa using hh)
    have hmoves : ((s.sample n).ch n).moves = (s.ch n).force.out.switchClosed (s.ch n).force.tripped := by simp [Chan.moves]
    refine ⟨_, hexec, hall.rest, hall.ch, ?_⟩
    rw [State.refresh_ch, hrange, hch]
    simp only [State.sample_time, State.sample_ch, Chan.sampled_decl, Chan.sampled_tripped, Chan.sampled_code] at *
    refine ⟨by rw [hbegin, hloop], by rw [hbegin]; exact hcode, by rw [hbegin]; exact hat, hrs, hlim, hopen, fun h1 h2 h3 => ?_, fun h1 h2 h3 => ?_⟩
    · exact hramp h1 h2 (by rw [hmoves, h3]; rfl)
    · exact hclose h1 h2 (by rw [hmoves, h3]; rfl)
  · refine ⟨_, exec_restHoldReached_holds hr (Chan.atRestCode_of ho hc hv hst) hb,
      (s.upCh_path n Chan.holdRest rfl).trans (State.refresh_path _ n), ?_⟩
    rw [State.refresh_ch, State.upCh_ch]
    exact ⟨rfl, rfl, rfl, rfl⟩
  · refine ⟨_, exec_graveOpenTimeout_opens hr hg ha ho hc hd, s.openSwitch_flt n _, ?_⟩
    rw [State.openSwitch_ch]
    exact Chan.openOut_opens _ _

end Sys2Proof.Machine
end

section
/-! SUPPORT. Load strobes that keep the ranges: which branch of the strobe acts, and what an applied level moves (R94 … R96, R111, R127). -/

namespace Sys2Proof.Machine

/-! ### A command that keeps both ranges (R215, R227) -/

/-- Outside V_SWITCH nothing is aimed at. -/
theorem Chan.aimV_of {c : Chan} (h : c.range.hst ≠ .vSwitch) : c.aimV = c := by
  simp [Chan.aimV, h]

theorem Chan.command_keep {c : Chan} (h : c.range.hst ≠ .vSwitch) : c.command 15 15 = c := by
  have hc : c.command 15 15 = c.aimV := rfl
  rw [hc, Chan.aimV_of h]

theorem Chan.commandedBy_keep (c : Chan) (commit : Bool) : c.commandedBy 15 15 commit = c := rfl

theorem Chan.startV_of {c : Chan} (now : Nat) (h : c.range.wantV = none) : c.startV now = c := by
  simp [Chan.startV, h]

/-- With no voltage range asked for ranging starts nothing. -/
theorem State.startRanging_of {s : State} {n : Ch} (h : (s.ch n).range.wantV = none) : s.startRanging n = s := by
  rcases s.startRanging_cases n with e | e
  · exact e
  · rw [e, s.upCh_same n _ (Chan.startV_of _ h)]

theorem Chan.forcedWaits_of {c : Chan} (hv : c.range.wantV = none) (hi : c.range.wantI = none) : c.forcedWaits = false := by
  simp [Chan.forcedWaits, hv, hi]

/-! ### The branches of a strobe (R94, R95, R111) -/

/-- The channel's own strobe gives up the pulse base (R321). -/
def Chan.offBase (c : Chan) : Chan := { c with strand := { c.strand with baseOn := false } }

/-- The next strobe keeps both ranges, and neither a range nor a compliance waits for it. -/
structure Chan.StrobeKeeps (c : Chan) : Prop where
  setV : c.eff.setV = 15
  setI : c.eff.setI = 15
  compl : c.loop.complPend = false
  hst : c.range.hst ≠ .vSwitch
  wantV : c.range.wantV = none
  wantI : c.range.wantI = none

/-- In class 1 the level stays pending. -/
theorem Chan.strobeWith_stream {c : Chan} (l : Level) (prep : Chan → Chan) (sine : Int) (h : c.range.hst ≠ .vSwitch) (hk : c.eff.cls = .stream) :
    c.strobeWith l 15 15 prep sine = c := by
  simp only [Chan.strobeWith, Chan.command_keep h, hk, if_true, ite_self]

/-- While a rest sequence runs, the strobe stores its level alone. -/
theorem Chan.strobeWith_resting {c : Chan} (l : Level) (v i : BitVec 4) (prep : Chan → Chan) (sine : Int) (hr : c.force.resting = true)
    (hk : c.eff.cls = .strobed) : c.strobeWith l v i prep sine = { prep c with force := { (prep c).force with applied := l } } := by
  simp [Chan.strobeWith, hr, hk]

/-- With the ranges kept and none waiting, the strobe applies its level. -/
theorem Chan.strobeWith_applies {c : Chan} (l : Level) (sine : Int) (hc : c.StrobeKeeps) (hk : c.eff.cls = .strobed)
    (hr : c.force.resting = false) : c.strobeWith l 15 15 Chan.offBase sine = c.offBase.applyLevel l sine := by
  have hw : c.offBase.forcedWaits = false := Chan.forcedWaits_of hc.wantV hc.wantI
  simp only [Chan.strobeWith, Chan.command_keep hc.hst, hr, hk, hw, Bool.false_eq_true, if_false, reduceCtorEq]

/-- A strobe that keeps the ranges ends behind its level when no compliance waits. -/
theorem Chan.strobe_keep {c : Chan} {sine : Int} (hv : c.eff.setV = 15) (hi : c.eff.setI = 15)
    (hp : (c.strobeWith c.eff.level 15 15 Chan.offBase sine).loop.complPend = false) :
    c.strobe sine = c.strobeWith c.eff.level 15 15 Chan.offBase sine := by
  have hs : c.strobe sine = if (c.strobeWith c.eff.level c.eff.setV c.eff.setI Chan.offBase sine).loop.complPend then _ else
    (c.strobeWith c.eff.level c.eff.setV c.eff.setI Chan.offBase sine).commandedBy c.eff.setV c.eff.setI false := rfl
  rw [hs, hv, hi, if_neg (by rw [hp]; decide), Chan.commandedBy_keep]

/-! ### What leaving rest and an open loop's target change (R96, R110) -/

/-- Leaving rest changes the output's state, its clamp and the times of rest. -/
theorem Chan.leaveRest_spec (c : Chan) : ∃ o a b on x, c.leaveRest =
    { c with force := { c.force with out := o, restAt := a, fromRest := b, clampOn := on, clamp := x } } := by
  unfold Chan.leaveRest
  repeat' split
  all_goals exact ⟨_, _, _, _, _, rfl⟩

theorem Chan.leaveRest_of {c : Chan} (h : c.force.out = .opened ∨ c.force.out = .closed) : c.leaveRest = c := by
  rcases h with h | h <;> simp [Chan.leaveRest, h]

/-- An open loop's target reaches the command, the limiter's target and its flags, and nothing else. -/
theorem Chan.openTarget_spec (c : Chan) (sine : Int) : ∃ x y a b, c.openTarget sine =
    { c with loop := { c.loop with cmd := x, spLimit := a }, force := { c.force with target := y, sat := b } } := by
  unfold Chan.openTarget
  split
  · exact ⟨_, _, _, _, rfl⟩
  · exact ⟨_, _, _, _, rfl⟩

/-- With the switch open, a level is stored only. -/
theorem Chan.openTarget_idle {c : Chan} (sine : Int) (h : c.force.out.switchClosed c.force.tripped = false) : c.openTarget sine = c := by
  simp [Chan.openTarget, h]

/-- In force-voltage mode, with the loops open and the switch closed, the bounded target goes to the limiter through stage 2. -/
theorem Chan.openTarget_moves {c : Chan} (sine : Int) (hm : c.eff.mode = .voltage) (hl : c.loop.st.closed = false)
    (ho : c.force.out.switchClosed c.force.tripped = true) :
    (c.openTarget sine).force.target = (c.stage2 (rha (clampMag (c.rawTarget sine).toInt c.primaryBound) 4096)).1 ∧
    (c.openTarget sine).loop.cmd = (c.openTarget sine).force.target := by
  rw [Chan.openTarget, if_pos ⟨hm, hl, ho⟩]
  exact ⟨rfl, rfl⟩

/-! ### An applied level (R94, R96, R139) -/

/-- The channel with the level applied, before it reaches a target. -/
def Chan.applied (c : Chan) (l : Level) : Chan :=
  { c.leaveRest with force := { c.leaveRest.force with applied := l }, range := { c.leaveRest.range with wantLevel := none } }

theorem Chan.applyLevel_eq (c : Chan) (l : Level) (sine : Int) : c.applyLevel l sine =
    if (c.applied l).loop.st.closed then
      { c.applied l with loop := { (c.applied l).loop with restart := (c.applied l).loop.restart || (c.applied l).baseLevel != (c.applied l).loop.goal } }
    else if (c.applied l).loop.manualNow then c.applied l
    else { (c.applied l).openTarget sine with loop := { ((c.applied l).openTarget sine).loop with manualHeld := false } } := rfl

/-- What an applied level leaves alone, beside the level itself. -/
theorem Chan.applyLevel_frame (c : Chan) (l : Level) (sine : Int) : (c.applyLevel l sine).map = c.map ∧ (c.applyLevel l sine).force.applied = l ∧
    (c.applyLevel l sine).force.code = c.force.code ∧ (c.applyLevel l sine).loop.complPend = c.loop.complPend ∧
    (c.applyLevel l sine).range.wantV = c.range.wantV := by
  obtain ⟨o, a, b, on, x, hrest⟩ := c.leaveRest_spec
  obtain ⟨_, _, _, _, htarget⟩ := (c.applied l).openTarget_spec sine
  rw [Chan.applyLevel_eq, htarget]
  unfold Chan.applied
  rw [hrest]
  repeat' split
  all_goals exact ⟨rfl, rfl, rfl, rfl, rfl⟩

/-- On an open switch, and with the loops closed, the limiter's target and the command stay. -/
theorem Chan.applyLevel_stores {c : Chan} (l : Level) (sine : Int) (h : c.force.out = .opened ∨ c.loop.st.closed = true) :
    (c.applyLevel l sine).force.target = c.force.target ∧ (c.applyLevel l sine).loop.cmd = c.loop.cmd := by
  obtain ⟨o, a, b, on, x, hrest⟩ := c.leaveRest_spec
  have hloop : (c.applied l).loop = c.loop := by unfold Chan.applied; rw [hrest]
  have htarget : (c.applied l).force.target = c.force.target := by unfold Chan.applied; rw [hrest]
  rw [Chan.applyLevel_eq, ← hloop, ← htarget]
  split
  · exact ⟨rfl, rfl⟩
  · next hc =>
    have ho : c.force.out = .opened := h.resolve_right (by rwa [hloop] at hc)
    have hopen : (c.applied l).openTarget sine = c.applied l :=
      Chan.openTarget_idle sine (by unfold Chan.applied; rw [Chan.leaveRest_of (.inl ho), ho]; rfl)
    rw [hopen]
    split
    · exact ⟨rfl, rfl⟩
    · exact ⟨rfl, rfl⟩

/-- On a closed switch with open loops in force-voltage mode, the level with its sine, bounded, becomes the command, but for a manual command of
the same boundary. -/
theorem Chan.applyLevel_moves {c : Chan} (l : Level) (sine : Int) (hm : c.eff.mode = .voltage) (hk : c.eff.cls = .strobed)
    (hl : c.loop.st = .opened) (ho : c.force.out = .closed) (hn : c.loop.manualNow = false) (hp : c.strand.pulse = none)
    (hb : c.strand.baseOn = false) :
    (c.applyLevel l sine).force.target = (c.stage2 (rha (clampMag (sat32 (l.toInt + sine)).toInt c.primaryBound) 4096)).1 ∧
    (c.applyLevel l sine).loop.cmd = (c.applyLevel l sine).force.target := by
  have ha : c.applied l = { c with force := { c.force with applied := l }, range := { c.range with wantLevel := none } } := by
    unfold Chan.applied; rw [Chan.leaveRest_of (.inr ho)]
  have hraw : (c.applied l).rawTarget sine = sat32 (l.toInt + sine) := by
    rw [ha]
    simp [Chan.rawTarget, Chan.baseLevel, hk, hp, hb]
  obtain ⟨htarget, hcmd⟩ := Chan.openTarget_moves (c := c.applied l) sine (by rw [ha]; exact hm) (by rw [ha]; simp [hl, LoopState.closed])
    (by rw [ha]; simp [ho, OutState.switchClosed])
  rw [hraw] at htarget
  rw [Chan.applyLevel_eq, if_neg (by rw [ha]; simp [hl, LoopState.closed]), if_neg (by rw [ha]; simp [hn])]
  refine ⟨htarget.trans ?_, hcmd⟩
  rw [ha]
  rfl

/-! ### The channel's own strobe, the ranges kept -/

section
variable {c : Chan} (hc : c.StrobeKeeps) (sine : Int)
include hc

/-- A strobe of class 1 leaves the channel as the boundary sampled it. -/
theorem Chan.strobe_stream (hk : c.eff.cls = .stream) : c.strobe sine = c := by
  have hs := Chan.strobeWith_stream c.eff.level Chan.offBase sine hc.hst hk
  rw [Chan.strobe_keep hc.setV hc.setI (by rw [hs, hc.compl]), hs]

/-- A strobe of class 0 while a rest sequence runs. -/
theorem Chan.strobe_resting (hk : c.eff.cls = .strobed) (hr : c.force.resting = true) :
    c.strobe sine = { c.offBase with force := { c.force with applied := c.eff.level } } := by
  have hs := Chan.strobeWith_resting c.eff.level 15 15 Chan.offBase sine hr hk
  rw [Chan.strobe_keep hc.setV hc.setI (by rw [hs]; exact hc.compl), hs]
  rfl

/-- A strobe of class 0 otherwise. -/
theorem Chan.strobe_applies (hk : c.eff.cls = .strobed) (hr : c.force.resting = false) :
    c.strobe sine = c.offBase.applyLevel c.eff.level sine := by
  have hs := Chan.strobeWith_applies c.eff.level sine hc hk hr
  obtain ⟨-, -, -, hpend, -⟩ := c.offBase.applyLevel_frame c.eff.level sine
  rw [Chan.strobe_keep hc.setV hc.setI (by rw [hs, hpend]; exact hc.compl), hs]

/-- What every strobe that keeps the ranges leaves alone. -/
theorem Chan.strobe_frame : (c.strobe sine).map = c.map ∧ (c.strobe sine).range.wantV = none ∧ (c.strobe sine).force.code = c.force.code := by
  cases hk : c.eff.cls with
  | stream =>
    rw [Chan.strobe_stream hc sine hk]
    exact ⟨rfl, hc.wantV, rfl⟩
  | strobed =>
    cases hr : c.force.resting with
    | true =>
      rw [Chan.strobe_resting hc sine hk hr]
      exact ⟨rfl, hc.wantV, rfl⟩
    | false =>
      obtain ⟨hmap, -, hcode, -, hw⟩ := c.offBase.applyLevel_frame c.eff.level sine
      rw [Chan.strobe_applies hc sine hk hr]
      exact ⟨hmap, hw.trans hc.wantV, hcode⟩

/-- Class 0 applies the level, whatever becomes of it. -/
theorem Chan.strobe_applied (hk : c.eff.cls = .strobed) : (c.strobe sine).force.applied = c.eff.level := by
  cases hr : c.force.resting with
  | true => rw [Chan.strobe_resting hc sine hk hr]
  | false =>
    obtain ⟨-, happlied, -⟩ := c.offBase.applyLevel_frame c.eff.level sine
    rw [Chan.strobe_applies hc sine hk hr, happlied]

/-- With the switch open, the loops closed or a rest sequence running, target and command stay. -/
theorem Chan.strobe_stores (hk : c.eff.cls = .strobed)
    (ho : c.force.out = .opened ∨ c.loop.st.closed = true ∨ c.force.out = .resting) :
    (c.strobe sine).force.target = c.force.target ∧ (c.strobe sine).loop.cmd = c.loop.cmd := by
  cases hr : c.force.resting with
  | true =>
    rw [Chan.strobe_resting hc sine hk hr]
    exact ⟨rfl, rfl⟩
  | false =>
    have hnr : c.force.out ≠ .resting := fun e => by simp [ForceSt.resting, e] at hr
    have hs : c.offBase.force.out = .opened ∨ c.offBase.loop.st.closed = true := ho.imp_right fun h => h.resolve_right hnr
    rw [Chan.strobe_applies hc sine hk hr]
    exact Chan.applyLevel_stores _ sine hs

/-- On a closed switch with open loops in force-voltage mode the bounded level becomes target and command. -/
theorem Chan.strobe_moves (hk : c.eff.cls = .strobed) (hm : c.eff.mode = .voltage) (hl : c.loop.st = .opened) (ho : c.force.out = .closed)
    (hr : c.force.closeRest = false) (hn : c.loop.manualNow = false) (hp : c.strand.pulse = none) :
    (c.strobe sine).force.target = (c.stage2 (rha (clampMag (sat32 (c.eff.level.toInt + sine)).toInt c.primaryBound) 4096)).1 ∧
    (c.strobe sine).loop.cmd = (c.strobe sine).force.target := by
  have hres : c.force.resting = false := by simp [ForceSt.resting, ho, hr]
  rw [Chan.strobe_applies hc sine hk hres]
  exact Chan.applyLevel_moves (c := c.offBase) c.eff.level sine hm hk hl ho hn hp rfl

end

/-! ### FORCE_LOAD (R94, R127) -/

theorem exec_forceLoad_takes {s : State} {n : Ch} (h : s.takes n) : exec (.forceLoad n) s = .next ((s.sample n).forceLoad n) :=
  congrArg _ (h.chWrite _ _ _)

theorem State.forceLoad_refused {s : State} {n : Ch} (h : (s.ch n).decl.syncSet ≠ 0 ∨ (s.ch n).strand.st.active = true) :
    s.forceLoad n = s.noteCh n 0x040 := if_pos h

/-- A strobe that is taken, and asks for no voltage range. -/
theorem State.forceLoad_strobes {s : State} {n : Ch} (hy : (s.ch n).decl.syncSet = 0) (ha : (s.ch n).strand.st.active = false)
    (hw : ((s.ch n).strobe (s.sineNow n)).range.wantV = none) :
    s.forceLoad n = (s.upCh n fun c => c.strobe (s.sineNow n)).refresh n := by
  have hstart : (s.upCh n fun c => c.strobe (s.sineNow n)).startRanging n = s.upCh n fun c => c.strobe (s.sineNow n) :=
    State.startRanging_of (by rw [State.upCh_ch]; exact hw)
  have hno : ¬ ((s.ch n).decl.syncSet ≠ 0 ∨ (s.ch n).strand.st.active = true) := by simp [hy, ha]
  rw [← hstart, State.forceLoad, if_neg hno]

/-- Settles O27: a refused strobe by the guard of R94; otherwise the strobe by its class, and in class 0 by the switch and the loops. -/
theorem aLoadStrobeAppliesTheLevel : Obligations.ALoadStrobeAppliesTheLevel := by
  rintro n s _ ht rfl
  refine ⟨fun h => ?_, fun hy ha hpulse hp hsv hsi hwv hwi hst => ?_⟩
  · rw [exec_forceLoad_takes ht, State.forceLoad_refused (by simpa using h)]
  · have hkeeps : ((s.sample n).ch n).StrobeKeeps := ⟨by simpa using hsv, by simpa using hsi, by simpa using hp, hst, hwv, hwi⟩
    obtain ⟨hmap, hw, hcode⟩ := Chan.strobe_frame hkeeps ((s.sample n).sineNow n)
    have hexec := (exec_forceLoad_takes ht).trans
      (congrArg Host.Outcome.next (State.forceLoad_strobes (s := s.sample n) (n := n) (by simpa using hy) (by simpa using ha) hw))
    have hstrobe := (s.sample n).upCh_path n (fun c => c.strobe ((s.sample n).sineNow n)) hmap
    refine ⟨_, hexec, (s.sample_path n).trans (hstrobe.trans (State.refresh_path _ n)), ?_⟩
    rw [State.refresh_ch, State.upCh_ch]
    generalize (s.sample n).sineNow n = sine at *
    refine ⟨fun hk => ?_, fun hk => ?_⟩
    · rw [Chan.strobe_stream hkeeps sine (by simpa using hk)]
    · have hcls : ((s.sample n).ch n).eff.cls = .strobed := by simpa using hk
      refine ⟨(Chan.strobe_applied hkeeps sine hcls).trans (by simp), hcode.trans (by simp), fun hm hl ho hr hn => ?_, fun ho => ?_⟩
      · have hmoves := Chan.strobe_moves hkeeps sine hcls (by simpa using hm) (by simpa using hl) (by simpa using ho) (by simpa using hr)
          (by simpa using hn) (by simpa using hpulse)
        have hlevel : ((s.sample n).ch n).eff.level = (s.ch n).cfg.level := by simp
        rwa [hlevel] at hmoves
      · have hclosed : (s.ch n).force.out = .opened ∨ (s.ch n).loop.st.closed = true ∨ (s.ch n).force.out = .resting :=
          ho.imp_right fun h => h.imp_left fun e => by rw [e]; rfl
        obtain ⟨htarget, hcmd⟩ := Chan.strobe_stores hkeeps sine hcls (by simpa using hclosed)
        exact ⟨htarget.trans (by simp), hcmd.trans (by simp)⟩

end Sys2Proof.Machine
end

section
/-! SUPPORT. The loops in one update: which states follow one another, what the engine moves of a channel, and what ranging's counts leave of its
loops (R120, R135, R136, R220, R230). -/

namespace Sys2Proof.Machine

/-! ### What a stage of an update may leave alone -/

/-- The channel's place, its loops' state, their count of crossovers and their integrators stand. -/
structure Chan.SameLoops (c d : Chan) : Prop where
  map : d.map = c.map
  st : d.loop.st = c.loop.st
  crossCount : d.loop.crossCount = c.loop.crossCount
  accV : d.loop.accV = c.loop.accV
  accI : d.loop.accI = c.loop.accI

theorem Chan.SameLoops.refl (c : Chan) : c.SameLoops c := ⟨rfl, rfl, rfl, rfl, rfl⟩

theorem Chan.SameLoops.trans {a b c : Chan} (h : a.SameLoops b) (k : b.SameLoops c) : a.SameLoops c :=
  ⟨k.map.trans h.map, k.st.trans h.st, k.crossCount.trans h.crossCount, k.accV.trans h.accV, k.accI.trans h.accI⟩

theorem Chan.SameLoops.ite {c a b : Chan} {p : Prop} [Decidable p] (ha : c.SameLoops a) (hb : c.SameLoops b) : c.SameLoops (if p then a else b) := by
  split
  · exact ha
  · exact hb

/-- Ranging, measuring, the force path and the strand hold nothing of the loops. -/
theorem Chan.SameLoops.beside (c : Chan) (r : RangeSt) (m : MeasSt) (f : ForceSt) (g : StrandSt) :
    c.SameLoops { c with range := r, meas := m, force := f, strand := g } := ⟨rfl, rfl, rfl, rfl, rfl⟩

/-- The limiter's code, the output and the change of range in progress stand, with the structure and the data path's registers. -/
structure Chan.SamePath (c d : Chan) : Prop where
  decl : d.decl = c.decl
  eff : d.eff = c.eff
  code : d.force.code = c.force.code
  out : d.force.out = c.force.out
  hst : d.range.hst = c.range.hst

theorem Chan.SamePath.refl (c : Chan) : c.SamePath c := ⟨rfl, rfl, rfl, rfl, rfl⟩

theorem Chan.SamePath.trans {a b c : Chan} (h : a.SamePath b) (k : b.SamePath c) : a.SamePath c :=
  ⟨k.decl.trans h.decl, k.eff.trans h.eff, k.code.trans h.code, k.out.trans h.out, k.hst.trans h.hst⟩

/-! ### The order of the loops' states (R136) -/

/-- The states that one update of agreeing engines may lead to. -/
def LoopState.MayBecome : LoopState → LoopState → Prop
  | .opened, b => b = .opened
  | .pending, b => b = .pending
  | .preset, b => b = .preset ∨ b = .primary
  | .primary, b => b = .primary ∨ b = .confirmCmp
  | .confirmCmp, b => b = .compliance ∨ b = .primary ∨ b = .confirmCmp
  | .compliance, b => b = .compliance ∨ b = .confirmPri
  | .confirmPri, b => b = .primary ∨ b = .compliance ∨ b = .confirmPri
  | .held, _ => True

theorem LoopState.mayBecome_self (a : LoopState) : a.MayBecome a := by
  cases a <;> simp [LoopState.MayBecome]

theorem LoopState.mayBecome_after (a : LoopState) (tighter : Bool) : a.MayBecome (a.after tighter) := by
  cases a <;> cases tighter <;> simp [LoopState.MayBecome, LoopState.after]

/-- CH_CROSS_COUNT counts a completed crossover, and nothing else. -/
def LoopSt.CountsCross (l l' : LoopSt) : Prop :=
  l'.crossCount = if (l.st = .confirmCmp ∧ l'.st = .compliance) ∨ (l.st = .confirmPri ∧ l'.st = .primary) then satInc l.crossCount else l.crossCount

/-- Loops whose state stands cross nothing. -/
theorem LoopSt.countsCross_iff {l l' : LoopSt} (hs : l'.st = l.st) : l.CountsCross l' ↔ l'.crossCount = l.crossCount := by
  have hno : ¬ ((l.st = .confirmCmp ∧ l.st = .compliance) ∨ (l.st = .confirmPri ∧ l.st = .primary)) := by
    rintro (⟨h1, h2⟩ | ⟨h1, h2⟩) <;> exact absurd (h1.symm.trans h2) (by decide)
  rw [LoopSt.CountsCross, hs, if_neg hno]

/-- One update's step of the loops: along R136, with its crossover counted, and with the integrators of open loops held. -/
structure Chan.LoopStep (c d : Chan) : Prop where
  map : d.map = c.map
  next : c.loop.st ≠ .held → c.loop.st.MayBecome d.loop.st
  count : c.loop.st ≠ .held → c.loop.CountsCross d.loop
  acc : c.loop.st.closed = false → d.loop.accV = c.loop.accV ∧ d.loop.accI = c.loop.accI

theorem Chan.LoopStep.next_of {c d : Chan} {a : LoopState} (k : c.LoopStep d) (h : c.loop.st = a) (ha : a ≠ .held) : a.MayBecome d.loop.st := by
  rw [← h] at ha ⊢
  exact k.next ha

/-- Open loops stand, with their count and their integrators. -/
theorem Chan.LoopStep.opened {c d : Chan} (k : c.LoopStep d) (h : c.loop.st = .opened ∨ c.loop.st = .pending) :
    d.loop.st = c.loop.st ∧ d.loop.crossCount = c.loop.crossCount ∧ d.loop.accV = c.loop.accV ∧ d.loop.accI = c.loop.accI := by
  have hst : d.loop.st = c.loop.st := by
    rcases h with h | h
    · exact (show d.loop.st = .opened from k.next_of h (by decide)).trans h.symm
    · exact (show d.loop.st = .pending from k.next_of h (by decide)).trans h.symm
  have hcl : c.loop.st.closed = false ∧ c.loop.st ≠ .held := by rcases h with h | h <;> rw [h] <;> decide
  exact ⟨hst, (LoopSt.countsCross_iff hst).mp (k.count hcl.2), k.acc hcl.1⟩

theorem Chan.SameLoops.step {c d : Chan} (h : c.SameLoops d) : c.LoopStep d :=
  ⟨h.map, fun _ => by rw [h.st]; exact c.loop.st.mayBecome_self, fun _ => (LoopSt.countsCross_iff h.st).mpr h.crossCount, fun _ => ⟨h.accV, h.accI⟩⟩

theorem Chan.SameLoops.trans_step {a b c : Chan} (h : a.SameLoops b) (k : b.LoopStep c) : a.LoopStep c := by
  obtain ⟨hmap, hnext, hcount, hacc⟩ := k
  unfold LoopSt.CountsCross at hcount
  rw [h.st, h.crossCount] at hcount
  rw [h.st] at hnext
  rw [h.st, h.accV, h.accI] at hacc
  exact ⟨hmap.trans h.map, hnext, hcount, hacc⟩

theorem Chan.LoopStep.trans_same {a b c : Chan} (h : a.LoopStep b) (k : b.SameLoops c) : a.LoopStep c := by
  refine ⟨k.map.trans h.map, fun hs => ?_, fun hs => ?_, fun hs => ?_⟩
  · rw [k.st]; exact h.next hs
  · have hcount := h.count hs
    unfold LoopSt.CountsCross at *
    rwa [k.st, k.crossCount]
  · rw [k.accV, k.accI]; exact h.acc hs

/-! ### An update of closed loops (R125 … R138) -/

theorem Chan.askEnd_spec (c : Chan) (r : Reason) : ∃ g, c.askEnd r = { c with strand := g } := by
  unfold Chan.askEnd
  split
  · exact ⟨_, rfl⟩
  · exact ⟨_, rfl⟩

theorem Chan.askSquash_spec (c : Chan) : ∃ g, c.askSquash = { c with strand := g } := by
  unfold Chan.askSquash
  split
  · exact ⟨_, rfl⟩
  · exact ⟨_, rfl⟩

/-- What a crossover into compliance asks of the strand. -/
theorem Chan.askCross_spec (c : Chan) (cross stop : Bool) :
    ∃ g, (if cross then (if stop then c.askEnd .compliance else c).askSquash else c) = { c with strand := g } := by
  obtain ⟨g, hend⟩ := c.askEnd_spec .compliance
  cases cross <;> cases stop
  · exact ⟨_, rfl⟩
  · exact ⟨_, rfl⟩
  · exact c.askSquash_spec
  · simp only [if_true, hend]
    obtain ⟨g', hsq⟩ := Chan.askSquash_spec { c with strand := g }
    exact ⟨g', hsq⟩

/-- An update of closed loops changes the loops, the limiter's target and what the strand is asked for; its state follows R136, and it counts
its crossover. -/
theorem Chan.closedUpdate_spec (c : Chan) (target : Level) : ∃ l x b g,
    c.closedUpdate target = { c with loop := l, force := { c.force with target := x, sat := b }, strand := g } ∧
    (c.loop.st ≠ .held → c.loop.st.MayBecome l.st ∧ c.loop.CountsCross l) := by
  unfold Chan.closedUpdate
  extract_lets l volt st first y yc r sg rc p q presetP presetC tighter st' crossed byC u acc fp fq aP aC dP dC d e
  obtain ⟨g, hg⟩ := e.askCross_spec (crossed && byC) e.eff.cstop
  refine ⟨_, _, _, g, hg, fun h => ?_⟩
  have hst : st = c.loop.st := if_neg h
  constructor
  · show c.loop.st.MayBecome st'
    rw [← hst]
    rcases Bool.eq_false_or_eq_true (first || presetP || presetC) with hp | hp
    · rw [show st' = st from if_pos hp]; exact st.mayBecome_self
    · rw [show st' = st.after tighter from if_neg (by rw [hp]; decide)]; exact st.mayBecome_after tighter
  · show (if crossed = true then satInc c.loop.crossCount else c.loop.crossCount) =
      if (c.loop.st = .confirmCmp ∧ st' = .compliance) ∨ (c.loop.st = .confirmPri ∧ st' = .primary) then satInc c.loop.crossCount else c.loop.crossCount
    rw [← hst]
    simp [crossed]

theorem Chan.closedUpdate_step (c : Chan) (target : Level) (h : c.loop.st.closed = true) :
    c.LoopStep (c.closedUpdate target) ∧ c.SamePath (c.closedUpdate target) := by
  obtain ⟨l, x, b, g, hu, hmove⟩ := c.closedUpdate_spec target
  rw [hu]
  refine ⟨⟨rfl, fun hs => ?_, fun hs => ?_, fun ho => absurd (h.symm.trans ho) (by decide)⟩, ⟨rfl, rfl, rfl, rfl, rfl⟩⟩
  · obtain ⟨hnext, -⟩ := hmove hs
    exact hnext
  · obtain ⟨-, hcount⟩ := hmove hs
    exact hcount

/-! ### An update of open loops, and the engine (R96, R108, R120) -/

/-- An update of open loops moves the command and the limiter's target alone. -/
theorem Chan.openUpdate_spec (c : Chan) (sine : Int) : ∃ x y a b, c.openUpdate sine =
    { c with loop := { c.loop with cmd := x, spLimit := a }, force := { c.force with target := y, sat := b } } := by
  have hrest : ∃ x y a b, c.restRamp = { c with loop := { c.loop with cmd := x, spLimit := a }, force := { c.force with target := y, sat := b } } := by
    unfold Chan.restRamp
    split
    · exact ⟨_, _, _, _, rfl⟩
    · exact ⟨_, _, _, _, rfl⟩
  unfold Chan.openUpdate
  split
  · exact hrest
  · exact ⟨_, _, _, _, rfl⟩
  · dsimp only
    split
    · obtain ⟨x, y, a, b, h⟩ := Chan.openTarget_spec { c with force := { c.force with target := c.loop.cmd } } sine
      rw [h]
      exact ⟨_, _, _, _, rfl⟩
    · exact ⟨_, _, _, _, rfl⟩

theorem Chan.openUpdate_same (c : Chan) (sine : Int) : c.SameLoops (c.openUpdate sine) ∧ c.SamePath (c.openUpdate sine) := by
  obtain ⟨x, y, a, b, h⟩ := c.openUpdate_spec sine
  rw [h]
  exact ⟨⟨rfl, rfl, rfl, rfl, rfl⟩, ⟨rfl, rfl, rfl, rfl, rfl⟩⟩

/-- The engine's channel with the level in force noted. -/
def Chan.noteGoal (c : Chan) : Chan := { c with loop := { c.loop with goal := c.baseLevel } }

/-- Outside V_SWITCH agreeing engines run the closed loops' law or the open loops' update. -/
theorem Chan.engine_agrees {c d : Chan} (sine : Int) (h : c.range.hst ≠ .vSwitch) (hd : d = (c.showBounds (c.rawTarget sine)).noteGoal) :
    c.engine sine true = (if d.loop.st.closed then d.closedUpdate (BitVec.ofInt 32 (clampMag (c.rawTarget sine).toInt d.primaryBound))
      else d.openUpdate sine).keepGoal sine := by
  subst hd
  exact congrArg (Chan.keepGoal · sine) (if_neg h)

theorem Chan.showBounds_same (c : Chan) (raw : Level) : c.SameLoops (c.showBounds raw).noteGoal ∧ c.SamePath (c.showBounds raw).noteGoal :=
  ⟨⟨rfl, rfl, rfl, rfl, rfl⟩, ⟨rfl, rfl, rfl, rfl, rfl⟩⟩

theorem Chan.keepGoal_same (c : Chan) (sine : Int) : c.SameLoops (c.keepGoal sine) ∧ c.SamePath (c.keepGoal sine) :=
  ⟨⟨rfl, rfl, rfl, rfl, rfl⟩, ⟨rfl, rfl, rfl, rfl, rfl⟩⟩

/-- The engine steps the loops, and leaves the limiter's code, the output and the change of range in progress. -/
theorem Chan.engine_step {c : Chan} (sine : Int) (h : c.range.hst ≠ .vSwitch) :
    c.LoopStep (c.engine sine true) ∧ c.SamePath (c.engine sine true) := by
  obtain ⟨hl, hp⟩ := c.showBounds_same (c.rawTarget sine)
  rw [Chan.engine_agrees sine h rfl]
  generalize (c.showBounds (c.rawTarget sine)).noteGoal = d at hl hp ⊢
  cases hcl : d.loop.st.closed with
  | false =>
    obtain ⟨hlo, hpo⟩ := d.openUpdate_same sine
    obtain ⟨hlk, hpk⟩ := (d.openUpdate sine).keepGoal_same sine
    exact ⟨((hl.trans hlo).trans hlk).step, (hp.trans hpo).trans hpk⟩
  | true =>
    obtain ⟨hlc, hpc⟩ := d.closedUpdate_step (BitVec.ofInt 32 (clampMag (c.rawTarget sine).toInt d.primaryBound)) hcl
    obtain ⟨hlk, hpk⟩ := (d.closedUpdate (BitVec.ofInt 32 (clampMag (c.rawTarget sine).toInt d.primaryBound))).keepGoal_same sine
    exact ⟨(hl.trans_step hlc).trans_same hlk, (hp.trans hpc).trans hpk⟩

/-! ### Ranging's counts (R220, R224, R230, R232) -/

theorem Chan.reclamp_sameLoops (c : Chan) : c.SameLoops c.reclamp := Chan.SameLoops.beside c c.range c.meas _ c.strand

theorem Chan.calRange_sameLoops (c : Chan) (cur : Bool) : c.SameLoops (c.calRange cur) := by
  unfold Chan.calRange
  refine Chan.SameLoops.ite ?_ (Chan.SameLoops.refl c)
  obtain ⟨m, h⟩ := c.calInterrupt_spec
  rw [h]
  exact Chan.SameLoops.beside c c.range m c.force c.strand

theorem Chan.disturb_sameLoops (c : Chan) (cur : Bool) : c.SameLoops (c.disturb cur) := Chan.SameLoops.beside c c.range _ c.force c.strand

theorem Chan.applyThr_sameLoops (c : Chan) : c.SameLoops c.applyThr := ⟨rfl, rfl, rfl, rfl, rfl⟩

theorem Chan.rescaleCompl_sameLoops (c : Chan) : c.SameLoops c.rescaleCompl := ⟨rfl, rfl, rfl, rfl, rfl⟩

theorem Chan.rescaleCode_sameLoops (c : Chan) (old new : Nat) (p : Bool) :
    c.SameLoops { c.rescaleCode old new with loop := { (c.rescaleCode old new).loop with presetV := p } } := ⟨rfl, rfl, rfl, rfl, rfl⟩

/-- A new current range re-expresses the loops' levels, and moves neither their states nor their integrators. -/
theorem Chan.activateI_sameLoops (c : Chan) (i : BitVec 4) : c.SameLoops (c.activateI i) := by
  unfold Chan.activateI
  extract_lets old new vOld r d l p e f g
  have hd : c.SameLoops d := ⟨rfl, rfl, rfl, rfl, rfl⟩
  have he : d.SameLoops e := Chan.SameLoops.ite (Chan.SameLoops.refl d) (d.rescaleCode_sameLoops _ _ _)
  have hf : e.SameLoops f := Chan.SameLoops.ite e.rescaleCompl_sameLoops (Chan.SameLoops.refl e)
  have hg : f.SameLoops g := Chan.SameLoops.ite (Chan.SameLoops.refl f) (f.disturb_sameLoops false)
  have hend : g.SameLoops ((g.calRange true).disturb true).applyThr.reclamp :=
    (((g.calRange_sameLoops true).trans (Chan.disturb_sameLoops _ true)).trans (Chan.applyThr_sameLoops _)).trans (Chan.reclamp_sameLoops _)
  exact (((hd.trans he).trans hf).trans hg).trans hend

theorem Chan.presetCode_sameLoops (c : Chan) (x : Int) : c.SameLoops (c.presetCode x) := ⟨rfl, rfl, rfl, rfl, rfl⟩

theorem Chan.range_sameLoops (c : Chan) (r : RangeSt) : c.SameLoops { c with range := r } := Chan.SameLoops.beside c r c.meas c.force c.strand

theorem Chan.askSquash_sameLoops (c : Chan) : c.SameLoops c.askSquash := by
  obtain ⟨g, h⟩ := c.askSquash_spec
  rw [h]
  exact Chan.SameLoops.beside c c.range c.meas c.force g

theorem Chan.completeChange_sameLoops (c : Chan) : c.SameLoops c.completeChange := by
  unfold Chan.completeChange
  extract_lets d
  have hd : c.SameLoops d := Chan.SameLoops.ite c.askSquash_sameLoops (Chan.SameLoops.refl c)
  exact hd.trans (d.range_sameLoops _)

theorem Chan.completeSquash_sameLoops (c : Chan) : c.SameLoops c.completeSquash := by
  unfold Chan.completeSquash
  extract_lets d
  have hd : c.SameLoops d := Chan.SameLoops.ite c.askSquash_sameLoops (Chan.SameLoops.refl c)
  exact hd.trans (d.range_sameLoops _)

theorem Chan.boostDown_sameLoops (c : Chan) : c.SameLoops c.boostDown := by
  unfold Chan.boostDown
  refine Chan.SameLoops.ite ?_ (c.range_sameLoops _)
  exact ((c.activateI_sameLoops 7).trans (Chan.presetCode_sameLoops _ _)).trans (Chan.range_sameLoops _ _)

theorem Chan.boostTake_sameLoops (c : Chan) : c.SameLoops c.boostTake := (c.activateI_sameLoops _).trans (Chan.range_sameLoops _ _)

/-- No count of ranging moves the loops' states. -/
theorem Chan.countChange_sameLoops (c : Chan) : c.SameLoops c.countChange := by
  unfold Chan.countChange
  extract_lets r next more
  have hnext (h : HState) : c.SameLoops (next h) := c.range_sameLoops _
  have hmore : c.SameLoops more := c.range_sameLoops _
  split
  · exact Chan.SameLoops.ite (hnext _) hmore
  · exact c.range_sameLoops _
  · exact Chan.SameLoops.ite (hnext _) hmore
  · exact Chan.SameLoops.ite (hnext _) hmore
  · exact c.completeChange_sameLoops
  · exact Chan.SameLoops.ite c.completeSquash_sameLoops hmore
  · exact Chan.SameLoops.ite c.completeChange_sameLoops
      (Chan.SameLoops.ite c.boostTake_sameLoops (Chan.SameLoops.ite (c.range_sameLoops _) hmore))
  · exact Chan.SameLoops.ite c.completeChange_sameLoops c.boostDown_sameLoops
  · exact Chan.SameLoops.ite c.completeChange_sameLoops hmore
  · exact Chan.SameLoops.refl c

theorem Chan.countAll_sameLoops (c : Chan) (h : c.range.hst ≠ .vSwitch) : c.SameLoops c.countAll := by
  rw [Chan.countAll, if_neg h]
  exact c.countChange_sameLoops

/-- The predictor and the hold-off change ranging alone, and no change in progress. -/
theorem Chan.predict_spec (c : Chan) : ∃ r, c.predict.holdCount = { c with range := r } ∧ r.hst = c.range.hst := by
  unfold Chan.holdCount Chan.predict
  dsimp only
  split
  · exact ⟨_, rfl, rfl⟩
  · exact ⟨_, rfl, rfl⟩

/-- With no change in progress nothing is counted. -/
theorem Chan.countAll_idle {c : Chan} (h : c.range.hst = .idle) : c.countAll = c := by
  simp [Chan.countAll, Chan.countChange, h]

end Sys2Proof.Machine
end

section
/-! SUPPORT. LOOP_UPDATE by its stages: samples, engine, counts, output. Each stage's frame, and what it leaves of the channel (R91, R120, R136). -/

namespace Sys2Proof.Machine

/-! ### The frame of an update -/

/-- What an update of channel `n` leaves: the other channels, the mapping, the collector, the clocks, the memory and the attic. -/
structure State.updateOnly (s t : State) (n : Ch) : Prop where
  ch : ∀ m, m ≠ n → t.ch m = s.ch m
  map : (t.ch n).map = (s.ch n).map
  flt : t.flt = s.flt
  clk : t.clk = s.clk
  mem : t.mem = s.mem
  att : t.att = s.att

theorem State.updateOnly.refl (s : State) (n : Ch) : s.updateOnly s n := ⟨fun _ _ => rfl, rfl, rfl, rfl, rfl, rfl⟩

theorem State.updateOnly.trans {a b c : State} {n : Ch} (h : a.updateOnly b n) (k : b.updateOnly c n) : a.updateOnly c n :=
  ⟨fun m e => (k.ch m e).trans (h.ch m e), k.map.trans h.map, k.flt.trans h.flt, k.clk.trans h.clk, k.mem.trans h.mem, k.att.trans h.att⟩

theorem State.pathOnly.updateOnly {s t : State} {n : Ch} (h : s.pathOnly t n) : s.updateOnly t n := by
  refine ⟨h.ch, h.map, ?_, ?_, ?_, ?_⟩ <;> rw [h.rest]

theorem State.upCh_updateOnly (s : State) (n : Ch) (f : Chan → Chan) (h : (f (s.ch n)).map = (s.ch n).map) : s.updateOnly (s.upCh n f) n :=
  (s.upCh_path n f h).updateOnly

/-- The migration that runs for a channel hangs on the attic and the mappings alone. -/
theorem State.updateOnly.migOf {s t : State} {n : Ch} (h : s.updateOnly t n) : t.migOf n = s.migOf n := by
  have hmaps (m : Ch) : (t.ch m).map = (s.ch m).map := by
    by_cases e : m = n
    · subst e; exact h.map
    · rw [h.ch m e]
  have hlead (m : Ch) : t.lead m = s.lead m := by simp [State.lead, hmaps]
  simp only [State.migOf, State.mig, h.att, hlead]

/-! ### The stages before the engine -/

/-- The conversions that run take note of the clock (R450, R479). -/
def Chan.noteClock (c : Chan) (off : Bool) (t : Nat) : Chan := if off then c.markWindows t else c.noteDisturbed t

theorem Chan.noteClock_spec (c : Chan) (off : Bool) (t : Nat) : ∃ m, c.noteClock off t = { c with meas := m } := by
  cases off
  · exact ⟨_, rfl⟩
  · exact ⟨_, rfl⟩

/-- The fast path's levels and what the conversions keep of them. -/
def Chan.takeLevels (c : Chan) (v i : Int) (t : Nat) : Chan :=
  Chan.watchConvs { c with loop := { c.loop with fastV := BitVec.ofInt 32 v, fastI := BitVec.ofInt 32 i } } t

theorem Chan.takeLevels_same (c : Chan) (v i : Int) (t : Nat) : c.SameLoops (c.takeLevels v i t) ∧ c.SamePath (c.takeLevels v i t) :=
  ⟨⟨rfl, rfl, rfl, rfl, rfl⟩, ⟨rfl, rfl, rfl, rfl, rfl⟩⟩

/-- With no level waiting for its range none settles. -/
theorem Chan.settleLevel_of {c : Chan} (sine : Int) (h : c.range.wantLevel = none) : c.settleLevel sine = c := by
  simp [Chan.settleLevel, h]

/-- A repetition whose body does nothing on the list's elements does nothing. -/
theorem State.each_same {α : Type} (f : α → State → State) {l : List α} (h : ∀ a ∈ l, ∀ t, f a t = t) (s : State) : s.each l f = s := by
  induction l generalizing s with
  | nil => rfl
  | cons a l ih => rw [State.each_cons, h a (by simp), ih fun b hb => h b (by simp [hb])]

/-- Clasp members whose engines agree are left alone. -/
theorem State.compareMembers_agree (s : State) (n : Ch) {l : List EngineCheck} (h : ∀ q ∈ l, q = .agree) : s.compareMembers n l = s := by
  refine State.each_same _ (fun p hp t => ?_) s
  have hp2 : p.2 = .agree := by
    split at hp
    · exact h _ (List.of_mem_zip hp).2
    · simp at hp
  rw [hp2]
  cases (t.ch p.1).map.cell <;> rfl

theorem State.compare_agree (s : State) (n : Ch) (k : CellIx) {x : LoopIn} (h : x.check = .agree) (hm : ∀ q ∈ x.memberChecks, q = .agree) :
    s.compare n k x = (s, true) := by
  simp only [State.compare, s.compareMembers_agree n hm, h]

/-! ### LOOP_UPDATE by its stages -/

/-- Ranging and a level that waited for its range act first. -/
def State.updateSettle (s : State) (n : Ch) : State := (s.startRanging n).upCh n fun c => c.settleLevel (s.sineNow n)

/-- The samples, and what the conversions keep of them. -/
def State.updateSamples (s : State) (n : Ch) (k : CellIx) (x : LoopIn) : State := (s.takeSamples n k x).upCh n fun c => c.watchConvs s.time

/-- The comparison of the engines, and the engine's own part. -/
def State.updateEngine (s : State) (n : Ch) (k : CellIx) (x : LoopIn) (sine : Int) : State :=
  (s.compare n k x).1.upCh n fun c => c.engine sine (s.compare n k x).2

/-- The bound for the next period, the predictor and the counts. -/
def State.updateCounts (s : State) (n : Ch) (k : CellIx) (x : LoopIn) : State :=
  (s.boundNext n k x).upCh n fun c => c.predict.holdCount.countAll

/-- The phase, the keepers and the limiter. -/
def State.updateLimit (s : State) (n : Ch) (k : CellIx) : State :=
  ((s.phaseStep n).toggles n k).upCh n fun c => c.limitIn s.period

/-- The DAC, and run-ahead. -/
def State.updateOutput (s : State) (n : Ch) : State :=
  (s.latchDac n).when (!(s.ch n).decl.lowPower) fun s => s.prepare n

theorem State.loopUpdate_eq (s : State) (n : Ch) (k : CellIx) (x : LoopIn) : s.loopUpdate n k x =
    (((((((s.updateSettle n).updateSamples n k x).updateEngine n k x (s.sineNow n)).updateCounts n k x).updateLimit n k).updateOutput
      n).migrationStep n x).refresh n := rfl

section
variable {s : State} {n : Ch}

/-- With no range and no level waiting nothing settles. -/
theorem State.updateSettle_of (hv : (s.ch n).range.wantV = none) (hl : (s.ch n).range.wantLevel = none) : s.updateSettle n = s := by
  rw [State.updateSettle, State.startRanging_of hv, s.upCh_same n _ (Chan.settleLevel_of _ hl)]

theorem State.updateEngine_agree (k : CellIx) {x : LoopIn} (sine : Int) (h : x.check = .agree) (hm : ∀ q ∈ x.memberChecks, q = .agree) :
    s.updateEngine n k x sine = s.upCh n fun c => c.engine sine true := by
  rw [State.updateEngine, s.compare_agree n k h hm]

theorem State.migrationStep_none (x : LoopIn) (h : s.migOf n = none) : s.migrationStep n x = s := by
  simp only [State.migrationStep, h]

end

/-! ### The channel through the stages -/

theorem State.updateSamples_ch (s : State) (n : Ch) (k : CellIx) (x : LoopIn) :
    (s.updateSamples n k x).ch n = (s.ch n).takeLevels (s.fastVOf n k x) (s.fastIOf n k x) s.time := by
  simp only [State.updateSamples, State.takeSamples, State.upCh_ch]
  rfl

theorem State.updateSamples_updateOnly (s : State) (n : Ch) (k : CellIx) (x : LoopIn) : s.updateOnly (s.updateSamples n k x) n := by
  unfold State.updateSamples State.takeSamples
  exact (s.upCh_updateOnly n _ rfl).trans (State.upCh_updateOnly _ n _ rfl)

/-- Behind the engine ranging counts; with no change in progress the counts leave the path, too. -/
theorem State.updateCounts_ch (s : State) (n : Ch) (k : CellIx) (x : LoopIn) (h : (s.ch n).range.hst ≠ .vSwitch) :
    (s.ch n).SameLoops ((s.updateCounts n k x).ch n) ∧ ((s.ch n).range.hst = .idle → (s.ch n).SamePath ((s.updateCounts n k x).ch n)) := by
  have hb : (s.ch n).SameLoops ((s.boundNext n k x).ch n) ∧ (s.ch n).SamePath ((s.boundNext n k x).ch n) := by
    simp only [State.boundNext, State.upCh_ch, State.upBay_ch]
    exact ⟨⟨rfl, rfl, rfl, rfl, rfl⟩, ⟨rfl, rfl, rfl, rfl, rfl⟩⟩
  obtain ⟨hbl, hbp⟩ := hb
  rw [State.updateCounts, State.upCh_ch]
  generalize (s.boundNext n k x).ch n = c at hbl hbp ⊢
  obtain ⟨r, hp, hst⟩ := c.predict_spec
  have hhst : r.hst = (s.ch n).range.hst := hst.trans hbp.hst
  rw [hp]
  refine ⟨(hbl.trans (c.range_sameLoops r)).trans (Chan.countAll_sameLoops _ (by rwa [← hhst] at h)), fun hi => ?_⟩
  rw [Chan.countAll_idle (hhst.trans hi)]
  exact hbp.trans ⟨rfl, rfl, rfl, rfl, hst⟩

theorem State.updateCounts_updateOnly (s : State) (n : Ch) (k : CellIx) (x : LoopIn) (h : (s.ch n).range.hst ≠ .vSwitch) :
    s.updateOnly (s.updateCounts n k x) n := by
  obtain ⟨hl, -⟩ := s.updateCounts_ch n k x h
  refine ⟨fun m e => ?_, hl.map, rfl, rfl, rfl, rfl⟩
  simp only [State.updateCounts, State.boundNext]
  rw [State.upCh_ch_ne _ _ e, State.upCh_ch_ne _ _ e, State.upBay_ch]

/-- The keepers' toggles are the cells' own. -/
theorem State.toggles_frame (s : State) (n : Ch) (k : CellIx) : s.toggles n k = { s with cells := (s.toggles n k).cells } :=
  State.each_inv (fun t => t = { s with cells := t.cells }) (fun j t => t.upCell j fun x => x.toggle (s.ch n).loop.complEff)
    (fun j t h => by rw [h]; rfl) (s.memberCells n) _ rfl

@[simp] theorem State.toggles_ch (s : State) (n m : Ch) (k : CellIx) : (s.toggles n k).ch m = s.ch m := by
  rw [s.toggles_frame n k]; rfl

/-- The phase, the keepers and the limiter: the limiter's step is all that reaches the path, and nothing reaches the loops. -/
theorem State.updateLimit_ch (s : State) (n : Ch) (k : CellIx) : ∃ c : Chan, (s.ch n).SameLoops c ∧ (s.ch n).SamePath c ∧
    (s.updateLimit n k).ch n = c.limitIn s.period := by
  refine ⟨(s.phaseStep n).ch n, ?_, ?_, ?_⟩
  · simp only [State.phaseStep, State.upCh_ch]
    exact ⟨rfl, rfl, rfl, rfl, rfl⟩
  · simp only [State.phaseStep, State.upCh_ch]
    exact ⟨rfl, rfl, rfl, rfl, rfl⟩
  · rw [State.updateLimit, State.upCh_ch, State.toggles_ch]

theorem Chan.limitIn_sameLoops (c : Chan) (p : Nat) : c.SameLoops (c.limitIn p) := by
  obtain ⟨x, k, a, h⟩ := c.limitIn_frame p
  rw [h]
  exact Chan.SameLoops.beside c c.range c.meas _ c.strand

theorem State.updateLimit_updateOnly (s : State) (n : Ch) (k : CellIx) : s.updateOnly (s.updateLimit n k) n := by
  have hp : s.updateOnly (s.phaseStep n) n := by
    unfold State.phaseStep
    exact s.upCh_updateOnly n _ rfl
  have ht : (s.phaseStep n).updateOnly ((s.phaseStep n).toggles n k) n := by
    refine ⟨fun m _ => State.toggles_ch _ n m k, by rw [State.toggles_ch], ?_, ?_, ?_, ?_⟩ <;> rw [State.toggles_frame]
  exact (hp.trans ht).trans (State.upCh_updateOnly _ n (fun c => c.limitIn s.period) (Chan.limitIn_sameLoops _ _).map)

/-- Run-ahead changes the strand alone. -/
theorem State.prepare_spec (s : State) (n : Ch) : s.updateOnly (s.prepare n) n ∧ ∃ g, (s.prepare n).ch n = { s.ch n with strand := g } := by
  unfold State.prepare
  split
  · dsimp only
    generalize ((s.ch n).eff.type == .log && decide (0 < (s.ch n).strand.cursorPt)) = b
    have hd : s.updateOnly (s.when b State.draw) n := by cases b <;> exact ⟨fun _ _ => rfl, rfl, rfl, rfl, rfl, rfl⟩
    have hch : (s.when b State.draw).ch n = s.ch n := by cases b <;> rfl
    refine ⟨hd.trans (State.upCh_updateOnly _ n _ rfl), ?_⟩
    rw [State.upCh_ch, hch]
    exact ⟨_, rfl⟩
  · exact ⟨State.updateOnly.refl s n, _, rfl⟩

/-- The DAC and run-ahead reach neither the loops nor the code. -/
theorem State.updateOutput_spec (s : State) (n : Ch) : s.updateOnly (s.updateOutput n) n ∧ (s.ch n).SameLoops ((s.updateOutput n).ch n) ∧
    (s.ch n).SamePath ((s.updateOutput n).ch n) := by
  have hl := (s.latchDac_path n).updateOnly
  have hch := s.latchDac_ch n
  obtain ⟨hp, g, hg⟩ := (s.latchDac n).prepare_spec n
  unfold State.updateOutput
  cases (s.ch n).decl.lowPower with
  | true =>
    refine ⟨hl, ?_, ?_⟩ <;> rw [show (s.latchDac n).when (!true) (fun s => s.prepare n) = s.latchDac n from rfl, hch]
    · exact ⟨rfl, rfl, rfl, rfl, rfl⟩
    · exact ⟨rfl, rfl, rfl, rfl, rfl⟩
  | false =>
    refine ⟨hl.trans hp, ?_, ?_⟩ <;>
      rw [show (s.latchDac n).when (!false) (fun s => s.prepare n) = (s.latchDac n).prepare n from rfl, hg, hch]
    · exact ⟨rfl, rfl, rfl, rfl, rfl⟩
    · exact ⟨rfl, rfl, rfl, rfl, rfl⟩

/-! ### A whole update -/

/-- Everything that an update with agreeing engines changes outside a voltage range change: the loops take one step of R136, and with no change
in progress the limiter's step of the period is all that moves the code. -/
theorem State.loopUpdate_spec {s : State} {n : Ch} (k : CellIx) {x : LoopIn} (hh : (s.ch n).range.hst ≠ .vSwitch)
    (hv : (s.ch n).range.wantV = none) (hl : (s.ch n).range.wantLevel = none) (hc : x.check = .agree) (hm : ∀ q ∈ x.memberChecks, q = .agree)
    (hg : s.migOf n = none) : s.updateOnly (s.loopUpdate n k x) n ∧ (s.ch n).LoopStep ((s.loopUpdate n k x).ch n) ∧
    ((s.ch n).range.hst = .idle →
      ∃ (c : Chan) (p : Nat), (s.ch n).SamePath c ∧ (c.limitIn p).SamePath ((s.loopUpdate n k x).ch n)) := by
  rw [State.loopUpdate_eq, State.updateSettle_of hv hl, State.updateEngine_agree k _ hc hm]
  have hsamp := s.updateSamples_ch n k x
  have oSamp := s.updateSamples_updateOnly n k x
  generalize s.updateSamples n k x = a at hsamp oSamp ⊢
  obtain ⟨lSamp, pSamp⟩ := (s.ch n).takeLevels_same (s.fastVOf n k x) (s.fastIOf n k x) s.time
  rw [← hsamp] at lSamp pSamp
  obtain ⟨lEng, pEng⟩ := Chan.engine_step (s.sineNow n) (show (a.ch n).range.hst ≠ .vSwitch by rwa [pSamp.hst])
  have oEng : a.updateOnly (a.upCh n fun c => c.engine (s.sineNow n) true) n := a.upCh_updateOnly n _ lEng.map
  have heng : (a.upCh n fun c => c.engine (s.sineNow n) true).ch n = (a.ch n).engine (s.sineNow n) true := State.upCh_ch _ _ _
  rw [← heng] at lEng pEng
  generalize (a.upCh n fun c => c.engine (s.sineNow n) true) = b at lEng pEng oEng ⊢
  have hst : (b.ch n).range.hst = (s.ch n).range.hst := pEng.hst.trans pSamp.hst
  obtain ⟨lCnt, pCnt⟩ := b.updateCounts_ch n k x (by rwa [hst])
  have oCnt := b.updateCounts_updateOnly n k x (by rwa [hst])
  generalize b.updateCounts n k x = d at lCnt pCnt oCnt ⊢
  obtain ⟨c, lPh, pPh, hlim⟩ := d.updateLimit_ch n k
  have oLim := d.updateLimit_updateOnly n k
  have lLim := c.limitIn_sameLoops d.period
  rw [← hlim] at lLim
  generalize d.updateLimit n k = e at hlim oLim lLim ⊢
  obtain ⟨oOut, lOut, pOut⟩ := e.updateOutput_spec n
  generalize e.updateOutput n = f at oOut lOut pOut ⊢
  have oAll : s.updateOnly f n := ((((oSamp.trans oEng).trans oCnt).trans oLim).trans oOut)
  rw [State.migrationStep_none x (oAll.migOf.trans hg), State.refresh_ch]
  refine ⟨oAll.trans (f.refresh_path n).updateOnly, ?_, fun hi => ⟨c, d.period, ?_, ?_⟩⟩
  · exact (lSamp.trans_step lEng).trans_same (((lCnt.trans lPh).trans lLim).trans lOut)
  · exact ((pSamp.trans pEng).trans (pCnt (hst.trans hi))).trans pPh
  · rwa [← hlim]

theorem exec_loopUpdate_updates {s : State} {n : Ch} {k : CellIx} (x : LoopIn) (hr : s.runs) (hk : (s.ch n).map.cell = some k)
    (hu : s.updates n = true) :
    exec (.loopUpdate n x) s = .next ((s.upCh n fun c => c.noteClock s.offPace s.time).loopUpdate n k x) := by
  refine (congrArg Host.Outcome.next (s.live_of _ hr)).trans ?_
  simp only [hk, hu, if_true]
  rfl

/-- The limiter's step bounds what an update with no change in progress moves of the code (R91, R111). -/
theorem Chan.SamePath.limited {c d e : Chan} {p : Nat} (h : c.SamePath d) (k : (d.limitIn p).SamePath e) :
    (c.force.out = .opened → e.force.code = c.force.code) ∧
    e.force.code.toInt - c.force.code.toInt ≤ c.eff.slewStep.toNat * c.lpStep ∧
    c.force.code.toInt - e.force.code.toInt ≤ c.eff.slewStep.toNat * c.lpStep := by
  have hlp : c.lpStep = d.lpStep := by rw [Chan.lpStep, Chan.lpStep, h.decl]
  rw [k.code, ← h.code, ← h.eff, hlp]
  refine ⟨fun ho => Chan.limitIn_open ?_ p, d.limitIn_le p⟩
  rw [Chan.moves, h.out, ho]
  rfl

/-- Settles O34: the stages of an update by `loopUpdate_spec`, the states by `MayBecome`, the code by the limiter's step. -/
theorem aLoopUpdateFollowsTheStateTable : Obligations.ALoopUpdateFollowsTheStateTable := by
  intro n x s k hr hk hu hc hm hg hh hv hl
  obtain ⟨m, hnote⟩ := (s.ch n).noteClock_spec s.offPace s.time
  have hch : (s.upCh n fun c => c.noteClock s.offPace s.time).ch n = { s.ch n with meas := m } := by rw [State.upCh_ch, hnote]
  have oNote : s.updateOnly (s.upCh n fun c => c.noteClock s.offPace s.time) n := s.upCh_updateOnly n _ (by rw [hnote])
  refine ⟨_, exec_loopUpdate_updates x hr hk hu, ?_⟩
  generalize (s.upCh n fun c => c.noteClock s.offPace s.time) = u at hch oNote ⊢
  have lNote : (s.ch n).SameLoops (u.ch n) := by rw [hch]; exact ⟨rfl, rfl, rfl, rfl, rfl⟩
  have pNote : (s.ch n).SamePath (u.ch n) := by rw [hch]; exact ⟨rfl, rfl, rfl, rfl, rfl⟩
  obtain ⟨oUpd, lUpd, pUpd⟩ := State.loopUpdate_spec (s := u) (n := n) k (by rwa [pNote.hst]) (by rw [hch]; exact hv) (by rw [hch]; exact hl) hc hm
    (oNote.migOf.trans hg)
  have oAll := oNote.trans oUpd
  have step := lNote.trans_step lUpd
  refine ⟨oAll.ch, oAll.map, oAll.flt, oAll.clk, oAll.mem, step.opened, fun h => step.next_of h (by decide), fun h => step.next_of h (by decide),
    fun h => step.next_of h (by decide), fun h => step.next_of h (by decide), fun h => step.next_of h (by decide), step.count, fun hi => ?_⟩
  obtain ⟨c, p, hc, hlim⟩ := pUpd (pNote.hst.trans hi)
  exact (pNote.trans hc).limited hlim

end Sys2Proof.Machine
end

section
/-! SUPPORT. The loop registers: when a CLOSE is refused, does nothing, presets or waits, what an OPEN holds, and when a manual command, a
coefficient and a compliance act (R130, R136, R139 … R143). -/

namespace Sys2Proof.Machine

/-! ### CLOSE (R136, R137, R141) -/

theorem exec_loopClose_takes {s : State} {n : Ch} (h : s.takes n) : exec (.loopClose n) s = .next ((s.sample n).loopClose n) :=
  congrArg _ (h.chWrite _ _ _)

theorem Chan.refusesClose_of {c : Chan} (h : c.map.avail = false ∨ c.force.tripped = true ∨ c.force.out = .resting ∨ c.force.out = .graveOpen) :
    c.refusesClose = true := by
  rcases h with h | h | h | h <;> simp [Chan.refusesClose, h]

theorem State.loopClose_refused {s : State} {n : Ch} (h : (s.ch n).refusesClose = true) : s.loopClose n = s.noteCh n 0x080 := if_pos h

section
variable {s : State} {n : Ch} (h : (s.ch n).refusesClose = false)
include h

/-- Past OPEN a CLOSE has no effect. -/
theorem State.loopClose_idle (ho : (s.ch n).loop.st ≠ .opened) : s.loopClose n = s := by
  simp [State.loopClose, h, ho]

theorem State.loopClose_presets (ho : (s.ch n).loop.st = .opened) (hp : s.jtag.ir.holdsPins = false)
    (hs : ((s.ch n).force.out = .closed ∧ (s.ch n).force.closeRest = false) ∨ (s.ch n).force.out = .restHold) :
    s.loopClose n = (s.upCh n fun c => c.leaveRest.presetLoops).refresh n := by
  simp [State.loopClose, h, ho, hp, hs]

/-- The loops wait for a closed switch; one that a rest sequence closes counts as open still (log entry 39). -/
theorem State.loopClose_waits (ho : (s.ch n).loop.st = .opened) (hp : s.jtag.ir.holdsPins = false)
    (hs : (s.ch n).force.out = .closed → (s.ch n).force.closeRest = true) (hr : (s.ch n).force.out ≠ .restHold) :
    s.loopClose n = s.upCh n fun c => Chan.calKeep { c with loop := { c.loop with st := .pending, before := .pending } } := by
  have hopen : ¬ (((s.ch n).force.out = .closed ∧ (s.ch n).force.closeRest = false) ∨ (s.ch n).force.out = .restHold) := by
    rintro (⟨hc, hf⟩ | hc)
    · simp [hs hc] at hf
    · exact hr hc
  simp [State.loopClose, h, ho, hp, hopen]

end

@[simp] theorem Chan.presetLoops_map (c : Chan) : c.presetLoops.map = c.map := rfl

@[simp] theorem Chan.presetLoops_st (c : Chan) : c.presetLoops.loop.st = .preset := rfl

@[simp] theorem Chan.presetLoops_out (c : Chan) : c.presetLoops.force.out = c.force.out := rfl

@[simp] theorem Chan.presetLoops_code (c : Chan) : c.presetLoops.force.code = c.force.code := rfl

@[simp] theorem Chan.leaveRest_map (c : Chan) : c.leaveRest.map = c.map := by
  obtain ⟨o, a, b, on, x, h⟩ := c.leaveRest_spec; rw [h]

@[simp] theorem Chan.leaveRest_code (c : Chan) : c.leaveRest.force.code = c.force.code := by
  obtain ⟨o, a, b, on, x, h⟩ := c.leaveRest_spec; rw [h]

/-- A closed switch stays closed, and REST_HOLD becomes CLOSED (R110). -/
theorem Chan.leaveRest_closed {c : Chan} (h : c.force.out = .closed ∨ c.force.out = .restHold) : c.leaveRest.force.out = .closed := by
  rcases h with h | h
  · rw [Chan.leaveRest_of (.inr h), h]
  · simp [Chan.leaveRest, h, Chan.reclamp]

/-! ### OPEN (R140) -/

theorem exec_loopOpen_takes {s : State} {n : Ch} (h : s.takes n) : exec (.loopOpen n) s = .next ((s.sample n).loopOpen n) :=
  congrArg _ (h.chWrite _ _ _)

/-- The limiter's code becomes the held command. -/
theorem Chan.openLoops_holds {c : Chan} (h : c.loop.st ≠ .opened) :
    c.openLoops.loop.cmd = c.force.code ∧ c.openLoops.force.target = c.force.code := by
  simp [Chan.openLoops, Chan.reclamp, h]

@[simp] theorem Chan.openLoops_st (c : Chan) : c.openLoops.loop.st = .opened := by
  obtain ⟨l, f, h, hst, -⟩ := c.openLoops_spec; rw [h]; exact hst

@[simp] theorem Chan.openLoops_code (c : Chan) : c.openLoops.force.code = c.force.code := by
  obtain ⟨l, f, h, -, -, hcode, -⟩ := c.openLoops_spec; rw [h]; exact hcode

@[simp] theorem Chan.openLoops_cfg (c : Chan) : c.openLoops.cfg = c.cfg := rfl

/-- The integrators keep their values. -/
theorem Chan.openLoops_acc (c : Chan) : c.openLoops.loop.accV = c.loop.accV ∧ c.openLoops.loop.accI = c.loop.accI := by
  unfold Chan.openLoops
  split <;> exact ⟨rfl, rfl⟩

/-! ### The manual command (R139) -/

theorem exec_loopCmdWrite_takes {s : State} {n : Ch} (x : Code) (h : s.takes n) :
    exec (.loopCmdWrite n x) s = .next ((s.sample n).loopCmd n x) :=
  congrArg _ (h.chWrite _ _ _)

theorem State.loopCmd_refused {s : State} {n : Ch} (x : Code) (h : (s.ch n).loop.st ≠ .opened) : s.loopCmd n x = s.noteCh n 0x08C := if_neg h

/-- The manual command of an open loop goes to the limiter as its target. -/
def Chan.manual (c : Chan) (x : Code) : Chan :=
  { (c.toLimiter x.toInt) with loop := { (c.toLimiter x.toInt).loop with manualNow := true, manualHeld := true } }

theorem State.loopCmd_opened {s : State} {n : Ch} (x : Code) (h : (s.ch n).loop.st = .opened) :
    s.loopCmd n x = s.upCh n fun c => c.manual x := if_pos h

/-! ### Coefficients (R143) -/

theorem exec_coefficientWrite_takes {s : State} {n : Ch} (w : WinId) (r : CoefReg) (v : Word) (h : s.takes n) :
    exec (.coefficientWrite n w r v) s = .next ((s.coefLand n w r v).sample n) :=
  congrArg _ (h.chWrite _ _ _)

/-- The channel's registers with a coefficient of loop `w` written. -/
def ChanCfg.writeCoef (g : ChanCfg) (w : WinId) (r : CoefReg) (v : Word) : ChanCfg :=
  match w with
  | .v => { g with coefV := g.coefV.write r v }
  | .i => { g with coefI := g.coefI.write r v }

theorem State.coefLand_opened {s : State} {n : Ch} (w : WinId) (r : CoefReg) (v : Word) (h : (s.ch n).loop.st = .opened) :
    s.coefLand n w r v = s.upCh n fun c => { c with cfg := c.cfg.writeCoef w r v } := by
  cases w <;> exact if_pos h

theorem State.coefLand_ignored {s : State} {n : Ch} (w : WinId) (r : CoefReg) (v : Word) (h : (s.ch n).loop.st ≠ .opened) :
    s.coefLand n w r v = (s.upCh n fun c => { c with loop := { c.loop with coefIgnored := satInc c.loop.coefIgnored } }).post (srcCh n) 1
      (coefOff w r) := if_neg h

/-! ### Compliance (R130) -/

/-- The channel with the compliance register written and sampled. -/
def Chan.complLanded (c : Chan) (v : Word) (p : Nat) : Chan := Chan.sampled { c with cfg := { c.cfg with compliance := v } } p

theorem exec_complianceWrite_takes {s : State} {n : Ch} (v : Word) (h : s.takes n) : ∃ t, exec (.complianceWrite n v) s = .next t ∧
    s.chOnly t n ∧ t.ch n = ((s.ch n).complLanded v s.period).complianceAct v := by
  have he : exec (.complianceWrite n v) s = .next (((s.upCh n fun c => { c with cfg := { c.cfg with compliance := v } }).sample n).upCh n
      fun c => c.complianceAct v) := congrArg _ (h.chWrite _ _ _)
  refine ⟨_, he, ((s.upCh_chOnly n _).trans (State.sample_chOnly _ n)).trans (State.upCh_chOnly _ n _), ?_⟩
  rw [State.upCh_ch, State.sample_ch, State.upCh_ch]
  rfl

@[simp] theorem Chan.complLanded_compliance (c : Chan) (v : Word) (p : Nat) : (c.complLanded v p).cfg.compliance = v := by simp [Chan.complLanded]

@[simp] theorem Chan.complLanded_loop (c : Chan) (v : Word) (p : Nat) : (c.complLanded v p).loop = c.loop := by simp [Chan.complLanded]

@[simp] theorem Chan.complLanded_wantI (c : Chan) (v : Word) (p : Nat) : (c.complLanded v p).range.wantI = c.range.wantI := by
  obtain ⟨-, -, -, h, -⟩ := Chan.sampled_range { c with cfg := { c.cfg with compliance := v } } p
  exact h

theorem Chan.complianceAct_waits {c : Chan} {v : Level} (h : mag c.loop.complApplied ≤ mag v) :
    c.complianceAct v = { c with loop := { c.loop with complPend := true } } := if_neg (Nat.not_lt.mpr h)

theorem Chan.complianceAct_tightens {c : Chan} {v : Level} (h : mag v < mag c.loop.complApplied) :
    c.complianceAct v = { (c.setCompl v) with loop := { (c.setCompl v).loop with complPend := false } } := if_pos h

/-- With no current range commanded the word is one of the range in force, and enters as it is. -/
theorem Chan.setCompl_loop {c : Chan} (v : Level) (h : c.range.wantI = none) : (c.setCompl v).loop = { c.loop with complApplied := v } := by
  have hr : c.complRangeAt = c.complRangeNow := by simp [Chan.complRangeAt, h]
  simp [Chan.setCompl, hr]

/-! ### The registers together -/

/-- Settles O36: each write passes the gate and acts on the sampled channel by the branch that the loops' state takes. -/
theorem loopRegistersActByState : Obligations.LoopRegistersActByState := by
  rintro n s _ ht rfl
  have hu := s.sample_path n
  refine ⟨fun h => ?_, fun h ho => ?_, fun h ho hp => ⟨fun hs => ?_, fun hs hr => ?_⟩, ?_, fun x ho => ?_, fun x ho => ?_, fun w r v ho => ?_,
    fun w r v ho => ?_, fun v hv => ?_, fun v hv hi => ?_⟩
  · rw [exec_loopClose_takes ht, State.loopClose_refused (Chan.refusesClose_of (by simpa using h))]
  · rw [exec_loopClose_takes ht, State.loopClose_idle h (by simpa using ho)]
  · have he := (exec_loopClose_takes ht).trans (congrArg _ (State.loopClose_presets h (by simpa using ho) hp (by simpa using hs)))
    have hpreset := (s.sample n).upCh_path n (fun c => c.leaveRest.presetLoops) (by simp)
    have hclosed := Chan.leaveRest_closed (c := (s.sample n).ch n) (by simpa using hs.imp_left And.left)
    refine ⟨_, he, hu.trans (hpreset.trans (State.refresh_path _ n)), ?_⟩
    rw [State.refresh_ch, State.upCh_ch]
    exact ⟨rfl, hclosed, by simp⟩
  · have he := (exec_loopClose_takes ht).trans (congrArg _ (State.loopClose_waits h (by simpa using ho) hp (by simpa using hs) (by simpa using hr)))
    refine ⟨_, he, (s.sample_chOnly n).trans (State.upCh_chOnly _ n _), ?_⟩
    simp
  · have hopen := (s.sample n).upCh_path n Chan.openLoops (Chan.openLoops_map _)
    obtain ⟨hV, hI⟩ := Chan.openLoops_acc ((s.sample n).ch n)
    have hholds := Chan.openLoops_holds (c := (s.sample n).ch n)
    refine ⟨_, exec_loopOpen_takes ht, hu.trans (hopen.trans (State.refresh_path _ n)), ?_⟩
    rw [State.loopOpen, State.refresh_ch, State.upCh_ch]
    exact ⟨by simp, by simp, by simpa using hholds, by simpa using hV, by simpa using hI, by simp⟩
  · have he := (exec_loopCmdWrite_takes x ht).trans (congrArg _ (State.loopCmd_opened x (by simpa using ho)))
    refine ⟨_, he, (s.sample_chOnly n).trans (State.upCh_chOnly _ n _), ?_⟩
    rw [State.upCh_ch]
    exact ⟨rfl, rfl, by simp [Chan.manual, Chan.toLimiter]⟩
  · rw [exec_loopCmdWrite_takes x ht, State.loopCmd_refused x (by simpa using ho)]
  · have he := (exec_coefficientWrite_takes w r v ht).trans (congrArg (fun t => Host.Outcome.next (t.sample n)) (State.coefLand_opened w r v ho))
    refine ⟨_, he, (s.upCh_chOnly n _).trans (State.sample_chOnly _ n), ?_, ?_⟩ <;>
      · rintro rfl
        simp [ChanCfg.writeCoef]
  · rw [exec_coefficientWrite_takes w r v ht, State.coefLand_ignored w r v ho]
  · obtain ⟨t, he, honly, hch⟩ := exec_complianceWrite_takes v ht
    rw [Chan.complianceAct_waits (by simpa using hv)] at hch
    refine ⟨t, he, honly, ?_⟩
    simp [hch]
  · obtain ⟨t, he, honly, hch⟩ := exec_complianceWrite_takes v ht
    rw [Chan.complianceAct_tightens (by simpa using hv), Chan.setCompl_loop v (by simpa using hi)] at hch
    refine ⟨t, he, honly, ?_⟩
    simp [hch, Chan.setCompl]

end Sys2Proof.Machine
end

section
/-! SUPPORT. The reads that latch a snapshot: CH_RESULT_LO and CH_RESULT_HI, CH_DEMOD_VI, FLT_COFFER_W0 (R182, R200, R388). -/

namespace Sys2Proof.Machine

theorem exec_resultLoRead_runs {s : State} (n : Ch) (h : s.runs) :
    exec (.resultLoRead n) s = .next (s.upCh n fun c => { c with meas := c.meas.readLo }) := congrArg _ (s.live_of _ h)

theorem exec_resultHiRead_runs {s : State} (n : Ch) (h : s.runs) :
    exec (.resultHiRead n) s = .next (s.upCh n fun c => { c with meas := c.meas.readHi }) := congrArg _ (s.live_of _ h)

theorem exec_demodViRead_runs {s : State} (n : Ch) (h : s.runs) :
    exec (.demodViRead n) s = .next (s.upCh n fun c => { c with meas := { c.meas with demod := c.meas.demod.readVi } }) :=
  congrArg _ (s.live_of _ h)

theorem exec_cofferW0Read_runs {s : State} (h : s.runs) : exec .cofferW0Read s = .next (s.upFlt Flt.latchSlot) := congrArg _ (s.live_of _ h)

/-- Behind a read of CH_RESULT_LO the high word completes the pair. -/
theorem MeasSt.readHi_pair {m : MeasSt} (h : m.loRead = true) : m.readHi = { m with pairDone := true, loRead := false } := if_pos h

theorem MeasSt.readHi_alone {m : MeasSt} (h : m.loRead = false) : m.readHi = m := if_neg (by simp [h])

theorem Flt.latchSlot_record {f : Flt} {r : FRec} (h : findAt f.coffer f.cofferSel.toNat = some r) :
    f.latchSlot = { f with snap1 := r.addr, snap2 := r.time, snap3 := r.seq } := by
  simp only [Flt.latchSlot, Flt.slot, h]

theorem Flt.latchSlot_empty {f : Flt} (h : findAt f.coffer f.cofferSel.toNat = none) :
    f.latchSlot = { f with snap1 := 0, snap2 := 0, snap3 := 0 } := by
  simp only [Flt.latchSlot, Flt.slot, h]

/-- Whatever the slot holds, the three words alone are latched. -/
theorem Flt.latchSlot_eq (f : Flt) :
    f.latchSlot = { f with snap1 := f.latchSlot.snap1, snap2 := f.latchSlot.snap2, snap3 := f.latchSlot.snap3 } := by
  unfold Flt.latchSlot
  split <;> rfl

/-- Settles O22: each read passes the reset gate and is its latch on the channel or on the collector. -/
theorem readsLatchTheirSnapshots : Obligations.ReadsLatchTheirSnapshots := by
  intro s hr
  refine ⟨fun n => ⟨_, exec_resultLoRead_runs n hr, s.upCh_chOnly n _, s.upCh_ch n _⟩, fun n h => ?_, fun n h => ?_,
    fun n => ⟨_, exec_demodViRead_runs n hr, s.upCh_chOnly n _, s.upCh_ch n _⟩, _, exec_cofferW0Read_runs hr, ?_, fun r h => ?_, fun h => ?_⟩
  · refine ⟨_, exec_resultHiRead_runs n hr, s.upCh_chOnly n _, ?_⟩
    rw [State.upCh_ch, MeasSt.readHi_pair h]
  · rw [exec_resultHiRead_runs n hr, s.upCh_same n _ (by rw [MeasSt.readHi_alone h])]
  · exact congrArg (fun f => { s with flt := f }) s.flt.latchSlot_eq
  · show s.flt.latchSlot.snap1 = _ ∧ s.flt.latchSlot.snap2 = _ ∧ s.flt.latchSlot.snap3 = _
    rw [Flt.latchSlot_record h]
    exact ⟨rfl, rfl, rfl⟩
  · show s.flt.latchSlot.snap1 = _ ∧ s.flt.latchSlot.snap2 = _ ∧ s.flt.latchSlot.snap3 = _
    rw [Flt.latchSlot_empty h]
    exact ⟨rfl, rfl, rfl⟩

end Sys2Proof.Machine
end

section
/-! SUPPORT. Conversions as the commands of the measure path schedule them: what starting, pausing and putting back leaves alone, when
nothing but the sequence runs, and how a conversion stands when it starts (R162, R168 … R178, R193). -/

namespace Sys2Proof.Machine

/-! ### The frame of the schedule -/

/-- The channel's mapping, its registers and the results it shows are in `d` as they are in `c`, whatever became of its conversions. -/
structure Chan.KeepsResults (c d : Chan) : Prop where
  map : d.map = c.map
  cfg : d.cfg = c.cfg
  eff : d.eff = c.eff
  vals : d.meas.vals = c.meas.vals
  res : d.meas.res = c.meas.res
  resTime : d.meas.resTime = c.meas.resTime
  snap : d.meas.snap = c.meas.snap
  pairDone : d.meas.pairDone = c.meas.pairDone
  overruns : d.meas.overruns = c.meas.overruns
  injDrop : d.meas.injDrop = c.meas.injDrop

theorem Chan.KeepsResults.refl (c : Chan) : c.KeepsResults c := by constructor <;> rfl

theorem Chan.KeepsResults.trans {a b c : Chan} (h : a.KeepsResults b) (k : b.KeepsResults c) : a.KeepsResults c where
  map := k.map.trans h.map
  cfg := k.cfg.trans h.cfg
  eff := k.eff.trans h.eff
  vals := k.vals.trans h.vals
  res := k.res.trans h.res
  resTime := k.resTime.trans h.resTime
  snap := k.snap.trans h.snap
  pairDone := k.pairDone.trans h.pairDone
  overruns := k.overruns.trans h.overruns
  injDrop := k.injDrop.trans h.injDrop

theorem Chan.KeepsResults.ite {c a b : Chan} {p : Prop} [Decidable p] (ha : c.KeepsResults a) (hb : c.KeepsResults b) :
    c.KeepsResults (if p then a else b) := by
  split
  · exact ha
  · exact hb

theorem Chan.pauseSeq_keepsResults (c : Chan) : c.KeepsResults c.pauseSeq := by constructor <;> rfl

theorem Chan.startConv_keepsResults (c : Chan) (now : Nat) (k : ConvKind) (e : BitVec 4) (i g : BitVec 3) (j : BitVec 17) :
    c.KeepsResults (c.startConv now k e i g j) := by constructor <;> rfl

theorem Chan.startEntry_keepsResults (c : Chan) (now : Nat) (k : ConvKind) (e : BitVec 4) : c.KeepsResults (c.startEntry now k e) := by
  unfold Chan.startEntry
  dsimp only
  split
  · exact c.startConv_keepsResults now k e _ _ _
  · constructor <;> rfl

theorem Chan.calStart_keepsResults (c : Chan) (now : Nat) : c.KeepsResults (c.calStart now) := by
  unfold Chan.calStart
  dsimp only
  split <;> constructor <;> rfl

theorem Chan.startRedo_keepsResults (now : Nat) (l : List (ConvKind × BitVec 4)) (c : Chan) : c.KeepsResults (c.startRedo now l) := by
  induction l generalizing c with
  | nil => exact Chan.KeepsResults.refl c
  | cons p l ih =>
    obtain ⟨k, e⟩ := p
    refine Chan.KeepsResults.trans ?_ (ih _)
    split
    · exact c.calStart_keepsResults now
    · exact c.startEntry_keepsResults now k e

theorem Chan.startEntries_keepsResults (now fuel : Nat) (c : Chan) : c.KeepsResults (c.startEntries now fuel) := by
  induction fuel generalizing c with
  | zero => exact Chan.KeepsResults.refl c
  | succ fuel ih =>
    unfold Chan.startEntries
    dsimp only
    repeat' split
    · refine Chan.KeepsResults.trans ?_ (ih _)
      constructor <;> rfl
    all_goals exact Chan.KeepsResults.refl c

theorem Chan.afterInjected_keepsResults (c : Chan) (now : Nat) : c.KeepsResults (c.afterInjected now) := by
  unfold Chan.afterInjected
  split
  · next e _ =>
    have hpause : c.KeepsResults (Chan.pauseSeq { c with meas := { c.meas with injHeld := none } }) := by constructor <;> rfl
    exact hpause.trans (Chan.startEntry_keepsResults _ now _ e)
  · exact Chan.KeepsResults.refl c

theorem Chan.calPoint_keepsResults (c : Chan) (now : Nat) (full : Bool) : c.KeepsResults (c.calPoint now full) := by
  unfold Chan.calPoint
  dsimp only
  split
  · constructor <;> rfl
  · refine Chan.KeepsResults.trans ?_ (Chan.calStart_keepsResults _ now)
    constructor <;> rfl

theorem Chan.calWake_keepsResults (c : Chan) (now : Nat) : c.KeepsResults (c.calWake now) := by
  unfold Chan.calWake
  split
  · exact c.calPoint_keepsResults now _
  · exact Chan.KeepsResults.refl c

theorem Chan.serveSlot_keepsResults (c : Chan) (now : Nat) : c.KeepsResults (c.serveSlot now) := by
  unfold Chan.serveSlot
  refine Chan.KeepsResults.trans ?_ (Chan.calWake_keepsResults _ now)
  split
  · exact Chan.KeepsResults.refl c
  · exact c.afterInjected_keepsResults now

theorem Chan.startNext_keepsResults (c : Chan) (now : Nat) : c.KeepsResults (c.startNext now) := by
  have hredo : c.KeepsResults { c with meas := { c.meas with redo := [] } } := by constructor <;> rfl
  have hserve := (hredo.trans (Chan.startRedo_keepsResults now c.meas.redo _)).trans (Chan.serveSlot_keepsResults _ now)
  have hrun := hserve.trans (Chan.startEntries_keepsResults now 16 _)
  refine Chan.KeepsResults.ite hserve (Chan.KeepsResults.ite (hrun.trans ?_) hrun)
  constructor <;> rfl

theorem Chan.beginPass_keepsResults (c : Chan) : c.KeepsResults c.beginPass := by
  unfold Chan.beginPass
  split <;> constructor <;> rfl

theorem Chan.leaveConv_keepsResults (c : Chan) (v : Conv) : c.KeepsResults (c.leaveConv v) := by
  unfold Chan.leaveConv
  split <;> constructor <;> rfl

/-! ### Nothing but the sequence runs (R176, R193) -/

/-- The sequence pauses for an injected or a calibration conversion, and for nothing else. -/
theorem Chan.paused_eq (c : Chan) : c.paused = (c.injRuns || c.calRuns) := by
  have hkind : ∀ k : ConvKind, (k != .seq) = ((k == .urgent || k == .opp) || k == .cal) := by rintro (_ | _ | _ | _) <;> rfl
  rw [Bool.eq_iff_iff]
  simp only [Chan.paused, Chan.injRuns, Chan.calRuns, hkind, Bool.or_eq_true, List.any_eq_true]
  grind

theorem Chan.paused_false_iff {c : Chan} :
    c.paused = false ↔ (∀ v ∈ c.meas.convs, v.kind = .seq) ∧ ∀ e ∈ c.meas.redo, e.1 = .seq := by
  simp [Chan.paused]

section
variable {c : Chan} (h : c.paused = false)
include h

theorem Chan.pauseSeq_convs : c.pauseSeq.meas.convs = [] := by
  simpa [Chan.pauseSeq] using (Chan.paused_false_iff.mp h).1

theorem Chan.pauseSeq_redo : c.pauseSeq.meas.redo = [] := by
  have hredo := (Chan.paused_false_iff.mp h).2
  simp only [Chan.pauseSeq, List.filter_eq_nil_iff]
  intro e he
  simp [hredo e he]

/-- Every conversion that a pause aborts is counted (R176). -/
theorem Chan.pauseSeq_restarts : c.pauseSeq.meas.restarts = satAdd c.meas.restarts c.meas.convs.length := by
  have hall : c.meas.convs.filter (fun v => v.kind == .seq) = c.meas.convs :=
    List.filter_eq_self.mpr fun v hv => by simp [(Chan.paused_false_iff.mp h).1 v hv]
  simp [Chan.pauseSeq, hall]

end

/-! ### A conversion that starts (R162, R172, R174) -/

/-- `v` is the conversion of kind `k` that channel `c` starts at cycle `now` for entry `e` with the settings `q`. -/
structure Chan.Opens (c : Chan) (now : Nat) (k : ConvKind) (e : BitVec 4) (q : SeqEntry) (v : Conv) : Prop where
  kind : v.kind = k
  entry : v.entry = e
  input : v.input = q.input
  md : v.md = modOf q.input (effGain q.input q.gain)
  len : v.len = c.windowLen q.jM1
  ends : v.tEnd = v.tStart + v.len
  atOnce : v.settling = false → v.tStart = now
  settled : v.settling = true → v.tStart = now + c.settleLen

/-- Which conversion starts hangs on the channel's order and its updates alone. -/
theorem Chan.Opens.congr {c d : Chan} {now : Nat} {k : ConvKind} {e : BitVec 4} {q : SeqEntry} {v : Conv} (h : d.Opens now k e q v)
    (hl : d.windowLen q.jM1 = c.windowLen q.jM1) (hs : d.settleLen = c.settleLen) : c.Opens now k e q v :=
  ⟨h.kind, h.entry, h.input, h.md, h.len.trans hl, h.ends, h.atOnce, fun hv => hs ▸ h.settled hv⟩

theorem Chan.startConv_opens (c : Chan) (now : Nat) (k : ConvKind) (e : BitVec 4) (q : SeqEntry) :
    ∃ v, (c.startConv now k e q.input q.gain q.jM1).meas.convs = c.meas.convs ++ [v] ∧ c.Opens now k e q v :=
  ⟨_, rfl, rfl, rfl, rfl, rfl, rfl, rfl, fun h => if_neg (Bool.eq_false_iff.mp h), fun h => if_pos h⟩

/-- The modulator of entry `e` is free. -/
def Chan.entryFree (c : Chan) (e : BitVec 4) : Bool :=
  c.modFree (modOf (c.seqEntry e).input (effGain (c.seqEntry e).input (c.seqEntry e).gain)) (c.seqEntry e).input

/-- With nothing converting, ranging alone can hold a modulator. -/
theorem Chan.entryFree_idle {c : Chan} (e : BitVec 4) (hc : c.meas.convs = []) (ho : c.range.ovl = none) : c.entryFree e = true := by
  simp [Chan.entryFree, Chan.modFree, hc, ho]

theorem Chan.startEntry_free {c : Chan} {e : BitVec 4} (now : Nat) (k : ConvKind) (h : c.entryFree e = true) :
    c.startEntry now k e = c.startConv now k e (c.seqEntry e).input (c.seqEntry e).gain (c.seqEntry e).jM1 := if_pos h

theorem Chan.startEntry_waits {c : Chan} {e : BitVec 4} (now : Nat) (k : ConvKind) (h : c.entryFree e = false) :
    c.startEntry now k e = { c with meas := { c.meas with redo := c.meas.redo ++ [(k, e)] } } := if_neg (Bool.eq_false_iff.mp h)

@[simp] theorem Chan.startEntry_restarts (c : Chan) (now : Nat) (k : ConvKind) (e : BitVec 4) :
    (c.startEntry now k e).meas.restarts = c.meas.restarts := by
  unfold Chan.startEntry
  dsimp only
  split <;> rfl

/-! ### The session behind the schedule -/

@[simp] theorem Chan.startEntry_cal (c : Chan) (now : Nat) (k : ConvKind) (e : BitVec 4) : (c.startEntry now k e).meas.cal = c.meas.cal := by
  unfold Chan.startEntry
  dsimp only
  split <;> rfl

@[simp] theorem Chan.afterInjected_cal (c : Chan) (now : Nat) : (c.afterInjected now).meas.cal = c.meas.cal := by
  unfold Chan.afterInjected
  split
  · rw [Chan.startEntry_cal]
    rfl
  · rfl

theorem Chan.calWake_of {c : Chan} (now : Nat) (h : c.meas.cal.st ≠ .wait) : c.calWake now = c := if_neg h

/-- With no point in WAIT, serving the slot leaves the session alone. -/
theorem Chan.serveSlot_cal {c : Chan} (now : Nat) (h : c.meas.cal.st ≠ .wait) : (c.serveSlot now).meas.cal = c.meas.cal := by
  unfold Chan.serveSlot
  dsimp only
  split
  · rw [Chan.calWake_of now h]
  · rw [Chan.calWake_of now (by rwa [Chan.afterInjected_cal]), Chan.afterInjected_cal]

/-! ### The DAC of a force session (R196) -/

/-- Outside a force session nothing drives the DAC. -/
theorem State.calDrive_of {s : State} {n : Ch} (h : (s.ch n).meas.cal.st ≠ .forceRun) : s.calDrive n = s := by
  unfold State.calDrive
  dsimp only
  split
  · next hst => exact absurd hst h
  · rfl

@[simp] theorem State.calDrive_ch (s : State) (n m : Ch) : (s.calDrive n).ch m = s.ch m := by
  unfold State.calDrive
  dsimp only
  split <;> rfl

theorem State.calDrive_path (s : State) (n : Ch) : s.pathOnly (s.calDrive n) n := by
  unfold State.calDrive
  dsimp only
  split
  · next k hk _ => exact s.upCell_path n k _ (.inl hk)
  · exact State.pathOnly.refl s n

end Sys2Proof.Machine
end

section
/-! SUPPORT. Run modes and passes: STOP, the start of a pass, CH_MEAS_CFG, and the entries that start at a boundary (R168 … R174, R204). -/

namespace Sys2Proof.Machine

/-! ### Passes (R168, R169) -/

@[simp] theorem Chan.sampled_lastEntry (c : Chan) (p : Nat) : (c.sampled p).lastEntry = min c.cfg.last.toNat (c.cfg.seqLen.toNat - 1) := by
  simp [Chan.lastEntry]

theorem Chan.beginPass_spec (c : Chan) :
    (c.eff.first.toNat ≤ c.lastEntry → c.beginPass.meas.pass = some { next := c.eff.first.toNat, last := c.lastEntry }) ∧
    (c.lastEntry < c.eff.first.toNat → c.beginPass.meas.pass = none ∧ c.beginPass.meas.passDone = true) := by
  unfold Chan.beginPass
  refine ⟨fun h => ?_, fun h => ?_⟩
  · rw [if_neg (Nat.not_lt.mpr h)]
  · rw [if_pos h]
    exact ⟨rfl, rfl⟩

@[simp] theorem Chan.beginPass_convs (c : Chan) : c.beginPass.meas.convs = c.meas.convs := by
  unfold Chan.beginPass
  split <;> rfl

/-- Outside a strand's pass the start of one writes no record. -/
theorem State.startPass_of {s : State} {n : Ch} (h : (s.ch n).eff.run ≠ .strand) : s.startPass n = s.upCh n Chan.beginPass := by
  have heff : (s.ch n).beginPass.eff = (s.ch n).eff := (s.ch n).beginPass_keepsResults.eff
  have hrun : ((s.ch n).eff.run == .strand) = false := by simpa using h
  simp [State.startPass, heff, hrun]

/-! ### A new run mode (R169, R171) -/

/-- RUN written and sampled. -/
def State.setRun (s : State) (n : Ch) (m : RunMode) : State := (s.upCh n fun c => { c with cfg := { c.cfg with run := m } }).sample n

theorem State.setRun_chOnly (s : State) (n : Ch) (m : RunMode) : s.chOnly (s.setRun n m) n := (s.upCh_chOnly n _).trans (State.sample_chOnly _ n)

@[simp] theorem State.setRun_time (s : State) (n : Ch) (m : RunMode) : (s.setRun n m).time = s.time := rfl

@[simp] theorem State.setRun_cfg (s : State) (n : Ch) (m : RunMode) : ((s.setRun n m).ch n).cfg = { (s.ch n).cfg with run := m } := by
  simp [State.setRun]

@[simp] theorem State.setRun_meas (s : State) (n : Ch) (m : RunMode) : ((s.setRun n m).ch n).meas = (s.ch n).meas := by simp [State.setRun]

@[simp] theorem State.setRun_run (s : State) (n : Ch) (m : RunMode) : ((s.setRun n m).ch n).eff.run = m := by simp [State.setRun]

@[simp] theorem State.setRun_first (s : State) (n : Ch) (m : RunMode) : ((s.setRun n m).ch n).eff.first = (s.ch n).cfg.first := by
  simp [State.setRun]

@[simp] theorem State.setRun_lastEntry (s : State) (n : Ch) (m : RunMode) :
    ((s.setRun n m).ch n).lastEntry = min (s.ch n).cfg.last.toNat ((s.ch n).cfg.seqLen.toNat - 1) := by
  simp [State.setRun]

theorem exec_measRunWrite_takes {s : State} {n : Ch} (m : RunMode) (h : s.takes n) :
    exec (.measRunWrite n m) s = .next ((s.setRun n m).runAct n) := congrArg _ (h.chWrite _ _ _)

theorem State.runAct_stop {s : State} {n : Ch} (h : (s.ch n).eff.run = .stop) : s.runAct n = s.upCh n fun c => c.stopRun s.time := by
  simp only [State.runAct, h]

theorem State.runAct_continuous {s : State} {n : Ch} (h : (s.ch n).eff.run = .continuous) (hp : (s.ch n).meas.pass = none) :
    s.runAct n = s.upCh n Chan.beginPass := by
  simp [State.runAct, h, hp, State.startPass_of]

/-- A pass that runs goes on in CONTINUOUS. -/
theorem State.runAct_runs {s : State} {n : Ch} (h : (s.ch n).eff.run = .continuous) (hp : (s.ch n).meas.pass ≠ none) : s.runAct n = s := by
  have hsome : (s.ch n).meas.pass.isNone = false := by simpa [← Option.isSome_iff_ne_none] using hp
  simp [State.runAct, h, hsome]

theorem State.runAct_waits {s : State} {n : Ch} (hs : (s.ch n).eff.run ≠ .stop) (hc : (s.ch n).eff.run ≠ .continuous) :
    s.runAct n = s.upCh n fun c => { c with meas := { c.meas with freeRun := false } } := by
  unfold State.runAct
  split
  · next h => exact absurd h hs
  · next h => exact absurd h hc
  · rfl

/-- STOP spares a calibration's conversions and those whose windows end there (log entry 41). -/
theorem Chan.stopRun_convs (c : Chan) (now : Nat) :
    (c.stopRun now).meas.convs = c.meas.convs.filter fun v => v.kind == .cal || decide (v.tEnd ≤ now) := by
  refine List.filter_congr fun v _ => ?_
  by_cases h : now < v.tEnd
  · simp [h, Nat.not_le.mpr h, bne]
  · simp [h, Nat.le_of_not_lt h]

theorem Chan.stopRun_keepsResults (c : Chan) (now : Nat) : c.KeepsResults (c.stopRun now) := by constructor <;> rfl

/-! ### START (R169) -/

theorem exec_measStart_takes {s : State} {n : Ch} (h : s.takes n) : exec (.measStart n) s = .next ((s.sample n).measStart n) :=
  congrArg _ (h.chWrite _ _ _)

theorem State.measStart_refused {s : State} {n : Ch} (h : (s.ch n).eff.run ≠ .single ∨ (s.ch n).meas.pass ≠ none) :
    s.measStart n = s.noteCh n 0x100 := if_pos (by simpa [Option.isSome_iff_ne_none] using h)

theorem State.measStart_begins {s : State} {n : Ch} (h : (s.ch n).eff.run = .single) (hp : (s.ch n).meas.pass = none) :
    s.measStart n = s.upCh n Chan.beginPass := by
  simp [State.measStart, h, hp, State.startPass_of]

/-! ### CH_MEAS_CFG (R174, R204) -/

theorem exec_measCfgWrite_takes {s : State} {n : Ch} (v : Word) (h : s.takes n) :
    exec (.measCfgWrite n v) s = .next ((s.measCfgLand n v).sample n) := congrArg _ (h.chWrite _ _ _)

theorem State.measCfgLand_stopped {s : State} {n : Ch} (v : Word) (h : (s.ch n).cfg.run = .stop) (hc : (s.ch n).meas.convs = []) :
    s.measCfgLand n v = s.upCh n fun c => { c with cfg := c.cfg.setMeasCfg v } := if_pos ⟨h, hc⟩

theorem State.measCfgLand_refused {s : State} {n : Ch} (v : Word) (h : (s.ch n).cfg.run ≠ .stop ∨ (s.ch n).meas.convs ≠ []) :
    s.measCfgLand n v = s.noteCh n 0x108 := if_neg (by tauto)

theorem ChanCfg.setMeasCfg_seqLen (g : ChanCfg) (v : Word) : (g.setMeasCfg v).seqLen.toNat = max 1 (min 16 ((v >>> 8).toNat % 32)) := by
  simp only [ChanCfg.setMeasCfg, bits, BitVec.toNat_ofNat, BitVec.toNat_ushiftRight]
  omega

theorem ChanCfg.setMeasCfg_order (g : ChanCfg) (v : Word) : (g.setMeasCfg v).order.toNat = max 1 (min 5 (v.toNat % 8)) := by
  simp only [ChanCfg.setMeasCfg, bits, BitVec.toNat_ofNat, Nat.shiftRight_zero]
  omega

/-! ### The entries that start at a boundary (R170, R322) -/

/-- In CONTINUOUS an empty pass is followed by another before the entries start (R169). -/
def State.nextPass (s : State) (n : Ch) : State :=
  s.when ((s.ch n).eff.run == .continuous && (s.ch n).meas.pass.isNone) fun s => s.startPass n

theorem State.nextPass_spec (s : State) (n : Ch) : s.pathOnly (s.nextPass n) n ∧ (s.ch n).KeepsResults ((s.nextPass n).ch n) := by
  unfold State.nextPass
  cases hb : (s.ch n).eff.run == .continuous && (s.ch n).meas.pass.isNone with
  | false => exact ⟨State.pathOnly.refl s n, Chan.KeepsResults.refl _⟩
  | true =>
    have hrun : (s.ch n).eff.run ≠ .strand := by
      intro h
      simp [h] at hb
    have hbegin := (s.ch n).beginPass_keepsResults
    rw [State.when_true, State.startPass_of hrun]
    exact ⟨s.upCh_path n _ hbegin.map, by rwa [State.upCh_ch]⟩

theorem State.nextPass_running {s : State} {n : Ch} (h : (s.ch n).meas.pass ≠ none) : s.nextPass n = s := by
  have hsome : (s.ch n).meas.pass.isNone = false := by simpa [← Option.isSome_iff_ne_none] using h
  simp [State.nextPass, hsome]

theorem exec_sequenceEntryStart_asleep {s : State} {n : Ch} (hr : s.runs) (h : s.converts n = false) :
    exec (.sequenceEntryStart n) s = .next s :=
  (congrArg Host.Outcome.next (s.live_of _ hr)).trans (congrArg _ (if_neg (Bool.eq_false_iff.mp h)))

theorem exec_sequenceEntryStart_converts {s : State} {n : Ch} (hr : s.runs) (h : s.converts n = true) :
    exec (.sequenceEntryStart n) s = .next (((s.nextPass n).upCh n fun c => c.startNext (s.nextPass n).time).calDrive n) :=
  (congrArg Host.Outcome.next (s.live_of _ hr)).trans (congrArg _ (if_pos h))

/-- Nothing but the sequence runs on the channel, and nothing was put back or waits. -/
structure Chan.SeqAlone (c : Chan) : Prop where
  cal : c.meas.cal.st ≠ .wait
  slot : c.meas.injHeld = none
  redo : c.meas.redo = []
  seq : c.meas.convs.all (fun v => v.kind == .seq) = true

section
variable {c : Chan} (h : c.SeqAlone)
include h

theorem Chan.SeqAlone.paused : c.paused = false := by
  have hseq := h.seq
  simp [Chan.paused_false_iff, h.redo]
  simpa using hseq

theorem Chan.SeqAlone.serveSlot (now : Nat) : c.serveSlot now = c := by
  have hidle : (c.injRuns || c.calRuns) = false := c.paused_eq ▸ h.paused
  unfold Chan.serveSlot
  rw [hidle, if_neg Bool.false_ne_true]
  simp only [Chan.afterInjected, h.slot]
  exact Chan.calWake_of now h.cal

/-- The next entries of the pass start; a free run may begin with them, once the whole pass has started (R171). -/
theorem Chan.SeqAlone.startNext (now : Nat) : c.startNext now = c.startEntries now 16 ∨ ((c.startEntries now 16).pairsUp now = true ∧
    c.startNext now = { (c.startEntries now 16) with meas := { (c.startEntries now 16).meas with freeRun := true } }) := by
  have hredo : ({ c with meas := { c.meas with redo := [] } } : Chan) = c := by rw [← h.redo]
  unfold Chan.startNext
  simp only [h.redo, hredo, Chan.startRedo, h.serveSlot, h.paused, List.isEmpty_nil, Bool.not_true, Bool.or_self, Bool.false_eq_true, if_false]
  generalize c.startEntries now 16 = d
  split_ifs with hfree
  · exact .inr ⟨(Bool.and_eq_true _ _ ▸ hfree).2, rfl⟩
  · exact .inl rfl

end

/-- While entries start, no conversion that runs leaves. -/
theorem Chan.startEntries_runs {v : Conv} (now fuel : Nat) (c : Chan) (h : v ∈ c.meas.convs) : v ∈ (c.startEntries now fuel).meas.convs := by
  induction fuel generalizing c with
  | zero => exact h
  | succ fuel ih =>
    unfold Chan.startEntries
    dsimp only
    repeat' split
    · exact ih _ (List.mem_append_left _ h)
    all_goals exact h

section
variable {c : Chan} {p : Pass} (hp : c.meas.pass = some p) (hl : p.next ≤ p.last)
include hp hl

/-- The next entry of a pass starts on its free modulator. -/
theorem Chan.startEntries_starts (now fuel : Nat) (hf : c.entryFree (BitVec.ofNat 4 p.next) = true) :
    ∃ v ∈ (c.startEntries now (fuel + 1)).meas.convs, c.Opens now .seq (BitVec.ofNat 4 p.next) (c.seqEntry (BitVec.ofNat 4 p.next)) v := by
  obtain ⟨v, hv, hopens⟩ := Chan.startConv_opens { c with meas := { c.meas with pass := some { p with next := p.next + 1 } } } now .seq
    (BitVec.ofNat 4 p.next) (c.seqEntry (BitVec.ofNat 4 p.next))
  refine ⟨v, ?_, hopens.congr rfl rfl⟩
  unfold Chan.startEntries
  unfold Chan.entryFree at hf
  simp only [hp, hl, hf, if_true]
  exact Chan.startEntries_runs now fuel _ (by rw [hv]; simp)

theorem Chan.startEntries_waits (now fuel : Nat) (hf : c.entryFree (BitVec.ofNat 4 p.next) = false) : c.startEntries now fuel = c := by
  cases fuel with
  | zero => rfl
  | succ fuel =>
    unfold Chan.startEntries
    simp only [hp, hl, if_true]
    exact if_neg (Bool.eq_false_iff.mp hf)

/-- A pass with an entry still to start is no free run's beginning. -/
theorem Chan.pairsUp_unfinished (now : Nat) : c.pairsUp now = false := by
  unfold Chan.pairsUp
  rw [hp]
  split
  · next q _ _ hq _ =>
    cases hq
    simp [Nat.not_lt.mpr hl]
  · rfl

variable (h : c.SeqAlone)
include h

theorem Chan.SeqAlone.startNext_starts (now : Nat) (hf : c.entryFree (BitVec.ofNat 4 p.next) = true) :
    ∃ v ∈ (c.startNext now).meas.convs, c.Opens now .seq (BitVec.ofNat 4 p.next) (c.seqEntry (BitVec.ofNat 4 p.next)) v := by
  obtain ⟨v, hv, hopens⟩ := Chan.startEntries_starts hp hl now 15 hf
  refine ⟨v, ?_, hopens⟩
  obtain hn | ⟨-, hn⟩ := h.startNext now
  all_goals
    rw [hn]
    exact hv

theorem Chan.SeqAlone.startNext_waits (now : Nat) (hf : c.entryFree (BitVec.ofNat 4 p.next) = false) : c.startNext now = c := by
  have hsame := Chan.startEntries_waits hp hl now 16 hf
  obtain hn | ⟨hpairs, -⟩ := h.startNext now
  · rw [hn, hsame]
  · rw [hsame, Chan.pairsUp_unfinished hp hl] at hpairs
    exact absurd hpairs Bool.false_ne_true

end

/-! ### The run modes together -/

/-- What SEQUENCE_ENTRY_START leaves alone, and what it starts. -/
theorem exec_sequenceEntryStart_spec {s : State} (n : Ch) (hr : s.runs) : ∃ t, exec (.sequenceEntryStart n) s = .next t ∧ s.pathOnly t n ∧
    (s.ch n).KeepsResults (t.ch n) ∧ (s.converts n = false → t = s) ∧
    ∀ p, s.converts n = true → (s.ch n).SeqAlone → (s.ch n).meas.cal.st ≠ .forceRun → (s.ch n).meas.pass = some p → p.next ≤ p.last →
      ((s.ch n).entryFree (BitVec.ofNat 4 p.next) = true → ∃ v ∈ (t.ch n).meas.convs,
        (s.ch n).Opens s.time .seq (BitVec.ofNat 4 p.next) ((s.ch n).seqEntry (BitVec.ofNat 4 p.next)) v) ∧
      ((s.ch n).entryFree (BitVec.ofNat 4 p.next) = false → t = s) := by
  cases hc : s.converts n with
  | false =>
    refine ⟨s, exec_sequenceEntryStart_asleep hr hc, State.pathOnly.refl s n, Chan.KeepsResults.refl _, fun _ => rfl, fun p h => ?_⟩
    exact absurd h Bool.false_ne_true
  | true =>
    obtain ⟨hpath, hkeeps⟩ := s.nextPass_spec n
    have hnext := ((s.nextPass n).ch n).startNext_keepsResults (s.nextPass n).time
    have hup := (s.nextPass n).upCh_path n (fun c => c.startNext (s.nextPass n).time) hnext.map
    refine ⟨_, exec_sequenceEntryStart_converts hr hc, hpath.trans (hup.trans (State.calDrive_path _ n)), ?_, fun h => ?_,
      fun p _ h hst hp hl => ?_⟩
    · rw [State.calDrive_ch, State.upCh_ch]
      exact hkeeps.trans hnext
    · exact absurd h.symm Bool.false_ne_true
    · rw [State.nextPass_running (by simp [hp]), State.calDrive_ch, State.upCh_ch]
      refine ⟨h.startNext_starts hp hl s.time, fun hf => ?_⟩
      rw [s.upCh_same n _ (h.startNext_waits hp hl s.time hf), State.calDrive_of hst]

/-- A run mode but STOP: CONTINUOUS begins a pass where none runs, and every other mode ends a free run alone. -/
theorem exec_measRunWrite_spec {s : State} {n : Ch} (m : RunMode) (ht : s.takes n) (hm : m ≠ .stop) :
    ∃ t, exec (.measRunWrite n m) s = .next t ∧ s.chOnly t n ∧ (t.ch n).cfg = { (s.ch n).cfg with run := m } ∧
      (t.ch n).meas.convs = (s.ch n).meas.convs ∧ (t.ch n).meas.vals = (s.ch n).meas.vals ∧
      (m ≠ .continuous ∨ (s.ch n).meas.pass ≠ none → (t.ch n).meas.pass = (s.ch n).meas.pass) ∧
      (m = .continuous → (s.ch n).meas.pass = none → (t.ch n).meas = ((s.setRun n m).ch n).beginPass.meas) := by
  have hrun := s.setRun_chOnly n m
  by_cases hc : m = .continuous
  · by_cases hp : (s.ch n).meas.pass = none
    · have hkeeps := ((s.setRun n m).ch n).beginPass_keepsResults
      refine ⟨_, (exec_measRunWrite_takes m ht).trans (congrArg _ (State.runAct_continuous (by simpa using hc) (by simpa using hp))),
        hrun.trans (State.upCh_chOnly _ n _), ?_⟩
      rw [State.upCh_ch]
      exact ⟨by simp, by simp, by simpa using hkeeps.vals, fun h => absurd hp (h.resolve_left (absurd hc)), fun _ _ => rfl⟩
    · refine ⟨_, (exec_measRunWrite_takes m ht).trans (congrArg _ (State.runAct_runs (by simpa using hc) (by simpa using hp))), hrun, ?_⟩
      simp [hp]
  · refine ⟨_, (exec_measRunWrite_takes m ht).trans (congrArg _ (State.runAct_waits (by simpa using hm) (by simpa using hc))),
      hrun.trans (State.upCh_chOnly _ n _), ?_⟩
    simp [hc]

/-- Settles O37: a write by its run mode, START and CH_MEAS_CFG by their guards, and the entries by `startNext` on a channel whose sequence
runs alone. -/
theorem runModesStartAndStopPasses : Obligations.RunModesStartAndStopPasses := by
  intro n s u
  refine ⟨?_, fun hr => ?_⟩
  · rintro ht rfl
    refine ⟨?_, fun m hm => ?_, fun h => ?_, fun h hp => ?_, fun v h hc => ?_, fun v h => ?_⟩
    · have hkeeps := ((s.setRun n .stop).ch n).stopRun_keepsResults s.time
      refine ⟨_, (exec_measRunWrite_takes .stop ht).trans (congrArg _ (State.runAct_stop (s.setRun_run n .stop))),
        (s.setRun_chOnly n .stop).trans (State.upCh_chOnly _ n _), ?_⟩
      rw [State.upCh_ch]
      refine ⟨by simpa using hkeeps.cfg, ?_, rfl, ?_, by simpa using hkeeps.vals, by simpa using hkeeps.res⟩
      · rw [State.setRun_time, Chan.stopRun_convs, State.setRun_meas]
      · simp [Chan.stopRun, Chan.abortConvs]
    · obtain ⟨t, he, honly, hcfg, hconvs, hvals, hsame, hbegins⟩ := exec_measRunWrite_spec m ht hm
      have hpass := ((s.setRun n m).ch n).beginPass_spec
      refine ⟨t, he, honly, hcfg, hconvs, hvals, hsame, fun hc hp => ?_⟩
      rw [hbegins hc hp]
      simpa using hpass
    · rw [exec_measStart_takes ht, State.measStart_refused (by simpa using h)]
    · have he := (exec_measStart_takes ht).trans (congrArg _ (State.measStart_begins (s := s.sample n) (n := n) (by simpa using h) (by simpa using hp)))
      obtain ⟨hsome, hempty⟩ := ((s.sample n).ch n).beginPass_spec
      refine ⟨_, he, (s.sample_chOnly n).trans (State.upCh_chOnly _ n _), ?_⟩
      rw [State.upCh_ch]
      exact ⟨by simp, by simp, by simpa using hsome, by simpa using hempty⟩
    · refine ⟨_, (exec_measCfgWrite_takes v ht).trans (congrArg (fun t => Host.Outcome.next (t.sample n)) (State.measCfgLand_stopped v h hc)),
        (s.upCh_chOnly n _).trans (State.sample_chOnly _ n), ?_⟩
      rw [State.sample_ch, State.upCh_ch, Chan.sampled_cfg, Chan.sampled_meas]
      exact ⟨rfl, ChanCfg.setMeasCfg_seqLen _ v, ChanCfg.setMeasCfg_order _ v, rfl⟩
    · rw [exec_measCfgWrite_takes v ht, State.measCfgLand_refused v h]
  · obtain ⟨t, he, hpath, hkeeps, hasleep, hstart⟩ := exec_sequenceEntryStart_spec n hr
    refine ⟨t, he, hpath, hkeeps.vals, hkeeps.res, hasleep, ?_⟩
    rintro p hc hw hforce hslot hredo hseq hp hl _ rfl
    obtain ⟨hfree, hwaits⟩ := hstart p hc ⟨hw, hslot, hredo, hseq⟩ hforce hp hl
    refine ⟨fun hf => ?_, hwaits⟩
    obtain ⟨v, hv, h⟩ := hfree hf
    exact ⟨v, hv, h.kind, h.entry, h.input, h.md, h.ends, h.len, h.atOnce, h.settled⟩

end Sys2Proof.Machine
end

section
/-! SUPPORT. Injections: the urgent request with its slot of depth one, and the opportunistic one (R175 … R178, R193). -/

namespace Sys2Proof.Machine

/-! ### The urgent request (R176, R177) -/

theorem exec_injUrgent_takes {s : State} {n : Ch} (e : Entry) (h : s.takes n) : exec (.injUrgent n e) s =
    .next ((s.sample n).upCh n fun c => c.injUrgent s.time (BitVec.ofNat 4 e.val)) := congrArg _ (h.chWrite _ _ _)

theorem Chan.injUrgent_starts {c : Chan} (now : Nat) (e : BitVec 4) (h : c.paused = false) :
    c.injUrgent now e = c.pauseSeq.startEntry now .urgent e := by
  simp [Chan.injUrgent, ← Chan.paused_eq, h]

theorem Chan.injUrgent_waits {c : Chan} (now : Nat) (e : BitVec 4) (h : c.paused = true) (hs : c.meas.injHeld = none) :
    c.injUrgent now e = { c with meas := { c.meas with injHeld := some e } } := by
  simp [Chan.injUrgent, ← Chan.paused_eq, h, hs]

theorem Chan.injUrgent_drops {c : Chan} (now : Nat) (e : BitVec 4) (h : c.paused = true) (hs : c.meas.injHeld ≠ none) :
    c.injUrgent now e = c.dropInj := by
  have hsome : c.meas.injHeld.isSome = true := Option.isSome_iff_ne_none.mpr hs
  simp [Chan.injUrgent, ← Chan.paused_eq, h, hsome]

/-- The request's entry starts behind the pause of the sequence, or waits where ranging holds its modulator (R173). -/
theorem Chan.injUrgent_entry {c : Chan} (now : Nat) (e : BitVec 4) (h : c.paused = false) :
    (c.injUrgent now e).meas.restarts = satAdd c.meas.restarts c.meas.convs.length ∧ c.KeepsResults (c.injUrgent now e) ∧
    (c.range.ovl = none → ∃ v, (c.injUrgent now e).meas.convs = [v] ∧ (c.injUrgent now e).meas.redo = [] ∧
      c.Opens now .urgent e (c.seqEntry e) v) ∧
    ((c.injUrgent now e).meas.convs = [] → (c.injUrgent now e).meas.redo = [(.urgent, e)]) := by
  rw [Chan.injUrgent_starts now e h]
  refine ⟨by rw [Chan.startEntry_restarts, Chan.pauseSeq_restarts h],
    c.pauseSeq_keepsResults.trans (c.pauseSeq.startEntry_keepsResults now .urgent e), fun ho => ?_, fun hc => ?_⟩
  · obtain ⟨v, hv, hopens⟩ := c.pauseSeq.startConv_opens now .urgent e (c.seqEntry e)
    rw [Chan.startEntry_free now .urgent (Chan.entryFree_idle e (Chan.pauseSeq_convs h) ho)]
    rw [Chan.pauseSeq_convs h] at hv
    exact ⟨v, hv, Chan.pauseSeq_redo h, hopens.congr rfl rfl⟩
  · cases hf : c.pauseSeq.entryFree e with
    | false => rw [Chan.startEntry_waits now .urgent hf, Chan.pauseSeq_redo h, List.nil_append]
    | true =>
      obtain ⟨v, hv, -⟩ := c.pauseSeq.startConv_opens now .urgent e (c.pauseSeq.seqEntry e)
      rw [Chan.startEntry_free now .urgent hf, hv] at hc
      simp at hc

/-! ### The opportunistic request (R178) -/

theorem exec_injOpportunistic_takes {s : State} {n : Ch} (e : Entry) (h : s.takes n) :
    exec (.injOpportunistic n e) s = .next ((s.sample n).injOpp n (BitVec.ofNat 4 e.val)) := congrArg _ (h.chWrite _ _ _)

theorem State.injOpp_drops {s : State} {n : Ch} (e : BitVec 4) (h : (s.ch n).meas.convs ≠ [] ∨ (s.ch n).startsNow = true ∨
    ((s.ch n).eff.run = .strand ∧ s.mayCommit n = true)) : s.injOpp n e = s.upCh n Chan.dropInj := by
  have hbusy : (!(s.ch n).meas.convs.isEmpty || (s.ch n).startsNow || ((s.ch n).eff.run == .strand && s.mayCommit n)) = true := by
    simpa [or_assoc] using h
  unfold State.injOpp State.upCh
  dsimp only
  rw [if_pos hbusy]

theorem State.injOpp_starts {s : State} {n : Ch} (e : BitVec 4) (hc : (s.ch n).meas.convs = []) (hn : (s.ch n).startsNow = false)
    (hm : (s.ch n).eff.run ≠ .strand ∨ s.mayCommit n = false) : s.injOpp n e = s.upCh n fun c => c.startEntry s.time .opp e := by
  have hcommit : ((s.ch n).eff.run == .strand && s.mayCommit n) = false := by
    rcases hm with h | h <;> simp [h]
  unfold State.injOpp State.upCh
  dsimp only
  rw [hc, hn, hcommit]
  rfl

/-! ### The requests together -/

/-- Settles O39: the pause is told by what runs, the slot by what it holds, and an idle channel's entry finds its modulator free. -/
theorem injectionsFollowTheSlotOfDepthOne : Obligations.InjectionsFollowTheSlotOfDepthOne := by
  rintro n e s _ c ht rfl rfl
  have honly (f : Chan → Chan) := (s.sample_chOnly n).trans (State.upCh_chOnly (s.sample n) n f)
  have hpaused (h : ((s.sample n).ch n).injRuns = true ∨ ((s.sample n).ch n).calRuns = true) : ((s.sample n).ch n).paused = true := by
    rw [Chan.paused_eq, Bool.or_eq_true]
    exact h
  refine ⟨fun hi hcal => ?_, fun h hs => ?_, fun h hs => ?_, fun h => ?_, fun hc hn hm ho => ?_⟩
  · obtain ⟨hcount, hkeeps, hstarts, hwaits⟩ := Chan.injUrgent_entry s.time (BitVec.ofNat 4 e.val)
      (c := (s.sample n).ch n) (by rw [Chan.paused_eq, hi, hcal]; rfl)
    refine ⟨_, exec_injUrgent_takes e ht, honly _, ?_⟩
    rw [State.upCh_ch]
    refine ⟨hcount, hkeeps.injDrop, hkeeps.vals, hkeeps.res, fun ho => ?_, hwaits⟩
    obtain ⟨v, hv, hredo, h⟩ := hstarts ho
    exact ⟨v, hv, hredo, h.kind, h.entry, h.atOnce, h.settled⟩
  · refine ⟨_, exec_injUrgent_takes e ht, honly _, ?_⟩
    rw [State.upCh_ch, Chan.injUrgent_waits s.time _ (hpaused h) hs]
  · refine ⟨_, exec_injUrgent_takes e ht, honly _, ?_⟩
    rw [State.upCh_ch, Chan.injUrgent_drops s.time _ (hpaused h) hs, Chan.dropInj]
  · refine ⟨_, (exec_injOpportunistic_takes e ht).trans (congrArg _ (State.injOpp_drops _ h)), honly _, ?_⟩
    rw [State.upCh_ch, Chan.dropInj]
  · obtain ⟨v, hv, hopens⟩ := Chan.startConv_opens ((s.sample n).ch n) s.time .opp (BitVec.ofNat 4 e.val)
      (((s.sample n).ch n).seqEntry (BitVec.ofNat 4 e.val))
    have hkeeps := ((s.sample n).ch n).startEntry_keepsResults s.time .opp (BitVec.ofNat 4 e.val)
    refine ⟨_, v, (exec_injOpportunistic_takes e ht).trans (congrArg _ (State.injOpp_starts _ hc hn hm)), honly _, ?_⟩
    rw [State.upCh_ch]
    refine ⟨?_, hopens.kind, hopens.entry, hkeeps.injDrop, Chan.startEntry_restarts _ _ _ _⟩
    rw [Chan.startEntry_free _ .opp (Chan.entryFree_idle _ hc ho)]
    exact hv.trans (by rw [hc, List.nil_append])

end Sys2Proof.Machine
end

section
/-! SUPPORT. Conversions deliver: the end of the input settling, the result register and CH_SEQ_VAL, the demodulator's window and the sine
phase (R162, R165, R172, R179 … R183, R198, R278). -/

namespace Sys2Proof.Machine

/-! ### The end of the input settling (R172) -/

theorem exec_inputSettlingEnd_runs {s : State} (n : Ch) (h : s.runs) :
    exec (.inputSettlingEnd n) s = .next (s.upCh n fun c => c.openWindows s.time) := congrArg _ (s.live_of _ h)

/-- The conversion with its window opened, when its input settling is over at `now`. -/
def Conv.opened (v : Conv) (now : Nat) : Conv := if v.settling && decide (v.tStart ≤ now) then { v with settling := false } else v

theorem Chan.openWindows_convs (c : Chan) (now : Nat) : (c.openWindows now).meas.convs = c.meas.convs.map (·.opened now) := rfl

theorem Conv.opened_settled {v : Conv} {now : Nat} (h : (v.opened now).tStart ≤ now) : (v.opened now).settling = false := by
  unfold Conv.opened at *
  split at h
  · next hdue => rw [if_pos hdue]
  · next hdue =>
    rw [if_neg hdue]
    simpa [h] using hdue

theorem Conv.opened_of {v : Conv} {now : Nat} (h : v.settling = false ∨ now < v.tStart) : v.opened now = v := by
  refine if_neg fun hdue => ?_
  simp only [Bool.and_eq_true, decide_eq_true_eq] at hdue
  rcases h with h | h
  · simp [h] at hdue
  · omega

/-- Where no settling ends nothing changes. -/
theorem Chan.openWindows_of {c : Chan} {now : Nat} (h : ∀ v ∈ c.meas.convs, v.settling = false ∨ now < v.tStart) : c.openWindows now = c := by
  have hconvs : c.meas.convs.map (·.opened now) = c.meas.convs := (List.map_congr_left fun v hv => Conv.opened_of (h v hv)).trans (List.map_id' _)
  have hnone : c.meas.convs.find? (fun v => (v.settling && decide (v.tStart ≤ now)) && v.md == .ovl) = none := by
    refine List.find?_eq_none.mpr fun v hv hdue => ?_
    simp only [Bool.and_eq_true, decide_eq_true_eq] at hdue
    rcases h v hv with hs | hs
    · simp [hs] at hdue
    · omega
  have hc : c.openWindows now = { c with meas := { c.meas with lastOvl := c.meas.lastOvl, convs := c.meas.convs.map (·.opened now) } } := by
    unfold Chan.openWindows
    simp only [hnone]
    rfl
  rw [hc, hconvs]

/-! ### The result register (R180 … R183) -/

/-- The place of a result: what is due at the boundary of a result that stands unread, and comes before it, is overtaken (R181). -/
def MeasSt.overtakes (m : MeasSt) (r : ResultLo) (t : Nat) : Prop := m.resAt = t ∧ m.pairDone = false ∧ r.rank < m.res.rank

theorem MeasSt.publish_overtaken {m : MeasSt} {r : ResultLo} {t : Nat} (h : m.overtakes r t) :
    m.publish r t = { m with res := { m.res with overrun := true }, overruns := satInc m.overruns } := if_pos h

theorem MeasSt.publish_latest {m : MeasSt} {r : ResultLo} {t : Nat} (h : ¬ m.overtakes r t) :
    m.publish r t = { m with res := { r with overrun := !m.pairDone }, resTime := timeLo t, resAt := t, pairDone := false,
                             overruns := if m.pairDone then m.overruns else satInc m.overruns } := if_neg h

/-- The register's pair is unread behind any result, and a snapshot stays. -/
theorem MeasSt.publish_pair (m : MeasSt) (r : ResultLo) (t : Nat) :
    (m.publish r t).snap = m.snap ∧ (m.publish r t).pairDone = false ∧ (m.publish r t).vals = m.vals := by
  by_cases h : m.overtakes r t
  · rw [MeasSt.publish_overtaken h]
    exact ⟨rfl, h.2.1, rfl⟩
  · rw [MeasSt.publish_latest h]
    exact ⟨rfl, rfl, rfl⟩

/-- The result `r` of conversion `v` as the measure path takes it: a sequence's by its entry, any other one into the register alone. -/
def MeasSt.takeResult (m : MeasSt) (pub : BitVec 16) (v : Conv) (r : ResultLo) : MeasSt :=
  if v.kind = .seq then m.seqResult pub r v.tEnd else m.publish r v.tEnd

theorem MeasSt.takeResult_vals (m : MeasSt) (pub : BitVec 16) (v : Conv) (r : ResultLo) :
    (m.takeResult pub v r).vals = if v.kind = .seq then m.vals.set r.entry.toNat r else m.vals := by
  unfold MeasSt.takeResult MeasSt.seqResult
  split
  · split
    · exact (MeasSt.publish_pair _ r v.tEnd).2.2
    · rfl
  · exact (m.publish_pair r v.tEnd).2.2

/-- A sequence result that its entry does not publish leaves the register. -/
theorem MeasSt.takeResult_unpublished {m : MeasSt} {pub : BitVec 16} {v : Conv} {r : ResultLo} (hk : v.kind = .seq)
    (hp : pub.getLsbD r.entry.toNat = false) : m.takeResult pub v r = { m with vals := m.vals.set r.entry.toNat r } := by
  rw [MeasSt.takeResult, if_pos hk, MeasSt.seqResult]
  exact if_neg (Bool.eq_false_iff.mp hp)

section
variable {m : MeasSt} {pub : BitVec 16} {v : Conv} {r : ResultLo} (h : v.kind ≠ .seq ∨ pub.getLsbD r.entry.toNat = true)
include h

/-- Every other result is published, whatever becomes of CH_SEQ_VAL. -/
theorem MeasSt.takeResult_published : ∃ vals, m.takeResult pub v r = ({ m with vals := vals } : MeasSt).publish r v.tEnd := by
  unfold MeasSt.takeResult
  split
  · next hk => exact ⟨_, if_pos (h.resolve_left (absurd hk))⟩
  · exact ⟨_, rfl⟩

theorem MeasSt.takeResult_pair : (m.takeResult pub v r).snap = m.snap ∧ (m.takeResult pub v r).pairDone = false := by
  obtain ⟨vals, e⟩ := MeasSt.takeResult_published (m := m) h
  obtain ⟨hsnap, hpair, -⟩ := MeasSt.publish_pair { m with vals := vals } r v.tEnd
  rw [e]
  exact ⟨hsnap, hpair⟩

theorem MeasSt.takeResult_latest (hn : ¬ m.overtakes r v.tEnd) : (m.takeResult pub v r).res = { r with overrun := !m.pairDone } ∧
    (m.takeResult pub v r).resTime = BitVec.ofNat 32 v.tEnd ∧
    (m.takeResult pub v r).overruns = if m.pairDone then m.overruns else satInc m.overruns := by
  obtain ⟨vals, e⟩ := MeasSt.takeResult_published (m := m) h
  rw [e, MeasSt.publish_latest (m := { m with vals := vals }) hn]
  exact ⟨rfl, rfl, rfl⟩

theorem MeasSt.takeResult_overtaken (ho : m.overtakes r v.tEnd) : (m.takeResult pub v r).res = { m.res with overrun := true } ∧
    (m.takeResult pub v r).resTime = m.resTime ∧ (m.takeResult pub v r).overruns = satInc m.overruns := by
  obtain ⟨vals, e⟩ := MeasSt.takeResult_published (m := m) h
  rw [e, MeasSt.publish_overtaken (m := { m with vals := vals }) ho]
  exact ⟨rfl, rfl, rfl⟩

end

/-! ### What follows a result (R169, R170, R176, R193, R284) -/

/-- Behind channel `n`'s result: no other channel differs, the channel's results and the cells' temperatures stay, and outside a strand's
pass only its path differs. -/
structure State.Follows (s t : State) (n : Ch) : Prop where
  ch : ∀ m, m ≠ n → t.ch m = s.ch m
  results : (s.ch n).KeepsResults (t.ch n)
  temp : ∀ k, (t.cell k).temp = (s.cell k).temp
  path : (s.ch n).eff.run ≠ .strand → s.pathOnly t n

theorem State.Follows.refl (s : State) (n : Ch) : s.Follows s n :=
  ⟨fun _ _ => rfl, Chan.KeepsResults.refl _, fun _ => rfl, fun _ => State.pathOnly.refl s n⟩

theorem State.Follows.trans {a b c : State} {n : Ch} (h : a.Follows b n) (k : b.Follows c n) : a.Follows c n where
  ch m e := (k.ch m e).trans (h.ch m e)
  results := h.results.trans k.results
  temp j := (k.temp j).trans (h.temp j)
  path e := (h.path e).trans (k.path (by rwa [h.results.eff]))

theorem State.upCh_follows {s : State} {n : Ch} (f : Chan → Chan) (h : (s.ch n).KeepsResults (f (s.ch n))) : s.Follows (s.upCh n f) n where
  ch _ e := s.upCh_ch_ne f e
  results := by rwa [State.upCh_ch]
  temp _ := rfl
  path _ := s.upCh_path n f h.map

theorem State.when_follows {s : State} {n : Ch} (b : Bool) {f : State → State} (h : b = true → s.Follows (f s) n) : s.Follows (s.when b f) n := by
  cases b with
  | false => exact State.Follows.refl s n
  | true => exact h rfl

theorem State.calDrive_follows (s : State) (n : Ch) : s.Follows (s.calDrive n) n where
  ch m _ := s.calDrive_ch n m
  results := by
    rw [State.calDrive_ch]
    exact Chan.KeepsResults.refl _
  temp j := by
    unfold State.calDrive
    dsimp only
    split
    · rw [State.upCell_cell_eq]
      split
      · next h => rw [h]
      · rfl
    · rfl
  path _ := s.calDrive_path n

/-- A record enters the larder: no cell differs, and of the channels that one's larder alone. -/
theorem State.pushRecord_spec (s : State) (n : Ch) (w : Word × Word × Word × Word) : (s.pushRecord n w).cells = s.cells ∧
    (∀ m, m ≠ n → (s.pushRecord n w).ch m = s.ch m) ∧ (s.ch n).KeepsResults ((s.pushRecord n w).ch n) := by
  have hup : ∀ (t : State) (f : Chan → LarderSt), t.cells = s.cells → (∀ m, t.ch m = s.ch m) →
      (t.upCh n fun c => { c with larder := f c }).cells = s.cells ∧
      (∀ m, m ≠ n → (t.upCh n fun c => { c with larder := f c }).ch m = s.ch m) ∧
      (s.ch n).KeepsResults ((t.upCh n fun c => { c with larder := f c }).ch n) := by
    intro t f hcells hch
    refine ⟨hcells, fun m e => (t.upCh_ch_ne _ e).trans (hch m), ?_⟩
    rw [State.upCh_ch, hch]
    constructor <;> rfl
  unfold State.pushRecord
  dsimp only
  split
  · exact ⟨rfl, fun _ _ => rfl, Chan.KeepsResults.refl _⟩
  · exact hup _ _ (by simp only [State.setMemWord_cells]) fun m => by simp only [State.ch, State.setMemWord_chans]

theorem State.writeRecord_spec (s : State) (n : Ch) : (s.writeRecord n).cells = s.cells ∧
    (∀ m, m ≠ n → (s.writeRecord n).ch m = s.ch m) ∧ (s.ch n).KeepsResults ((s.writeRecord n).ch n) := by
  unfold State.writeRecord
  dsimp only
  split
  · next b _ =>
    split
    · exact ⟨rfl, fun _ _ => rfl, Chan.KeepsResults.refl _⟩
    · obtain ⟨hcells, hch, hkeeps⟩ := s.pushRecord_spec n (recWords b (s.ch n).loop.complDrove ((b.v.map (·.1)).getD 0) ((b.i.map (·.1)).getD 0)
        (b.lastEnd.getD b.commit))
      refine ⟨hcells, fun m e => (State.upCh_ch_ne _ _ e).trans (hch m e), hkeeps.trans ?_⟩
      rw [State.upCh_ch]
      constructor <;> rfl
  · exact ⟨rfl, fun _ _ => rfl, Chan.KeepsResults.refl _⟩

theorem State.writeRecord_follows {s : State} {n : Ch} (h : (s.ch n).eff.run = .strand) : s.Follows (s.writeRecord n) n := by
  obtain ⟨hcells, hch, hkeeps⟩ := s.writeRecord_spec n
  refine ⟨hch, hkeeps, fun k => ?_, fun hne => absurd h hne⟩
  rw [State.cell, hcells]
  rfl

theorem State.endPass_follows (s : State) (n : Ch) : s.Follows (s.endPass n) n := by
  refine State.Follows.trans (State.upCh_follows _ (by constructor <;> rfl)) (State.Follows.trans (State.when_follows _ fun h => ?_)
    (State.upCh_follows _ ?_))
  · exact State.writeRecord_follows (by simpa using h)
  · exact Chan.KeepsResults.ite (Chan.beginPass_keepsResults _) (Chan.KeepsResults.refl _)

/-- The channel with a result taken. -/
def Chan.withResult (c : Chan) (v : Conv) (r : ResultLo) : Chan := { c with meas := c.meas.takeResult c.eff.pubMask v r }

theorem Chan.withResult_seq {c : Chan} {v : Conv} (r : ResultLo) (h : v.kind = .seq) :
    c.withResult v r = { c with meas := c.meas.seqResult c.eff.pubMask r v.tEnd } := by
  unfold Chan.withResult MeasSt.takeResult
  rw [if_pos h]

theorem Chan.withResult_injected {c : Chan} {v : Conv} (r : ResultLo) (h : v.kind ≠ .seq) :
    c.withResult v r = { c with meas := c.meas.publish r v.tEnd } := by
  unfold Chan.withResult MeasSt.takeResult
  rw [if_neg h]

theorem State.upCh_upCh (s : State) (n : Ch) (f g : Chan → Chan) : (s.upCh n f).upCh n g = s.upCh n fun c => g (f c) := by
  unfold State.upCh
  rw [State.setCh_setCh, State.setCh_ch]

theorem State.deliverSeq_follows {s : State} {n : Ch} {v : Conv} (r : ResultLo) (hk : v.kind = .seq) :
    (s.upCh n fun c => c.withResult v r).Follows (s.deliverSeq n v r) n := by
  have hleave : (s.upCh n fun c => ({ c with meas := c.meas.seqResult c.eff.pubMask r v.tEnd }.recordResult v.input r v.tEnd).leaveConv v) =
      (s.upCh n fun c => c.withResult v r).upCh n fun c => (c.recordResult v.input r v.tEnd).leaveConv v := by
    rw [State.upCh_upCh]
    simp only [Chan.withResult_seq r hk]
  unfold State.deliverSeq
  dsimp only
  rw [hleave]
  refine (State.upCh_follows _ ?_).trans ((State.when_follows _ fun _ => State.upCh_follows _ ?_).trans
    (State.when_follows _ fun _ => State.endPass_follows _ n))
  · refine Chan.KeepsResults.trans ?_ (Chan.leaveConv_keepsResults _ v)
    constructor <;> rfl
  · constructor <;> rfl

theorem State.deliverInjected_follows {s : State} {n : Ch} {v : Conv} (r : ResultLo) (hk : v.kind ≠ .seq) :
    (s.upCh n fun c => c.withResult v r).Follows (s.deliverInjected n v r) n := by
  have hleave : (s.upCh n fun c => ({ c with meas := c.meas.publish r v.tEnd }.leaveConv v).serveSlot s.time) =
      (s.upCh n fun c => c.withResult v r).upCh n fun c => (c.leaveConv v).serveSlot s.time := by
    rw [State.upCh_upCh]
    simp only [Chan.withResult_injected r hk]
  unfold State.deliverInjected
  rw [hleave]
  exact (State.upCh_follows _ ((Chan.leaveConv_keepsResults _ v).trans (Chan.serveSlot_keepsResults _ _))).trans (State.calDrive_follows _ n)

/-- The delivery of a conversion by its kind. -/
def State.deliver (s : State) (n : Ch) (v : Conv) (r : ResultLo) : State := if v.kind = .seq then s.deliverSeq n v r else s.deliverInjected n v r

theorem State.deliver_follows (s : State) (n : Ch) (v : Conv) (r : ResultLo) :
    (s.upCh n fun c => c.withResult v r).Follows (s.deliver n v r) n := by
  unfold State.deliver
  split
  · next hk => exact State.deliverSeq_follows r hk
  · next hk => exact State.deliverInjected_follows r hk

/-! ### CONVERSION_COMPLETE (R162, R210) -/

/-- A temperature changes no channel; it reaches its cell, and messages and live bits may follow (R364, R367). -/
theorem State.readTemp_spec (s : State) (k : CellIx) (v : BitVec 24) :
    (∀ m, (s.readTemp k v).ch m = s.ch m) ∧ ((s.readTemp k v).cell k).temp = v := by
  unfold State.readTemp
  dsimp only
  have hup : ∀ t : State, t.chans = (s.upCell k fun y => { y with temp := v }).chans → t.cells = (s.upCell k fun y => { y with temp := v }).cells →
      (∀ m, t.ch m = s.ch m) ∧ (t.cell k).temp = v := by
    intro t hch hcell
    refine ⟨fun m => by rw [State.ch, hch]; rfl, ?_⟩
    rw [State.cell, hcell]
    exact congrArg Cell.temp (s.upCell_cell k _)
  refine hup _ ?_ ?_
  all_goals repeat' split
  all_goals rfl

/-- The temperature that a result of input 4 is. -/
def State.noteTemp (s : State) (k : CellIx) (v : Conv) (r : ResultLo) : State := if v.input = 4 then s.readTemp k r.value else s

theorem State.noteTemp_ch (s : State) (k : CellIx) (v : Conv) (r : ResultLo) (m : Ch) : (s.noteTemp k v r).ch m = s.ch m := by
  unfold State.noteTemp
  split
  · exact (s.readTemp_spec k r.value).1 m
  · rfl

theorem exec_conversionComplete_delivers {s : State} {n : Ch} {m : Modulator} {k : CellIx} {v : Conv} (x : ConvIn) (hr : s.runs)
    (hk : (s.ch n).map.cell = some k) (hm : (s.ch n).map.member = false) (hv : (s.ch n).endedConv m false s.time = some v) :
    exec (.conversionComplete n m x) s = .next ((s.noteTemp k v (s.resultOf n k v x)).deliver n v (s.resultOf n k v x)) := by
  refine (congrArg Host.Outcome.next (s.live_of _ hr)).trans ?_
  simp only [hk, hm, hv, Bool.false_eq_true, if_false]
  rfl

theorem State.resultOf_injected (s : State) (n : Ch) (k : CellIx) (v : Conv) (x : ConvIn) :
    (s.resultOf n k v x).injected = (v.kind != .seq) := by
  unfold State.resultOf
  split <;> rfl

/-- A delivered result: the channel shows it as `withResult` says, and what follows keeps to the channel's path. -/
theorem exec_conversionComplete_spec {s : State} {n : Ch} {m : Modulator} {k : CellIx} {v : Conv} (x : ConvIn) (hr : s.runs)
    (hk : (s.ch n).map.cell = some k) (hm : (s.ch n).map.member = false) (hv : (s.ch n).endedConv m false s.time = some v) :
    ∃ t, exec (.conversionComplete n m x) s = .next t ∧ (∀ j, j ≠ n → t.ch j = s.ch j) ∧
      ((s.ch n).withResult v (s.resultOf n k v x)).KeepsResults (t.ch n) ∧
      (v.input ≠ 4 → (s.ch n).eff.run ≠ .strand → s.pathOnly t n) ∧ (v.input = 4 → (t.cell k).temp = (s.resultOf n k v x).value) := by
  generalize hres : s.resultOf n k v x = r
  have hfollows := (s.noteTemp k v r).deliver_follows n v r
  have hch := s.noteTemp_ch k v r
  refine ⟨_, (exec_conversionComplete_delivers x hr hk hm hv).trans (by rw [hres]), fun j e => ?_, ?_, fun hi hs => ?_, fun hi => ?_⟩
  · rw [hfollows.ch j e, State.upCh_ch_ne _ _ e, hch]
  · have h := hfollows.results
    rwa [State.upCh_ch, hch] at h
  · have hsame : s.noteTemp k v r = s := if_neg hi
    rw [hsame] at hfollows ⊢
    exact (s.upCh_path n (fun c => c.withResult v r) rfl).trans (hfollows.path (by rwa [State.upCh_ch]))
  · have htemp : s.noteTemp k v r = s.readTemp k r.value := if_pos hi
    rw [hfollows.temp k, htemp]
    exact (s.readTemp_spec k r.value).2

/-! ### The corrected value (R165) -/

/-- Input 0 at gain 1 on the internal reference is corrected by the voltage range's entry alone. -/
theorem State.convValue_voltage {s : State} {n : Ch} {k : CellIx} {v : Conv} {x : ConvIn} (hi : v.input = 0) (hd : v.md = .v)
    (hg : v.gain = 0) (ho : x.overSpan = false) (he : (s.bay (CellIx.bay k)).vrefExt = false) :
    s.convValue n k v x none = correct x.raw.toInt ((s.cell k).trim (entryV (s.ch n).range.v)) := by
  simp [State.convValue, State.inputValue, State.corrected, State.rawOf, hi, hd, hg, ho, he]

theorem State.resultOf_voltage {s : State} {n : Ch} {k : CellIx} {v : Conv} {x : ConvIn} (hi : v.input = 0) (hd : v.md = .v)
    (hg : v.gain = 0) (ho : x.overSpan = false) (he : (s.bay (CellIx.bay k)).vrefExt = false) :
    (s.resultOf n k v x).value = BitVec.ofInt 24 (correct x.raw.toInt ((s.cell k).trim (entryV (s.ch n).range.v))).1 ∧
    (s.resultOf n k v x).clip = (v.clip || (correct x.raw.toInt ((s.cell k).trim (entryV (s.ch n).range.v))).2) := by
  have hno : ¬ (v.input = 3 ∧ v.ovl.isNone = true) := by simp [hi]
  rw [State.resultOf, if_neg hno, State.convValue_voltage hi hd hg ho he]
  exact ⟨rfl, Bool.or_comm _ _⟩

/-! ### The demodulator and the sine phase (R198, R278) -/

theorem DemodSt.wrap_last {d : DemodSt} (en : Bool) {cyc : BitVec 16} (mixed : Bool) (t : Nat) (ho : d.open_ = true)
    (hw : cyc.toNat ≤ d.wraps + 1) : d.wrap en cyc mixed t =
      { (DemodSt.openIf { d with on := en, cycles := cyc } (en && !mixed)) with fin := some (d.sVi, d.sVq, d.sIi, d.sIq, d.n, t) } := by
  simp only [DemodSt.wrap, ho, hw, if_true]

theorem exec_demodWindowEnd_runs {s : State} (n : Ch) (h : s.runs) : exec (.demodWindowEnd n) s =
    .next (s.upCh n fun c => { c with meas := { c.meas with demod := c.meas.demod.finish } }) := congrArg _ (s.live_of _ h)

theorem DemodSt.finish_window {d : DemodSt} {a b c e : Int} {m t : Nat} (h : d.fin = some (a, b, c, e, m, t)) : d.finish =
    { d with vi := demodOut a m, vq := demodOut b m, ii := demodOut c m, iq := demodOut e m, time := timeLo t, new := true, fin := none } := by
  simp only [DemodSt.finish, h]

theorem DemodSt.finish_idle {d : DemodSt} (h : d.fin = none) : d.finish = d := by
  simp only [DemodSt.finish, h]

theorem exec_sinePhaseWrite_takes {s : State} {n : Ch} (v : Word) (h : s.takes n) :
    exec (.sinePhaseWrite n v) s = .next ((s.sample n).upCh n fun c => { c with phase := v }) := congrArg _ (h.chWrite _ _ _)

/-! ### Delivery as a whole -/

/-- Settles O38: each event by its own lemma; a completed conversion through `withResult`, which what follows keeps. -/
theorem conversionsDeliverTheirResults : Obligations.ConversionsDeliverTheirResults := by
  intro n s hr
  refine ⟨?_, ?_, fun k x v om gm hi hd hg ho he htrim => ?_, fun d en cyc mixed t0 ho hw => ?_, fun a b c e m t0 hfin => ?_, fun hfin => ?_,
    fun v ht => ?_⟩
  · refine ⟨_, exec_inputSettlingEnd_runs n hr, s.upCh_chOnly n _, ?_⟩
    rw [State.upCh_ch, Chan.openWindows_convs]
    refine ⟨rfl, List.length_map _, fun v hv ht => ?_, fun h => s.upCh_same n _ (Chan.openWindows_of h), fun v hv h => ?_⟩
    · obtain ⟨w, -, rfl⟩ := List.mem_map.mp hv
      exact Conv.opened_settled ht
    · exact List.mem_map.mpr ⟨v, hv, Conv.opened_of h⟩
  · rintro m k x v _ hk hm hv rfl
    obtain ⟨t, he, hch, hkeeps, hpath, htemp⟩ := exec_conversionComplete_spec x hr hk hm hv
    have hinj := s.resultOf_injected n k v x
    generalize s.resultOf n k v x = r at *
    have hvals := hkeeps.vals.trans (MeasSt.takeResult_vals (s.ch n).meas (s.ch n).eff.pubMask v r)
    refine ⟨t, he, hch, hkeeps.cfg, hpath, htemp, fun hk => ?_, fun hk => ⟨?_, ?_⟩, fun hp => ?_, fun hk hp => ?_⟩
    · rw [hvals, if_pos hk]
    · rw [hvals, if_neg hk]
    · simpa [hinj] using hk
    · obtain ⟨hsnap, hpair⟩ := MeasSt.takeResult_pair (m := (s.ch n).meas) hp
      refine ⟨hkeeps.snap.trans hsnap, hkeeps.pairDone.trans hpair, fun hn => ?_, fun ha hd hrank => ?_⟩
      · rw [hkeeps.res, hkeeps.resTime, hkeeps.overruns]
        exact MeasSt.takeResult_latest hp hn
      · rw [hkeeps.res, hkeeps.resTime, hkeeps.overruns]
        exact MeasSt.takeResult_overtaken hp ⟨ha, hd, hrank⟩
    · rw [hkeeps.res, hkeeps.overruns]
      unfold Chan.withResult
      rw [MeasSt.takeResult_unpublished hk hp]
      exact ⟨rfl, rfl⟩
  · obtain ⟨hvalue, hclip⟩ := State.resultOf_voltage (n := n) hi hd hg ho he
    have hentry : (s.cell k).trim (entryV (s.ch n).range.v) = (om, gm) := htrim.symm
    rw [hvalue, hclip, hentry]
    exact ⟨rfl, rfl⟩
  · rw [DemodSt.wrap_last en mixed t0 ho hw]
    exact ⟨rfl, rfl, rfl, rfl, rfl⟩
  · refine ⟨_, exec_demodWindowEnd_runs n hr, s.upCh_chOnly n _, ?_⟩
    rw [State.upCh_ch, DemodSt.finish_window hfin]
    exact ⟨rfl, rfl, rfl, rfl, rfl, rfl, rfl, rfl, rfl, rfl, rfl⟩
  · rw [exec_demodWindowEnd_runs n hr, s.upCh_same n _ (by rw [DemodSt.finish_idle hfin])]
  · refine ⟨_, exec_sinePhaseWrite_takes v ht, (s.sample_chOnly n).trans (State.upCh_chOnly _ n _), ?_⟩
    simp

end Sys2Proof.Machine
end

section
/-! SUPPORT. Calibration sessions: ZERO with its checks, FULL, COMMIT and DISCARD, and the points of a measure entry (R190 … R196, R207). -/

namespace Sys2Proof.Machine

/-! ### A point that starts or waits (R193) -/

@[simp] theorem Chan.calStart_cal (c : Chan) (now : Nat) : (c.calStart now).meas.cal = c.meas.cal := by
  unfold Chan.calStart
  dsimp only
  split <;> rfl

@[simp] theorem Chan.calStart_restarts (c : Chan) (now : Nat) : (c.calStart now).meas.restarts = c.meas.restarts := by
  unfold Chan.calStart
  dsimp only
  split <;> rfl

/-- Of the conversions, a calibration's alone joins. -/
theorem Chan.calStart_convs {c : Chan} (now : Nat) (h : c.meas.convs = []) : ∀ v ∈ (c.calStart now).meas.convs, v.kind = .cal := by
  unfold Chan.calStart
  dsimp only
  split
  · simp [h]
  · simp [h]

/-- An injected conversion runs or waits: a calibration point waits behind it. -/
theorem Chan.calPoint_waits {c : Chan} (now : Nat) (full : Bool) (h : c.injRuns = true ∨ c.meas.injHeld ≠ none) :
    c.calPoint now full = { c with meas := { c.meas with cal := { c.meas.cal with st := .wait, waitFull := full } } } := by
  refine if_pos ?_
  rw [Bool.or_assoc]
  show (c.meas.injHeld.isSome || c.injRuns) = true
  rcases h with h | h
  · simp [h]
  · simp [Option.isSome_iff_ne_none.mpr h]

/-- The session with its point converting. -/
def CalSt.running (c : CalSt) (full : Bool) : CalSt :=
  { c with st := if c.target = 30 then .forceRun else if full then .fullRun else .zeroRun, waitFull := false }

section
variable {c : Chan} (hi : c.injRuns = false) (hh : c.meas.injHeld = none)
include hi hh

theorem Chan.calPoint_starts (now : Nat) (full : Bool) :
    c.calPoint now full = (Chan.pauseSeq { c with meas := { c.meas with cal := c.meas.cal.running full } }).calStart now := by
  refine if_neg ?_
  rw [Bool.or_assoc]
  show ¬ (c.meas.injHeld.isSome || c.injRuns) = true
  simp [hi, hh]

theorem Chan.calPoint_cal (now : Nat) (full : Bool) : (c.calPoint now full).meas.cal = c.meas.cal.running full := by
  rw [Chan.calPoint_starts hi hh, Chan.calStart_cal]
  rfl

/-- The point's start aborts what the sequence runs, counted. -/
theorem Chan.calPoint_aborts (now : Nat) (full : Bool) (hc : c.calRuns = false) : (∀ v ∈ (c.calPoint now full).meas.convs, v.kind = .cal) ∧
    (c.calPoint now full).meas.restarts = satAdd c.meas.restarts c.meas.convs.length := by
  have hp : Chan.paused { c with meas := { c.meas with cal := c.meas.cal.running full } } = false := by
    have h := c.paused_eq
    rw [hi, hc] at h
    exact h
  rw [Chan.calPoint_starts hi hh]
  exact ⟨Chan.calStart_convs now (Chan.pauseSeq_convs hp), (Chan.calStart_restarts _ now).trans (Chan.pauseSeq_restarts hp)⟩

end

/-! ### ZERO (R190, R193) -/

/-- TARGET latched and sampled. -/
def State.setTarget (s : State) (n : Ch) (g : BitVec 5) : State := (s.upCh n fun x => { x with cfg := { x.cfg with calTarget := g } }).sample n

theorem State.setTarget_chOnly (s : State) (n : Ch) (g : BitVec 5) : s.chOnly (s.setTarget n g) n :=
  (s.upCh_chOnly n _).trans (State.sample_chOnly _ n)

theorem State.setTarget_path (s : State) (n : Ch) (g : BitVec 5) : s.pathOnly (s.setTarget n g) n :=
  (s.upCh_path n (fun x => { x with cfg := { x.cfg with calTarget := g } }) rfl).trans (State.sample_path _ n)

@[simp] theorem State.setTarget_meas (s : State) (n : Ch) (g : BitVec 5) : ((s.setTarget n g).ch n).meas = (s.ch n).meas := by
  simp [State.setTarget]

@[simp] theorem State.setTarget_cfg (s : State) (n : Ch) (g : BitVec 5) :
    ((s.setTarget n g).ch n).cfg = { (s.ch n).cfg with calTarget := g } := by
  simp [State.setTarget]

theorem exec_calZero_takes {s : State} {n : Ch} (g : BitVec 5) (h : s.takes n) :
    exec (.calZero n g) s = .next ((s.setTarget n g).calZero n g) := congrArg _ (h.chWrite _ _ _)

theorem State.calZero_refused {s : State} {n : Ch} {g : BitVec 5} {r : CalResult} (h : (s.ch n).calCheck g = some r) :
    s.calZero n g = s.upCh n fun c => c.calRefuse r := by
  simp only [State.calZero, h]

/-- The channel with a session opened for target `g`, before its point starts. -/
def Chan.openSession (c : Chan) (g : BitVec 5) : Chan :=
  { c.squash with meas := { c.squash.meas with cal := { c.squash.meas.cal with target := g, clipped := false, z := 0, m1 := none } } }

theorem State.calZero_admitted {s : State} {n : Ch} {g : BitVec 5} (h : (s.ch n).calCheck g = none) :
    s.calZero n g = (s.upCh n fun c => (c.openSession g).calPoint s.time false).calDrive n := by
  simp only [State.calZero, h]
  rfl

/-- The squash that opens a session leaves the conversions and the registers alone. -/
theorem Chan.openSession_spec (c : Chan) (g : BitVec 5) : c.KeepsResults (c.openSession g) ∧
    (c.openSession g).meas = { c.meas with cal := { c.meas.cal with target := g, clipped := false, z := 0, m1 := none } } := by
  obtain ⟨r, h, -⟩ := c.squash_spec
  unfold Chan.openSession
  rw [h]
  exact ⟨by constructor <;> rfl, rfl⟩

theorem Chan.injRuns_congr {c d : Chan} (hc : d.meas.convs = c.meas.convs) (hr : d.meas.redo = c.meas.redo) : d.injRuns = c.injRuns := by
  rw [Chan.injRuns, Chan.injRuns, hc, hr]

theorem Chan.calRuns_congr {c d : Chan} (hc : d.meas.convs = c.meas.convs) (hr : d.meas.redo = c.meas.redo) : d.calRuns = c.calRuns := by
  rw [Chan.calRuns, Chan.calRuns, hc, hr]

/-- An admitted ZERO: the session waits behind an injected conversion, or its point starts and the conversions abort. -/
theorem Chan.calZero_session (c : Chan) (g : BitVec 5) (now : Nat) :
    c.KeepsResults ((c.openSession g).calPoint now false) ∧ ((c.openSession g).calPoint now false).meas.cal.target = g ∧
    (c.injRuns = true ∨ c.meas.injHeld ≠ none → ((c.openSession g).calPoint now false).meas.cal.st = .wait ∧
      ((c.openSession g).calPoint now false).meas.convs = c.meas.convs) ∧
    (c.injRuns = false → c.meas.injHeld = none → c.calRuns = false →
      ((c.openSession g).calPoint now false).meas.cal.st = (if g = 30 then .forceRun else .zeroRun) ∧
      (∀ v ∈ ((c.openSession g).calPoint now false).meas.convs, v.kind = .cal) ∧
      ((c.openSession g).calPoint now false).meas.restarts = satAdd c.meas.restarts c.meas.convs.length) := by
  obtain ⟨hkeeps, hmeas⟩ := c.openSession_spec g
  have hinj : (c.openSession g).injRuns = c.injRuns := Chan.injRuns_congr (by rw [hmeas]) (by rw [hmeas])
  have hcal : (c.openSession g).calRuns = c.calRuns := Chan.calRuns_congr (by rw [hmeas]) (by rw [hmeas])
  have hheld : (c.openSession g).meas.injHeld = c.meas.injHeld := by rw [hmeas]
  have hwaits (h : c.injRuns = true ∨ c.meas.injHeld ≠ none) := Chan.calPoint_waits (c := c.openSession g) now false (by rwa [hinj, hheld])
  have hstarts (hi : c.injRuns = false) (hh : c.meas.injHeld = none) :=
    Chan.calPoint_cal (c := c.openSession g) (by rwa [hinj]) (by rwa [hheld]) now false
  refine ⟨hkeeps.trans (Chan.calPoint_keepsResults _ now false), ?_, fun h => ?_, fun hi hh hc => ⟨?_, ?_⟩⟩
  · by_cases h : c.injRuns = true ∨ c.meas.injHeld ≠ none
    · rw [hwaits h, hmeas]
    · simp only [not_or, Bool.not_eq_true, not_not] at h
      rw [hstarts h.1 h.2, hmeas]
      rfl
  · rw [hwaits h, hmeas]
    exact ⟨rfl, rfl⟩
  · rw [hstarts hi hh, hmeas]
    rfl
  · have haborts := Chan.calPoint_aborts (c := c.openSession g) (by rwa [hinj]) (by rwa [hheld]) now false (by rwa [hcal])
    rwa [hmeas] at haborts

/-! ### FULL (R191, R195) -/

theorem exec_calFull_takes {s : State} {n : Ch} (h : s.takes n) :
    exec (.calFull n) s = .next ((s.sample n).upCh n fun c => c.calFull s.time) := congrArg _ (h.chWrite _ _ _)

theorem Chan.calFull_zeroDone {c : Chan} (now : Nat) (h : c.meas.cal.st = .zeroDone) : c.calFull now = c.calPoint now true := by
  simp only [Chan.calFull, h]

/-- A session whose point converts or waits: FULL and COMMIT come too early. -/
def CalSt.atPoint (c : CalSt) : Prop := c.st = .zeroRun ∨ c.st = .wait ∨ c.st = .fullRun

theorem Chan.calFull_early {c : Chan} (now : Nat) (h : c.meas.cal.atPoint) : c.calFull now = c.calEnd .order := by
  rcases h with h | h | h <;> simp only [Chan.calFull, h]

/-! ### COMMIT and DISCARD (R195, R207) -/

/-- The latch of the DAC code leaves every locket and the measure path alone. -/
theorem State.latchDac_locket (s : State) (n : Ch) (k : CellIx) : ((s.latchDac n).cell k).locket = (s.cell k).locket := by
  have hcell : ∀ (j : CellIx) (t : State), ((t.latchCell n j).cell k).locket = (t.cell k).locket := by
    intro j t
    show ((t.upCell j fun x => { x with dac := (t.dacOn j (t.ch n).range.v (t.ch n).force.code).1 }).cell k).locket = _
    rw [State.upCell_cell_eq]
    split
    · next h => rw [h]
    · rfl
  unfold State.latchDac
  dsimp only
  split
  · exact State.each_keeps (fun t : State => (t.cell k).locket) (fun j t => t.latchCell n j) hcell _ s
  · rfl

@[simp] theorem State.latchDac_meas (s : State) (n : Ch) : ((s.latchDac n).ch n).meas = (s.ch n).meas := by
  rw [State.latchDac_ch]

theorem exec_calCommit_takes {s : State} {n : Ch} (h : s.takes n) :
    exec (.calCommit n) s = .next (((s.sample n).calCommit n).latchDac n) := congrArg _ (h.chWrite _ _ _)

theorem State.calCommit_early {s : State} {n : Ch} {k : CellIx} (hk : (s.ch n).map.cell = some k) (h : (s.ch n).meas.cal.atPoint) :
    s.calCommit n = s.upCh n fun c => c.calEnd .order := by
  rcases h with h | h | h <;> simp [State.calCommit, hk, h]

/-- The trims apply; a cellar that is not READY stores none of them (log entry 42). -/
theorem State.calCommit_notStored {s : State} {n : Ch} {k : CellIx} (hk : (s.ch n).map.cell = some k) (h : (s.ch n).meas.cal.st = .ready)
    (hc : s.cel.st ≠ .ready) : s.calCommit n =
      (s.upCell k fun x => x.applyCal (s.ch n).meas.cal (s.ch n).range.v (s.ticks / 32768)).upCh n fun c => c.calEnd .notStored := by
  simp [State.calCommit, hk, h, hc]

theorem Cell.applyCal_measure (x : Cell) {c : CalSt} (v : BitVec 4) (t : Nat) (h : c.target ≠ 30) :
    (x.applyCal c v t).locket.meas = x.locket.meas.set! c.target.toNat (c.om, c.gm) ∧
    (x.applyCal c v t).locket.modified = x.locket.modified ||| (1#32 <<< c.target.toNat) := by
  rw [Cell.applyCal, if_neg h]
  exact ⟨rfl, rfl⟩

theorem exec_calDiscard_takes {s : State} {n : Ch} (h : s.takes n) :
    exec (.calDiscard n) s = .next (((s.sample n).upCh n Chan.calDiscard).latchDac n) := congrArg _ (h.chWrite _ _ _)

theorem Chan.calDiscard_open {c : Chan} (hi : c.meas.cal.st ≠ .idle) (hs : c.meas.cal.st ≠ .storing) : c.calDiscard = c.calEnd .discarded := by
  unfold Chan.calDiscard
  split
  · next h => exact absurd h hi
  · next h => exact absurd h hs
  · rfl

/-! ### The points of a measure entry (R191, R192) -/

/-- The point judged by its step: the zero point, the full point or a force point. -/
def Chan.judgePoint (c : Chan) (x : Int) (clip : Bool) (gm : Word) (now : Nat) : Chan :=
  match c.meas.cal.st with
  | .zeroRun => c.zeroPoint x clip gm
  | .fullRun => c.fullPoint x clip
  | .forceRun => c.forcePoint x now
  | _ => c

/-- The channel without the conversion that has ended. -/
def Chan.dropConv (c : Chan) (v : Conv) : Chan := { c with meas := { c.meas with convs := c.meas.convs.erase v } }

/-- The conversion of a point leaves, the point is judged, and what waited behind it follows (R193). -/
def Chan.pointDone (c : Chan) (v : Conv) (x : Int) (clip : Bool) (gm : Word) (now : Nat) : Chan :=
  let d := (c.dropConv v).judgePoint x clip gm now
  if d.calRuns then d else d.serveSlot now

theorem exec_calConversionComplete_point {s : State} {n : Ch} {k : CellIx} {v : Conv} (x : ConvIn) (hr : s.runs)
    (hk : (s.ch n).map.cell = some k) (hv : (s.ch n).endedConv (calMod (s.ch n).meas.cal.target) true s.time = some v)
    (ht : (s.ch n).meas.cal.target.toNat < 29) (ho : x.overSpan = false) :
    exec (.calConversionComplete n x) s = .next (((s.upCh n fun c => c.pointDone v
      (s.convValue n k v x (some (s.ch n).meas.cal.target.toNat)).1 (s.convValue n k v x (some (s.ch n).meas.cal.target.toNat)).2
      ((s.cell k).trim (s.ch n).meas.cal.target.toNat).2 s.time).latchDac n).calDrive n) := by
  have h30 : (s.ch n).meas.cal.target ≠ 30 := by
    intro h
    simp [h] at ht
  refine (congrArg Host.Outcome.next (s.live_of _ hr)).trans ?_
  simp only [hk, hv, h30, ho, if_false, Bool.or_false]
  rfl

/-- Serving the slot behind a judged point leaves the session as judged. -/
theorem Chan.pointDone_cal {c d : Chan} {v : Conv} {x : Int} {clip : Bool} {gm : Word} {now : Nat}
    (h : (c.dropConv v).judgePoint x clip gm now = d) (hst : d.meas.cal.st ≠ .wait)
    (hm : d.map = c.map) : (c.pointDone v x clip gm now).meas.cal = d.meas.cal ∧ (c.pointDone v x clip gm now).map = c.map := by
  unfold Chan.pointDone
  dsimp only
  rw [h]
  split
  · exact ⟨rfl, hm⟩
  · exact ⟨Chan.serveSlot_cal now hst, (d.serveSlot_keepsResults now).map.trans hm⟩

theorem Chan.judgePoint_zero {c : Chan} {x : Int} {gm : Word} {now : Nat} (h : c.meas.cal.st = .zeroRun) (ht : c.meas.cal.target ≠ 29) :
    c.judgePoint x false gm now =
      { c with meas := { c.meas with cal := { c.meas.cal with st := .zeroDone, result := .ok, done := true, z := x } } } := by
  simp only [Chan.judgePoint, Chan.zeroPoint, h, ht, Bool.false_eq_true, if_false]

theorem Chan.judgePoint_fullRun {c : Chan} (x : Int) (gm : Word) (now : Nat) (h : c.meas.cal.st = .fullRun) :
    c.judgePoint x false gm now = c.fullPoint x false := by
  simp only [Chan.judgePoint, h]

section
variable {c : Chan} {x : Int}
  (hx : (2 : Int) ^ 21 ≤ (c.eff.calRef.toInt.natAbs : Int) * 2 ^ (calInput c.meas.cal.target).2.toNat)
include hx

/-- F lies on the side of Z that the standard's sign asks for, and both trims in their spans (R192). -/
theorem Chan.fullPoint_ready (hz : x ≠ c.meas.cal.z) (hs : x - c.meas.cal.z < 0 ↔ c.eff.calRef.toInt < 0)
    (hg : gmOk (gainTrim c.meas.cal.z x c.eff.calRef.toInt) = true) (ho : omOk c.meas.cal.z = true) : c.fullPoint x false =
      { c with meas := { c.meas with cal := c.meas.cal.ready c.meas.cal.z (gainTrim c.meas.cal.z x c.eff.calRef.toInt) } } := by
  unfold Chan.fullPoint
  dsimp only
  rw [if_neg (Int.not_lt.mpr hx), if_neg Bool.false_ne_true, if_neg (by simp [hz, hs, hg, ho])]

/-- With F = Z there is no gain. -/
theorem Chan.fullPoint_flat (hz : x = c.meas.cal.z) : c.fullPoint x false = c.calEnd .outOfSpan := by
  unfold Chan.fullPoint
  dsimp only
  rw [if_neg (Int.not_lt.mpr hx), if_neg Bool.false_ne_true, if_pos (.inl hz)]

end

/-! ### The sessions together -/

/-- A completed point's command: the path alone differs, and the session is as `judgePoint` leaves it. -/
theorem exec_calConversionComplete_spec {s : State} {n : Ch} {k : CellIx} {v : Conv} (x : ConvIn) {r : Int × Bool} (hr : s.runs)
    (hk : (s.ch n).map.cell = some k) (hv : (s.ch n).endedConv (calMod (s.ch n).meas.cal.target) true s.time = some v)
    (ht : (s.ch n).meas.cal.target.toNat < 29) (ho : x.overSpan = false)
    (he : r = s.convValue n k v x (some (s.ch n).meas.cal.target.toNat)) (hc : r.2 = false) {d : Chan}
    (hd : ∀ gm, ((s.ch n).dropConv v).judgePoint r.1 false gm s.time = d)
    (hst : d.meas.cal.st ≠ .wait) (hm : d.map = (s.ch n).map) :
    ∃ t, exec (.calConversionComplete n x) s = .next t ∧ s.pathOnly t n ∧ (t.ch n).meas.cal = d.meas.cal := by
  obtain ⟨hcal, hmap⟩ := Chan.pointDone_cal (hd ((s.cell k).trim (s.ch n).meas.cal.target.toNat).2) hst hm
  have hexec := exec_calConversionComplete_point x hr hk hv ht ho
  rw [← he, hc] at hexec
  refine ⟨_, hexec, (s.upCh_path n _ hmap).trans ((State.latchDac_path _ n).trans (State.calDrive_path _ n)), ?_⟩
  rw [State.calDrive_ch, State.latchDac_meas, State.upCh_ch]
  exact hcal

/-- Settles O40: ZERO by its check and by what runs, FULL, COMMIT and DISCARD by the session's state, the points by `judgePoint`. -/
theorem calibrationSessionsFollowTheirSteps : Obligations.CalibrationSessionsFollowTheirSteps := by
  intro n s u c
  refine ⟨?_, ?_⟩
  · rintro ht rfl rfl
    have honly (f : Chan → Chan) := (s.sample_chOnly n).trans (State.upCh_chOnly (s.sample n) n f)
    have hcell {k : CellIx} (hk : (s.ch n).map.cell = some k) : ((s.sample n).ch n).map.cell = some k := by simpa using hk
    refine ⟨?_, fun hst hi hh hg => ?_, fun hst => ⟨?_, fun k hk => ?_⟩, fun hst k hk hg hc => ?_, fun hi hs => ?_⟩
    · rintro g _ rfl
      refine ⟨fun r h => ?_, fun h => ?_⟩
      · refine ⟨_, (exec_calZero_takes g ht).trans (congrArg _ (State.calZero_refused h)),
          (s.setTarget_chOnly n g).trans (State.upCh_chOnly _ n _), ?_⟩
        rw [State.upCh_ch]
        rfl
      · obtain ⟨hkeeps, htarget, hwaits, hstarts⟩ := ((s.setTarget n g).ch n).calZero_session g s.time
        refine ⟨_, (exec_calZero_takes g ht).trans (congrArg _ (State.calZero_admitted h)),
          (s.setTarget_path n g).trans ((State.upCh_path _ n _ hkeeps.map).trans (State.calDrive_path _ n)), ?_⟩
        rw [State.calDrive_ch, State.upCh_ch]
        have hmeas : ((s.setTarget n g).ch n).meas = ((s.sample n).ch n).meas := by simp
        have hinj : ((s.setTarget n g).ch n).injRuns = ((s.sample n).ch n).injRuns := Chan.injRuns_congr (by rw [hmeas]) (by rw [hmeas])
        have hcal : ((s.setTarget n g).ch n).calRuns = ((s.sample n).ch n).calRuns := Chan.calRuns_congr (by rw [hmeas]) (by rw [hmeas])
        rw [hinj, hmeas] at hwaits
        rw [hinj, hcal, hmeas] at hstarts
        exact ⟨htarget, hkeeps.res.trans (by rw [hmeas]), hkeeps.cfg.trans (by simp), hwaits, hstarts⟩
    · have hfull := Chan.calFull_zeroDone s.time hst
      refine ⟨_, exec_calFull_takes ht, honly _, ?_⟩
      rw [State.upCh_ch, hfull, Chan.calPoint_cal hi hh, CalSt.running, if_neg hg]
      rfl
    · refine ⟨_, exec_calFull_takes ht, honly _, ?_⟩
      rw [State.upCh_ch, Chan.calFull_early s.time hst]
      exact ⟨rfl, rfl, rfl⟩
    · refine ⟨_, (exec_calCommit_takes ht).trans (congrArg (fun t => Host.Outcome.next (t.latchDac n)) (State.calCommit_early (hcell hk) hst)),
        (s.sample_path n).trans ((State.upCh_path _ n _ rfl).trans (State.latchDac_path _ n)), ?_⟩
      rw [State.latchDac_meas, State.latchDac_locket, State.upCh_ch]
      exact ⟨rfl, rfl, rfl⟩
    · refine ⟨_, (exec_calCommit_takes ht).trans (congrArg (fun t => Host.Outcome.next (t.latchDac n))
          (State.calCommit_notStored (hcell hk) hst hc)),
        (s.sample_path n).trans ((State.upCell_path _ n k _ (.inl (hcell hk))).trans ((State.upCh_path _ n _ rfl).trans (State.latchDac_path _ n))), ?_⟩
      rw [State.latchDac_meas, State.latchDac_locket, State.upCh_ch]
      refine ⟨rfl, rfl, ?_⟩
      rw [State.upCh_cell, State.upCell_cell]
      exact Cell.applyCal_measure _ _ _ hg
    · refine ⟨_, exec_calDiscard_takes ht, (s.sample_path n).trans ((State.upCh_path _ n _ ?_).trans (State.latchDac_path _ n)), ?_⟩
      · rw [Chan.calDiscard_open hi hs]
        rfl
      · rw [State.latchDac_meas, State.upCh_ch, Chan.calDiscard_open hi hs]
        exact ⟨rfl, rfl, fun k => State.latchDac_locket _ n k⟩
  · rintro hr rfl k v x r hk hv htarget he hclip ho
    have hspec {d : Chan} := exec_calConversionComplete_spec (d := d) x hr hk hv htarget ho he hclip
    have hfull (gm : Word) := Chan.judgePoint_fullRun (c := (s.ch n).dropConv v) r.1 gm s.time
    refine ⟨fun hst => ?_, fun hst hx => ⟨fun hz hg hom => ?_, fun hz => ?_⟩⟩
    · have h29 : (s.ch n).meas.cal.target ≠ 29 := by
        intro h
        simp [h] at htarget
      obtain ⟨t, hexec, hpath, hcal⟩ := hspec (fun gm => Chan.judgePoint_zero (c := (s.ch n).dropConv v) hst h29) (by simp) rfl
      exact ⟨t, hexec, hpath, hcal⟩
    · obtain ⟨t, hexec, hpath, hcal⟩ := hspec
        (fun gm => (hfull gm hst).trans (Chan.fullPoint_ready (c := (s.ch n).dropConv v) hx hz.1 hz.2 hg hom)) (by simp [CalSt.ready]) rfl
      refine ⟨t, hexec, hpath, ?_⟩
      rw [hcal]
      exact ⟨rfl, rfl, rfl, rfl⟩
    · obtain ⟨t, hexec, hpath, hcal⟩ := hspec
        (fun gm => (hfull gm hst).trans (Chan.fullPoint_flat (c := (s.ch n).dropConv v) hx hz)) (by simp [Chan.calEnd]) rfl
      refine ⟨t, hexec, hpath, ?_⟩
      rw [hcal]
      exact ⟨rfl, rfl⟩

end Sys2Proof.Machine
end

section
/-! SUPPORT. A range that becomes active: what re-expressing a current range on an unchanged voltage scale, and a new voltage range, leave of the
channel (R222, R226 … R228, R307). -/

namespace Sys2Proof.Machine

/-! ### The voltage scales (R56) -/

/-- The internal ranges share a voltage scale, and the booster ranges share one (R56). -/
theorem Chan.fsVOn_congr (c : Chan) (v : BitVec 4) {i j : BitVec 4} (h : isBoost i = isBoost j) : c.fsVOn v i = c.fsVOn v j := by
  simp [Chan.fsVOn, h]

/-! ### What every change of range ends with (R167, R194, R307) -/

/-- The session, the windows that run, the thresholds and the clamp follow a new range; nothing else does. -/
theorem Chan.followRange_spec (c : Chan) (cur : Bool) : ∃ m a b wv wi, ((c.calRange cur).disturb cur).applyThr.reclamp =
    { c with meas := m, force := { c.force with clampOn := a, clamp := b }, winV := wv, winI := wi } := by
  have hcal : ∃ m, c.calRange cur = { c with meas := m } := by
    unfold Chan.calRange
    split
    · exact c.calInterrupt_spec
    · exact ⟨_, rfl⟩
  obtain ⟨m, hm⟩ := hcal
  rw [hm]
  exact ⟨_, _, _, _, _, rfl⟩

/-! ### A new current range (R222, R226) -/

/-- Ranging with current range `i` active. -/
def Chan.rangeOn (c : Chan) (i : BitVec 4) : RangeSt :=
  { c.range with old := c.range.i, i := i, gb := c.gB i, wantI := if c.range.wantI = some i then none else c.range.wantI }

/-- The loops with their current levels re-expressed on current range `i`, the compliance of force-voltage mode among them. -/
def Chan.loopOn (c : Chan) (i : BitVec 4) : LoopSt :=
  { c.loop.rescaleI c.eff.mode c.fsi (c.fsI i) with
    complApplied := if c.eff.mode = .voltage then rescale c.range.complRef c.range.complFs (c.fsI i) else c.loop.complApplied }

/-- The channel with the current range changed and its current levels re-expressed, before anything of the voltage. -/
def Chan.reexpressI (c : Chan) (i : BitVec 4) : Chan := { c with loop := c.loop.rescaleI c.eff.mode c.fsi (c.fsI i), range := c.rangeOn i }

theorem Chan.reexpressI_fsv {c : Chan} {i : BitVec 4} (h : isBoost i = isBoost c.range.i) : (c.reexpressI i).fsv = c.fsv := c.fsVOn_congr _ h

theorem Chan.reexpressI_compl (c : Chan) (i : BitVec 4) :
    (if c.eff.mode = .voltage then (c.reexpressI i).rescaleCompl else c.reexpressI i) = { c with loop := c.loopOn i, range := c.rangeOn i } := by
  unfold Chan.loopOn Chan.rescaleCompl Chan.complRangeNow Chan.complFs
  split
  · next hm =>
    have hm' : (c.reexpressI i).eff.mode = .voltage := hm
    rw [if_pos hm', if_pos hm']
    rfl
  · rfl

/-- A current range on the voltage scale in force becomes active: the current levels move, and the command stays. -/
theorem Chan.activateI_sameScale {c : Chan} {i : BitVec 4} (h : isBoost i = isBoost c.range.i) : ∃ m a b wv wi, c.activateI i =
    { c with loop := c.loopOn i, range := c.rangeOn i, meas := m, force := { c.force with clampOn := a, clamp := b }, winV := wv, winI := wi } := by
  have hfsv := Chan.reexpressI_fsv h
  have hact : c.activateI i = (((Chan.calRange { c with loop := c.loopOn i, range := c.rangeOn i } true).disturb true).applyThr).reclamp := by
    unfold Chan.activateI
    extract_lets old new vOld r d l p e f g
    have he : e = c.reexpressI i := if_pos hfsv
    have hf : f = { c with loop := c.loopOn i, range := c.rangeOn i } := by
      rw [← c.reexpressI_compl i]
      show (if decide (e.eff.mode = .voltage) || e.fsv != c.fsv then e.rescaleCompl else e) = _
      simp only [he, hfsv, bne_self_eq_false, Bool.or_false, decide_eq_true_eq]
      rfl
    have hg : g = f := if_pos (by rw [hf]; exact hfsv)
    rw [hg, hf]
  rw [hact]
  exact Chan.followRange_spec _ true

/-! ### A new voltage range (R227) -/

/-- A new voltage range moves the code and the voltage levels, beside them the compliance of force-current mode, and no level of the current. -/
theorem Chan.activateV_spec (c : Chan) (v : BitVec 4) : ∃ x m a b wv wi, c.activateV v =
    { c.rescaleCode c.fsv (c.fsVOn v c.range.i) with
      loop := { (c.rescaleCode c.fsv (c.fsVOn v c.range.i)).loop with complApplied := x }, range := { c.range with v := v, wantV := none },
      meas := m, force := { (c.rescaleCode c.fsv (c.fsVOn v c.range.i)).force with clampOn := a, clamp := b }, winV := wv, winI := wi } := by
  unfold Chan.activateV
  extract_lets d r e f
  obtain ⟨x, hx⟩ : ∃ x, f = { e with loop := { e.loop with complApplied := x } } := by
    by_cases h : e.eff.mode = .current
    · exact ⟨_, if_pos h⟩
    · exact ⟨_, if_neg h⟩
  obtain ⟨m, a, b, wv, wi, hfollow⟩ := f.followRange_spec false
  refine ⟨x, m, a, b, wv, wi, ?_⟩
  rw [hfollow, hx]

end Sys2Proof.Machine
end

section
/-! SUPPORT. Overlaps between internal ranges: when one engages, hands over and is squashed, and when the hold-off ends (R218 … R225). -/

namespace Sys2Proof.Machine

/-! ### A change of ranging that the cells show -/

/-- Channel `n` changed by `f` with its cells following: the path alone differs. -/
theorem State.upRefresh_spec (s : State) (n : Ch) (f : Chan → Chan) (h : (f (s.ch n)).map = (s.ch n).map) :
    s.pathOnly ((s.upCh n f).refresh n) n ∧ ((s.upCh n f).refresh n).ch n = f (s.ch n) :=
  ⟨(s.upCh_path n f h).trans (State.refresh_path _ n), by rw [State.refresh_ch, State.upCh_ch]⟩

/-- Two changes that make the same channel make the same state. -/
theorem State.upCh_congr (s : State) (n : Ch) {f g : Chan → Chan} (h : f (s.ch n) = g (s.ch n)) : s.upCh n f = s.upCh n g :=
  congrArg (s.setCh n) h

/-! ### The overlap engages (R220) -/

/-- A commanded internal range is the shunt to engage. -/
theorem Chan.engageTarget_command {c : Chan} {o : BitVec 4} (now : Nat) (hi : isBoost c.range.i = false) (ho : isBoost o = false)
    (hw : c.range.wantI = some o) : c.engageTarget now = some (o, .command) := by
  simp [Chan.engageTarget, hi, ho, hw]

/-- With nothing commanded and no pre-arm due, the predictor's range is. -/
theorem Chan.engageTarget_predictor {c : Chan} {o : BitVec 4} {now : Nat} (hi : isBoost c.range.i = false) (ho : isBoost o = false)
    (hw : c.range.wantI = none) (hp : c.prearm now = none) (hf : c.fired = some o) : c.engageTarget now = some (o, .predictor) := by
  simp [Chan.engageTarget, hi, ho, hw, hp, hf]

theorem exec_overlapEngage_engages {s : State} {n : Ch} {o : BitVec 4} {w : Origin} (hr : s.runs) (hm : s.mayRange n = true)
    (hi : (s.ch n).range.hst = .idle) (ht : (s.ch n).engageTarget s.time = some (o, w)) :
    exec (.overlapEngage n) s = .next ((s.upCh n fun c => c.engage o w).refresh n) :=
  congrArg _ ((s.live_of _ hr).trans (by simp [hm, hi, ht]))

theorem exec_overlapEngage_busy {s : State} {n : Ch} (hr : s.runs) (hi : (s.ch n).range.hst ≠ .idle) : exec (.overlapEngage n) s = .next s :=
  congrArg _ ((s.live_of _ hr).trans (by simp [hi]))

/-- The conversions of the overlap modulator abort, and count as restarts (R173). -/
theorem Chan.takeOverlap_convs (c : Chan) : c.takeOverlap.meas.convs = c.meas.convs.filter (fun v => v.md != .ovl || v.input == 3) ∧
    c.takeOverlap.meas.restarts = satAdd c.meas.restarts (c.meas.convs.filter (fun v => v.md == .ovl && v.input != 3)).length := by
  refine ⟨List.filter_congr fun v _ => ?_, rfl⟩
  simp [bne, Bool.not_and]

/-! ### The handover (R220 … R222) -/

/-- The shunt that a command asked for needs no crossing behind one update in OVERLAP. -/
theorem Chan.handoverDue_command {c : Chan} {o : BitVec 4} (hh : c.range.hst = .overlap) (ho : c.range.ovl = some o)
    (hw : c.range.wantI = some o) (hs : 1 ≤ c.range.steps) : c.handoverDue = true := by
  simp [Chan.handoverDue, RangeSt.needsOvl, hh, ho, hw, hs]

/-- A predicted overlap hands over behind two crossings. -/
theorem Chan.handoverDue_predictor {c : Chan} (hh : c.range.hst = .overlap) (hp : c.range.origin = .predictor) (hc : 2 ≤ c.range.cross) :
    c.handoverDue = true := by
  simp [Chan.handoverDue, hh, hp, hc]

theorem exec_handoverStart_starts {s : State} {n : Ch} (hr : s.runs) (hm : s.mayRange n = true) (hd : (s.ch n).handoverDue = true) :
    exec (.handoverStart n) s = .next ((s.upCh n fun c => c.handover (s.sineNow n)).refresh n) :=
  congrArg _ ((s.live_of _ hr).trans (by simp [hm, hd]))

theorem exec_handoverStart_none {s : State} {n : Ch} (hr : s.runs) (hh : (s.ch n).range.hst ≠ .overlap) : exec (.handoverStart n) s = .next s :=
  congrArg _ ((s.live_of _ hr).trans (by simp [Chan.handoverDue, hh]))

/-- Between internal ranges, with no level waiting, the handover makes the new range active and starts the blend. -/
theorem Chan.handover_internal {c : Chan} {o : BitVec 4} (sine : Int) (ho : c.range.ovl = some o) (hi : isBoost c.range.i = false)
    (hb : isBoost o = false) (hl : c.range.wantLevel = none) : ∃ m a b wv wi, c.handover sine =
      { c with loop := c.loopOn o, range := { c.rangeOn o with hst := .blend, steps := 0, cross := 0, miss := 0 }, meas := m,
               force := { c.force with clampOn := a, clamp := b }, winV := wv, winI := wi } := by
  obtain ⟨m, a, b, wv, wi, hact⟩ := Chan.activateI_sameScale (c := c) (i := o) (hb.trans hi.symm)
  refine ⟨m, a, b, wv, wi, ?_⟩
  simp only [Chan.handover, ho, hact]
  exact Chan.settleLevel_of sine hl

/-! ### The squash and the hold-off (R219, R224) -/

/-- In OVERLAP with nothing commanded, only the course of the overlap decides whether it has lost its cause. -/
theorem Chan.squashDue_overlap {c : Chan} (hh : c.range.hst = .overlap) (hw : c.range.wantI = none) :
    c.squashDue = true ↔ 16 ≤ c.range.miss ∨ 4 * c.horizon ≤ c.range.steps := by
  have hn : c.range.needsOvl = false := by
    unfold RangeSt.needsOvl
    rw [hw]
    cases c.range.ovl <;> rfl
  simp [Chan.squashDue, RangeSt.change, hh, hn]

/-- An overlap past its handover is not squashed. -/
theorem Chan.squashDue_past {c : Chan} (hh : c.range.hst = .blend ∨ c.range.hst = .resettle ∨ c.range.hst = .release) : c.squashDue = false := by
  rcases hh with hh | hh | hh <;> simp [Chan.squashDue, RangeSt.change, hh]

/-- A squash out of OVERLAP ramps the switch off from its conducting state. -/
theorem Chan.squash_overlap {c : Chan} (hh : c.range.hst = .overlap) : c.squash = { c with range :=
    { c.range with hst := .squashing, steps := 0, squashes := satInc c.range.squashes, squashed := true, cross := 0, miss := 0, ovlOn := true } } := by
  simp [Chan.squash, hh]

theorem exec_overlapSquash_squashes {s : State} {n : Ch} (hr : s.runs) (hm : s.mayRange n = true) (hd : (s.ch n).squashDue = true) :
    exec (.overlapSquash n) s = .next ((s.upCh n Chan.squash).refresh n) :=
  congrArg _ ((s.live_of _ hr).trans (by simp [hm, hd]))

theorem exec_overlapSquash_keeps {s : State} {n : Ch} (hr : s.runs) (hd : (s.ch n).squashDue = false) : exec (.overlapSquash n) s = .next s :=
  congrArg _ ((s.live_of _ hr).trans (by simp [hd]))

/-- The hold-off ends once it has expired. -/
def Chan.endHold (c : Chan) : Chan := if c.range.ready then { c with range := { c.range with hold := none } } else c

theorem exec_holdOffEnd_runs {s : State} (n : Ch) (hr : s.runs) : exec (.holdOffEnd n) s = .next (s.upCh n Chan.endHold) :=
  congrArg _ (s.live_of _ hr)

/-- A hold-off has expired behind 16 updates. -/
theorem Chan.endHold_of {c : Chan} {k : Nat} (h : c.range.hold = some k) :
    c.endHold = if 16 ≤ k then { c with range := { c.range with hold := none } } else c := by
  simp [Chan.endHold, RangeSt.ready, h]

/-! ### Overlaps as a whole -/

/-- Settles O41: each command acts by the branch that ranging's state takes; the handover is a new current range on the same voltage scale. -/
theorem overlapsEngageHandOverAndSquash : Obligations.OverlapsEngageHandOverAndSquash := by
  rintro n s _ hr hm rfl
  refine ⟨fun o w hidle hi ho hask => ?_, exec_overlapEngage_busy hr, fun o hh ho hi hb hl hdue => ?_, exec_handoverStart_none hr,
    fun hh hp hw => ⟨fun hlost => ?_, fun hmiss hsteps => ?_⟩, fun hh => exec_overlapSquash_keeps hr (Chan.squashDue_past hh),
    fun k hk => ⟨fun hle => ?_, fun hlt => ?_⟩⟩
  · have htarget : (s.ch n).engageTarget s.time = some (o, w) := by
      rcases hask with ⟨hw, rfl⟩ | ⟨hw, hp, hf, rfl⟩
      · exact Chan.engageTarget_command s.time hi ho hw
      · exact Chan.engageTarget_predictor hi ho hw hp hf
    obtain ⟨hpath, hch⟩ := s.upRefresh_spec n (fun c => c.engage o w) rfl
    obtain ⟨hconvs, hrestarts⟩ := (s.ch n).takeOverlap_convs
    refine ⟨_, exec_overlapEngage_engages hr hm hidle htarget, hpath, ?_⟩
    rw [hch]
    exact ⟨rfl, rfl, rfl, rfl, rfl, rfl, rfl, rfl, rfl, rfl, hconvs, hrestarts⟩
  · have hd : (s.ch n).handoverDue = true := by
      rcases hdue with ⟨hw, hs⟩ | ⟨hp, hc⟩
      · exact Chan.handoverDue_command hh ho hw hs
      · exact Chan.handoverDue_predictor hh hp hc
    obtain ⟨m, a, b, wv, wi, hand⟩ := Chan.handover_internal (s.sineNow n) ho hi hb hl
    obtain ⟨hpath, hch⟩ := s.upRefresh_spec n (fun c => c.handover (s.sineNow n)) (by rw [hand])
    refine ⟨_, exec_handoverStart_starts hr hm hd, hpath, ?_⟩
    rw [hch, hand]
    exact ⟨rfl, rfl, rfl, rfl, rfl, ho, rfl, rfl, rfl, rfl, rfl, rfl, rfl, rfl, rfl, fun hmode => if_pos hmode,
      fun hmode => ⟨if_neg (by rw [hmode]; decide), if_pos hmode⟩⟩
  · obtain ⟨hpath, hch⟩ := s.upRefresh_spec n Chan.squash (by rw [Chan.squash_overlap hh])
    exact ⟨_, exec_overlapSquash_squashes hr hm ((Chan.squashDue_overlap hh hw).mpr hlost), hpath, hch.trans (Chan.squash_overlap hh)⟩
  · exact exec_overlapSquash_keeps hr (Bool.eq_false_iff.mpr fun hd => by have := (Chan.squashDue_overlap hh hw).mp hd; omega)
  · refine ⟨_, exec_holdOffEnd_runs n hr, s.upCh_chOnly n _, ?_⟩
    rw [State.upCh_ch, Chan.endHold_of hk, if_pos hle]
  · rw [exec_holdOffEnd_runs n hr, s.upCh_same n _ ((Chan.endHold_of hk).trans (if_neg (Nat.not_le.mpr hlt)))]

end Sys2Proof.Machine
end

section
/-! SUPPORT. Voltage range changes, booster changes and the ranging registers (R227, R228, R230 … R234, R242, R243). -/

namespace Sys2Proof.Machine

/-! ### The switch of the voltage range (R227, R228) -/

/-- The channel behind the switch to voltage range `v`, period p + 1 of V_SWITCH. -/
def Chan.switchV (c : Chan) (v : BitVec 4) (now : Nat) : Chan :=
  { c.activateV v with range := { (c.activateV v).range with steps := 2, vAt := now } }

@[simp] theorem Chan.switchV_map (c : Chan) (v : BitVec 4) (now : Nat) : (c.switchV v now).map = c.map := by
  obtain ⟨x, m, a, b, wv, wi, h⟩ := c.activateV_spec v
  simp only [Chan.switchV, h]
  rfl

/-- The range switches behind period p, once the code lies in the new span or cannot move. -/
theorem Chan.vSwitchDue_of {c : Chan} {v : BitVec 4} {now : Nat} (hh : c.range.hst = .vSwitch) (hs : c.range.steps = 0)
    (ht : c.range.vAt + 256 ≤ now) (hv : c.range.wantV = some v)
    (hc : c.force.out.switchClosed c.force.tripped = false ∨ c.overSpan v = false) : c.vSwitchDue now = some v := by
  have hin : (c.moves && c.overSpan v) = false := by
    rcases hc with h | h <;> simp [Chan.moves, h]
  simp [Chan.vSwitchDue, hh, hs, hv, hin, Nat.not_lt.mpr ht]

theorem Chan.vSwitchDue_none {c : Chan} {now : Nat} (h : c.range.hst ≠ .vSwitch ∨ now < c.range.vAt + 256) : c.vSwitchDue now = none := by
  unfold Chan.vSwitchDue
  split
  · next hh _ _ =>
    have hlt : now < c.range.vAt + 256 := h.resolve_left (fun hne => hne hh)
    exact if_pos (by simp [hlt])
  · rfl

theorem exec_vRangeSwitch_switches {s : State} {n : Ch} {v : BitVec 4} (hr : s.runs) (hd : (s.ch n).vSwitchDue s.time = some v) :
    exec (.vRangeSwitch n) s = .next ((((s.upCh n fun c => c.switchV v s.time).latchDac n).restartCheck n).refresh n) :=
  congrArg _ ((s.live_of _ hr).trans (by simp only [hd]; rfl))

theorem exec_vRangeSwitch_none {s : State} {n : Ch} (hr : s.runs) (hd : (s.ch n).vSwitchDue s.time = none) :
    exec (.vRangeSwitch n) s = .next s := congrArg _ ((s.live_of _ hr).trans (by simp only [hd]))

/-- The count of a migration's shadow is all that restarts (R340). -/
theorem State.restartCheck_frame (s : State) (n : Ch) : (s.restartCheck n).flt = s.flt ∧ ∀ m, (s.restartCheck n).ch m = s.ch m := by
  unfold State.restartCheck
  split <;> exact ⟨rfl, fun _ => rfl⟩

theorem State.pathOnly.flt_eq {s t : State} {n : Ch} (h : s.pathOnly t n) : t.flt = s.flt := by rw [h.rest]

/-- Behind a switch the other channels and the collector stand, and the channel shows the new range but for the DAC's saturation. -/
theorem State.vSwitch_frame (s : State) (n : Ch) (v : BitVec 4) (t : State)
    (ht : t = ((((s.upCh n fun c => c.switchV v s.time).latchDac n).restartCheck n).refresh n)) :
    (∀ m, m ≠ n → t.ch m = s.ch m) ∧ t.flt = s.flt ∧
      ∃ b, t.ch n = { (s.ch n).switchV v s.time with force := { ((s.ch n).switchV v s.time).force with sat := b } } := by
  subst ht
  have hlatch := (s.upCh_path n (fun c => c.switchV v s.time) (Chan.switchV_map _ _ _)).trans (State.latchDac_path _ n)
  obtain ⟨hflt, hch⟩ := State.restartCheck_frame ((s.upCh n fun c => c.switchV v s.time).latchDac n) n
  refine ⟨fun m hm => ?_, ?_, (((s.upCh n fun c => c.switchV v s.time).latchDac n).ch n).force.sat, ?_⟩
  · rw [State.refresh_ch, hch, hlatch.ch m hm]
  · rw [(State.refresh_path _ n).flt_eq, hflt, hlatch.flt_eq]
  · rw [State.refresh_ch, hch, State.latchDac_ch, State.upCh_ch]

/-! ### Changes between 0x7 and the lowest booster range (R230, R234) -/

theorem Chan.rangeAsked_command {c : Chan} {w : BitVec 4} (hw : c.range.wantI = some w) : c.rangeAsked = some (w, .command) := by
  simp [Chan.rangeAsked, hw]

/-- Up from 0x7 the change starts as it is commanded. -/
theorem Chan.boostChange_up {c : Chan} {w : BitVec 4} (hh : c.range.hst = .idle) (hw : c.range.wantI = some w) (hi : c.range.i = 7)
    (hb : isBoost w = true) : c.boostChange = c.boostStart .boostMake .command := by
  simp [Chan.boostChange, hh, Chan.rangeAsked_command hw, hi, hb]

section
variable {c : Chan} {w : BitVec 4} (hh : c.range.hst = .idle) (hw : c.range.wantI = some w) (hi : isBoost c.range.i = true)
  (hl : c.range.i = c.lowBoost) (hb : isBoost w = false)
include hh hw hi hl hb

/-- Off the lowest booster range it starts below 16 mA, and waits otherwise. -/
theorem Chan.boostChange_down : c.boostChange =
    if c.below16mA then c.boostStart .boostBreak .command else { c with range := { c.range with waits := true } } := by
  simp [Chan.boostChange, hh, Chan.rangeAsked_command hw, hi, ← hl, hb]

theorem Chan.waitingChange_of : c.waitingChange = c.below16mA := by
  simp [Chan.waitingChange, hh, hw, hi, ← hl, hb]

end

theorem exec_boosterRangeChange_acts {s : State} {n : Ch} (hr : s.runs) (hm : s.mayRange n = true) :
    exec (.boosterRangeChange n) s = .next ((s.upCh n Chan.boostChange).refresh n) := congrArg _ ((s.live_of _ hr).trans (by simp [hm]))

theorem exec_waitingChangeStart_starts {s : State} {n : Ch} (hr : s.runs) (hm : s.mayRange n = true) (hd : (s.ch n).waitingChange = true) :
    exec (.waitingChangeStart n) s = .next ((s.upCh n fun c => c.boostStart .boostBreak .command).refresh n) :=
  congrArg _ ((s.live_of _ hr).trans (by simp [hm, hd]))

theorem exec_waitingChangeStart_waits {s : State} {n : Ch} (hr : s.runs) (hd : (s.ch n).waitingChange = false) :
    exec (.waitingChangeStart n) s = .next s := congrArg _ ((s.live_of _ hr).trans (by simp [hd]))

/-! ### A switch between booster ranges (R232) -/

theorem Chan.gainTarget_command {c : Chan} {w : BitVec 4} (hh : c.range.hst = .idle) (hw : c.range.wantI = some w)
    (hi : isBoost c.range.i = true) (hb : isBoost w = true) (hne : w ≠ c.range.i) : c.gainTarget = some (w, .command) := by
  simp [Chan.gainTarget, hh, Chan.rangeAsked_command hw, hi, hb, hne]

/-- The channel behind a switch of G_b to booster range `w` at a command. -/
def Chan.gainSwitch (c : Chan) (w : BitVec 4) (sine : Int) : Chan :=
  Chan.settleLevel { c.activateI w with
    range := { (c.activateI w).range with hst := .gainSwitch, steps := 0, origin := .command, fire := none } } sine

theorem exec_boosterGainSwitch_switches {s : State} {n : Ch} {w : BitVec 4} (hr : s.runs) (hm : s.mayRange n = true)
    (hd : (s.ch n).gainTarget = some (w, .command)) :
    exec (.boosterGainSwitch n) s = .next ((s.upCh n fun c => c.gainSwitch w (s.sineNow n)).refresh n) :=
  congrArg _ ((s.live_of _ hr).trans (by simp only [hm, hd]; rfl))

/-- Between booster ranges the new range is active at once, on the voltage scale that they share. -/
theorem Chan.gainSwitch_boost {c : Chan} {w : BitVec 4} (sine : Int) (hi : isBoost c.range.i = true) (hb : isBoost w = true)
    (hl : c.range.wantLevel = none) : ∃ m a b wv wi, c.gainSwitch w sine =
      { c with loop := c.loopOn w, range := { c.rangeOn w with hst := .gainSwitch, steps := 0, origin := .command, fire := none }, meas := m,
               force := { c.force with clampOn := a, clamp := b }, winV := wv, winI := wi } := by
  obtain ⟨m, a, b, wv, wi, hact⟩ := Chan.activateI_sameScale (c := c) (i := w) (hb.trans hi.symm)
  refine ⟨m, a, b, wv, wi, ?_⟩
  simp only [Chan.gainSwitch, hact]
  exact Chan.settleLevel_of sine hl

/-! ### The ranging registers (R242, R243) -/

theorem bits_eq_shift (v : Word) (lo w : Nat) : bits v lo w = (v >>> lo).toNat % 2 ^ w := by
  rw [BitVec.toNat_ushiftRight]
  rfl

/-- A field of four bits held to a bound is the smaller of the two. -/
theorem heldField_eq (t : BitVec 4) (v : Word) (lo : Nat) :
    (if t.toNat < bits v lo 4 then t else v.extractLsb' lo 4) = BitVec.ofNat 4 (min t.toNat ((v >>> lo).toNat % 16)) := by
  rw [bits_eq_shift]
  split
  · next h => rw [Nat.min_eq_left (by omega), BitVec.ofNat_toNat, BitVec.setWidth_eq]
  · next h =>
    rw [Nat.min_eq_right (by omega), BitVec.toNat_ushiftRight]
    apply BitVec.eq_of_toNat_eq
    simp

/-- BOUND_HI is held to the highest declared range, and BOUND_LO to BOUND_HI. -/
theorem Chan.rangeCtrl_eq (c : Chan) (v : Word) {hi : Nat} (h : hi = min c.topRange.toNat ((v >>> 12).toNat % 16)) : c.rangeCtrl v =
    { c.cfg with
      horizonM1 := v.extractLsb' 16 10, boundHi := BitVec.ofNat 4 hi
      boundLo := BitVec.ofNat 4 (min hi ((v >>> 8).toNat % 16)), policy := policyOf (v.toNat % 4) } := by
  have hfit : (BitVec.ofNat 4 hi).toNat = hi := by
    rw [BitVec.toNat_ofNat, Nat.mod_eq_of_lt (by omega)]
  have hlo := heldField_eq (BitVec.ofNat 4 hi) v 8
  rw [hfit] at hlo
  unfold Chan.rangeCtrl
  simp only [heldField_eq, ← h, hfit, hlo]
  rfl

/-- A register written at the boundary that samples it moves no range: those commanded and those active stand. -/
theorem State.cfgSample_ranges (s : State) (n : Ch) (g : ChanCfg) (t : State) (ht : t = (s.upCh n fun c => { c with cfg := g }).sample n) :
    (t.ch n).eff.policy = g.policy ∧ (t.ch n).range.v = (s.ch n).range.v ∧ (t.ch n).range.i = (s.ch n).range.i ∧
      (t.ch n).range.wantI = (s.ch n).range.wantI := by
  subst ht
  rw [State.sample_ch, State.upCh_ch]
  obtain ⟨hv, hi, -, hwant, -⟩ := Chan.sampled_range { s.ch n with cfg := g } (s.upCh n fun c => { c with cfg := g }).period
  exact ⟨by simp, hv, hi, hwant⟩

theorem exec_rangeCtrlWrite_takes {s : State} {n : Ch} (v : Word) (h : s.takes n) :
    exec (.rangeCtrlWrite n v) s = .next (((s.upCh n fun c => { c with cfg := c.rangeCtrl v }).sample n).refresh n) :=
  congrArg _ (h.chWrite _ _ _)

theorem exec_rangeSetWrite_takes {s : State} {n : Ch} (v : Word) (h : s.takes n) :
    exec (.rangeSetWrite n v) s = .next ((s.rangeSetLand n v).sample n) := congrArg _ (h.chWrite _ _ _)

theorem State.rangeSetLand_refused {s : State} {n : Ch} {v : Word} (h : 2 < (v.extractLsb' 4 4).toNat ∨ 10 < (v.extractLsb' 0 4).toNat ∨
    (s.ch n).declared (v.extractLsb' 0 4) = false) : s.rangeSetLand n v = s.noteCh n 0x204 := if_pos h

/-- No channel has a current range past 0xA. -/
theorem Chan.declared_le {c : Chan} {i : BitVec 4} (h : c.declared i = true) : i.toNat ≤ 10 := by
  unfold Chan.declared at h
  split at h
  · omega
  · have := of_decide_eq_true h
    omega

theorem State.rangeSetLand_stores {s : State} {n : Ch} {v : Word} (hv : (v.extractLsb' 4 4).toNat ≤ 2)
    (hi : (s.ch n).declared (v.extractLsb' 0 4) = true) : s.rangeSetLand n v =
      s.upCh n fun c => { c with cfg := { c.cfg with setV := v.extractLsb' 4 4, setI := v.extractLsb' 0 4 } } := by
  refine if_neg ?_
  rintro (h | h | h)
  · omega
  · have := Chan.declared_le hi
    omega
  · exact absurd (hi.symm.trans h) (by decide)

/-! ### Range changes as a whole -/

/-- Settles O42: the switch of the voltage range and the booster changes are new ranges on their scales; the registers land and are sampled. -/
theorem rangeChangesFollowTheirSequences : Obligations.RangeChangesFollowTheirSequences := by
  rintro n s _ rfl
  refine ⟨fun hr v hh hs ht hv hc => ?_, fun hr h => exec_vRangeSwitch_none hr (Chan.vSwitchDue_none h),
    fun hr hm hh w hw => ⟨fun hi hb => ?_, fun hi hl hb => ⟨fun hbelow => ?_, fun hbelow => ?_⟩, fun hi hb hne hl => ?_⟩,
    fun ht v hi hhi => ?_, fun ht v => ⟨fun h => ?_, fun hv hi => ?_⟩⟩
  · obtain ⟨hch, hflt, b, hn⟩ := s.vSwitch_frame n v _ rfl
    obtain ⟨x, m, a, d, wv, wi, hact⟩ := (s.ch n).activateV_spec v
    refine ⟨_, exec_vRangeSwitch_switches hr (Chan.vSwitchDue_of hh hs ht hv hc), hch, hflt, ?_⟩
    rw [hn, Chan.switchV, hact]
    exact ⟨rfl, rfl, rfl, rfl, rfl, hh, rfl, rfl, rfl, rfl, rfl, rfl, rfl, rfl⟩
  · obtain ⟨hpath, hch⟩ := s.upRefresh_spec n Chan.boostChange (by rw [Chan.boostChange_up hh hw hi hb]; rfl)
    refine ⟨_, exec_boosterRangeChange_acts hr hm, hpath, ?_⟩
    rw [hch, Chan.boostChange_up hh hw hi hb]
    exact ⟨rfl, rfl, rfl, hi, rfl, rfl⟩
  · have hdown := (Chan.boostChange_down hh hw hi hl hb).trans (if_pos hbelow)
    obtain ⟨hpath, hch⟩ := s.upRefresh_spec n (fun c => c.boostStart .boostBreak .command) rfl
    have hstarts : s.upCh n Chan.boostChange = s.upCh n fun c => c.boostStart .boostBreak .command := s.upCh_congr n hdown
    refine ⟨_, (exec_boosterRangeChange_acts hr hm).trans (by rw [hstarts]),
      exec_waitingChangeStart_starts hr hm ((Chan.waitingChange_of hh hw hi hl hb).trans hbelow), hpath, ?_⟩
    rw [hch]
    exact ⟨rfl, rfl, rfl, rfl, rfl, rfl⟩
  · have hdown := (Chan.boostChange_down hh hw hi hl hb).trans (if_neg (by rw [hbelow]; decide))
    obtain ⟨hpath, hch⟩ := s.upRefresh_spec n Chan.boostChange (by rw [hdown])
    exact ⟨exec_waitingChangeStart_waits hr ((Chan.waitingChange_of hh hw hi hl hb).trans hbelow), _, exec_boosterRangeChange_acts hr hm, hpath,
      hch.trans hdown⟩
  · obtain ⟨m, a, b, wv, wi, hgain⟩ := Chan.gainSwitch_boost (s.sineNow n) hi hb hl
    obtain ⟨hpath, hch⟩ := s.upRefresh_spec n (fun c => c.gainSwitch w (s.sineNow n)) (by rw [hgain])
    refine ⟨_, exec_boosterGainSwitch_switches hr hm (Chan.gainTarget_command hh hw hi hb hne), hpath, ?_⟩
    rw [hch, hgain]
    exact ⟨rfl, rfl, rfl, if_pos hw, rfl, rfl, rfl, rfl⟩
  · obtain ⟨honly, hcfg, -, -, -, -, hloop, -⟩ := s.cfgSample_spec n ((s.ch n).rangeCtrl v) _ rfl
    obtain ⟨hpolicy, -, hiKept, -⟩ := s.cfgSample_ranges n ((s.ch n).rangeCtrl v) _ rfl
    have hctrl := (s.ch n).rangeCtrl_eq v hhi
    refine ⟨_, exec_rangeCtrlWrite_takes v ht, (honly.path (by simp)).trans (State.refresh_path _ n), ?_⟩
    rw [State.refresh_ch]
    exact ⟨hcfg.trans hctrl, hpolicy.trans (congrArg ChanCfg.policy hctrl), hiKept, hloop⟩
  · rw [exec_rangeSetWrite_takes v ht, State.rangeSetLand_refused h]
  · have hland := State.rangeSetLand_stores hv hi
    obtain ⟨honly, hcfg, -, -, hcode, -⟩ := s.cfgSample_spec n _ _ (congrArg (State.sample · n) hland)
    obtain ⟨-, hv, hi, hwant⟩ := s.cfgSample_ranges n _ _ (congrArg (State.sample · n) hland)
    exact ⟨_, exec_rangeSetWrite_takes v ht, honly, hcfg, hv, hi, hwant, hcode⟩

end Sys2Proof.Machine
end

section
/-! SUPPORT. The stream queue: the addresses of its window, an appended sample, the sample of a stream instant, and FLUSH (R95, R277, R279, R293). -/

namespace Sys2Proof.Machine

/-! ### The window of a queue (R279, R547) -/

/-- Address of word `j` of channel `n`'s stream window. -/
def streamAddr (n : Ch) (j : Fin 256) : Addr := BitVec.ofNat 24 (0x308000 + n.val * 0x400 + 4 * j.val)

theorem streamAddr_toNat (n : Ch) (j : Fin 256) : (streamAddr n j).toNat = 0x308000 + n.val * 0x400 + 4 * j.val := by
  rw [streamAddr, BitVec.toNat_ofNat]
  omega

theorem streamAddr_page (n : Ch) (j : Fin 256) : ((streamAddr n j).toNat - 0x308000) / 0x400 = n.val := by
  rw [streamAddr_toNat]
  omega

/-- The map's region of the stream windows. -/
theorem streamAddr_region (n : Ch) (j : Fin 256) : 0x308000 ≤ (streamAddr n j).toNat ∧ (streamAddr n j).toNat < 0x318000 := by
  rw [streamAddr_toNat]
  omega

theorem State.readWord_streamAddr (s : State) (n : Ch) (j : Fin 256) : s.readWord (streamAddr n j) = some 0 := by
  obtain ⟨hlo, hhi⟩ := streamAddr_region n j
  have hword : (streamAddr n j).toNat % 4 = 0 := by rw [streamAddr_toNat]; omega
  have hbead : ¬ (streamAddr n j).toNat < 0x308000 := by omega
  simp only [State.readWord, show ¬ (streamAddr n j).toNat < 0x010000 by omega, show ¬ (streamAddr n j).toNat < 0x020000 by omega,
    show ¬ (streamAddr n j).toNat < 0x032000 by omega, hword, hbead, hlo, hhi, and_false, and_self, if_true, if_false, dif_neg,
    not_false_eq_true, ne_eq, not_true_eq_false]

theorem State.writeMapped_streamAddr (s : State) (n : Ch) (j : Fin 256) (v : Word) :
    s.writeMapped (streamAddr n j).toNat v = s.streamAppend n v := by
  obtain ⟨hlo, hhi⟩ := streamAddr_region n j
  have hn : (⟨((streamAddr n j).toNat - 0x308000) / 0x400, by omega⟩ : Ch) = n := Fin.ext (streamAddr_page n j)
  rw [State.writeMapped, dif_neg (by omega), dif_neg (by omega), if_neg (by omega), if_neg (by omega), dif_pos ⟨hlo, hhi⟩, hn]

/-- The Grave latch excepts system blocks alone. -/
theorem graveServes_streamAddr (n : Ch) (j : Fin 256) : graveServes (streamAddr n j) = false := by
  obtain ⟨hlo, -⟩ := streamAddr_region n j
  have hne : ∀ k : Nat, k < 0x308000 → (streamAddr n j).toNat ≠ k := fun k hk => by omega
  simp [graveServes, hne]

theorem State.landWord_streamAddr {s : State} (n : Ch) (j : Fin 256) (v : Word) (jtag : Bool) (h : s.serves) :
    s.landWord (streamAddr n j) v jtag = s.streamAppend n v := by
  obtain ⟨hlo, -⟩ := streamAddr_region n j
  have hw : s.writable (streamAddr n j) = true := by
    simp [State.writable, s.readWord_streamAddr n j, show ¬ (streamAddr n j).toNat < 0x300000 by omega]
  rw [State.landWord, hw, graveServes_streamAddr, if_neg (by decide), if_neg (by decide), s.hostAct_of _ h.1 h.2, if_neg (by omega),
    State.writeMapped_streamAddr]

/-- CH_STREAM_FILL (R279). -/
theorem State.readWord_streamFill (s : State) (n : Ch) : s.readWord (chAddr n 0x29C) = some (BitVec.ofNat 32 (s.ch n).queue.length) := by
  rw [s.readWord_chAddr n (by decide)]
  exact congrArg some (by simp [fields])

/-! ### An appended sample (R279) -/

/-- The channel with a sample written to its queue. -/
def Chan.pushSample (c : Chan) (v : Word) : Chan :=
  if c.queue.length < 256 then { c with queue := c.queue ++ [some v] } else { c with streamOver := satInc c.streamOver }

theorem exec_streamQueueAppend_serves {s : State} (n : Ch) (v : Word) (h : s.serves) :
    exec (.streamQueueAppend n v) s = .next (s.streamAppend n v) := congrArg _ (s.hostAct_of _ h.1 h.2)

/-- An append writes the queue, and in class 1 it asks for its bay (R328). -/
theorem State.streamAppend_cases (s : State) (n : Ch) (v : Word) :
    s.streamAppend n v = s.upCh n (fun c => c.pushSample v) ∨ s.streamAppend n v = (s.upCh n fun c => c.pushSample v).wake (chBay n) := by
  unfold State.streamAppend
  dsimp only
  split
  · exact .inr rfl
  · exact .inl rfl

theorem State.streamAppend_spec (s : State) (n : Ch) (v : Word) :
    s.streamAppend n v = { s with chans := (s.streamAppend n v).chans, bays := (s.streamAppend n v).bays, clk := (s.streamAppend n v).clk } ∧
    (s.streamAppend n v).chans = (s.upCh n fun c => c.pushSample v).chans := by
  rcases s.streamAppend_cases n v with h | h <;> rw [h]
  · exact ⟨rfl, rfl⟩
  · rw [State.wake_frame]
    exact ⟨rfl, rfl⟩

theorem State.streamAppend_ch (s : State) (n m : Ch) (v : Word) : (s.streamAppend n v).ch m = (s.upCh n fun c => c.pushSample v).ch m := by
  rw [State.ch, (s.streamAppend_spec n v).2, ← State.ch]

/-! ### The sample of a stream instant (R95, R277) -/

/-- The sample and the sine become the applied level, and an open loop's target where nothing ranks above. -/
def Chan.putSample (c : Chan) (x : Level) (sine : Int) : Chan :=
  let d : Chan := { c with force := { c.force with streamLast := x, applied := sat32 (x.toInt + sine) } }
  if d.force.rests || d.decl.lowPower || d.loop.manualNow then d else d.openTarget 0

theorem Chan.putSample_spec (c : Chan) (x : Level) (sine : Int) : (c.putSample x sine).queue = c.queue ∧ (c.putSample x sine).force.streamLast = x ∧
    (c.putSample x sine).force.applied = sat32 (x.toInt + sine) ∧ (c.putSample x sine).force.code = c.force.code ∧
    (c.putSample x sine).force.underrun = c.force.underrun ∧ (c.putSample x sine).force.streamUnder = c.force.streamUnder := by
  unfold Chan.putSample
  dsimp only
  split
  · exact ⟨rfl, rfl, rfl, rfl, rfl, rfl⟩
  · obtain ⟨_, _, _, _, h⟩ := Chan.openTarget_spec
      { c with force := { c.force with streamLast := x, applied := sat32 (x.toInt + sine) } } 0
    rw [h]
    exact ⟨rfl, rfl, rfl, rfl, rfl, rfl⟩

theorem Chan.streamTake_head {c : Chan} {x : Level} {q : List (Option Level)} (sine : Int) (h : c.queue = some x :: q) :
    c.streamTake sine = Chan.putSample { c with queue := q } x sine := by
  unfold Chan.streamTake
  simp only [h]
  rfl

/-- An empty queue counts an underrun, and the last sample stands. -/
theorem Chan.streamTake_empty {c : Chan} (sine : Int) (h : c.queue = []) : c.streamTake sine =
    Chan.putSample { c with force := { c.force with underrun := true, streamUnder := satInc c.force.streamUnder } } c.force.streamLast sine := by
  unfold Chan.streamTake
  simp only [h]
  rfl

theorem exec_streamSample_takes {s : State} {n : Ch} (hr : s.runs) (h : (s.ch n).streamInstant s.period = true) :
    exec (.streamSample n) s = .next (s.upCh n fun c => c.streamTake (s.sineNow n)) :=
  congrArg Host.Outcome.next ((s.live_of _ hr).trans (if_pos h))

/-! ### FLUSH (R293) -/

theorem exec_streamFlush_takes {s : State} {n : Ch} (h : s.takes n) :
    exec (.streamFlush n) s = .next ((s.sample n).upCh n fun c => { c with queue := [] }) := congrArg _ (h.chWrite _ _ _)

/-- Settles O32: the window's words land by their region, an append and a stream instant act on the queue's two ends. -/
theorem theStreamQueueIsAFifo : Obligations.TheStreamQueueIsAFifo := by
  intro n s hs
  refine ⟨fun j v => ⟨?_, s.readWord_streamAddr n j⟩, s.readWord_streamFill n, fun v => ?_, fun x q hi hq => ?_, fun hi hq => ?_, fun ha hm => ?_⟩
  · rw [exec_streamQueueAppend_serves n v hs, ← s.landWord_streamAddr n j v false hs]
    exact exec_registerWrite_runs _ v hs.1
  · refine ⟨_, exec_streamQueueAppend_serves n v hs, (s.streamAppend_spec n v).1, fun m hne => ?_, fun hlt => ?_, fun hge => ?_⟩
    · rw [State.streamAppend_ch, s.upCh_ch_ne _ hne]
    · rw [State.streamAppend_ch, State.upCh_ch, Chan.pushSample, if_pos hlt]
    · rw [State.streamAppend_ch, State.upCh_ch, Chan.pushSample, if_neg (Nat.not_lt.mpr hge)]
  · obtain ⟨hqueue, hlast, happlied, hcode, -, -⟩ := Chan.putSample_spec { s.ch n with queue := q } x (s.sineNow n)
    refine ⟨_, exec_streamSample_takes hs.1 hi, s.upCh_chOnly n _, ?_⟩
    rw [State.upCh_ch, Chan.streamTake_head _ hq]
    exact ⟨hqueue, hlast, happlied, hcode⟩
  · obtain ⟨hqueue, -, happlied, -, hunder, hcount⟩ := Chan.putSample_spec { s.ch n with force := { (s.ch n).force with
      underrun := true, streamUnder := satInc (s.ch n).force.streamUnder } } (s.ch n).force.streamLast (s.sineNow n)
    refine ⟨_, exec_streamSample_takes hs.1 hi, s.upCh_chOnly n _, ?_⟩
    rw [State.upCh_ch, Chan.streamTake_empty _ hq]
    exact ⟨hqueue.trans hq, hunder, hcount, happlied⟩
  · refine ⟨_, exec_streamFlush_takes ⟨hs, ha, hm⟩, (s.sample_chOnly n).trans (State.upCh_chOnly _ n _), ?_⟩
    rw [State.upCh_ch, State.sample_ch]
    exact ⟨rfl, Chan.sampled_streamOver _ _⟩

end Sys2Proof.Machine
end

section
/-! SUPPORT. The end of a strand: the record that it writes, what it leaves of its channel, and which of two ends stands
(R260, R264, R265, R284, R324). -/

namespace Sys2Proof.Machine

/-! ### The frame of a strand's end -/

/-- Nothing differs but channel `n`, its mapping excepted, cells, and the memory that holds the larder. -/
structure State.strandOnly (s t : State) (n : Ch) : Prop where
  rest : t = { s with chans := t.chans, cells := t.cells, mem := t.mem }
  ch : ∀ m, m ≠ n → t.ch m = s.ch m
  map : (t.ch n).map = (s.ch n).map

theorem State.strandOnly.refl (s : State) (n : Ch) : s.strandOnly s n := ⟨rfl, fun _ _ => rfl, rfl⟩

theorem State.strandOnly.trans {a b c : State} {n : Ch} (h : a.strandOnly b n) (k : b.strandOnly c n) : a.strandOnly c n := by
  refine ⟨?_, fun m e => (k.ch m e).trans (h.ch m e), k.map.trans h.map⟩
  rw [k.rest, h.rest]

theorem State.pathOnly.strandOnly {s t : State} {n : Ch} (h : s.pathOnly t n) : s.strandOnly t n := by
  refine ⟨?_, h.ch, h.map⟩
  rw [h.rest]

theorem State.upCh_strandOnly (s : State) (n : Ch) (f : Chan → Chan) (h : (f (s.ch n)).map = (s.ch n).map) : s.strandOnly (s.upCh n f) n :=
  (s.upCh_path n f h).strandOnly

theorem State.when_strandOnly (s : State) (n : Ch) (b : Bool) {f : State → State} (h : s.strandOnly (f s) n) : s.strandOnly (s.when b f) n := by
  cases b
  · exact State.strandOnly.refl s n
  · exact h

/-! ### The record of the bead in force (R284) -/

/-- `d` is `c` but for its record, the larder, and the conversions and the delayed pass of the bead. -/
def Chan.Recorded (c d : Chan) : Prop :=
  ∃ m l b a, d = { c with meas := m, larder := l, strand := { c.strand with rcd := b, passAt := a } }

theorem Chan.Recorded.refl (c : Chan) : c.Recorded c := ⟨_, _, _, _, rfl⟩

theorem Chan.Recorded.trans {a b c : Chan} (h : a.Recorded b) (k : b.Recorded c) : a.Recorded c := by
  obtain ⟨_, _, _, _, rfl⟩ := h
  obtain ⟨_, _, _, _, rfl⟩ := k
  exact ⟨_, _, _, _, rfl⟩

theorem State.setMemWord_strandOnly (s : State) (n : Ch) (a : Nat) (w : Word) : s.strandOnly (s.setMemWord a w) n :=
  ⟨rfl, fun _ _ => rfl, rfl⟩

theorem State.pushRecord_larder (s : State) (n : Ch) (w : Word × Word × Word × Word) :
    s.strandOnly (s.pushRecord n w) n ∧ ∃ l, (s.pushRecord n w).ch n = { s.ch n with larder := l } := by
  have hup (t : State) (f : Chan → LarderSt) (ht : s.strandOnly t n) (hch : t.ch n = s.ch n) :
      s.strandOnly (t.upCh n fun c => { c with larder := f c }) n ∧
      ∃ l, (t.upCh n fun c => { c with larder := f c }).ch n = { s.ch n with larder := l } :=
    ⟨ht.trans (t.upCh_strandOnly n _ rfl), _, by rw [State.upCh_ch, hch]⟩
  unfold State.pushRecord
  dsimp only
  split
  · exact ⟨State.strandOnly.refl s n, _, rfl⟩
  · refine hup _ _ ?_ (by simp only [State.ch, State.setMemWord_chans])
    exact (((s.setMemWord_strandOnly n _ _).trans (State.setMemWord_strandOnly _ n _ _)).trans
      (State.setMemWord_strandOnly _ n _ _)).trans (State.setMemWord_strandOnly _ n _ _)

/-- A record enters the larder at most once, and is then marked. -/
theorem State.writeRecord_marks (s : State) (n : Ch) : s.strandOnly (s.writeRecord n) n ∧ ∃ l b,
    (s.writeRecord n).ch n = { s.ch n with larder := l, strand := { (s.ch n).strand with rcd := b } } ∧
    ∀ x, (s.ch n).strand.rcd = some x → ∃ w, b = some { x.filled (s.ch n).loop with written := w } ∨ b = some x := by
  unfold State.writeRecord
  dsimp only
  split
  · next x hx =>
    split
    · exact ⟨State.strandOnly.refl s n, _, _, rfl, fun x hx => ⟨true, .inr hx⟩⟩
    · obtain ⟨honly, l, hch⟩ := s.pushRecord_larder n (recWords x (s.ch n).loop.complDrove ((x.v.map (·.1)).getD 0) ((x.i.map (·.1)).getD 0)
        (x.lastEnd.getD x.commit))
      refine ⟨honly.trans (State.upCh_strandOnly _ n _ rfl), l, some { x with written := true }, ?_, fun y hy => ⟨true, .inl ?_⟩⟩
      · rw [State.upCh_ch, hch]
      · rw [hy] at hx
        rw [← Option.some.inj hx]
  · next hx =>
    refine ⟨State.strandOnly.refl s n, _, _, rfl, fun x hy => ?_⟩
    rw [hy] at hx
    exact absurd hx (by simp)

theorem State.writeRecord_strandOnly (s : State) (n : Ch) : s.strandOnly (s.writeRecord n) n := (s.writeRecord_marks n).1

theorem State.writeRecord_recorded (s : State) (n : Ch) : (s.ch n).Recorded ((s.writeRecord n).ch n) := by
  obtain ⟨-, l, b, h, -⟩ := s.writeRecord_marks n
  exact ⟨_, l, b, _, h⟩

/-- A record that no trip cut keeps all but its mark. -/
theorem State.writeRecord_rcd {s : State} {n : Ch} {x : BeadRec} (h : (s.ch n).strand.rcd = some x) (hf : x.fast = false) :
    ∃ w, ((s.writeRecord n).ch n).strand.rcd = some { x with written := w } := by
  obtain ⟨-, l, b, hch, hb⟩ := s.writeRecord_marks n
  have hfill : x.filled (s.ch n).loop = x := by simp [BeadRec.filled, hf]
  rw [hch]
  obtain ⟨w, hw | hw⟩ := hb x h
  · exact ⟨w, by rw [hw, hfill]⟩
  · exact ⟨x.written, hw⟩

/-- The record as an end asks for it, behind a commit (R260). -/
def State.settled (s : State) (n : Ch) (f : RecFate) : State := if (s.ch n).strand.committed.isSome then s.settleRecord n f else s

/-- The record dropped, with the conversions of its pass. -/
def Chan.dropRecord (c : Chan) : Chan :=
  let d := if c.eff.run = .strand then c.abortConvs (fun v => v.kind == .seq) else c
  { d with strand := { d.strand with rcd := none, passAt := none },
           meas := if d.eff.run = .strand then { d.meas with pass := none, redo := d.meas.redo.filter fun e => e.1 != .seq } else d.meas }

theorem State.settleRecord_normal (s : State) (n : Ch) : s.settleRecord n .normal =
    s.when ((s.ch n).eff.run != .strand || ((s.ch n).meas.pass.isNone && (s.ch n).strand.passAt.isNone)) fun s => s.writeRecord n := rfl

theorem State.settleRecord_now (s : State) (n : Ch) :
    s.settleRecord n .now = (s.writeRecord n).upCh n fun c => { c with strand := { c.strand with passAt := none } } := rfl

theorem State.settleRecord_dropped (s : State) (n : Ch) : s.settleRecord n .dropped = s.upCh n Chan.dropRecord := rfl

theorem Chan.dropRecord_spec (c : Chan) : ∃ m, c.dropRecord = { c with meas := m, strand := { c.strand with rcd := none, passAt := none } } := by
  unfold Chan.dropRecord
  split
  · exact ⟨_, rfl⟩
  · exact ⟨_, rfl⟩

theorem State.settleRecord_spec (s : State) (n : Ch) (f : RecFate) :
    s.strandOnly (s.settleRecord n f) n ∧ (s.ch n).Recorded ((s.settleRecord n f).ch n) := by
  cases f with
  | normal =>
    rw [State.settleRecord_normal]
    refine ⟨s.when_strandOnly n _ (s.writeRecord_strandOnly n), ?_⟩
    generalize (_ || _) = b
    cases b
    · exact Chan.Recorded.refl _
    · exact s.writeRecord_recorded n
  | now =>
    rw [State.settleRecord_now, State.upCh_ch]
    refine ⟨(s.writeRecord_strandOnly n).trans (State.upCh_strandOnly _ n _ rfl), (s.writeRecord_recorded n).trans ?_⟩
    exact ⟨_, _, _, _, rfl⟩
  | dropped =>
    obtain ⟨m, h⟩ := (s.ch n).dropRecord_spec
    rw [State.settleRecord_dropped, State.upCh_ch, h]
    exact ⟨s.upCh_strandOnly n _ (by rw [h]), _, _, _, _, rfl⟩

theorem State.settled_spec (s : State) (n : Ch) (f : RecFate) : s.strandOnly (s.settled n f) n ∧ (s.ch n).Recorded ((s.settled n f).ch n) := by
  unfold State.settled
  split
  · exact s.settleRecord_spec n f
  · exact ⟨State.strandOnly.refl s n, Chan.Recorded.refl _⟩

/-! ### The base level behind a cut pulse, and the release of run-ahead (R265, R272) -/

/-- A target that returns to the base level changes what a strobe restarts, the command and the limiter's target. -/
theorem Chan.baseTarget_spec (c : Chan) (sine : Int) : ∃ a x b y e, c.baseTarget sine =
    { c with loop := { c.loop with restart := a, cmd := x, spLimit := b }, force := { c.force with target := y, sat := e } } := by
  unfold Chan.baseTarget
  split
  · exact ⟨_, _, _, _, _, rfl⟩
  · split
    · exact ⟨_, _, _, _, _, rfl⟩
    · obtain ⟨_, _, _, _, h⟩ := c.openTarget_spec sine
      exact ⟨_, _, _, _, _, h⟩

theorem Chan.releasePrearm_spec (c : Chan) : ∃ r, c.releasePrearm = { c with range := r } := by
  unfold Chan.releasePrearm
  split
  · obtain ⟨r, h, -⟩ := c.squash_spec
    exact ⟨r, h⟩
  · exact ⟨_, rfl⟩

/-! ### The end itself (R260) -/

/-- The strand over with state `st` and reason `r`: its run-ahead squashed where `count` asks for it, a pulse cut to its base level. -/
def Chan.close (c : Chan) (st : StrandState) (r : Reason) (count : Bool) (now : Nat) (sine : Int) : Chan :=
  let d := (if count then c.endSquash else c).strandOver st r now
  if c.strand.pulse.isSome then d.baseTarget sine else d

/-- What every end of a strand leaves: its state and reason, nothing prepared, the limiter's code and the last commit as they stood. -/
structure Chan.Ended (c d : Chan) (st : StrandState) (r : Reason) : Prop where
  map : d.map = c.map
  code : d.force.code = c.force.code
  committed : d.strand.committed = c.strand.committed
  st : d.strand.st = st
  reason : d.strand.reason = r
  ended : d.strand.ended = true
  ahead : d.strand.ahead = []

theorem Chan.Recorded.ended {a b c : Chan} {st : StrandState} {r : Reason} (h : a.Recorded b) (k : b.Ended c st r) : a.Ended c st r := by
  obtain ⟨_, _, _, _, rfl⟩ := h
  exact ⟨k.map, k.code, k.committed, k.st, k.reason, k.ended, k.ahead⟩

theorem Chan.strandOver_ended (c : Chan) (st : StrandState) (r : Reason) (now : Nat) : c.Ended (c.strandOver st r now) st r ∧
    (c.strandOver st r now).larder = c.larder ∧ (c.strandOver st r now).strand.rcd = c.strand.rcd := by
  obtain ⟨x, h⟩ := c.releasePrearm_spec
  unfold Chan.strandOver
  rw [h]
  exact ⟨⟨rfl, rfl, rfl, rfl, rfl, rfl, rfl⟩, rfl, rfl⟩

theorem Chan.endSquash_spec (c : Chan) : ∃ r x, c.endSquash = { c with range := r, strand := { c.strand with ahead := [], squashes := x } } := by
  obtain ⟨r, h⟩ := c.releasePrearm_spec
  unfold Chan.endSquash
  rw [h]
  exact ⟨_, _, rfl⟩

theorem Chan.close_ended (c : Chan) (st : StrandState) (r : Reason) (count : Bool) (now : Nat) (sine : Int) :
    c.Ended (c.close st r count now sine) st r ∧ (c.close st r count now sine).larder = c.larder ∧
    (c.close st r count now sine).strand.rcd = c.strand.rcd := by
  have hover : ∀ d : Chan, (∃ (x : RangeSt) (g : List Prep × Word), d = { c with range := x, strand := { c.strand with ahead := g.1, squashes := g.2 } }) →
      c.Ended (d.strandOver st r now) st r ∧ (d.strandOver st r now).larder = c.larder ∧ (d.strandOver st r now).strand.rcd = c.strand.rcd := by
    rintro _ ⟨x, g, rfl⟩
    obtain ⟨h, hl, hb⟩ := Chan.strandOver_ended { c with range := x, strand := { c.strand with ahead := g.1, squashes := g.2 } } st r now
    exact ⟨⟨h.map, h.code, h.committed, h.st, h.reason, h.ended, h.ahead⟩, hl, hb⟩
  have hd : ∃ (x : RangeSt) (g : List Prep × Word), (if count then c.endSquash else c) = { c with range := x, strand := { c.strand with ahead := g.1, squashes := g.2 } } := by
    cases count
    · exact ⟨_, (_, _), rfl⟩
    · obtain ⟨x, g, h⟩ := c.endSquash_spec
      exact ⟨x, ([], g), h⟩
  obtain ⟨h, hl, hb⟩ := hover _ hd
  unfold Chan.close
  dsimp only
  split
  · obtain ⟨_, _, _, _, _, hbase⟩ := ((if count then c.endSquash else c).strandOver st r now).baseTarget_spec sine
    rw [hbase]
    exact ⟨⟨h.map, h.code, h.committed, h.st, h.reason, h.ended, h.ahead⟩, hl, hb⟩
  · exact ⟨h, hl, hb⟩

/-- The strand closed, its record settled. -/
def State.closeStrand (u : State) (n : Ch) (st : StrandState) (r : Reason) (count : Bool) : State :=
  let v := u.when count fun s => s.upCh n fun c => c.endSquash
  (v.upCh n fun c => c.strandOver st r v.time).when (v.ch n).strand.pulse.isSome fun s => s.upCh n fun c => c.baseTarget (s.sineNow n)

theorem State.closeStrand_eq (u : State) (n : Ch) (st : StrandState) (r : Reason) (count : Bool) :
    ∃ sine, u.closeStrand n st r count = u.upCh n fun c => c.close st r count u.time sine := by
  have hpulse : (u.ch n).endSquash.strand.pulse = (u.ch n).strand.pulse := by
    obtain ⟨_, _, h⟩ := (u.ch n).endSquash_spec
    rw [h]
  refine ⟨((u.when count fun s => s.upCh n fun c => c.endSquash).upCh n fun c => c.strandOver st r u.time).sineNow n, ?_⟩
  cases count <;> cases hp : (u.ch n).strand.pulse.isSome <;>
    simp [State.closeStrand, State.when, Chan.close, hp, hpulse, State.upCh, State.setCh_setCh]

/-- An end is the record settled and the strand closed. -/
theorem State.endAs_eq (s : State) (n : Ch) (x : StrandState × Reason × RecFate × Bool) :
    ∃ sine, s.endAs n x = (s.settled n x.2.2.1).upCh n fun c => c.close x.1 x.2.1 x.2.2.2 s.time sine := by
  obtain ⟨sine, h⟩ := (s.settled n x.2.2.1).closeStrand_eq n x.1 x.2.1 x.2.2.2
  have htime : (s.settled n x.2.2.1).time = s.time := by rw [(s.settled_spec n x.2.2.1).1.rest]
  rw [htime] at h
  exact ⟨sine, h⟩

theorem State.endAs_ended (s : State) (n : Ch) (x : StrandState × Reason × RecFate × Bool) :
    s.strandOnly (s.endAs n x) n ∧ (s.ch n).Ended ((s.endAs n x).ch n) x.1 x.2.1 := by
  obtain ⟨sine, h⟩ := s.endAs_eq n x
  obtain ⟨honly, hrec⟩ := s.settled_spec n x.2.2.1
  obtain ⟨hend, -⟩ := ((s.settled n x.2.2.1).ch n).close_ended x.1 x.2.1 x.2.2.2 s.time sine
  rw [h, State.upCh_ch]
  exact ⟨honly.trans (State.upCh_strandOnly _ n _ hend.map), hrec.ended hend⟩

/-- An end that writes no record changes its channel alone, and not its larder. -/
theorem State.endAs_unwritten {s : State} {n : Ch} {x : StrandState × Reason × RecFate × Bool}
    (hx : (s.ch n).strand.committed = none ∨ x.2.2.1 = .dropped) : s.chOnly (s.endAs n x) n ∧
      ((s.endAs n x).ch n).larder = (s.ch n).larder ∧ ((s.ch n).strand.committed ≠ none → ((s.endAs n x).ch n).strand.rcd = none) := by
  obtain ⟨sine, h⟩ := s.endAs_eq n x
  obtain ⟨-, hl, hb⟩ := ((s.settled n x.2.2.1).ch n).close_ended x.1 x.2.1 x.2.2.2 s.time sine
  rw [h, State.upCh_ch, hl, hb]
  cases hc : (s.ch n).strand.committed with
  | none =>
    have hs : s.settled n x.2.2.1 = s := by simp [State.settled, hc]
    rw [hs]
    exact ⟨s.upCh_chOnly n _, rfl, fun h => absurd rfl h⟩
  | some t =>
    have hd : x.2.2.1 = .dropped := hx.resolve_left (by simp [hc])
    have hs : s.settled n x.2.2.1 = s.upCh n Chan.dropRecord := by simp [State.settled, hc, hd, State.settleRecord_dropped]
    obtain ⟨m, hdrop⟩ := (s.ch n).dropRecord_spec
    rw [hs, State.upCh_ch, hdrop]
    exact ⟨(s.upCh_chOnly n _).trans (State.upCh_chOnly _ n _), rfl, fun _ => rfl⟩

/-! ### Which end stands (R324) -/

theorem Chan.strongerEnd_none {c : Chan} (h : c.strand.endReq = none) (st : StrandState) (r : Reason) (f : RecFate) (count : Bool) :
    c.strongerEnd st r f count = (st, r, f, count) := by
  simp [Chan.strongerEnd, h]

/-- Against the end that was asked for with the same reason the present one stands. -/
theorem Chan.strongerEnd_same {c : Chan} {r : Reason} (h : c.strand.endReq = some r) (st : StrandState) (f : RecFate) (count : Bool) :
    c.strongerEnd st r f count = (st, r, f, count) := by
  simp [Chan.strongerEnd, h]

/-- Nothing is stronger than FAULT. -/
theorem Chan.strongerEnd_fault (c : Chan) (st : StrandState) (f : RecFate) (count : Bool) :
    c.strongerEnd st .fault f count = (st, .fault, f, count) := by
  have hrank (q : Reason) : ¬ Reason.fault.rank < q.rank := by cases q <;> decide
  unfold Chan.strongerEnd
  split
  · exact if_neg (hrank _)
  · rfl

/-- An end as STOPPED stops the strand, whichever reason stands. -/
theorem Chan.strongerEnd_stopped (c : Chan) (r : Reason) (f : RecFate) (count : Bool) : (c.strongerEnd .stopped r f count).1 = .stopped := by
  unfold Chan.strongerEnd
  split
  · split <;> rfl
  · rfl

theorem State.endStrand_active {s : State} {n : Ch} (h : (s.ch n).strand.st.active = true) (st : StrandState) (r : Reason) (f : RecFate)
    (count : Bool) : s.endStrand n st r f count = s.endAs n ((s.ch n).strongerEnd st r f count) := if_pos h

theorem State.endStrand_inactive {s : State} {n : Ch} (h : (s.ch n).strand.st.active = false) (st : StrandState) (r : Reason) (f : RecFate)
    (count : Bool) : s.endStrand n st r f count = s.endAgain n st r f := if_neg (by simp [h])

theorem State.endBy_unfaulted {s : State} {n : Ch} (h : s.faultDue n = false) (st : StrandState) (r : Reason) (f : RecFate) (count : Bool) :
    s.endBy n st r f count = s.endStrand n st r f count := if_neg (by simp [h])

theorem State.endBy_faulted {s : State} {n : Ch} (h : s.faultDue n = true) (st : StrandState) (r : Reason) (f : RecFate) (count : Bool) :
    s.endBy n st r f count = s.endStrand n .stopped .fault .now true := if_pos h

/-- With no other end asked for and no fault's reaction due, an active strand ends as said. -/
theorem State.endBy_asked {s : State} {n : Ch} {r : Reason} (ha : (s.ch n).strand.st.active = true)
    (he : (s.ch n).strand.endReq = none ∨ (s.ch n).strand.endReq = some r) (hf : s.faultDue n = false) (st : StrandState) (f : RecFate) (count : Bool) :
    s.endBy n st r f count = s.endAs n (st, r, f, count) := by
  rw [State.endBy_unfaulted hf, State.endStrand_active ha]
  rcases he with he | he
  · rw [Chan.strongerEnd_none he]
  · rw [Chan.strongerEnd_same he]

/-- A second end at the boundary of the first one changes the strand's state, its reason and its record. -/
theorem State.endAgain_spec (s : State) (n : Ch) (st : StrandState) (r : Reason) (f : RecFate) : s.strandOnly (s.endAgain n st r f) n ∧
    (((s.endAgain n st r f).ch n).strand.st = (s.ch n).strand.st ∨ ((s.endAgain n st r f).ch n).strand.st = st) := by
  obtain ⟨honly, -⟩ := s.settled_spec n f
  unfold State.endAgain
  dsimp only
  split
  · refine ⟨honly.trans (State.upCh_strandOnly _ n _ rfl), .inr ?_⟩
    rw [State.upCh_ch]
  · exact ⟨State.strandOnly.refl s n, .inl rfl⟩

theorem State.endStrand_strandOnly (s : State) (n : Ch) (st : StrandState) (r : Reason) (f : RecFate) (count : Bool) :
    s.strandOnly (s.endStrand n st r f count) n := by
  unfold State.endStrand
  split
  · exact (s.endAs_ended n _).1
  · exact (s.endAgain_spec n st r f).1

theorem State.endBy_strandOnly (s : State) (n : Ch) (st : StrandState) (r : Reason) (f : RecFate) (count : Bool) :
    s.strandOnly (s.endBy n st r f count) n := by
  unfold State.endBy
  split
  · exact s.endStrand_strandOnly n _ _ _ _
  · exact s.endStrand_strandOnly n _ _ _ _

/-- Behind an end as STOPPED no strand is active. -/
theorem State.endStrand_stops (s : State) (n : Ch) (r : Reason) (f : RecFate) (count : Bool) :
    ((s.endStrand n .stopped r f count).ch n).strand.st.active = false := by
  cases ha : (s.ch n).strand.st.active with
  | true =>
    rw [State.endStrand_active ha, (s.endAs_ended n _).2.st, Chan.strongerEnd_stopped]
    rfl
  | false =>
    rw [State.endStrand_inactive ha]
    rcases (s.endAgain_spec n .stopped r f).2 with h | h <;> rw [h]
    · exact ha
    · rfl

theorem State.endBy_stops (s : State) (n : Ch) (r : Reason) (f : RecFate) (count : Bool) :
    ((s.endBy n .stopped r f count).ch n).strand.st.active = false := by
  unfold State.endBy
  split
  · exact s.endStrand_stops n _ _ _
  · exact s.endStrand_stops n _ _ _

end Sys2Proof.Machine
end

section
/-! SUPPORT. START, STOP and ABORT of a strand (R257, R258, R260, R324). -/

namespace Sys2Proof.Machine

/-! ### START (R258) -/

theorem exec_strandStart_takes {s : State} {n : Ch} (d : Bool) (k : BitVec 10) (h : s.takes n) :
    exec (.strandStart n d k) s = .next ((s.sample n).strandStart n d k) := by
  obtain ⟨⟨hr, hg⟩, ha, hm⟩ := h
  have he : exec (.strandStart n d k) s = .next (s.pageWrite (chBay n) (chAddr n 0x240) (strandWord true false false d k.toNat) fun s =>
      ((s.when (s.ch n).map.member fun s => s.noteCh n 0x240).sample n).strandStart n d k) := rfl
  rw [he, State.pageWrite_of _ _ _ _ _ hr hg ha, hm, State.when_false]

/-- A strand's type fits the channel's class. -/
theorem classFits_iff (t : StrandType) (k : UpdateClass) : ((t == .stream) != (k == .stream)) = false ↔ (t = .stream) = (k = .stream) := by
  simp [eq_iff_iff]

/-- The refusals of R258's table, each behind the ones above it; a member is refused by `startRefused_member`. -/
theorem Chan.startRefused_of {c : Chan} {n : Ch} {e : LibEntry} {r : Reason}
    (h : (e.channel.toNat ≠ n.val ∧ r = .notOwner) ∨
      (e.channel.toNat = n.val ∧ (e.type = .stream) ≠ (c.eff.cls = .stream) ∧ r = .wrongClass) ∨
      (e.channel.toNat = n.val ∧ (e.type = .stream) = (c.eff.cls = .stream) ∧ c.map.avail = false ∧ r = .noChannel) ∨
      (e.channel.toNat = n.val ∧ (e.type = .stream) = (c.eff.cls = .stream) ∧ c.map.avail = true ∧
        (c.strand.st.active = true ∨ c.meas.cal.st ≠ .idle) ∧ r = .busy)) (hm : c.map.member = false) : c.startRefused n e = some r := by
  rw [Chan.startRefused]
  rcases h with ⟨ho, rfl⟩ | ⟨ho, hk, rfl⟩ | ⟨ho, hk, ha, rfl⟩ | ⟨ho, hk, ha, hb, rfl⟩
  · rw [if_pos ho]
  · rw [if_neg (not_not.mpr ho), if_pos (Bool.of_not_eq_false fun hf => hk ((classFits_iff _ _).mp hf))]
  · rw [if_neg (not_not.mpr ho), (classFits_iff _ _).mpr hk, if_neg Bool.false_ne_true, if_pos (by simp [ha])]
  · rw [if_neg (not_not.mpr ho), (classFits_iff _ _).mpr hk, if_neg Bool.false_ne_true, if_neg (by simp [ha, hm]),
      if_pos (by simpa [CalSt.isOpen] using hb)]

theorem Chan.startRefused_none {c : Chan} {n : Ch} {e : LibEntry} (ho : e.channel.toNat = n.val)
    (hk : (e.type = .stream) = (c.eff.cls = .stream)) (ha : c.map.avail = true) (hm : c.map.member = false)
    (hs : c.strand.st.active = false) (hc : c.meas.cal.st = .idle) : c.startRefused n e = none := by
  rw [Chan.startRefused, if_neg (not_not.mpr ho), (classFits_iff _ _).mpr hk, if_neg Bool.false_ne_true, if_neg (by simp [ha, hm]),
    if_neg (by simp [CalSt.isOpen, hs, hc])]

theorem State.strandStart_accepted {s : State} {n : Ch} {d : Bool} {k : BitVec 10} (h : (s.ch n).startRefused n (s.strandOf n d k) = none) :
    s.strandStart n d k = s.upCh n fun c => c.startStrand (s.strandOf n d k) s.period := by
  simp only [State.strandStart, h]

/-! ### STOP (R260) -/

@[simp] theorem State.sample_period (s : State) (n : Ch) : (s.sample n).period = s.period := rfl

theorem exec_strandStop_takes {s : State} {n : Ch} (h : s.takes n) : exec (.strandStop n) s = .next ((s.sample n).strandStop n) :=
  congrArg _ (h.chWrite _ _ _)

theorem State.strandStop_idle {s : State} {n : Ch} (h : (s.ch n).strand.st.active = false) : s.strandStop n = s := by
  simp [State.strandStop, h]

theorem State.strandStop_uncommitted {s : State} {n : Ch} (h : (s.ch n).strand.st.active = true) (hc : (s.ch n).strand.committed = none) :
    s.strandStop n = s.endBy n .stopped .stop .normal true := by
  simp [State.strandStop, h, hc]

/-- Behind a commit STOP squashes run-ahead and lets the present bead run out. -/
theorem State.strandStop_committed {s : State} {n : Ch} (h : (s.ch n).strand.st.active = true) (hc : (s.ch n).strand.committed ≠ none) :
    s.strandStop n = s.upCh n fun c => { c with strand := { c.strand with stopReq := true } }.squashAhead s.period := by
  have hs : (s.ch n).strand.committed.isNone = false := by simpa [← Option.isSome_iff_ne_none] using hc
  simp [State.strandStop, h, hs]

/-- A squash of run-ahead changes the strand's preparation and the overlap that it pre-armed (R265). -/
theorem Chan.squashAhead_spec (c : Chan) (now : Nat) : ∃ r x, c.squashAhead now = { c with range := r, strand := { c.strand with
    ahead := [], squashReq := false, squashes := satInc c.strand.squashes, cursor := c.strand.nextBead, cursorPt := c.strand.nextPt,
    noMore := c.strand.last || c.strand.stopReq, holdUntil := now + 2, lates := x } } := by
  obtain ⟨r, h⟩ := c.releasePrearm_spec
  unfold Chan.squashAhead
  rw [h]
  exact ⟨_, _, rfl⟩

/-! ### ABORT (R260, R324) -/

theorem exec_strandAbort_takes {s : State} {n : Ch} (h : s.takes n) : exec (.strandAbort n) s = .next ((s.sample n).strandAbort n) :=
  congrArg _ (h.chWrite _ _ _)

theorem State.strandAbort_ch (s : State) (n m : Ch) : (s.strandAbort n).ch m = (s.endBy n .stopped .abort .dropped true).ch m :=
  State.refresh_ch _ n m

theorem State.strandAbort_strandOnly (s : State) (n : Ch) : s.strandOnly (s.strandAbort n) n :=
  (s.endBy_strandOnly n _ _ _ _).trans (State.refresh_path _ n).strandOnly

/-- An ABORT that nothing outranks ends the strand without its record. -/
theorem State.strandAbort_ends {s : State} {n : Ch} (ha : (s.ch n).strand.st.active = true) (he : (s.ch n).strand.endReq = none)
    (hf : s.faultDue n = false) : s.pathOnly (s.strandAbort n) n ∧ (s.ch n).Ended ((s.strandAbort n).ch n) .stopped .abort ∧
      ((s.strandAbort n).ch n).larder = (s.ch n).larder ∧
      ((s.ch n).strand.committed ≠ none → ((s.strandAbort n).ch n).strand.rcd = none) := by
  obtain ⟨-, hend⟩ := s.endAs_ended n (.stopped, .abort, .dropped, true)
  obtain ⟨honly, hlarder, hrcd⟩ := State.endAs_unwritten (s := s) (n := n) (x := (.stopped, .abort, .dropped, true)) (.inr rfl)
  rw [State.strandAbort_ch]
  unfold State.strandAbort
  rw [State.endBy_asked ha (.inl he) hf]
  exact ⟨(honly.path hend.map).trans (State.refresh_path _ n), hend, hlarder, hrcd⟩

/-- A fault's reaction of the same boundary stands before the ABORT. -/
theorem State.strandAbort_faulted {s : State} {n : Ch} (ha : (s.ch n).strand.st.active = true) (hf : s.faultDue n = true) :
    (s.ch n).Ended ((s.strandAbort n).ch n) .stopped .fault := by
  rw [State.strandAbort_ch, State.endBy_faulted hf, State.endStrand_active ha, Chan.strongerEnd_fault]
  exact (s.endAs_ended n (.stopped, .fault, .now, true)).2

theorem State.strandAbort_idle {s : State} {n : Ch} (ha : (s.ch n).strand.st.active = false) (he : (s.ch n).strand.endAt ≠ some s.time) :
    s.strandAbort n = s.refresh n := by
  rw [State.strandAbort, State.endBy_idle ha he]

/-- An ABORT at the boundary of a STOP before any commit takes its place (R324). -/
theorem State.strandAbort_again {s : State} {n : Ch} (ha : (s.ch n).strand.st.active = false) (he : (s.ch n).strand.endAt = some s.time)
    (hr : (s.ch n).strand.reason = .stop) (hc : (s.ch n).strand.committed = none) (hf : s.faultDue n = false) : s.strandAbort n =
      (s.upCh n fun c => { c with strand := { c.strand with st := .stopped, reason := .abort } }).refresh n := by
  have hagain : s.endAgain n .stopped .abort .dropped = s.upCh n fun c => { c with strand := { c.strand with st := .stopped, reason := .abort } } := by
    simp [State.endAgain, he, hr, hc, Reason.rank]
  rw [State.strandAbort, State.endBy_unfaulted hf, State.endStrand_inactive ha, hagain]

/-- Settles O43: START by R258's table, STOP by the commit behind it, and ABORT by what ends with it at the boundary. -/
theorem strandsStartAndEndOnCommand : Obligations.StrandsStartAndEndOnCommand := by
  rintro n s u c ht rfl rfl
  have hm : ((s.sample n).ch n).map.member = false := by simpa using ht.2.2
  have honly := s.sample_chOnly n
  have hpath := s.sample_path n
  refine ⟨?_, fun ha => ?_, fun ha hc he hf => ?_, fun ha hc => ?_, fun ha he hf => ?_, fun ha hf => ?_, fun ha he => ?_, fun ha he hr hc hf => ?_⟩
  · rintro d k e rfl
    refine ⟨fun r h => ?_, fun ho hk ha hs hcal => ?_⟩
    · refine ⟨_, exec_strandStart_takes d k ht, ?_⟩
      rw [State.strandStart_refused (Chan.startRefused_of h hm), State.upCh_ch]
      exact ⟨honly.trans (State.upCh_chOnly _ n _), rfl⟩
    · refine ⟨_, exec_strandStart_takes d k ht, ?_⟩
      rw [State.strandStart_accepted (Chan.startRefused_none ho hk ha hm hs hcal), State.upCh_ch]
      exact ⟨honly.trans (State.upCh_chOnly _ n _), rfl, rfl, rfl, rfl, rfl, rfl, rfl, rfl, rfl, rfl⟩
  · rw [exec_strandStop_takes ht, State.strandStop_idle ha]
  · obtain ⟨hch, hlarder, -⟩ := State.endAs_unwritten (s := s.sample n) (n := n) (x := (.stopped, .stop, .normal, true)) (.inl hc)
    obtain ⟨-, hend⟩ := (s.sample n).endAs_ended n (.stopped, .stop, .normal, true)
    refine ⟨_, exec_strandStop_takes ht, ?_⟩
    rw [State.strandStop_uncommitted ha hc, State.endBy_asked ha (.inl he) hf]
    exact ⟨honly.trans hch, hend.st, hend.reason, hend.ended, hend.ahead, hend.code, hlarder⟩
  · obtain ⟨r, x, h⟩ := Chan.squashAhead_spec { (s.sample n).ch n with strand := { ((s.sample n).ch n).strand with stopReq := true } } s.period
    refine ⟨_, exec_strandStop_takes ht, ?_⟩
    rw [State.strandStop_committed ha hc, State.upCh_ch, State.sample_period, h]
    exact ⟨honly.trans (State.upCh_chOnly _ n _), rfl, rfl, rfl, rfl, rfl, rfl, rfl, rfl⟩
  · obtain ⟨hab, hend, hlarder, hrcd⟩ := State.strandAbort_ends ha he hf
    exact ⟨_, exec_strandAbort_takes ht, hpath.trans hab, hend.st, hend.reason, hend.ended, hend.ahead, hrcd, hend.code, hlarder⟩
  · have hend := State.strandAbort_faulted ha hf
    exact ⟨_, exec_strandAbort_takes ht, hend.st, hend.reason, hend.ended⟩
  · refine ⟨_, exec_strandAbort_takes ht, ?_⟩
    rw [State.strandAbort_idle ha (by simpa using he), State.refresh_ch]
    exact ⟨hpath.trans (State.refresh_path _ n), rfl⟩
  · refine ⟨_, exec_strandAbort_takes ht, ?_⟩
    rw [State.strandAbort_again ha (by simpa using he) hr hc hf, State.refresh_ch, State.upCh_ch]
    exact ⟨hpath.trans ((State.upCh_path _ n _ rfl).trans (State.refresh_path _ n)), rfl⟩

end Sys2Proof.Machine
end

section
/-! SUPPORT. What a strobe and a point that commits make of their channel: the level with its pulse base, the compliance, and the ranges where
they are kept (R94, R215, R226, R259, R321). -/

namespace Sys2Proof.Machine

/-! ### What every strobe leaves alone (R94, R96, R216) -/

/-- The mapping, the limiter's code, and of strand and registers all but the pulse and its base level stand. -/
structure Chan.Strobed (c d : Chan) : Prop where
  map : d.map = c.map
  code : d.force.code = c.force.code
  strand : d.strand = { c.strand with pulse := d.strand.pulse, baseOn := d.strand.baseOn }
  cfg : d.cfg = { c.cfg with pulseBase := d.cfg.pulseBase }
  eff : d.eff = { c.eff with pulseBase := d.eff.pulseBase }

theorem Chan.Strobed.refl (c : Chan) : c.Strobed c := ⟨rfl, rfl, rfl, rfl, rfl⟩

theorem Chan.Strobed.trans {a b c : Chan} (h : a.Strobed b) (k : b.Strobed c) : a.Strobed c :=
  ⟨k.map.trans h.map, k.code.trans h.code, by rw [k.strand, h.strand], by rw [k.cfg, h.cfg], by rw [k.eff, h.eff]⟩

/-- Ranging, measuring, the loops and the force path beside its code are not held. -/
theorem Chan.Strobed.beside (c : Chan) (r : RangeSt) (m : MeasSt) (l : LoopSt) {f : ForceSt} (h : f.code = c.force.code) :
    c.Strobed { c with range := r, meas := m, loop := l, force := f } := ⟨rfl, h, rfl, rfl, rfl⟩

theorem Chan.calInterrupt_strobed (c : Chan) : c.Strobed c.calInterrupt := by
  obtain ⟨m, h⟩ := c.calInterrupt_spec
  rw [h]
  exact Chan.Strobed.beside c _ m _ rfl

theorem Chan.command_strobed (c : Chan) (v i : BitVec 4) : c.Strobed (c.command v i) := by
  obtain ⟨r, m, x, h⟩ := c.command_spec v i
  rw [h]
  exact Chan.Strobed.beside c r m _ rfl

theorem Chan.commandedBy_strobed (c : Chan) (v i : BitVec 4) (commit : Bool) : c.Strobed (c.commandedBy v i commit) :=
  Chan.Strobed.beside c _ _ _ rfl

theorem Chan.setCompl_strobed (c : Chan) (w : Level) : c.Strobed (c.setCompl w) := Chan.Strobed.beside c _ _ _ rfl

theorem Chan.leaveRest_strobed (c : Chan) : c.Strobed c.leaveRest := by
  obtain ⟨o, a, b, on, x, h⟩ := c.leaveRest_spec
  rw [h]
  exact Chan.Strobed.beside c _ _ _ rfl

theorem Chan.openTarget_strobed (c : Chan) (sine : Int) : c.Strobed (c.openTarget sine) := by
  obtain ⟨x, y, a, b, h⟩ := c.openTarget_spec sine
  rw [h]
  exact Chan.Strobed.beside c _ _ _ rfl

theorem Chan.applied_strobed (c : Chan) (l : Level) : c.Strobed (c.applied l) :=
  c.leaveRest_strobed.trans (Chan.Strobed.beside _ _ _ _ rfl)

theorem Chan.applyLevel_strobed (c : Chan) (l : Level) (sine : Int) : c.Strobed (c.applyLevel l sine) := by
  rw [Chan.applyLevel_eq]
  refine (c.applied_strobed l).trans ?_
  split
  · exact Chan.Strobed.beside _ _ _ _ rfl
  · split
    · exact Chan.Strobed.refl _
    · exact (Chan.openTarget_strobed _ sine).trans (Chan.Strobed.beside _ _ _ _ rfl)

/-- A strobe behind which `prep` moves the pulse and its base alone. -/
theorem Chan.strobeWith_strobed {prep : Chan → Chan} (hp : ∀ d : Chan, d.Strobed (prep d)) (c : Chan) (l : Level) (v i : BitVec 4) (sine : Int) :
    c.Strobed (c.strobeWith l v i prep sine) := by
  unfold Chan.strobeWith
  dsimp only
  split
  · split
    · exact Chan.Strobed.refl c
    · exact (hp c).trans (Chan.Strobed.beside _ _ _ _ rfl)
  · refine (c.command_strobed v i).trans ?_
    split
    · exact Chan.Strobed.refl _
    · refine (hp _).trans ?_
      split
      · exact (Chan.leaveRest_strobed _).trans (Chan.Strobed.beside _ _ _ _ rfl)
      · exact Chan.applyLevel_strobed _ l sine

theorem Chan.offBase_strobed (c : Chan) : c.Strobed c.offBase := ⟨rfl, rfl, rfl, rfl, rfl⟩

/-! ### A strobe that keeps the ranges (R215) -/

theorem Chan.applyLevel_range (c : Chan) (l : Level) (sine : Int) : (c.applyLevel l sine).range = { c.range with wantLevel := none } := by
  obtain ⟨o, a, b, on, x, hrest⟩ := c.leaveRest_spec
  obtain ⟨_, _, _, _, htarget⟩ := (c.applied l).openTarget_spec sine
  rw [Chan.applyLevel_eq, htarget]
  unfold Chan.applied
  rw [hrest]
  repeat' split
  all_goals rfl

/-- With the ranges kept and none waiting, ranging stands but for a waiting level, and class 0 applies the level. -/
theorem Chan.strobeWith_keeps {c : Chan} {prep : Chan → Chan} (hp : ∀ d : Chan, d.Strobed (prep d) ∧ (prep d).range = d.range)
    (hh : c.range.hst ≠ .vSwitch) (hv : c.range.wantV = none) (hi : c.range.wantI = none) (l : Level) (sine : Int) :
    (∃ x, (c.strobeWith l 15 15 prep sine).range = { c.range with wantLevel := x }) ∧
    (c.eff.cls = .strobed → (c.strobeWith l 15 15 prep sine).force.applied = l) := by
  cases hk : c.eff.cls with
  | stream =>
    rw [Chan.strobeWith_stream l prep sine hh hk]
    exact ⟨⟨_, rfl⟩, fun h => absurd h (by decide)⟩
  | strobed =>
    obtain ⟨-, hrange⟩ := hp c
    cases hr : c.force.resting with
    | true =>
      rw [Chan.strobeWith_resting l 15 15 prep sine hr hk]
      exact ⟨⟨_, hrange⟩, fun _ => rfl⟩
    | false =>
      have hw : (prep c).forcedWaits = false := Chan.forcedWaits_of (by rw [hrange, hv]) (by rw [hrange, hi])
      have hs : c.strobeWith l 15 15 prep sine = (prep c).applyLevel l sine := by
        simp only [Chan.strobeWith, Chan.command_keep hh, hr, hk, hw, Bool.false_eq_true, if_false, reduceCtorEq]
      obtain ⟨-, happlied, -⟩ := (prep c).applyLevel_frame l sine
      rw [hs, Chan.applyLevel_range, hrange]
      exact ⟨⟨_, rfl⟩, fun _ => happlied⟩

/-! ### A point lands (R259, R272, R321) -/

/-- The pulse and the base level of point `p`, which channel `o` commits at `t`. -/
def Chan.pulsePrep (o : Chan) (p : Prep) (t : Nat) (c : Chan) : Chan :=
  let base (g : ChanCfg) : ChanCfg := if p.isPulse || o.eff.type == .stream then g else { g with pulseBase := p.level }
  { c with strand := { c.strand with pulse := if p.isPulse then some (t + c.eff.pulseWidth.toNat, p.level) else none, baseOn := o.eff.type == .pulsed },
           cfg := base c.cfg, eff := base c.eff }

theorem Chan.pulsePrep_strobed (o : Chan) (p : Prep) (t : Nat) (c : Chan) : c.Strobed (o.pulsePrep p t c) := by
  unfold Chan.pulsePrep
  dsimp only
  split
  · exact ⟨rfl, rfl, rfl, rfl, rfl⟩
  · exact ⟨rfl, rfl, rfl, rfl, rfl⟩

/-- Ranges, level, pulse and compliance of a point as they take effect. -/
def Chan.pointLands (c : Chan) (p : Prep) (t : Nat) (sine : Int) : Chan :=
  ((c.calInterrupt.strobeWith p.level p.v p.i (c.pulsePrep p t) sine).commandedBy p.v p.i true).setCompl p.compl

theorem Chan.pointLands_strobed (c : Chan) (p : Prep) (t : Nat) (sine : Int) : c.Strobed (c.pointLands p t sine) :=
  ((c.calInterrupt_strobed.trans (Chan.strobeWith_strobed (c.pulsePrep_strobed p t) _ _ _ _ sine)).trans
    (Chan.commandedBy_strobed _ _ _ _)).trans (Chan.setCompl_strobed _ _)

/-- A commit is the point that lands, its pass entries, a pending tone, and the bead in force. -/
theorem Chan.commitPoint_eq (c : Chan) (p : Prep) (t : Nat) (sine : Int) : ∃ g e m a b, c.commitPoint p t sine =
    { c.pointLands p t sine with
      cfg := g, eff := e, meas := m, loop := { (c.pointLands p t sine).loop with complPend := false, complDrove := false },
      strand := { (c.pointLands p t sine).strand with
        st := .running, bead := BitVec.ofNat 16 p.index, point := p.point, ahead := c.behindFront, committed := some t, dwell := p.dwell,
        last := p.isLast, nextBead := p.next.1, nextPt := p.next.2, order := none, fixed := a, toneOn := b } } ∧
    g.first = ((c.pointLands p t sine).eff.loadPass p.sel).first ∧ g.last = ((c.pointLands p t sine).eff.loadPass p.sel).last :=
  ⟨_, _, _, _, _, rfl, rfl, rfl⟩

/-- What a committed point leaves: its bead in force since `t`, its compliance, its pass, and the limiter's code as it stood. -/
structure Chan.Commits (c d : Chan) (p : Prep) (t : Nat) : Prop where
  map : d.map = c.map
  code : d.force.code = c.force.code
  st : d.strand.st = .running
  bead : d.strand.bead = BitVec.ofNat 16 p.index
  point : d.strand.point = p.point
  committed : d.strand.committed = some t
  dwell : d.strand.dwell = p.dwell
  isLast : d.strand.last = p.isLast
  compl : d.range.complRef = p.compl
  passFirst : d.cfg.first = (c.eff.loadPass p.sel).first
  passLast : d.cfg.last = (c.eff.loadPass p.sel).last

theorem Chan.commitPoint_commits (c : Chan) (p : Prep) (t : Nat) (sine : Int) : c.Commits (c.commitPoint p t sine) p t := by
  obtain ⟨g, e, m, a, b, h, hfirst, hlast⟩ := c.commitPoint_eq p t sine
  have hland := c.pointLands_strobed p t sine
  rw [hland.eff] at hfirst hlast
  rw [h]
  exact ⟨hland.map, hland.code, rfl, rfl, rfl, rfl, rfl, rfl, rfl, hfirst, hlast⟩

/-- What a point that keeps the ranges leaves: its compliance at once, the ranges as they stood, and in class 0 its level. -/
structure Chan.CommitsHere (c d : Chan) (p : Prep) : Prop where
  compl : d.loop.complApplied = p.compl
  v : d.range.v = c.range.v
  i : d.range.i = c.range.i
  applied : c.eff.cls = .strobed → d.force.applied = p.level

theorem Chan.commitPoint_here {c : Chan} {p : Prep} (hv : p.v = 15) (hi : p.i = 15) (hwv : c.range.wantV = none) (hwi : c.range.wantI = none)
    (hh : c.range.hst = .idle) (t : Nat) (sine : Int) :
    c.CommitsHere (c.commitPoint p t sine) p ∧ (c.commitPoint p t sine).range.wantV = none := by
  obtain ⟨m, hcal⟩ := c.calInterrupt_spec
  have hprep : ∀ d : Chan, d.Strobed (c.pulsePrep p t d) ∧ (c.pulsePrep p t d).range = d.range := fun d => ⟨c.pulsePrep_strobed p t d, rfl⟩
  obtain ⟨⟨x, hrange⟩, happlied⟩ := Chan.strobeWith_keeps (c := c.calInterrupt) hprep (by rw [hcal]; simp [hh]) (by rw [hcal]; exact hwv)
    (by rw [hcal]; exact hwi) p.level sine
  obtain ⟨g, e, m', a, b, h, -, -⟩ := c.commitPoint_eq p t sine
  have hland : c.pointLands p t sine = (c.calInterrupt.strobeWith p.level 15 15 (c.pulsePrep p t) sine).setCompl p.compl := by
    rw [Chan.pointLands, hv, hi, Chan.commandedBy_keep]
  rw [hcal] at hrange happlied hland
  rw [h, hland]
  generalize Chan.strobeWith _ _ _ _ _ _ = d at *
  have hcompl := Chan.setCompl_loop (c := d) p.compl (by rw [hrange]; exact hwi)
  obtain ⟨hdv, hdi, hdw⟩ : d.range.v = c.range.v ∧ d.range.i = c.range.i ∧ d.range.wantV = none := by
    rw [hrange]
    exact ⟨rfl, rfl, hwv⟩
  exact ⟨⟨congrArg LoopSt.complApplied hcompl, hdv, hdi, happlied⟩, hdw⟩

end Sys2Proof.Machine
end

section
/-! SUPPORT. BEAD_COMMIT on one channel, the end at the dwell, and the squash of run-ahead (R259, R260, R263 … R268, R284). -/

namespace Sys2Proof.Machine

/-! ### The frame of a commit -/

/-- No other channel differs, and no time passes. -/
structure State.commitOnly (s t : State) (n : Ch) : Prop where
  ch : ∀ m, m ≠ n → t.ch m = s.ch m
  time : t.time = s.time

theorem State.commitOnly.refl (s : State) (n : Ch) : s.commitOnly s n := ⟨fun _ _ => rfl, rfl⟩

theorem State.commitOnly.trans {a b c : State} {n : Ch} (h : a.commitOnly b n) (k : b.commitOnly c n) : a.commitOnly c n :=
  ⟨fun m e => (k.ch m e).trans (h.ch m e), k.time.trans h.time⟩

theorem State.strandOnly.commitOnly {s t : State} {n : Ch} (h : s.strandOnly t n) : s.commitOnly t n := by
  refine ⟨h.ch, ?_⟩
  rw [h.rest]

theorem State.post_commitOnly (s : State) (n : Ch) (src : BitVec 10) (kind addr : Nat) : s.commitOnly (s.post src kind addr) n :=
  ⟨fun _ _ => rfl, rfl⟩

theorem State.upCh_commitOnly (s : State) (n : Ch) (f : Chan → Chan) : s.commitOnly (s.upCh n f) n := ⟨fun _ e => s.upCh_ch_ne f e, rfl⟩

/-! ### The stages of a commit (R259) -/

theorem Chan.cutPass_recorded (c : Chan) : c.Recorded c.cutPass := by
  unfold Chan.cutPass
  split
  · exact ⟨_, _, _, _, rfl⟩
  · exact Chan.Recorded.refl c

theorem Chan.beginPass_meas (c : Chan) : ∃ m, c.beginPass = { c with meas := m } := by
  unfold Chan.beginPass
  split
  · exact ⟨_, rfl⟩
  · exact ⟨_, rfl⟩

/-- The start of a voltage range change that a point commanded; none begins where none is asked for (R227). -/
def Chan.Ranged (c d : Chan) : Prop :=
  ∃ r x, d = { c with range := r, force := { c.force with target := x } } ∧ r.complRef = c.range.complRef ∧ (c.range.wantV = none → d = c)

theorem Chan.aimV_complRef (c : Chan) : c.aimV.range.complRef = c.range.complRef := by
  unfold Chan.aimV
  dsimp only
  repeat' split
  all_goals rfl

theorem Chan.startV_complRef (c : Chan) (now : Nat) : (c.startV now).range.complRef = c.range.complRef := by
  unfold Chan.startV
  dsimp only
  split
  · split
    · exact Chan.aimV_complRef _
    · rfl
  · rfl

theorem State.startRanging_ranged (s : State) (n : Ch) : (s.ch n).Ranged ((s.startRanging n).ch n) := by
  obtain ⟨r, x, h⟩ := s.startRanging_ch n
  refine ⟨r, x, h, ?_, fun hw => by rw [State.startRanging_of hw]⟩
  have hr : r.complRef = ((s.startRanging n).ch n).range.complRef := by rw [h]
  rw [hr]
  rcases s.startRanging_cases n with e | e <;> rw [e]
  rw [State.upCh_ch]
  exact Chan.startV_complRef _ _

/-- The pass of a bead starts now or later; one without entries leaves the bead's record written at once (R168, R272, R284). -/
theorem State.beadPass_spec {s : State} {n : Ch} {b : BeadRec} (p : Prep) (hb : (s.ch n).strand.rcd = some b) (hf : b.fast = false) :
    s.strandOnly (s.beadPass n p) n ∧ (s.ch n).Recorded ((s.beadPass n p).ch n) ∧
    ∃ w, ((s.beadPass n p).ch n).strand.rcd = some { b with written := w } := by
  have hsame : ∃ w, (s.ch n).strand.rcd = some { b with written := w } := ⟨b.written, hb⟩
  unfold State.beadPass State.startPass
  dsimp only
  split
  · split
    · rw [State.upCh_ch]
      exact ⟨s.upCh_strandOnly n _ rfl, ⟨_, _, _, _, rfl⟩, hsame⟩
    · obtain ⟨m, hm⟩ := (s.ch n).beginPass_meas
      have hup : s.strandOnly (s.upCh n Chan.beginPass) n := s.upCh_strandOnly n _ (by rw [hm])
      have hrec : (s.ch n).Recorded ((s.upCh n Chan.beginPass).ch n) := by
        rw [State.upCh_ch, hm]
        exact ⟨_, _, _, _, rfl⟩
      have hrcd : ((s.upCh n Chan.beginPass).ch n).strand.rcd = some b := by rw [State.upCh_ch, hm, hb]
      generalize s.upCh n Chan.beginPass = u at *
      generalize (_ && _) = empty
      cases empty with
      | false => exact ⟨hup, hrec, b.written, hrcd⟩
      | true => exact ⟨hup.trans (u.writeRecord_strandOnly n), hrec.trans (u.writeRecord_recorded n), State.writeRecord_rcd hrcd hf⟩
  · exact ⟨State.strandOnly.refl s n, Chan.Recorded.refl _, hsame⟩

theorem State.markOut_marks (s : State) (n : Ch) (p : Prep) : ∃ l, s.markOut n p = { s with marks := l } := by
  unfold State.markOut
  split
  all_goals exact ⟨_, rfl⟩

/-- A commit by its stages: the record before it is written and its pass cut, the point takes effect, its record opens and its pass starts. -/
theorem State.commitOn_stages (s : State) (n : Ch) (p : Prep) : s.commitOnly (s.commitOn n p) n ∧ ∃ c e sine b w, (s.ch n).Recorded c ∧
    (c.commitPoint p s.time sine).Ranged e ∧ (e.openRecord p s.time b).Recorded ((s.commitOn n p).ch n) ∧
    ((s.commitOn n p).ch n).strand.rcd = (e.openRecord p s.time b).strand.rcd.map fun x => { x with written := w } := by
  obtain ⟨hwrite, hbefore⟩ : s.strandOnly ((s.writeRecord n).upCh n Chan.cutPass) n ∧
      (s.ch n).Recorded (((s.writeRecord n).upCh n Chan.cutPass).ch n) := by
    have hcut := ((s.writeRecord n).ch n).cutPass_recorded
    obtain ⟨_, _, _, _, h⟩ := hcut
    refine ⟨(s.writeRecord_strandOnly n).trans (State.upCh_strandOnly _ n _ (by rw [h])), ?_⟩
    rw [State.upCh_ch]
    exact (s.writeRecord_recorded n).trans ((s.writeRecord n).ch n).cutPass_recorded
  unfold State.commitOn
  dsimp only
  have htime : ((s.writeRecord n).upCh n Chan.cutPass).time = s.time := by rw [hwrite.rest]
  generalize (s.writeRecord n).upCh n Chan.cutPass = u at *
  have hpoint := (u.upCh n fun c => c.commitPoint p u.time (u.sineNow n)).startRanging_ranged n
  have hranged : u.commitOnly ((u.upCh n fun c => c.commitPoint p u.time (u.sineNow n)).startRanging n) n :=
    (u.upCh_commitOnly n _).trans (State.startRanging_path _ n).strandOnly.commitOnly
  rw [State.upCh_ch, htime] at hpoint
  rw [htime] at hranged ⊢
  generalize (u.upCh n fun c => c.commitPoint p s.time (u.sineNow n)).startRanging n = v at *
  have hvtime : v.time = s.time := hranged.time.trans htime
  rw [hvtime]
  obtain ⟨hpass, hrec, w, hrcd⟩ := State.beadPass_spec (s := v.upCh n fun c => c.openRecord p s.time (v.rangesHere n)) (n := n) p
    (by rw [State.upCh_ch]; rfl) rfl
  obtain ⟨l, hmark⟩ := ((v.upCh n fun c => c.openRecord p s.time (v.rangesHere n)).beadPass n p).markOut_marks n p
  rw [State.upCh_ch] at hrec
  rw [hmark]
  generalize State.beadPass _ _ _ = x at *
  have hall : s.commitOnly x n := (hwrite.commitOnly.trans hranged).trans ((v.upCh_commitOnly n _).trans hpass.commitOnly)
  have hfinal : ∀ y : State, y.chans = x.chans → y.time = x.time → s.commitOnly (y.refresh n) n ∧ (y.refresh n).ch n = x.ch n := by
    intro y hc ht
    refine ⟨(⟨fun m e => ?_, ht.trans hall.time⟩ : s.commitOnly y n).trans (State.refresh_path y n).strandOnly.commitOnly, ?_⟩
    · rw [← hall.ch m e, State.ch, State.ch, hc]
    · rw [State.refresh_ch, State.ch, State.ch, hc]
  have hpost : ∃ y : State, (State.when { x with marks := l } p.fixed fun s => s.post (srcCh n) 2 p.index) = y ∧
      y.chans = x.chans ∧ y.time = x.time := by
    cases p.fixed
    · exact ⟨_, rfl, rfl, rfl⟩
    · exact ⟨_, rfl, rfl, rfl⟩
  obtain ⟨y, hy, hc, ht⟩ := hpost
  obtain ⟨honly, hch⟩ := hfinal y hc ht
  rw [hy, hch]
  exact ⟨honly, u.ch n, v.ch n, u.sineNow n, v.rangesHere n, w, hbefore, hpoint, hrec, hrcd⟩

end Sys2Proof.Machine
end

section
/-! SUPPORT. The commit of a point on one channel and of a bad bead, the end at the dwell, and the squash of run-ahead
(R249, R251, R259, R260, R263 … R268, R324). -/

namespace Sys2Proof.Machine

/-! ### What a commit leaves at its end (R259, R284) -/

/-- The record of point `p` committed at `t`: its index and instant, and silent where the bead is. -/
def Chan.HasRecord (d : Chan) (p : Prep) (t : Nat) : Prop :=
  ∃ r, d.strand.rcd = some r ∧ r.index = p.index ∧ r.commit = t ∧ (p.isSilent = true → r.silent = true)

/-- Records before and behind a commit, and the start of a range change, leave what the point made. -/
theorem Chan.Commits.of_stages {a b c d e f : Chan} {p : Prep} {t : Nat} {g : BitVec 8} (h : b.Commits c p t) (hab : a.Recorded b) (hcd : c.Ranged d)
    (hde : e = d.openRecord p t g) (hef : e.Recorded f) : a.Commits f p t := by
  obtain ⟨_, _, _, _, rfl⟩ := hab
  obtain ⟨_, _, rfl, hcompl, -⟩ := hcd
  obtain ⟨_, _, _, _, rfl⟩ := hef
  subst hde
  exact ⟨h.map, h.code, h.st, h.bead, h.point, h.committed, h.dwell, h.isLast, hcompl.trans h.compl, h.passFirst, h.passLast⟩

theorem Chan.CommitsHere.of_stages {a b c d e f : Chan} {p : Prep} {t : Nat} {g : BitVec 8} (h : b.CommitsHere c p) (hw : c.range.wantV = none)
    (hab : a.Recorded b) (hcd : c.Ranged d) (hde : e = d.openRecord p t g) (hef : e.Recorded f) : a.CommitsHere f p := by
  obtain ⟨_, _, _, _, rfl⟩ := hab
  obtain ⟨_, _, -, -, hkeep⟩ := hcd
  obtain ⟨_, _, _, _, rfl⟩ := hef
  rw [hkeep hw] at hde
  subst hde
  exact ⟨h.compl, h.v, h.i, h.applied⟩

theorem State.commitOn_commits (s : State) (n : Ch) (p : Prep) :
    s.commitOnly (s.commitOn n p) n ∧ (s.ch n).Commits ((s.commitOn n p).ch n) p s.time ∧ ((s.commitOn n p).ch n).HasRecord p s.time := by
  obtain ⟨honly, c, e, sine, b, w, hbefore, hranged, hrec, hrcd⟩ := s.commitOn_stages n p
  refine ⟨honly, (c.commitPoint_commits p s.time sine).of_stages hbefore hranged rfl hrec, _, hrcd, rfl, rfl, fun hs => ?_⟩
  simp [hs]

theorem State.commitOn_here {s : State} {n : Ch} {p : Prep} (hv : p.v = 15) (hi : p.i = 15) (hwv : (s.ch n).range.wantV = none)
    (hwi : (s.ch n).range.wantI = none) (hh : (s.ch n).range.hst = .idle) : (s.ch n).CommitsHere ((s.commitOn n p).ch n) p := by
  obtain ⟨-, c, e, sine, b, w, hbefore, hranged, hrec, -⟩ := s.commitOn_stages n p
  have hrange : c.range = (s.ch n).range := by
    obtain ⟨_, _, _, _, h⟩ := hbefore
    rw [h]
  obtain ⟨hhere, hw⟩ := Chan.commitPoint_here (c := c) hv hi (by rw [hrange, hwv]) (by rw [hrange, hwi]) (by rw [hrange, hh]) s.time sine
  exact hhere.of_stages hw hbefore hranged rfl hrec

/-! ### BEAD_COMMIT (R259, R263, R268) -/

theorem exec_beadCommit_waits {s : State} {n : Ch} (hr : s.runs) (h : s.mayCommit n = false) : exec (.beadCommit n) s = .next s :=
  congrArg _ ((s.live_of _ hr).trans (if_neg (by simp [h])))

theorem exec_beadCommit_alone {s : State} {n : Ch} (hr : s.runs) (h : s.mayCommit n = true) (ht : (s.ch n).decl.syncSet = 0) :
    exec (.beadCommit n) s = .next (s.commitNext n) :=
  congrArg _ ((s.live_of _ hr).trans ((if_pos h).trans (if_pos ht)))

theorem State.commitNext_point {s : State} {n : Ch} {p : Prep} (h : (s.ch n).front = some p) (hu : p.ue = false) (hb : p.bad = none) :
    s.commitNext n = s.commitOn n p := by
  simp [State.commitNext, h, hu, hb]

theorem State.commitNext_bad {s : State} {n : Ch} {p : Prep} {r : Reason} (h : (s.ch n).front = some p) (hu : p.ue = false)
    (hb : p.bad = some r) : s.commitNext n = ((s.post (srcCh n) (badKind r) p.index).endBy n .error r .normal true).refresh n := by
  simp [State.commitNext, h, hu, hb]

theorem StrandState.active_of_runs {t : StrandState} (h : t.runs = true) : t.active = true := by
  revert h
  cases t <;> decide

theorem Chan.runs_of_commitReady {c : Chan} {now : Nat} (h : c.commitReady now = true) : c.strand.st.runs = true := by
  simp only [Chan.commitReady, Chan.commitDueNow, Bool.and_eq_true] at h
  tauto

theorem State.runs_of_mayCommit {s : State} {n : Ch} (h : s.mayCommit n = true) (ht : (s.ch n).decl.syncSet = 0) : (s.ch n).strand.st.runs = true := by
  simp only [State.mayCommit, if_pos ht, Bool.and_eq_true] at h
  exact Chan.runs_of_commitReady h.1.1

/-! ### A message posted now reacts at no present boundary (R375) -/

/-- Behind the reactions that wait, `f` holds reactions of the present boundary only. -/
def State.reactsLater (s : State) (f : Flt) : Prop := ∃ l, f.reactions = s.flt.reactions ++ l ∧ ∀ r ∈ l, r.since = s.period

theorem State.reactsLater_of_same {s : State} {f : Flt} (h : f.reactions = s.flt.reactions) : s.reactsLater f := ⟨[], by simp [h], by simp⟩

@[simp] theorem Flt.intake_reactions (f : Flt) (r : FRec) (t : Nat) : (f.intake r t).reactions = f.reactions := by
  obtain ⟨_, _, _, _, h⟩ := f.intake_spec r t
  rw [h]

@[simp] theorem Flt.markSticky_reactions (f : Flt) (m : Msg) : (f.markSticky m).reactions = f.reactions := rfl

theorem State.startMajor_reactsLater (s : State) (m : Msg) : s.reactsLater (s.startMajor m).1 := by
  unfold State.startMajor
  dsimp only
  split
  · exact State.reactsLater_of_same rfl
  · split
    · exact State.reactsLater_of_same rfl
    · exact ⟨_, rfl, by simp⟩

theorem State.startGrave_reactsLater (s : State) (m : Msg) : s.reactsLater (s.startGrave m).1 := ⟨_, rfl, by simp⟩

theorem State.classify_reactsLater (s : State) (m : Msg) : s.reactsLater (s.classify m).1 := by
  have hup (x : SrcSt) {f : Flt} (h : (s.upFlt fun f => f.upSrc m.src fun _ => x).reactsLater f) : s.reactsLater f := h
  unfold State.classify
  dsimp only
  split
  · exact hup _ (State.startGrave_reactsLater _ m)
  · exact hup _ (State.startMajor_reactsLater _ m)
  · exact State.reactsLater_of_same rfl

theorem State.collectFlt_reactsLater (s : State) (m : Msg) : s.reactsLater (s.collectFlt m) := by
  unfold State.collectFlt
  split
  · exact State.reactsLater_of_same rfl
  · split
    · exact State.reactsLater_of_same (by simp)
    · obtain ⟨l, hl, hsince⟩ := s.classify_reactsLater m
      exact ⟨l, by simpa using hl, hsince⟩

theorem State.faultDue_post (s : State) (n : Ch) (src : BitVec 10) (kind addr : Nat) : (s.post src kind addr).faultDue n = s.faultDue n := by
  obtain ⟨l, hl, hsince⟩ := s.collectFlt_reactsLater { src := src, kind := BitVec.ofNat 6 kind, addr := BitVec.ofNat 32 addr }
  have hflt : (s.post src kind addr).flt.reactions = s.flt.reactions ++ l := hl
  have hlate : ∀ g : Reaction → Bool, (l.any fun r => decide (r.since < s.period) && g r) = false := by
    refine fun g => List.any_eq_false.mpr fun r hr => ?_
    simp [hsince r hr]
  unfold State.faultDue
  rw [hflt, List.any_append]
  exact (congrArg _ (hlate _)).trans (Bool.or_false _)

/-- A bad bead ends its strand as ERROR (R263). -/
theorem State.badBead_ends {s : State} {n : Ch} {r : Reason} (ha : (s.ch n).strand.st.active = true) (he : (s.ch n).strand.endReq = none)
    (hf : s.faultDue n = false) (src : BitVec 10) (kind addr : Nat) :
    s.commitOnly (((s.post src kind addr).endBy n .error r .normal true).refresh n) n ∧
    (s.ch n).Ended ((((s.post src kind addr).endBy n .error r .normal true).refresh n).ch n) .error r := by
  obtain ⟨honly, hend⟩ := (s.post src kind addr).endAs_ended n (.error, r, .normal, true)
  rw [State.endBy_asked (s := s.post src kind addr) ha (.inl he) ((s.faultDue_post n src kind addr).trans hf), State.refresh_ch]
  exact ⟨(s.post_commitOnly n src kind addr).trans (honly.trans (State.refresh_path _ n).strandOnly).commitOnly, hend⟩

/-! ### The end at the dwell (R260) -/

theorem exec_strandEndAtDwell_waits {s : State} {n : Ch} (hr : s.runs)
    (h : s.time / 256 < (s.ch n).dwellEnd ∨ ((s.ch n).strand.last = false ∧ (s.ch n).strand.stopReq = false)) :
    exec (.strandEndAtDwell n) s = .next s := by
  have hd : (s.ch n).endsAtDwell s.period = false := by
    rcases h with h | ⟨hl, hs⟩
    · simp [Chan.endsAtDwell, State.period, Nat.not_le.mpr h]
    · simp [Chan.endsAtDwell, hl, hs]
  exact congrArg _ ((s.live_of _ hr).trans (if_neg (by simp [hd])))

theorem exec_strandEndAtDwell_due {s : State} {n : Ch} (hr : s.runs) (hd : (s.ch n).endsAtDwell s.period = true) (he : (s.ch n).strand.endReq = none) :
    exec (.strandEndAtDwell n) s = .next ((if (s.ch n).strand.stopReq then s.endBy n .stopped .stop .normal false
      else s.endBy n .done .none .normal false).refresh n) :=
  congrArg _ ((s.live_of _ hr).trans (if_pos (by simp [hd, he])))

theorem Chan.endsAtDwell_of {c : Chan} {now : Nat} (hs : c.strand.st.runs = true) (hc : c.strand.committed ≠ none) (hd : c.dwellEnd ≤ now)
    (hl : c.strand.last = true ∨ c.strand.stopReq = true) : c.endsAtDwell now = true := by
  simp [Chan.endsAtDwell, hs, hd, Option.isSome_iff_ne_none.mpr hc, hl]

/-- LAST's dwell ends as DONE and a stopped bead's as STOPPED. -/
theorem State.dwellOver_ends {s : State} {n : Ch} (ha : (s.ch n).strand.st.active = true) (he : (s.ch n).strand.endReq = none)
    (hf : s.faultDue n = false) (stop : Bool) : ∃ t : State,
      (if stop then s.endBy n .stopped .stop .normal false else s.endBy n .done .none .normal false).refresh n = t ∧ s.commitOnly t n ∧
      (s.ch n).Ended (t.ch n) (if stop then .stopped else .done) (if stop then .stop else .none) := by
  refine ⟨_, rfl, ?_⟩
  rw [State.refresh_ch]
  cases stop with
  | true =>
    obtain ⟨honly, hend⟩ := s.endAs_ended n (.stopped, .stop, .normal, false)
    rw [if_pos rfl, State.endBy_asked ha (.inl he) hf]
    exact ⟨(honly.trans (State.refresh_path _ n).strandOnly).commitOnly, hend⟩
  | false =>
    obtain ⟨honly, hend⟩ := s.endAs_ended n (.done, .none, .normal, false)
    rw [if_neg Bool.false_ne_true, State.endBy_asked ha (.inl he) hf]
    exact ⟨(honly.trans (State.refresh_path _ n).strandOnly).commitOnly, hend⟩

/-! ### The squash of run-ahead (R264, R265) -/

theorem exec_runAheadSquash_asked {s : State} {n : Ch} {r : Reason} (hr : s.runs) (hf : ((s.ch n).strand.rcd.map (·.fast)).getD false = false)
    (he : (s.ch n).strand.endReq = some r) : exec (.runAheadSquash n) s = .next ((s.endBy n .stopped r .now true).refresh n) :=
  congrArg _ ((s.live_of _ hr).trans (by simp only [hf, State.when_false, he]))

/-- With no end asked for, a squash acts at the boundary behind its event. -/
theorem exec_runAheadSquash_unasked {s : State} {n : Ch} (hr : s.runs) (hf : ((s.ch n).strand.rcd.map (·.fast)).getD false = false)
    (he : (s.ch n).strand.endReq = none) : exec (.runAheadSquash n) s = .next (if (s.ch n).strand.squashReq && (s.ch n).strand.order.isNone
      then (s.upCh n fun c => c.squashAhead s.period).refresh n else s) :=
  congrArg _ ((s.live_of _ hr).trans (by simp only [hf, State.when_false, he]))

theorem State.askedEnd_ends {s : State} {n : Ch} {r : Reason} (ha : (s.ch n).strand.st.active = true) (he : (s.ch n).strand.endReq = some r)
    (hf : s.faultDue n = false) : s.commitOnly ((s.endBy n .stopped r .now true).refresh n) n ∧
      (s.ch n).Ended (((s.endBy n .stopped r .now true).refresh n).ch n) .stopped r := by
  obtain ⟨honly, hend⟩ := s.endAs_ended n (.stopped, r, .now, true)
  rw [State.refresh_ch, State.endBy_asked ha (.inr he) hf]
  exact ⟨(honly.trans (State.refresh_path _ n).strandOnly).commitOnly, hend⟩

/-- Settles O44: a point commits by its stages, the ends by which one stands at the boundary, and a squash by what run-ahead prepared. -/
theorem beadsCommitAndRunAheadIsSquashed : Obligations.BeadsCommitAndRunAheadIsSquashed := by
  rintro n s c hr rfl
  refine ⟨exec_beadCommit_waits hr, fun p hm ht hp hu hb => ?_, fun p r hm ht hp hu hb he hf => ?_, fun hs hc hd he hf hl => ?_,
    exec_strandEndAtDwell_waits hr, fun hfast => ⟨fun r ha he hf => ?_, fun he hq ho => ?_, fun he hq => ?_⟩⟩
  · obtain ⟨honly, h, hrcd⟩ := s.commitOn_commits n p
    refine ⟨_, exec_beadCommit_alone hr hm ht, ?_⟩
    rw [State.commitNext_point hp hu hb]
    refine ⟨honly.ch, h.map, h.st, h.bead, h.point, h.committed, h.dwell, h.isLast, h.compl, h.passFirst, h.passLast, h.code, hrcd, ?_⟩
    intro hv hi hwv hwi hh
    have hhere := State.commitOn_here (p := p) hv hi hwv hwi hh
    exact ⟨hhere.compl, hhere.v, hhere.i, hhere.applied⟩
  · have ha := StrandState.active_of_runs (State.runs_of_mayCommit hm ht)
    obtain ⟨honly, hend⟩ := State.badBead_ends (r := r) ha he hf (srcCh n) (badKind r) p.index
    refine ⟨_, exec_beadCommit_alone hr hm ht, ?_⟩
    rw [State.commitNext_bad hp hu hb]
    exact ⟨honly.ch, hend.st, hend.reason, hend.ended, hend.committed, hend.code⟩
  · obtain ⟨t, ht, honly, hend⟩ := State.dwellOver_ends (StrandState.active_of_runs hs) he hf (s.ch n).strand.stopReq
    refine ⟨t, (exec_strandEndAtDwell_due hr (Chan.endsAtDwell_of hs hc hd hl) he).trans (congrArg _ ht), ?_⟩
    exact ⟨honly.ch, hend.ended, hend.st, hend.reason, hend.code⟩
  · obtain ⟨honly, hend⟩ := State.askedEnd_ends ha he hf
    exact ⟨_, exec_runAheadSquash_asked hr hfast he, honly.ch, hend.st, hend.reason, hend.ended, hend.code⟩
  · obtain ⟨x, y, h⟩ := (s.ch n).squashAhead_spec s.period
    obtain ⟨hpath, hch⟩ := s.upRefresh_spec n (fun c => c.squashAhead s.period) (by rw [h])
    refine ⟨_, (exec_runAheadSquash_unasked hr hfast he).trans (congrArg _ (if_pos (by simp [hq, ho]))), ?_⟩
    rw [hch, h]
    exact ⟨hpath, rfl, rfl, rfl, rfl, rfl, rfl, rfl, rfl, rfl, rfl, rfl⟩
  · exact (exec_runAheadSquash_unasked hr hfast he).trans (congrArg _ (if_neg (by simp [hq])))

end Sys2Proof.Machine
end

section
/-! SUPPORT. The end of a pulse and the start of its pass, TRIG_OUT, and the larder's registers (R272, R285, R291, R293). -/

namespace Sys2Proof.Machine

/-! ### PULSE_END (R272) -/

theorem exec_pulseEnd_due {s : State} {n : Ch} {e : Nat} {l : Level} (hr : s.runs) (hp : (s.ch n).strand.pulse = some (e, l))
    (h : e < s.time + 256) : exec (.pulseEnd n) s = .next (s.pulseOver n) := by
  refine congrArg _ ((s.live_of _ hr).trans ?_)
  simp only [hp, if_pos h]

theorem exec_pulseEnd_early {s : State} {n : Ch} {e : Nat} {l : Level} (hr : s.runs) (hp : (s.ch n).strand.pulse = some (e, l))
    (h : s.time + 256 ≤ e) : exec (.pulseEnd n) s = .next s := by
  refine congrArg _ ((s.live_of _ hr).trans ?_)
  simp only [hp, if_neg (Nat.not_lt.mpr h)]

theorem exec_pulseEnd_none {s : State} {n : Ch} (hr : s.runs) (hp : (s.ch n).strand.pulse = none) : exec (.pulseEnd n) s = .next s := by
  refine congrArg _ ((s.live_of _ hr).trans ?_)
  simp only [hp]

/-- The channel with its pulse over and the target at the base level. -/
def Chan.pulseBack (c : Chan) (sine : Int) : Chan := { c with strand := { c.strand with pulse := none, baseOn := true } }.baseTarget sine

/-- The limiter's step at the end of a pulse, which its rate does not delay. -/
def Chan.pulseStep (c : Chan) : Chan :=
  let f : ForceSt := { c.force with rateCnt := 0 }
  if c.moves then { c with force := { f.limStep c.eff.slewStep.toNat (c.eff.slewRateM1.toNat + 1) with rateCnt := c.force.rateCnt } } else c

theorem State.pulseOver_eq (s : State) (n : Ch) : s.pulseOver n =
    if ((s.ch n).pulseBack (s.sineNow n)).loop.st.closed then s.upCh n fun c => c.pulseBack (s.sineNow n)
    else ((s.upCh n fun c => c.pulseBack (s.sineNow n)).upCh n Chan.pulseStep).latchDac n := by
  rw [State.pulseOver]
  simp only [State.upCh_ch]
  rfl

/-- The end of a pulse: the strand shows it, and the loops and the force path beside it alone may move. -/
def Chan.PulseEnded (c d : Chan) : Prop :=
  ∃ l f, d = { c with strand := { c.strand with pulse := none, baseOn := true }, loop := l, force := f } ∧ l.st = c.loop.st

theorem Chan.pulseBack_ended (c : Chan) (sine : Int) : c.PulseEnded (c.pulseBack sine) := by
  obtain ⟨_, _, _, _, _, h⟩ := Chan.baseTarget_spec { c with strand := { c.strand with pulse := none, baseOn := true } } sine
  exact ⟨_, _, h, rfl⟩

/-- With the loops closed the end acts as a strobe. -/
theorem Chan.pulseBack_closed {c : Chan} (h : c.loop.st.closed = true) (sine : Int) : c.pulseBack sine =
    { c with strand := { c.strand with pulse := none, baseOn := true }, loop := { c.loop with restart := true } } := if_pos h

theorem Chan.PulseEnded.step {c d : Chan} (h : c.PulseEnded d) : c.PulseEnded d.pulseStep := by
  obtain ⟨_, _, rfl, hst⟩ := h
  unfold Chan.pulseStep
  split
  · exact ⟨_, _, rfl, hst⟩
  · exact ⟨_, _, rfl, hst⟩

theorem Chan.PulseEnded.sat {c d : Chan} (h : c.PulseEnded d) (x : Bool) : c.PulseEnded { d with force := { d.force with sat := x } } := by
  obtain ⟨_, _, rfl, hst⟩ := h
  exact ⟨_, _, rfl, hst⟩

theorem Chan.PulseEnded.map {c d : Chan} (h : c.PulseEnded d) : d.map = c.map := by
  obtain ⟨_, _, rfl, -⟩ := h
  rfl

theorem State.pulseOver_spec (s : State) (n : Ch) : s.pathOnly (s.pulseOver n) n ∧ (s.ch n).PulseEnded ((s.pulseOver n).ch n) ∧
    ((s.ch n).loop.st.closed = true → ((s.pulseOver n).ch n).loop.restart = true ∧ ((s.pulseOver n).ch n).force = (s.ch n).force) := by
  have hback := (s.ch n).pulseBack_ended (s.sineNow n)
  rw [State.pulseOver_eq]
  split
  · rw [State.upCh_ch]
    refine ⟨s.upCh_path n _ hback.map, hback, fun hc => ?_⟩
    rw [Chan.pulseBack_closed hc]
    exact ⟨rfl, rfl⟩
  · next hopen =>
    refine ⟨((s.upCh_path n _ hback.map).trans (State.upCh_path _ n _ ?_)).trans (State.latchDac_path _ n), ?_, fun hc => absurd ?_ hopen⟩
    · rw [State.upCh_ch, hback.step.map, hback.map]
    · rw [State.latchDac_ch, State.upCh_ch, State.upCh_ch]
      exact hback.step.sat _
    · rw [Chan.pulseBack_closed hc]
      exact hc

/-! ### The pass of a pulse (R272) -/

theorem exec_pulsePassStart_due {s : State} {n : Ch} {e : Nat} (hr : s.runs) (hp : (s.ch n).strand.passAt = some e) (h : e ≤ s.time)
    (hs : (s.ch n).eff.run = .strand) : exec (.pulsePassStart n) s =
      .next ((s.upCh n fun c => { c with strand := { c.strand with passAt := none } }).startPass n) := by
  refine congrArg _ ((s.live_of _ hr).trans ?_)
  simp only [hp, if_pos (And.intro h hs)]

theorem exec_pulsePassStart_early {s : State} {n : Ch} {e : Nat} (hr : s.runs) (hp : (s.ch n).strand.passAt = some e) (h : s.time < e) :
    exec (.pulsePassStart n) s = .next s := by
  refine congrArg _ ((s.live_of _ hr).trans ?_)
  simp only [hp, if_neg fun k : e ≤ s.time ∧ (s.ch n).eff.run = .strand => Nat.not_le.mpr h k.1]

/-- A pass with entries starts without a record of the strand. -/
theorem State.startPass_entries {s : State} {n : Ch} (h : (s.ch n).eff.first.toNat ≤ (s.ch n).lastEntry) : s.startPass n = s.upCh n Chan.beginPass := by
  have hp : (s.ch n).beginPass.meas.pass = some { next := (s.ch n).eff.first.toNat, last := (s.ch n).lastEntry } := (s.ch n).beginPass_spec.1 h
  simp [State.startPass, hp]

/-! ### TRIG_OUT and the larder's registers (R285, R291, R293) -/

theorem exec_markPulseEnd_runs {s : State} (n : Ch) (hr : s.runs) :
    exec (.markPulseEnd n) s = .next { s with marks := s.marks.filter fun m => m.2.1 != n } := congrArg _ (s.live_of _ hr)

theorem exec_larderRdWrite_takes {s : State} {n : Ch} (v : Word) (h : s.takes n) :
    exec (.larderRdWrite n v) s = .next (s.upCh n fun c => c.larderRd v) := congrArg _ (h.chWrite _ _ _)

theorem exec_larderClear_takes {s : State} {n : Ch} (h : s.takes n) : exec (.larderClear n) s = .next ((s.sample n).larderClear n) :=
  congrArg _ (h.chWrite _ _ _)

/-- CH_LARDER_RD is held at CH_LARDER_WR. -/
theorem Chan.larderRd_spec (c : Chan) (v : Word) : c.larderRd v = { c with larder := { c.larder with rd := (c.larderRd v).larder.rd } } ∧
    ((v - c.larder.rd).toNat ≤ (c.larder.wr - c.larder.rd).toNat → (c.larderRd v).larder.rd = v) ∧
    ((c.larder.wr - c.larder.rd).toNat < (v - c.larder.rd).toNat → (c.larderRd v).larder.rd = c.larder.wr) :=
  ⟨rfl, fun h => if_neg (Nat.not_lt.mpr h), fun h => if_pos h⟩

/-- Settles O45: the end of a pulse by its loops, its pass by the entries, and the larder by what its registers hold. -/
theorem pulsesAndTheLarderFollowTheirRegisters : Obligations.PulsesAndTheLarderFollowTheirRegisters := by
  rintro n s c rfl
  refine ⟨fun hr e l hp => ⟨fun h => ?_, exec_pulseEnd_early hr hp⟩, exec_pulseEnd_none, fun hr e hp => ⟨fun h hs hl => ?_, exec_pulsePassStart_early hr hp⟩,
    fun hr => ?_, fun ht v => ?_, fun ht ha => ?_, fun ht ha => ?_⟩
  · obtain ⟨hpath, ⟨l, f, hch, hst⟩, hclosed⟩ := s.pulseOver_spec n
    refine ⟨_, exec_pulseEnd_due hr hp h, hpath, ?_, ?_, ?_, ?_, hclosed⟩
    all_goals rw [hch]
    exact hst
  · obtain ⟨m, hm⟩ := Chan.beginPass_meas { s.ch n with strand := { (s.ch n).strand with passAt := none } }
    have hpass := (Chan.beginPass_spec { s.ch n with strand := { (s.ch n).strand with passAt := none } }).1 hl
    refine ⟨_, exec_pulsePassStart_due hr hp h hs, ?_⟩
    rw [State.startPass_entries (by rw [State.upCh_ch]; exact hl), State.upCh_ch, State.upCh_ch]
    exact ⟨(s.upCh_chOnly n _).trans (State.upCh_chOnly _ n _), by rw [hm], hpass, by rw [hm]⟩
  · exact ⟨_, exec_markPulseEnd_runs n hr, rfl, by simp⟩
  · refine ⟨_, exec_larderRdWrite_takes v ht, s.upCh_chOnly n _, ?_⟩
    rw [State.upCh_ch]
    exact (s.ch n).larderRd_spec v
  · exact (exec_larderClear_takes ht).trans (congrArg _ (if_pos (by simpa using ha)))
  · refine ⟨_, (exec_larderClear_takes ht).trans (congrArg _ (if_neg (by simpa using ha))), (s.sample_chOnly n).trans (State.upCh_chOnly _ n _), ?_⟩
    simp

end Sys2Proof.Machine
end

section
/-! SUPPORT. Sync sets: START, FIRE and ABORT over their members, the beads that commit together, and an edge on TRIG_IN
(R268 … R270, R294, R327). -/

namespace Sys2Proof.Machine

/-! ### Acting on one channel after the other -/

/-- An invariant that every turn of a list keeps holds at its end. -/
theorem State.each_invMem {α : Type} {P : State → Prop} {f : α → State → State} {l : List α} (h : ∀ a ∈ l, ∀ u, P u → P (f a u)) {s : State}
    (hs : P s) : P (s.each l f) := by
  induction l generalizing s with
  | nil => exact hs
  | cons a l ih => exact ih (fun b hb => h b (by simp [hb])) (h a (by simp) s hs)

/-- Where each turn changes its own channel alone, a channel stands until its turn and behind it. -/
theorem State.each_turn {P : State → Prop} {f : Ch → State → State} (hP : ∀ a u, P u → P (f a u))
    (hf : ∀ a u j, P u → j ≠ a → (f a u).ch j = u.ch j) {l : List Ch} (hl : l.Nodup) {s : State} (hs : P s) (n : Ch) :
    (n ∉ l → (s.each l f).ch n = s.ch n) ∧ (n ∈ l → ∃ u, P u ∧ u.ch n = s.ch n ∧ (s.each l f).ch n = (f n u).ch n) := by
  induction l generalizing s with
  | nil => exact ⟨fun _ => rfl, fun h => absurd h (by simp)⟩
  | cons a l ih =>
    obtain ⟨ha, hl⟩ := List.nodup_cons.mp hl
    obtain ⟨hout, hin⟩ := ih hl (hP a s hs)
    rw [State.each_cons]
    refine ⟨fun hn => ?_, fun hn => ?_⟩
    · obtain ⟨hna, hnl⟩ := List.ne_and_not_mem_of_not_mem_cons hn
      rw [hout hnl, hf a s n hs hna]
    · rcases List.mem_cons.mp hn with rfl | hnl
      · exact ⟨s, hs, rfl, hout ha⟩
      · obtain ⟨u, hu, hch, hres⟩ := hin hnl
        have hne : n ≠ a := fun e => ha (e ▸ hnl)
        exact ⟨u, hu, hch.trans (hf a s n hs hne), hres⟩

theorem State.setMembers_nodup (s : State) (x : BitVec 8) : (s.setMembers x).Nodup := by
  unfold State.setMembers
  split
  · exact List.nodup_nil
  · exact allChs_nodup.filter _

/-! ### The actions of GLB_SYNC_CTRL (R269, R294, R329) -/

/-- Set 0 raises a Note. -/
theorem State.syncAct_zero (s : State) (a : SyncAct) : s.syncAct a 0 = s.noteImg 0x80 := if_pos rfl

theorem State.wakeSet_awake {s : State} {x : BitVec 8} (h : ∀ m ∈ s.setMembers x, (s.bay (chBay m)).awake = true) : s.wakeSet x = s := by
  refine State.each_invMem (P := fun u => u = s) (fun m hm u hu => ?_) rfl
  subst hu
  exact if_pos (by simp [h m hm])

/-- A set of this device alone whose members are awake: it is acted on at once. -/
structure State.SetHere (s : State) (x : BitVec 8) : Prop where
  nonzero : x ≠ 0
  here : s.setSpans x = false
  awake : ∀ m, m ∈ s.setMembers x → (s.bay (chBay m)).awake = true

theorem State.SetHere.allAwake {s : State} {x : BitVec 8} (h : s.SetHere x) : ((s.setMembers x).all fun m => (s.bay (chBay m)).awake) = true :=
  List.all_eq_true.mpr h.awake

theorem exec_syncStart_here {s : State} {x : BitVec 8} (hs : s.serves) (h : s.SetHere x) : exec (.syncStart x) s = .next (s.setStart x) :=
  congrArg _ ((s.hostAct_of _ hs.1 hs.2).trans (by
    simp only [State.syncAct, if_neg h.nonzero, State.wakeSet_awake h.awake, h.here, Bool.false_eq_true, if_false]))

theorem exec_syncFire_here {s : State} {x : BitVec 8} (hs : s.serves) (h : s.SetHere x) : exec (.syncFire x) s = .next (s.setFire x) :=
  congrArg _ ((s.hostAct_of _ hs.1 hs.2).trans (by
    simp only [State.syncAct, if_neg h.nonzero, State.wakeSet_awake h.awake, h.here, Bool.false_eq_true, if_false, h.allAwake, if_true]))

theorem exec_syncAbort_here {s : State} {x : BitVec 8} (hs : s.serves) (h : s.SetHere x) : exec (.syncAbort x) s = .next (s.setAbort x) :=
  congrArg _ ((s.hostAct_of _ hs.1 hs.2).trans (by
    simp only [State.syncAct, if_neg h.nonzero, State.wakeSet_awake h.awake, h.here, Bool.false_eq_true, if_false, h.allAwake, if_true]))

/-! ### START (R269) -/

/-- An armed member that its set's START releases in period `now`. -/
def Chan.released (c : Chan) (now : Nat) : Chan := { c with strand := { c.strand with st := .waitSet, holdUntil := now + 1 } }

theorem State.setStart_eq (s : State) (x : BitVec 8) : s.setStart x =
    s.each ((s.setMembers x).filter fun m => (s.ch m).strand.st == .armed) fun m u => u.upCh m fun c => c.released u.period := rfl

theorem State.setStart_spec (s : State) (x : BitVec 8) : s.setStart x = { s with chans := (s.setStart x).chans } ∧
    (∀ m, m ∈ s.setMembers x → (s.ch m).strand.st = .armed → (s.setStart x).ch m = (s.ch m).released s.period) ∧
    ∀ m, m ∉ s.setMembers x ∨ (s.ch m).strand.st ≠ .armed → (s.setStart x).ch m = s.ch m := by
  have hinv : ∀ (a : Ch) (u : State), u = { s with chans := u.chans } →
      (u.upCh a fun c => c.released u.period) = { s with chans := (u.upCh a fun c => c.released u.period).chans } := by
    intro a u hu
    rw [State.upCh, State.setCh, hu]
  have hturn := State.each_turn (P := fun u => u = { s with chans := u.chans }) (f := fun m u => u.upCh m fun c => c.released u.period) hinv
    (fun a u j _ hj => u.upCh_ch_ne _ hj) ((s.setMembers_nodup x).filter fun m => (s.ch m).strand.st == .armed) (s := s) rfl
  rw [State.setStart_eq]
  refine ⟨State.each_invMem (fun a _ => hinv a) rfl, fun m hm ha => ?_, fun m hm => (hturn m).1 fun hmem => ?_⟩
  · obtain ⟨u, hu, hch, hres⟩ := (hturn m).2 (List.mem_filter.mpr ⟨hm, by simp [ha]⟩)
    have hp : u.period = s.period := by rw [hu]; rfl
    rw [hres, State.upCh_ch, hch, hp]
  · obtain ⟨hin, harmed⟩ := List.mem_filter.mp hmem
    rcases hm with hm | hm
    · exact hm hin
    · exact hm (by simpa using harmed)

/-! ### FIRE (R94, R269) -/

theorem Chan.strobe_strobed (c : Chan) (sine : Int) : c.Strobed (c.strobe sine) := by
  have h : c.Strobed ((c.strobeWith c.eff.level c.eff.setV c.eff.setI Chan.offBase sine).commandedBy c.eff.setV c.eff.setI false) :=
    (Chan.strobeWith_strobed Chan.offBase_strobed c _ _ _ sine).trans (Chan.commandedBy_strobed _ _ _ _)
  have hs : c.strobe sine = if ((c.strobeWith c.eff.level c.eff.setV c.eff.setI Chan.offBase sine).commandedBy
    c.eff.setV c.eff.setI false).loop.complPend then _ else _ := rfl
  rw [hs]
  split
  · exact h.trans ((Chan.setCompl_strobed _ _).trans (Chan.Strobed.beside _ _ _ _ rfl))
  · exact h

/-- With both ranges kept and none waiting a strobe of class 0 applies CH_FORCE_LEVEL, whether a compliance waits or not. -/
theorem Chan.strobe_applies_level {c : Chan} (hk : c.eff.cls = .strobed) (hv : c.eff.setV = 15) (hi : c.eff.setI = 15)
    (hwv : c.range.wantV = none) (hwi : c.range.wantI = none) (hh : c.range.hst ≠ .vSwitch) (sine : Int) :
    (c.strobe sine).force.applied = c.eff.level := by
  obtain ⟨-, happlied⟩ := Chan.strobeWith_keeps (prep := Chan.offBase) (fun d => ⟨d.offBase_strobed, rfl⟩) hh hwv hwi c.eff.level sine
  have hs : c.strobe sine = if ((c.strobeWith c.eff.level c.eff.setV c.eff.setI Chan.offBase sine).commandedBy
    c.eff.setV c.eff.setI false).loop.complPend then _ else _ := rfl
  rw [hs, hv, hi, Chan.commandedBy_keep]
  split
  · exact happlied hk
  · exact happlied hk

/-- Sampling leaves the ranges that wait, and starts no change of the voltage range. -/
theorem Chan.sampled_wants (c : Chan) (p : Nat) : (c.sampled p).range.wantV = c.range.wantV ∧ (c.sampled p).range.wantI = c.range.wantI ∧
    (c.range.hst ≠ .vSwitch → (c.sampled p).range.hst ≠ .vSwitch) := by
  obtain ⟨e, r, f, h, -, -, -, -, -, hv, hi, -, -, hhst⟩ := c.sampled_spec p
  rw [h]
  refine ⟨hv, hi, fun hne => ?_⟩
  rcases hhst with hs | hs
  · rwa [hs]
  · simp [hs]

/-- The strobe of one member at FIRE. -/
def State.fireMember (s : State) (m : Ch) : State :=
  (((s.sample m).upCh m fun c => c.strobe ((s.sample m).sineNow m)).startRanging m).refresh m

theorem State.setFire_idle {s : State} {x : BitVec 8} (h : s.runners x = []) : s.setFire x = s.each (s.setMembers x) fun m u => u.fireMember m :=
  if_neg (by simp [h])

theorem State.setFire_running {s : State} {x : BitVec 8} (h : s.runners x ≠ []) : s.setFire x = s.noteImg 0x80 := if_pos h

theorem State.fireMember_path (s : State) (m : Ch) : s.pathOnly (s.fireMember m) m := by
  have hstrobe : (s.sample m).pathOnly ((s.sample m).upCh m fun c => c.strobe ((s.sample m).sineNow m)) m :=
    State.upCh_path _ m _ (Chan.strobe_strobed _ _).map
  exact ((s.sample_path m).trans hstrobe).trans ((State.startRanging_path _ m).trans (State.refresh_path _ m))

/-- A member strobed: its limiter's code and its strand stand, and with the ranges kept class 0 applies the level written. -/
theorem State.fireMember_ch (s : State) (m : Ch) : ((s.fireMember m).ch m).force.code = (s.ch m).force.code ∧
    ((s.fireMember m).ch m).strand.st = (s.ch m).strand.st ∧
    ((s.ch m).cfg.cls = .strobed → (s.ch m).cfg.setV = 15 → (s.ch m).cfg.setI = 15 → (s.ch m).range.wantV = none →
      (s.ch m).range.wantI = none → (s.ch m).range.hst ≠ .vSwitch → ((s.fireMember m).ch m).force.applied = (s.ch m).cfg.level) := by
  obtain ⟨_, _, hranged, -, -⟩ := ((s.sample m).upCh m fun c => c.strobe ((s.sample m).sineNow m)).startRanging_ranged m
  have hch : ((s.fireMember m).ch m) = _ := (State.refresh_ch _ m m).trans hranged
  rw [hch, State.upCh_ch, State.sample_ch]
  generalize (s.sample m).sineNow m = sine
  obtain ⟨hv, hi, hhst⟩ := (s.ch m).sampled_wants s.period
  have hstrobed := ((s.ch m).sampled s.period).strobe_strobed sine
  refine ⟨hstrobed.code.trans (by simp), (congrArg StrandSt.st hstrobed.strand).trans (by simp), fun hk hsv hsi hwv hwi hh => ?_⟩
  have happlied := Chan.strobe_applies_level (c := (s.ch m).sampled s.period) (by simpa using hk) (by simpa using hsv) (by simpa using hsi)
    (hv.trans hwv) (hi.trans hwi) (hhst hh) sine
  exact happlied.trans (by simp)

theorem State.setFire_spec {s : State} {x : BitVec 8} (h : s.runners x = []) :
    s.setFire x = { s with chans := (s.setFire x).chans, cells := (s.setFire x).cells } ∧
    (∀ m, m ∉ s.setMembers x → (s.setFire x).ch m = s.ch m) ∧
    ∀ m, m ∈ s.setMembers x → ∃ u : State, u.ch m = s.ch m ∧ (s.setFire x).ch m = (u.fireMember m).ch m := by
  have hinv : ∀ (a : Ch) (u : State), u = { s with chans := u.chans, cells := u.cells } →
      u.fireMember a = { s with chans := (u.fireMember a).chans, cells := (u.fireMember a).cells } := by
    intro a u hu
    rw [(u.fireMember_path a).rest, hu]
  have hturn := State.each_turn (P := fun u => u = { s with chans := u.chans, cells := u.cells }) (f := fun m u => u.fireMember m) hinv
    (fun a u j _ hj => (u.fireMember_path a).ch j hj) (s.setMembers_nodup x) (s := s) rfl
  rw [State.setFire_idle h]
  refine ⟨State.each_invMem (fun a _ => hinv a) rfl, fun m => (hturn m).1, fun m hm => ?_⟩
  obtain ⟨u, -, hch, hres⟩ := (hturn m).2 hm
  exact ⟨u, hch, hres⟩

/-! ### ABORT (R260, R294) -/

theorem State.strandAbort_stops (s : State) (n : Ch) : ((s.strandAbort n).ch n).strand.st.active = false := by
  rw [State.strandAbort_ch]
  exact s.endBy_stops n .abort .dropped true

/-- Without reactions that wait no fault ends a strand at this boundary. -/
theorem State.faultDue_none {s : State} (h : s.flt.reactions = []) (n : Ch) : s.faultDue n = false := by simp [State.faultDue, h]

theorem State.setAbort_spec (s : State) (x : BitVec 8) : (∀ m, m ∉ s.setMembers x → (s.setAbort x).ch m = s.ch m) ∧
    ∀ m, m ∈ s.setMembers x → ∃ u : State, u.flt = s.flt ∧ u.ch m = s.ch m ∧ (s.setAbort x).ch m = (u.strandAbort m).ch m := by
  have hturn := State.each_turn (P := fun u => u.flt = s.flt) (f := fun m u => u.strandAbort m)
    (fun a u hu => by rw [(u.strandAbort_strandOnly a).rest, hu]) (fun a u j _ hj => (u.strandAbort_strandOnly a).ch j hj)
    (s.setMembers_nodup x) (s := s) rfl
  exact ⟨fun m => (hturn m).1, fun m => (hturn m).2⟩

/-! ### The beads of a set commit at one boundary (R268) -/

theorem exec_beadCommit_set {s : State} {n : Ch} (hr : s.runs) (h : s.mayCommit n = true) (ht : (s.ch n).decl.syncSet ≠ 0) :
    exec (.beadCommit n) s = .next (({ s with strobes := s.strobes.filter fun y => y.1 != (s.ch n).decl.syncSet } : State).each
      (s.runners (s.ch n).decl.syncSet) fun m u => u.commitNext m) :=
  congrArg _ ((s.live_of _ hr).trans ((if_pos h).trans (if_neg ht)))

theorem State.commitNext_commitOnly (s : State) (n : Ch) : s.commitOnly (s.commitNext n) n := by
  unfold State.commitNext
  split
  · exact State.commitOnly.refl s n
  · split
    · exact ((s.endStrand_strandOnly n _ _ _ _).trans (State.refresh_path _ n).strandOnly).commitOnly
    · split
      · exact (s.post_commitOnly n _ _ _).trans ((State.endBy_strandOnly _ n _ _ _ _).trans (State.refresh_path _ n).strandOnly).commitOnly
      · exact (s.commitOn_commits n _).1

/-- Every member that runs commits its bead at the same instant, and no other channel changes. -/
theorem State.commitSet_spec (s : State) {l : List Ch} (hl : l.Nodup) :
    (∀ j, j ∉ l → (s.each l fun m u => u.commitNext m).ch j = s.ch j) ∧
    ∀ m p, m ∈ l → (s.ch m).front = some p → p.ue = false → p.bad = none → (s.ch m).Commits ((s.each l fun m u => u.commitNext m).ch m) p s.time := by
  have hturn := State.each_turn (P := fun u => u.time = s.time) (f := fun m u => u.commitNext m)
    (fun a u hu => (u.commitNext_commitOnly a).time.trans hu) (fun a u j _ hj => (u.commitNext_commitOnly a).ch j hj) hl (s := s) rfl
  refine ⟨fun j => (hturn j).1, fun m p hm hp hu hb => ?_⟩
  obtain ⟨u, htime, hch, hres⟩ := (hturn m).2 hm
  rw [hres, State.commitNext_point (by rw [hch]; exact hp) hu hb, ← hch, ← htime]
  exact (u.commitOn_commits m p).2.1

/-! ### An edge on TRIG_IN (R270, R327) -/

theorem exec_trigInEdge_runs {s : State} (i : Fin 4) (cyc : Nat) (hr : s.runs) :
    exec (.trigInEdge i cyc) s = .next (s.each allSets fun y u => u.trigSet i cyc y) := by
  have he : exec (.trigInEdge i cyc) s = .next (s.live fun s => s.each allSets fun y u => u.trigSet i cyc y) := rfl
  rw [he, s.live_of _ hr]

theorem mem_allSets {x : BitVec 8} : x ∈ allSets ↔ x ≠ 0 := by
  rw [allSets, List.mem_map, ← BitVec.toNat_ne_iff_ne]
  constructor
  · rintro ⟨i, hi, rfl⟩
    have hlt := List.mem_range.mp hi
    simp only [BitVec.ofNat_eq_ofNat, BitVec.toNat_ofNat]
    omega
  · intro hx
    have hlt := x.isLt
    have hpos : x.toNat ≠ 0 := hx
    exact ⟨x.toNat - 1, List.mem_range.mpr (by omega), by rw [Nat.sub_add_cancel (by omega), BitVec.ofNat_toNat, BitVec.setWidth_eq]⟩

theorem allSets_nodup : allSets.Nodup := by
  refine List.nodup_range.map_on fun i hi j hj h => ?_
  have hi := List.mem_range.mp hi
  have hj := List.mem_range.mp hj
  have hnat := congrArg BitVec.toNat h
  simp only [BitVec.toNat_ofNat] at hnat
  omega

theorem State.trigSet_unobserved {s : State} {i : Fin 4} {y : BitVec 8} (h : s.setStrobe y ≠ i.val + 1) (cyc : Nat) : s.trigSet i cyc y = s := if_neg h

/-- An edge adds entries of its set alone. -/
theorem State.trigSet_adds (s : State) (i : Fin 4) (cyc : Nat) (y : BitVec 8) :
    ∃ l, s.trigSet i cyc y = { s with strobes := s.strobes ++ l } ∧ ∀ z ∈ l, z.1 = y := by
  have hnone : ∃ l, s = { s with strobes := s.strobes ++ l } ∧ ∀ z ∈ l, z.1 = y := ⟨[], by rw [List.append_nil], by simp⟩
  have hone (a : Nat) : ∃ l, ({ s with strobes := s.strobes ++ [(y, a)] } : State) = { s with strobes := s.strobes ++ l } ∧ ∀ z ∈ l, z.1 = y :=
    ⟨_, rfl, by simp⟩
  unfold State.trigSet
  split
  · split
    · split
      · exact hone _
      · exact hnone
    · split
      · exact hone _
      · exact hnone
  · exact hnone

/-- Nothing but the edges accepted differs, and of set `x` none. -/
structure State.sameEdges (s t : State) (x : BitVec 8) : Prop where
  rest : t = { s with strobes := t.strobes }
  edges : ∀ z, z.1 = x → (z ∈ t.strobes ↔ z ∈ s.strobes)

theorem State.sameEdges.refl (s : State) (x : BitVec 8) : s.sameEdges s x := ⟨rfl, fun _ _ => Iff.rfl⟩

theorem State.sameEdges.trigSet {s u : State} {x y : BitVec 8} (h : s.sameEdges u x) (hy : y ≠ x) (i : Fin 4) (cyc : Nat) :
    s.sameEdges (u.trigSet i cyc y) x := by
  obtain ⟨l, hl, hset⟩ := u.trigSet_adds i cyc y
  rw [hl]
  refine ⟨by rw [h.rest], fun z hz => ?_⟩
  have hnot : z ∉ l := fun hm => hy ((hset z hm).symm.trans hz)
  rw [List.mem_append, or_iff_left hnot]
  exact h.edges z hz

theorem State.sameEdges.any {s t : State} {x : BitVec 8} (h : s.sameEdges t x) : (t.strobes.any fun y => y.1 == x) = s.strobes.any fun y => y.1 == x := by
  rw [Bool.eq_iff_iff, List.any_eq_true, List.any_eq_true]
  refine exists_congr fun z => and_congr_left fun hz => h.edges z (by simpa using hz)

/-- The edge acts on set `x` in its turn, ahead of which and behind which its entries stand. -/
theorem State.trigSets_turn (s : State) (i : Fin 4) (cyc : Nat) {x : BitVec 8} (hx : x ≠ 0) : ∃ u, s.sameEdges u x ∧
    (u.trigSet i cyc x).sameEdges (s.each allSets fun y u => u.trigSet i cyc y) x := by
  obtain ⟨l, r, hl⟩ := List.append_of_mem (mem_allSets.mpr hx)
  have hnodup := allSets_nodup
  rw [hl, List.nodup_middle, List.nodup_cons, List.mem_append, not_or] at hnodup
  obtain ⟨⟨hxl, hxr⟩, -⟩ := hnodup
  have hside (k : List (BitVec 8)) (hk : x ∉ k) (v : State) : v.sameEdges (v.each k fun y u => u.trigSet i cyc y) x :=
    State.each_invMem (P := fun u => v.sameEdges u x) (fun y hy u hu => State.sameEdges.trigSet hu (fun e => hk (e ▸ hy)) i cyc) (State.sameEdges.refl v x)
  refine ⟨s.each l fun y u => u.trigSet i cyc y, hside l hxl s, ?_⟩
  have hall : (s.each allSets fun y u => u.trigSet i cyc y) =
      ((s.each l fun y u => u.trigSet i cyc y).trigSet i cyc x).each r fun y u => u.trigSet i cyc y := by
    rw [hl, State.each, List.foldl_append]
    rfl
  rw [hall]
  exact hside r hxr _

theorem State.trigSet_accepts {s : State} {i : Fin 4} {x : BitVec 8} (ht : s.setStrobe x = i.val + 1) (hs : s.setSpans x = false)
    (hw : s.waitsStrobe x = true) (he : (s.strobes.any fun y => y.1 == x) = false) (cyc : Nat) :
    s.trigSet i cyc x = { s with strobes := s.strobes ++ [(x, s.time + cyc + 64)] } := by
  simp [State.trigSet, ht, hs, hw, he]

theorem State.trigSet_unawaited {s : State} {x : BitVec 8} (hs : s.setSpans x = false) (hw : s.waitsStrobe x = false) (i : Fin 4) (cyc : Nat) :
    s.trigSet i cyc x = s := by
  simp [State.trigSet, hs, hw]

theorem State.trigSets_accepts {s : State} {i : Fin 4} {x : BitVec 8} (hx : x ≠ 0) (ht : s.setStrobe x = i.val + 1) (hs : s.setSpans x = false)
    (hw : s.waitsStrobe x = true) (he : (s.strobes.any fun y => y.1 == x) = false) (cyc : Nat) :
    (x, s.time + cyc + 64) ∈ (s.each allSets fun y u => u.trigSet i cyc y).strobes := by
  obtain ⟨u, hu, hrest⟩ := s.trigSets_turn i cyc hx
  have hstate := hu.rest
  have hany := hu.any.trans he
  generalize u.strobes = q at *
  subst hstate
  rw [hrest.edges _ rfl, State.trigSet_accepts (s := { s with strobes := q }) ht hs hw hany]
  exact List.mem_append_right _ (by simp)

theorem State.trigSets_unawaited {s : State} {x : BitVec 8} (hx : x ≠ 0) (hs : s.setSpans x = false) (hw : s.waitsStrobe x = false) (i : Fin 4) (cyc : Nat) :
    ((s.each allSets fun y u => u.trigSet i cyc y).strobes.any fun y => y.1 == x) = s.strobes.any fun y => y.1 == x := by
  obtain ⟨u, hu, hrest⟩ := s.trigSets_turn i cyc hx
  have hkeep : u.trigSet i cyc x = u := by
    rw [hu.rest]
    exact State.trigSet_unawaited (s := { s with strobes := u.strobes }) hs hw i cyc
  rw [hkeep] at hrest
  exact hrest.any.trans hu.any

theorem State.trigSets_rest (s : State) (i : Fin 4) (cyc : Nat) : (s.each allSets fun y u => u.trigSet i cyc y) =
    { s with strobes := (s.each allSets fun y u => u.trigSet i cyc y).strobes } := by
  refine State.each_invMem (P := fun u => u = { s with strobes := u.strobes }) (fun y _ u hu => ?_) rfl
  obtain ⟨l, hl, -⟩ := u.trigSet_adds i cyc y
  rw [hl, hu]

theorem State.trigSets_unobserved {s : State} {i : Fin 4} (h : ∀ y, y ≠ 0 → s.setStrobe y ≠ i.val + 1) (cyc : Nat) :
    (s.each allSets fun y u => u.trigSet i cyc y) = s := by
  refine State.each_invMem (P := fun u => u = s) (fun y hy u hu => ?_) rfl
  subst hu
  exact State.trigSet_unobserved (h y (mem_allSets.mp hy)) cyc

/-- Settles O46: the actions turn by turn over the members, the commit over those that run, and an edge by the sets that observe its input. -/
theorem syncSetsActTogether : Obligations.SyncSetsActTogether := by
  intro x s
  refine ⟨fun hs => ?_, fun hs hx hspan hawake => ?_, fun hr n m p hset hx hmay hm hp hu hb => ?_, fun hr i cyc => ?_⟩
  · have hnote (a : SyncAct) : s.hostAct (fun u => u.syncAct a 0) = s.noteImg 0x80 := (s.hostAct_of _ hs.1 hs.2).trans (s.syncAct_zero a)
    exact ⟨congrArg _ (hnote .start), congrArg _ (hnote .fire), congrArg _ (hnote .abort)⟩
  · have hset : s.SetHere x := ⟨hx, hspan, hawake⟩
    refine ⟨⟨_, exec_syncStart_here hs hset, s.setStart_spec x⟩,
      fun hrun => (exec_syncFire_here hs hset).trans (congrArg _ (State.setFire_running hrun)), fun hidle => ?_, ?_⟩
    · obtain ⟨hrest, hout, hin⟩ := State.setFire_spec hidle
      refine ⟨_, exec_syncFire_here hs hset, hrest, hout, fun m hm => ?_⟩
      obtain ⟨u, hch, hres⟩ := hin m hm
      have h := u.fireMember_ch m
      rw [← hres, hch] at h
      exact h
    · obtain ⟨hout, hin⟩ := s.setAbort_spec x
      refine ⟨_, exec_syncAbort_here hs hset, hout, fun m hm => ?_⟩
      obtain ⟨u, hflt, hch, hres⟩ := hin m hm
      rw [hres]
      refine ⟨u.strandAbort_stops m, fun ha he hreact => ?_⟩
      obtain ⟨-, hend, -⟩ := State.strandAbort_ends (s := u) (n := m) (by rw [hch]; exact ha) (by rw [hch]; exact he)
        (State.faultDue_none (by rw [hflt]; exact hreact) m)
      exact ⟨hend.st, hend.reason⟩
  · subst hset
    obtain ⟨hout, hin⟩ := State.commitSet_spec { s with strobes := s.strobes.filter fun y => y.1 != (s.ch n).decl.syncSet }
      (((s.setMembers_nodup (s.ch n).decl.syncSet).filter _) : (s.runners (s.ch n).decl.syncSet).Nodup)
    have h := hin m p hm hp hu hb
    exact ⟨_, exec_beadCommit_set hr hmay hx, h.committed, h.bead, h.dwell, hout⟩
  · exact ⟨_, exec_trigInEdge_runs i cyc hr, s.trigSets_rest i cyc, fun h => State.trigSets_unobserved h cyc,
      fun hx ht hspan => ⟨fun hw he => State.trigSets_accepts hx ht hspan hw he cyc, fun hw => State.trigSets_unawaited hx hspan hw i cyc⟩⟩

end Sys2Proof.Machine
end

section
/-! SUPPORT. A channel's windows: their accessors, the state table, and the inputs that decide it (R298, R299, R309). -/

namespace Sys2Proof.Machine

/-! ### A window of a channel, and its registers -/

@[simp] theorem Chan.upWin_win (c : Chan) (w : WinId) (f : WinSt → WinSt) : (c.upWin w f).win w = f (c.win w) := by cases w <;> rfl
@[simp] theorem Chan.upWin_map (c : Chan) (w : WinId) (f : WinSt → WinSt) : (c.upWin w f).map = c.map := by cases w <;> rfl
@[simp] theorem Chan.upWin_eff (c : Chan) (w : WinId) (f : WinSt → WinSt) : (c.upWin w f).eff = c.eff := by cases w <;> rfl
@[simp] theorem Chan.upWin_range (c : Chan) (w : WinId) (f : WinSt → WinSt) : (c.upWin w f).range = c.range := by cases w <;> rfl
@[simp] theorem Chan.upWin_force (c : Chan) (w : WinId) (f : WinSt → WinSt) : (c.upWin w f).force = c.force := by cases w <;> rfl
@[simp] theorem Chan.upWin_strand (c : Chan) (w : WinId) (f : WinSt → WinSt) : (c.upWin w f).strand = c.strand := by cases w <;> rfl

@[simp] theorem Chan.upWin_blanked (c : Chan) (w w' : WinId) (f : WinSt → WinSt) : (c.upWin w f).blanked w' = c.blanked w' := by
  simp [Chan.blanked]

/-- A window hangs on the two windows alone. -/
theorem Chan.win_congr {c d : Chan} (hv : d.winV = c.winV) (hi : d.winI = c.winI) (w : WinId) : d.win w = c.win w := by
  cases w
  · exact hv
  · exact hi

@[simp] theorem Chan.sampled_win (c : Chan) (p : Nat) (w : WinId) : (c.sampled p).win w = c.win w :=
  Chan.win_congr (c.sampled_winV p) (c.sampled_winI p) w

@[simp] theorem ChanCfg.upWin_win (g : ChanCfg) (w : WinId) (f : WinCfg → WinCfg) : (g.upWin w f).win w = f (g.win w) := by cases w <;> rfl

/-- Sampling leaves the mode of a window for the operation that arms it (R300). -/
theorem Chan.sampled_mode (c : Chan) (p : Nat) (w : WinId) : ((c.sampled p).eff.win w).mode = (c.eff.win w).mode := by
  rw [Chan.sampled_eff]
  cases w <;> rfl

/-! ### The state table (R299) -/

section
variable {st : WinState} {h : Nat} {l : List (WinSt × Int)}

theorem any_above_iff : (l.any fun p => p.1.above h p.2) = true ↔ ∃ p ∈ l, p.1.hiOff = false ∧ edge p.1.appHi h < p.2 := by
  simp [WinSt.above]

theorem any_below_iff : (l.any fun p => p.1.below h p.2) = true ↔ ∃ p ∈ l, p.1.loOff = false ∧ p.2 < edge p.1.appLo (-h) := by
  simp [WinSt.below]

theorem any_above_false (ha : ∀ p ∈ l, p.2 ≤ edge p.1.appHi h) : (l.any fun p => p.1.above h p.2) = false := by
  rw [Bool.eq_false_iff, Ne, any_above_iff]
  rintro ⟨p, hp, -, hlt⟩
  exact absurd (ha p hp) (not_le.mpr hlt)

theorem any_below_false (hb : ∀ p ∈ l, edge p.1.appLo (-h) ≤ p.2) : (l.any fun p => p.1.below h p.2) = false := by
  rw [Bool.eq_false_iff, Ne, any_below_iff]
  rintro ⟨p, hp, -, hlt⟩
  exact absurd (hb p hp) (not_le.mpr hlt)

/-- Any cell beyond the high side takes the window out high. -/
theorem WinState.next_above (hs : st ≠ .outHi) (ha : ∃ p ∈ l, p.1.hiOff = false ∧ edge p.1.appHi h < p.2) : st.next h l = .outHi := by
  have h1 := any_above_iff.mpr ha
  cases st
  case inside => exact if_pos h1
  case outHi => exact absurd rfl hs
  case outLo => exact if_pos h1

/-- Any cell beyond the low side takes the window out low, where none inside is beyond the high side first. -/
theorem WinState.next_below (hs : st ≠ .outLo) (ha : st = .inside → ∀ p ∈ l, p.2 ≤ edge p.1.appHi h)
    (hb : ∃ p ∈ l, p.1.loOff = false ∧ p.2 < edge p.1.appLo (-h)) : st.next h l = .outLo := by
  have h1 := any_below_iff.mpr hb
  cases st
  case inside => simp [WinState.next, any_above_false (ha rfl), h1]
  case outHi => exact if_pos h1
  case outLo => exact absurd rfl hs

theorem WinState.next_inside (hs : st = .inside) (hl : ∀ p ∈ l, p.2 ≤ edge p.1.appHi h ∧ edge p.1.appLo (-h) ≤ p.2) :
    st.next h l = .inside := by
  subst hs
  simp [WinState.next, any_above_false fun p hp => (hl p hp).1, any_below_false fun p hp => (hl p hp).2]

/-- Every cell is back within the band of the high side. -/
theorem WinState.next_backHi (hs : st = .outHi) (hl : ∀ p ∈ l, edge p.1.appLo (-h) ≤ p.2 ∧ p.2 < edge p.1.appHi (-h)) :
    st.next h l = .inside := by
  subst hs
  have hback : (l.all fun p => p.1.hiOff || decide (p.2 < edge p.1.appHi (-h))) = true := by
    simp only [List.all_eq_true, Bool.or_eq_true, decide_eq_true_eq]
    exact fun p hp => .inr (hl p hp).2
  simp [WinState.next, any_below_false fun p hp => (hl p hp).1, hback]

/-- One cell that is not back holds the window out high. -/
theorem WinState.next_staysHi (hs : st = .outHi) (hb : ∀ p ∈ l, edge p.1.appLo (-h) ≤ p.2)
    (ho : ∃ p ∈ l, p.1.hiOff = false ∧ edge p.1.appHi (-h) ≤ p.2) : st.next h l = .outHi := by
  subst hs
  obtain ⟨p, hp, hoff, hle⟩ := ho
  have hback : (l.all fun p => p.1.hiOff || decide (p.2 < edge p.1.appHi (-h))) = false :=
    List.all_eq_false.mpr ⟨p, hp, by simp [hoff, hle]⟩
  simp [WinState.next, any_below_false hb, hback]

/-- Every cell is back within the band of the low side. -/
theorem WinState.next_backLo (hs : st = .outLo) (hl : ∀ p ∈ l, p.2 ≤ edge p.1.appHi h ∧ edge p.1.appLo h < p.2) : st.next h l = .inside := by
  subst hs
  have hback : (l.all fun p => p.1.loOff || decide (edge p.1.appLo h < p.2)) = true := by
    simp only [List.all_eq_true, Bool.or_eq_true, decide_eq_true_eq]
    exact fun p hp => .inr (hl p hp).2
  simp [WinState.next, any_above_false fun p hp => (hl p hp).1, hback]

/-- One cell that is not back holds the window out low. -/
theorem WinState.next_staysLo (hs : st = .outLo) (ha : ∀ p ∈ l, p.2 ≤ edge p.1.appHi h)
    (ho : ∃ p ∈ l, p.1.loOff = false ∧ p.2 ≤ edge p.1.appLo h) : st.next h l = .outLo := by
  subst hs
  obtain ⟨p, hp, hoff, hle⟩ := ho
  have hback : (l.all fun p => p.1.loOff || decide (edge p.1.appLo h < p.2)) = false :=
    List.all_eq_false.mpr ⟨p, hp, by simp [hoff, hle]⟩
  simp [WinState.next, any_above_false ha, hback]

/-- The table reads nothing of a window but its thresholds. -/
theorem WinState.next_map (st : WinState) (h : Nat) (l : List (WinSt × Int)) {f : WinSt → WinSt}
    (hoff : ∀ x, (f x).hiOff = x.hiOff ∧ (f x).loOff = x.loOff) (hthr : ∀ x, (f x).appHi = x.appHi ∧ (f x).appLo = x.appLo) :
    st.next h (l.map fun p => (f p.1, p.2)) = st.next h l := by
  have habove (p : WinSt × Int) : (f p.1).above h p.2 = p.1.above h p.2 := by simp [WinSt.above, hoff, hthr]
  have hbelow (p : WinSt × Int) : (f p.1).below h p.2 = p.1.below h p.2 := by simp [WinSt.below, hoff, hthr]
  simp only [WinState.next, List.any_map, List.all_map, Function.comp_def, habove, hbelow, hoff, hthr]

end

/-! ### The cells that decide a window (R298, R309) -/

/-- A channel whose mapping and ranges stand is decided by the same cells. -/
theorem State.winCells_upCh (s : State) (n : Ch) (w : WinId) {f : Chan → Chan} (hm : (f (s.ch n)).map = (s.ch n).map)
    (hr : (f (s.ch n)).range = (s.ch n).range) : (s.upCh n f).winCells n w = s.winCells n w := by
  have hmig := (s.upCh_updateOnly n f hm).migOf
  have hpartner (i : BitVec 4) : (s.upCh n f).swapPartner n i = s.swapPartner n i := by
    simp only [State.swapPartner, hmig]; rfl
  have hother : (s.upCh n f).swapOther n = s.swapOther n := by
    simp only [State.swapOther, hmig, hpartner, State.upCh_ch, hr]; rfl
  simp only [State.winCells, hother, State.upCh_ch, hm, hr, State.memberCells_congr n (s.upCh_path n f hm).maps]

/-- The window with its arming over. -/
def WinSt.settled (x : WinSt) : WinSt := { x with arming := none }

theorem WinSt.settled_loaded (x : WinSt) (w : WinId) (k : Cell) (i : BitVec 4) : x.settled.loaded w k i = (x.loaded w k i).settled := by
  unfold WinSt.loaded
  generalize (if isBoost i || !k.shunts.getLsbD i.toNat then none else k.otherShunt i) = o
  cases w
  case v => rfl
  case i => cases o <;> rfl

theorem State.winInput_upCh (s : State) (n : Ch) (w : WinId) {f : Chan → Chan} (hr : (f (s.ch n)).range = (s.ch n).range) (k : CellIx) (x : Int) :
    (s.upCh n f).winInput n w k x = s.winInput n w k x := by
  unfold State.winInput
  rw [State.upCh_ch, hr]
  rfl

/-- The end of its arming changes no input and no threshold of a window. -/
theorem State.winOns_settled (s : State) (n : Ch) (w : WinId) (xs : List Int) :
    (s.upCh n fun c => c.upWin w WinSt.settled).winOns n w xs = (s.winOns n w xs).map fun p => (p.1.settled, p.2) := by
  have hmap : ((s.ch n).upWin w WinSt.settled).map = (s.ch n).map := Chan.upWin_map _ w _
  have hrange : ((s.ch n).upWin w WinSt.settled).range = (s.ch n).range := Chan.upWin_range _ w _
  have hon (k : CellIx) (x : Int) : (s.upCh n fun c => c.upWin w WinSt.settled).winOn n w k x =
      ((s.winOn n w k x).1.settled, (s.winOn n w k x).2) := by
    simp only [State.winOn, s.winInput_upCh n w (f := fun c => c.upWin w WinSt.settled) hrange, State.upCh_ch, State.upCh_cell, Chan.upWin_win,
      hrange, WinSt.settled_loaded]
  simp only [State.winOns, s.winCells_upCh n w (f := fun c => c.upWin w WinSt.settled) hmap hrange, hon, List.map_map, Function.comp_def]

end Sys2Proof.Machine
end

section
/-! SUPPORT. What a judged window does: the comparators, the trip and its routes, and the channel as the verdict leaves it (R101, R264, R273,
R299, R302, R305, R306, R310). -/

namespace Sys2Proof.Machine

/-! ### Comparators and output stages are cells' alone -/

theorem State.each_upCell_frame {α : Type} (l : List α) (k : α → CellIx) (f : State → α → Cell → Cell) (s : State) :
    s.each l (fun a t => t.upCell (k a) (f t a)) = { s with cells := (s.each l fun a t => t.upCell (k a) (f t a)).cells } :=
  State.each_inv (fun t => t = { s with cells := t.cells }) _ (fun a t h => by rw [h]; rfl) l s rfl

theorem State.comparators_frame (s : State) (n : Ch) (w : WinId) (pow : Bool) (h : Nat) (xs : List Int) :
    s.comparators n w pow h xs = { s with cells := (s.comparators n w pow h xs).cells } :=
  State.each_upCell_frame _ _ _ s

theorem State.powerWindow_frame (s : State) (n : Ch) (w : WinId) : s.powerWindow n w = { s with cells := (s.powerWindow n w).cells } :=
  State.each_upCell_frame _ _ _ s

@[simp] theorem State.comparators_ch (s : State) (n m : Ch) (w : WinId) (pow : Bool) (h : Nat) (xs : List Int) :
    (s.comparators n w pow h xs).ch m = s.ch m := by
  rw [s.comparators_frame n w pow h xs]; rfl

@[simp] theorem State.powerWindow_ch (s : State) (n m : Ch) (w : WinId) : (s.powerWindow n w).ch m = s.ch m := by
  rw [s.powerWindow_frame n w]; rfl

@[simp] theorem State.powerWindow_flt (s : State) (n : Ch) (w : WinId) : (s.powerWindow n w).flt = s.flt := by
  rw [s.powerWindow_frame n w]

theorem State.comparators_updateOnly (s : State) (n : Ch) (w : WinId) (pow : Bool) (h : Nat) (xs : List Int) :
    s.updateOnly (s.comparators n w pow h xs) n := by
  refine ⟨fun m _ => s.comparators_ch n m w pow h xs, by rw [s.comparators_ch], ?_, ?_, ?_, ?_⟩ <;> rw [s.comparators_frame n w pow h xs]

/-- The output stages of the channel's cells stop driving (R101). -/
def State.tripCells (s : State) (n : Ch) : State := s.each (s.driveCells n) fun k s => s.upCell k Cell.tripStage

theorem State.tripCells_frame (s : State) (n : Ch) : s.tripCells n = { s with cells := (s.tripCells n).cells } :=
  State.each_upCell_frame _ _ _ s

@[simp] theorem State.tripCells_ch (s : State) (n m : Ch) : (s.tripCells n).ch m = s.ch m := by
  rw [s.tripCells_frame n]; rfl

theorem State.stageTrip_eq (s : State) (n : Ch) :
    s.stageTrip n = (s.tripCells n).upCh n fun c => { c with force := { c.force with tripReq := true } } := rfl

theorem State.stageTrip_updateOnly (s : State) (n : Ch) : s.updateOnly (s.stageTrip n) n := by
  have hcells : s.updateOnly (s.tripCells n) n := by
    refine ⟨fun m _ => s.tripCells_ch n m, by rw [s.tripCells_ch], ?_, ?_, ?_, ?_⟩ <;> rw [s.tripCells_frame n]
  exact hcells.trans (State.upCh_updateOnly _ n _ rfl)

@[simp] theorem State.stageTrip_ch (s : State) (n : Ch) :
    (s.stageTrip n).ch n = { s.ch n with force := { (s.ch n).force with tripReq := true } } := by
  simp [State.stageTrip_eq]

/-! ### What a cut pulse leaves (R273) -/

/-- The registers, the windows and the request to the output stage are as they were. -/
structure Chan.KeepsWindows (c d : Chan) : Prop where
  cfg : d.cfg = c.cfg
  win : ∀ w, d.win w = c.win w
  tripReq : d.force.tripReq = c.force.tripReq

theorem Chan.KeepsWindows.refl (c : Chan) : c.KeepsWindows c := ⟨rfl, fun _ => rfl, rfl⟩

theorem Chan.KeepsWindows.trans {a b c : Chan} (h : a.KeepsWindows b) (k : b.KeepsWindows c) : a.KeepsWindows c :=
  ⟨k.cfg.trans h.cfg, fun w => (k.win w).trans (h.win w), k.tripReq.trans h.tripReq⟩

/-- What reaches the conversions, the loops, the limiter and the strand reaches no window. -/
theorem Chan.KeepsWindows.beside (c : Chan) (m : MeasSt) (l : LoopSt) (g : StrandSt) {f : ForceSt} (hf : f.tripReq = c.force.tripReq) :
    c.KeepsWindows { c with meas := m, loop := l, strand := g, force := f } :=
  ⟨rfl, Chan.win_congr rfl rfl, hf⟩

theorem Chan.pulseBack_keepsWindows (c : Chan) (sine : Int) : c.KeepsWindows (c.pulseBack sine) := by
  obtain ⟨a, x, b, y, e, h⟩ := Chan.baseTarget_spec { c with strand := { c.strand with pulse := none, baseOn := true } } sine
  rw [Chan.pulseBack, h]
  exact Chan.KeepsWindows.beside c c.meas _ _ rfl

theorem Chan.pulseStep_keepsWindows (c : Chan) : c.KeepsWindows c.pulseStep := by
  unfold Chan.pulseStep
  split
  · refine Chan.KeepsWindows.beside c c.meas c.loop c.strand ?_
    rw [ForceSt.limStep_frame]
  · exact Chan.KeepsWindows.refl c

theorem State.pulseOver_keepsWindows (s : State) (n : Ch) : (s.ch n).KeepsWindows ((s.pulseOver n).ch n) := by
  have hback := (s.ch n).pulseBack_keepsWindows (s.sineNow n)
  rw [State.pulseOver_eq]
  split
  · rw [State.upCh_ch]
    exact hback
  · rw [State.latchDac_ch, State.upCh_ch, State.upCh_ch]
    have hstep := hback.trans (Chan.pulseStep_keepsWindows _)
    exact hstep.trans (Chan.KeepsWindows.beside _ _ _ _ rfl)

theorem Chan.cutPass_spec (c : Chan) : ∃ m g, c.cutPass = { c with meas := m, strand := g } := by
  unfold Chan.cutPass
  split
  · exact ⟨_, _, rfl⟩
  · exact ⟨_, _, rfl⟩

theorem State.cutPulse_spec (s : State) (n : Ch) (now : Nat) :
    s.updateOnly (s.cutPulse n now) n ∧ (s.ch n).KeepsWindows ((s.cutPulse n now).ch n) := by
  unfold State.cutPulse
  split
  · obtain ⟨m, g, hcut⟩ := (s.ch n).cutPass_spec
    have hch : ((s.upCh n Chan.cutPass).upCh n fun c => c.fastRecord now).ch n = (s.ch n).cutPass.fastRecord now := by simp
    have honly : s.updateOnly ((s.upCh n Chan.cutPass).upCh n fun c => c.fastRecord now) n :=
      (s.upCh_updateOnly n _ (by rw [hcut])).trans (State.upCh_updateOnly _ n _ rfl)
    have hkeep : (s.ch n).KeepsWindows (((s.upCh n Chan.cutPass).upCh n fun c => c.fastRecord now).ch n) := by
      rw [hch, hcut]
      exact Chan.KeepsWindows.beside (s.ch n) m (s.ch n).loop _ rfl
    exact ⟨honly.trans (State.pulseOver_spec _ n).1.updateOnly, hkeep.trans (State.pulseOver_keepsWindows _ n)⟩
  · exact ⟨State.updateOnly.refl s n, Chan.KeepsWindows.refl _⟩

/-! ### A trip (R305, R306, R310) -/

/-- The flags, the count and the instant of a trip. -/
def WinSt.noted (x : WinSt) (st : WinState) (now : Nat) : WinSt :=
  { x with tripHi := x.tripHi || st == .outHi, tripLo := x.tripLo || st == .outLo, trips := satInc x.trips, time := timeLo now }

theorem Chan.noteTrip_spec (c : Chan) (w : WinId) (st : WinState) (now : Nat) : ∃ b, c.noteTrip w st now =
    { c.upWin w fun x => x.noted st now with strand := { c.strand with rcd := b } } := by
  refine ⟨(c.noteTrip w st now).strand.rcd, ?_⟩
  cases w <;> rfl

/-- What a trip asks of the strand: a squash, and an end where the trip stops it or reaches the output stage (R264, R306). -/
def Chan.askTrip (c : Chan) (stage : Bool) : Chan := if c.askSquash.eff.tstop || stage then c.askSquash.askEnd .trip else c.askSquash

theorem Chan.askTrip_spec (c : Chan) (stage : Bool) : ∃ g, c.askTrip stage = { c with strand := g } ∧ g.pulse = c.strand.pulse := by
  have hsquash : ∃ g, c.askSquash = { c with strand := g } ∧ g.pulse = c.strand.pulse := by
    unfold Chan.askSquash
    split
    · exact ⟨_, rfl, rfl⟩
    · exact ⟨_, rfl, rfl⟩
  obtain ⟨g, h, hp⟩ := hsquash
  unfold Chan.askTrip Chan.askEnd
  rw [h]
  split
  · dsimp only
    split
    · exact ⟨_, rfl, hp⟩
    · exact ⟨_, rfl, hp⟩
  · exact ⟨_, rfl, hp⟩

/-- The channel's window reached the output stage (R117). -/
def State.routeStage (s : State) (n : Ch) (w : WinId) : State := (s.upCh n fun c => c.upWin w fun x => { x with stage := true }).stageTrip n

theorem State.routeStage_ch (s : State) (n : Ch) (w : WinId) : (s.routeStage n w).ch n =
    { (s.ch n).upWin w (fun x => { x with stage := true }) with force := { (s.ch n).force with tripReq := true } } := by
  simp [State.routeStage]

theorem State.routeStage_updateOnly (s : State) (n : Ch) (w : WinId) : s.updateOnly (s.routeStage n w) n :=
  (s.upCh_updateOnly n _ (Chan.upWin_map _ w _)).trans (State.stageTrip_updateOnly _ n)

/-- A trip noted on the window and in the record, with the pulse cut where ROUTE[0] is set. -/
def State.noteCut (s : State) (n : Ch) (w : WinId) (st : WinState) (now : Nat) : State :=
  (s.upCh n fun c => c.noteTrip w st now).when (((s.ch n).eff.win w).route.getLsbD 0) fun s => s.cutPulse n now

/-- The channel behind a noted trip: the output stage is not asked yet, and without ROUTE[0] the code and the pulse stand. -/
structure Chan.Noted (c d : Chan) (w : WinId) (st : WinState) (now : Nat) : Prop where
  cfg : d.cfg = c.cfg
  win : d.win w = (c.win w).noted st now
  tripReq : d.force.tripReq = c.force.tripReq
  whole : (c.eff.win w).route.getLsbD 0 = false → d.force.code = c.force.code ∧ d.strand.pulse = c.strand.pulse

theorem Chan.noteTrip_noted (c : Chan) (w : WinId) (st : WinState) (now : Nat) : c.Noted (c.noteTrip w st now) w st now := by
  obtain ⟨b, h⟩ := c.noteTrip_spec w st now
  rw [h]
  exact ⟨c.upWin_cfg w _, (Chan.win_congr rfl rfl w).trans (c.upWin_win w _), congrArg _ (c.upWin_force w _),
    fun _ => ⟨congrArg _ (c.upWin_force w _), rfl⟩⟩

theorem Chan.noteTrip_map (c : Chan) (w : WinId) (st : WinState) (now : Nat) : (c.noteTrip w st now).map = c.map := by
  obtain ⟨b, h⟩ := c.noteTrip_spec w st now
  rw [h]
  exact c.upWin_map w _

theorem State.noteCut_spec (s : State) (n : Ch) (w : WinId) (st : WinState) (now : Nat) :
    s.updateOnly (s.noteCut n w st now) n ∧ (s.ch n).Noted ((s.noteCut n w st now).ch n) w st now := by
  have honly := s.upCh_updateOnly n (fun c => c.noteTrip w st now) ((s.ch n).noteTrip_map w st now)
  have hnoted := (s.ch n).noteTrip_noted w st now
  rw [← s.upCh_ch n fun c => c.noteTrip w st now] at hnoted
  unfold State.noteCut
  cases hroute : ((s.ch n).eff.win w).route.getLsbD 0
  case false => exact ⟨honly, hnoted⟩
  case true =>
    obtain ⟨hcut, hkeep⟩ := State.cutPulse_spec (s.upCh n fun c => c.noteTrip w st now) n now
    refine ⟨honly.trans hcut, hkeep.cfg.trans hnoted.cfg, (hkeep.win w).trans hnoted.win, hkeep.tripReq.trans hnoted.tripReq, 
      fun h => absurd (h.symm.trans hroute) Bool.false_ne_true⟩

/-- The channel behind a trip of window `w`: noted, and sent to the output stage where ROUTE[1] is set. -/
structure Chan.Tripped (c d : Chan) (w : WinId) (st : WinState) (now : Nat) : Prop where
  cfg : d.cfg = c.cfg
  win : ∃ b, d.win w = { (c.win w).noted st now with stage := b }
  asks : (c.eff.win w).route.getLsbD 1 = true → d.force.tripReq = true
  spares : (c.eff.win w).route.getLsbD 1 = false → d.force.tripReq = c.force.tripReq
  whole : (c.eff.win w).route.getLsbD 0 = false → d.force.code = c.force.code ∧ d.strand.pulse = c.strand.pulse

theorem Chan.Noted.spares {c d : Chan} {w : WinId} {st : WinState} {now : Nat} (h : c.Noted d w st now)
    (hr : (c.eff.win w).route.getLsbD 1 = false) : c.Tripped d w st now :=
  ⟨h.cfg, ⟨_, h.win⟩, fun k => absurd (hr.symm.trans k) Bool.false_ne_true, fun _ => h.tripReq, h.whole⟩

theorem Chan.Noted.asks {c d e : Chan} {w : WinId} {st : WinState} {now : Nat} (h : c.Noted d w st now)
    (hr : (c.eff.win w).route.getLsbD 1 = true)
    (he : e = { d.upWin w (fun x => { x with stage := true }) with force := { d.force with tripReq := true } }) : c.Tripped e w st now := by
  subst he
  refine ⟨(d.upWin_cfg w _).trans h.cfg, ⟨true, ?_⟩, fun _ => rfl, fun k => absurd (k.symm.trans hr) Bool.false_ne_true, fun k => ?_⟩
  · rw [← h.win]
    exact (Chan.win_congr rfl rfl w).trans (d.upWin_win w _)
  · obtain ⟨hcode, hpulse⟩ := h.whole k
    exact ⟨hcode, (congrArg _ (d.upWin_strand w _)).trans hpulse⟩

/-- What the strand is asked for is no part of a trip's account. -/
theorem Chan.Tripped.strand {c d : Chan} {w : WinId} {st : WinState} {now : Nat} (h : c.Tripped d w st now) {g : StrandSt}
    (hg : g.pulse = d.strand.pulse) : c.Tripped { d with strand := g } w st now := by
  obtain ⟨b, hwin⟩ := h.win
  refine ⟨h.cfg, ⟨b, (Chan.win_congr rfl rfl w).trans hwin⟩, h.asks, h.spares, fun k => ?_⟩
  obtain ⟨hcode, hpulse⟩ := h.whole k
  exact ⟨hcode, hg.trans hpulse⟩

/-- A noted trip, sent to the output stage where ROUTE[1] is set. -/
def State.noteRoutes (s : State) (n : Ch) (w : WinId) (st : WinState) (now : Nat) : State :=
  (s.noteCut n w st now).when (((s.ch n).eff.win w).route.getLsbD 1) fun s => s.routeStage n w

theorem State.noteRoutes_spec (s : State) (n : Ch) (w : WinId) (st : WinState) (now : Nat) :
    s.updateOnly (s.noteRoutes n w st now) n ∧ (s.ch n).Tripped ((s.noteRoutes n w st now).ch n) w st now := by
  obtain ⟨honly, hnoted⟩ := s.noteCut_spec n w st now
  unfold State.noteRoutes
  cases hroute : ((s.ch n).eff.win w).route.getLsbD 1
  case false => exact ⟨honly, hnoted.spares hroute⟩
  case true => exact ⟨honly.trans (State.routeStage_updateOnly _ n w), hnoted.asks hroute (State.routeStage_ch _ n w)⟩

theorem State.trip_eq (s : State) (n : Ch) (w : WinId) (st : WinState) (now : Nat) : s.trip n w st now =
    (s.noteRoutes n w st now).upCh n fun c => c.askTrip (((s.ch n).eff.win w).route.getLsbD 1) := rfl

theorem State.trip_spec (s : State) (n : Ch) (w : WinId) (st : WinState) (now : Nat) :
    s.updateOnly (s.trip n w st now) n ∧ (s.ch n).Tripped ((s.trip n w st now).ch n) w st now := by
  obtain ⟨honly, htripped⟩ := s.noteRoutes_spec n w st now
  obtain ⟨g, hask, hpulse⟩ := ((s.noteRoutes n w st now).ch n).askTrip_spec (((s.ch n).eff.win w).route.getLsbD 1)
  rw [State.trip_eq]
  refine ⟨honly.trans (State.upCh_updateOnly _ n _ (by rw [hask])), ?_⟩
  rw [State.upCh_ch, hask]
  exact htripped.strand hpulse

/-! ### A verdict (R299, R302, R308) -/

/-- The window's state as the table gives it. -/
def WinSt.enter (x : WinSt) (st : WinState) : WinSt := { x with st := st, stage := x.stage && st != .inside }

/-- The verdict of window `w` on the inputs `xs`. -/
def State.verdict (s : State) (n : Ch) (w : WinId) (xs : List Int) : WinState :=
  ((s.ch n).win w).st.next ((s.ch n).eff.win w).hyst.toNat (s.winOns n w xs)

theorem State.judge_eq (s : State) (n : Ch) (w : WinId) (xs : List Int) (t : Nat) (pow : Bool) : s.judge n w xs t pow =
    if ((s.ch n).eff.win w).mode = .off ∨ (s.ch n).blanked w ∨ ((s.ch n).win w).arming.isSome then
      s.comparators n w pow ((s.ch n).eff.win w).hyst.toNat xs
    else
      let a := (s.comparators n w pow ((s.ch n).eff.win w).hyst.toNat xs).upCh n fun c => c.upWin w fun x => x.enter (s.verdict n w xs)
      if s.verdict n w xs = ((s.ch n).win w).st ∨ s.verdict n w xs = .inside then a else a.trip n w (s.verdict n w xs) t := rfl

/-- A window that is off, blanked or settling keeps its state: its comparators alone show a verdict. -/
theorem State.judge_keeps_state {s : State} {n : Ch} {w : WinId}
    (h : ((s.ch n).eff.win w).mode = .off ∨ (s.ch n).blanked w = true ∨ ((s.ch n).win w).arming ≠ none) (xs : List Int) (t : Nat)
    (pow : Bool) : s.judge n w xs t pow = s.comparators n w pow ((s.ch n).eff.win w).hyst.toNat xs := by
  rw [← Option.isSome_iff_ne_none] at h
  rw [State.judge_eq, if_pos h]

/-- The channel as a verdict of window `w` leaves it: the new state, and a trip where it is a change outward. -/
structure Chan.Judged (c d : Chan) (w : WinId) (st : WinState) (now : Nat) : Prop where
  cfg : d.cfg = c.cfg
  enters : (d.win w).st = st
  arming : (d.win w).arming = (c.win w).arming
  stays : st = (c.win w).st ∨ st = .inside → d.strand = c.strand ∧ d.force = c.force ∧ (d.win w).trips = (c.win w).trips ∧
    (d.win w).tripHi = (c.win w).tripHi ∧ (d.win w).tripLo = (c.win w).tripLo
  trips : st ≠ (c.win w).st → st ≠ .inside → (c.upWin w fun x => x.enter st).Tripped d w st now

theorem Chan.enter_judged {c : Chan} {w : WinId} {st : WinState} (h : st = (c.win w).st ∨ st = .inside) (now : Nat) :
    c.Judged (c.upWin w fun x => x.enter st) w st now where
  cfg := c.upWin_cfg w _
  enters := by rw [Chan.upWin_win]; rfl
  arming := by rw [Chan.upWin_win]; rfl
  stays _ := by
    rw [Chan.upWin_win]
    exact ⟨c.upWin_strand w _, c.upWin_force w _, rfl, rfl, rfl⟩
  trips h1 h2 := absurd h (by simp [h1, h2])

theorem Chan.Tripped.judged {c d : Chan} {w : WinId} {st : WinState} {now : Nat} (h : (c.upWin w fun x => x.enter st).Tripped d w st now)
    (hn : ¬ (st = (c.win w).st ∨ st = .inside)) : c.Judged d w st now := by
  obtain ⟨b, hwin⟩ := h.win
  rw [Chan.upWin_win] at hwin
  exact ⟨h.cfg.trans (c.upWin_cfg w _), by rw [hwin]; rfl, by rw [hwin]; rfl, fun k => absurd k hn, fun _ _ => h⟩

/-- A window in force, neither blanked nor settling, takes the table's state. -/
theorem State.judge_spec {s : State} {n : Ch} {w : WinId} (hm : ((s.ch n).eff.win w).mode ≠ .off) (hb : (s.ch n).blanked w = false)
    (ha : ((s.ch n).win w).arming = none) (xs : List Int) (t : Nat) (pow : Bool) :
    s.updateOnly (s.judge n w xs t pow) n ∧ (s.ch n).Judged ((s.judge n w xs t pow).ch n) w (s.verdict n w xs) t := by
  rw [State.judge_eq, if_neg (by simp [hm, hb, ha])]
  generalize s.verdict n w xs = st
  have hcmp := s.comparators_ch n n w pow ((s.ch n).eff.win w).hyst.toNat xs
  have honly := s.comparators_updateOnly n w pow ((s.ch n).eff.win w).hyst.toNat xs
  generalize s.comparators n w pow ((s.ch n).eff.win w).hyst.toNat xs = u at *
  have henter := honly.trans (u.upCh_updateOnly n (fun c => c.upWin w fun x => x.enter st) (Chan.upWin_map _ w _))
  have hch := u.upCh_ch n fun c => c.upWin w fun x => x.enter st
  rw [hcmp] at hch
  dsimp only
  split
  · next h =>
    rw [hch]
    exact ⟨henter, Chan.enter_judged h t⟩
  · next h =>
    obtain ⟨htrip, htripped⟩ := State.trip_spec (u.upCh n fun c => c.upWin w fun x => x.enter st) n w st t
    rw [hch] at htripped
    exact ⟨henter.trans htrip, htripped.judged h⟩

/-! ### What each change of a window's state leaves (R305, R306, R310) -/

theorem Chan.Tripped.flags {c d : Chan} {w : WinId} {st : WinState} {now : Nat} (h : (c.upWin w fun x => x.enter st).Tripped d w st now) :
    (d.win w).trips = satInc (c.win w).trips ∧ (d.win w).time = timeLo now ∧ (d.win w).tripHi = ((c.win w).tripHi || st == .outHi) ∧
      (d.win w).tripLo = ((c.win w).tripLo || st == .outLo) := by
  obtain ⟨b, hwin⟩ := h.win
  rw [Chan.upWin_win] at hwin
  rw [hwin]
  exact ⟨rfl, rfl, rfl, rfl⟩

theorem Chan.Tripped.routes {c d : Chan} {w : WinId} {st : WinState} {now : Nat} (h : (c.upWin w fun x => x.enter st).Tripped d w st now) :
    ((c.eff.win w).route.getLsbD 1 = true → d.force.tripReq = true) ∧
      ((c.eff.win w).route.getLsbD 1 = false → d.force.tripReq = c.force.tripReq) ∧
      ((c.eff.win w).route.getLsbD 0 = false → d.force.code = c.force.code ∧ d.strand.pulse = c.strand.pulse) := by
  obtain ⟨-, -, hasks, hspares, hwhole⟩ := h
  simp only [Chan.upWin_eff, Chan.upWin_force, Chan.upWin_strand] at hasks hspares hwhole
  exact ⟨hasks, hspares, hwhole⟩

end Sys2Proof.Machine
end

section
/-! SUPPORT. The commands of a window: crossings and samples, awake and asleep, the first sample behind arming, and the registers
(R300 … R304, R307, R312, R313). -/

namespace Sys2Proof.Machine

/-! ### WINDOW_CROSSING and WINDOW_SAMPLE (R299, R303) -/

section
variable {s : State} {n : Ch} {w : WinId}

theorem exec_windowCrossing_judges (x : WinIn) (cyc : Nat) (hr : s.runs) (hm : (s.ch n).map.member = false)
    (hc : ((s.ch n).eff.win w).mode = .continuous) :
    exec (.windowCrossing n w x cyc) s = .next (s.judge n w (x.own :: x.others) (s.time + cyc) true) :=
  congrArg _ ((s.live_of _ hr).trans (if_pos ⟨hc, hm⟩))

theorem exec_windowCrossing_idle (x : WinIn) (cyc : Nat) (hr : s.runs)
    (h : ((s.ch n).eff.win w).mode ≠ .continuous ∨ (s.ch n).map.member = true) : exec (.windowCrossing n w x cyc) s = .next s := by
  refine congrArg _ ((s.live_of _ hr).trans (if_neg ?_))
  rintro ⟨hc, hm⟩
  simp [hc, hm] at h

theorem exec_windowSample_sampled (x : WinIn) (cyc : Nat) (hr : s.runs) (hm : (s.ch n).map.member = false)
    (hc : ((s.ch n).eff.win w).mode = .sampled) : exec (.windowSample n w x cyc) s = .next
      (if (s.bay (chBay n)).awake then s.judge n w (x.own :: x.others) (s.time + cyc) false
       else if ((s.ch n).eff.win w).tick = 0 then s.sleepSample n w (x.own :: x.others) (s.time + cyc) else s) :=
  congrArg _ ((s.live_of _ hr).trans (if_pos ⟨hc, hm⟩))

theorem exec_windowSample_idle (x : WinIn) (cyc : Nat) (hr : s.runs) (h : ((s.ch n).eff.win w).mode ≠ .sampled ∨ (s.ch n).map.member = true ∨
    ((s.bay (chBay n)).awake = false ∧ ((s.ch n).eff.win w).tick ≠ 0)) : exec (.windowSample n w x cyc) s = .next s := by
  by_cases hrun : ((s.ch n).eff.win w).mode = .sampled ∧ (s.ch n).map.member = false
  · obtain ⟨hc, hm⟩ := hrun
    obtain ⟨ha, ht⟩ : (s.bay (chBay n)).awake = false ∧ ((s.ch n).eff.win w).tick ≠ 0 := by simpa [hc, hm] using h
    rw [exec_windowSample_sampled x cyc hr hm hc, ha, if_neg (by decide), if_neg ht]
  · exact congrArg _ ((s.live_of _ hr).trans (if_neg hrun))

/-- The two commands that have a window judged while its bay is awake. -/
theorem exec_window_judges {x : WinIn} {cyc : Nat} {e : Instr} (hr : s.runs) (hm : (s.ch n).map.member = false)
    (he : (e = .windowCrossing n w x cyc ∧ ((s.ch n).eff.win w).mode = .continuous) ∨
      (e = .windowSample n w x cyc ∧ ((s.ch n).eff.win w).mode = .sampled ∧ (s.bay (chBay n)).awake = true)) :
    ((s.ch n).eff.win w).mode ≠ .off ∧ ∃ pow, exec e s = .next (s.judge n w (x.own :: x.others) (s.time + cyc) pow) := by
  rcases he with ⟨rfl, hc⟩ | ⟨rfl, hc, ha⟩
  · exact ⟨by simp [hc], true, exec_windowCrossing_judges x cyc hr hm hc⟩
  · refine ⟨by simp [hc], false, ?_⟩
    rw [exec_windowSample_sampled x cyc hr hm hc, if_pos ha]

end

/-! ### A sample of a sleeping bay (R304) -/

@[simp] theorem State.wake_ch (s : State) (b : Bay) (m : Ch) : (s.wake b).ch m = s.ch m := by
  rw [s.wake_frame b]; rfl

@[simp] theorem State.wake_flt (s : State) (b : Bay) : (s.wake b).flt = s.flt := by
  rw [s.wake_frame b]

theorem State.sleepSample_eq (s : State) (n : Ch) (w : WinId) (xs : List Int) (t : Nat) : s.sleepSample n w xs t =
    let a := (s.comparators n w false ((s.ch n).eff.win w).hyst.toNat xs).upCh n fun c => c.upWin w fun x => x.enter (s.verdict n w xs)
    if s.verdict n w xs = ((s.ch n).win w).st ∨ s.verdict n w xs = .inside then a
    else ((a.upCh n fun c => c.upWin w fun x => { x with late := x.late ++ [(s.verdict n w xs, t)] }).when
      (((s.ch n).eff.win w).route.getLsbD 1) fun s => s.tripCells n).wake (chBay n) := rfl

/-- The channel as a sample asleep leaves it: the new state, and a change outward kept for the wake. -/
structure Chan.JudgedAsleep (c d : Chan) (w : WinId) (st : WinState) (now : Nat) : Prop where
  enters : (d.win w).st = st
  trips : (d.win w).trips = (c.win w).trips
  force : d.force = c.force
  waits : st ≠ (c.win w).st → st ≠ .inside → (d.win w).late = (c.win w).late ++ [(st, now)]

theorem Chan.enter_judgedAsleep {c : Chan} {w : WinId} {st : WinState} (h : st = (c.win w).st ∨ st = .inside) (now : Nat) :
    c.JudgedAsleep (c.upWin w fun x => x.enter st) w st now := by
  refine ⟨?_, ?_, c.upWin_force w _, fun h1 h2 => absurd h (by simp [h1, h2])⟩ <;>
  · rw [Chan.upWin_win]; rfl

theorem Chan.late_judgedAsleep (c : Chan) (w : WinId) (st : WinState) (now : Nat) :
    c.JudgedAsleep ((c.upWin w fun x => x.enter st).upWin w fun x => { x with late := x.late ++ [(st, now)] }) w st now := by
  refine ⟨?_, ?_, (Chan.upWin_force _ w _).trans (c.upWin_force w _), fun _ _ => ?_⟩ <;>
  · rw [Chan.upWin_win, Chan.upWin_win]; rfl

theorem State.sleepSample_spec (s : State) (n : Ch) (w : WinId) (xs : List Int) (t : Nat) :
    (∀ m, m ≠ n → (s.sleepSample n w xs t).ch m = s.ch m) ∧ (s.sleepSample n w xs t).flt = s.flt ∧
      (s.ch n).JudgedAsleep ((s.sleepSample n w xs t).ch n) w (s.verdict n w xs) t := by
  rw [State.sleepSample_eq]
  generalize s.verdict n w xs = st
  have hcmp := s.comparators_ch n n w false ((s.ch n).eff.win w).hyst.toNat xs
  have honly := s.comparators_updateOnly n w false ((s.ch n).eff.win w).hyst.toNat xs
  generalize s.comparators n w false ((s.ch n).eff.win w).hyst.toNat xs = u at *
  dsimp only
  split
  · next h =>
    refine ⟨fun m e => (u.upCh_ch_ne _ e).trans (honly.ch m e), honly.flt, ?_⟩
    rw [State.upCh_ch, hcmp]
    exact Chan.enter_judgedAsleep h t
  · have hstage (v : State) (b : Bool) : (∀ m, ((v.when b fun s => s.tripCells n).wake (chBay n)).ch m = v.ch m) ∧
        ((v.when b fun s => s.tripCells n).wake (chBay n)).flt = v.flt := by
      cases b
      · simp
      · refine ⟨by simp, ?_⟩
        rw [State.wake_flt, State.when_true, State.tripCells_frame]
    obtain ⟨hch, hflt⟩ := hstage ((u.upCh n fun c => c.upWin w fun x => x.enter st).upCh n fun c =>
      c.upWin w fun x => { x with late := x.late ++ [(st, t)] }) (((s.ch n).eff.win w).route.getLsbD 1)
    refine ⟨fun m e => ?_, hflt.trans honly.flt, ?_⟩
    · rw [hch, State.upCh_ch_ne _ _ e, State.upCh_ch_ne _ _ e, honly.ch m e]
    · rw [hch, State.upCh_ch, State.upCh_ch, hcmp]
      exact Chan.late_judgedAsleep (s.ch n) w st t

theorem exec_windowSample_asleep {s : State} {n : Ch} {w : WinId} (x : WinIn) (cyc : Nat) (hr : s.runs) (hm : (s.ch n).map.member = false)
    (hc : ((s.ch n).eff.win w).mode = .sampled) (ha : (s.bay (chBay n)).awake = false) (ht : ((s.ch n).eff.win w).tick = 0) :
    exec (.windowSample n w x cyc) s = .next (s.sleepSample n w (x.own :: x.others) (s.time + cyc)) := by
  rw [exec_windowSample_sampled x cyc hr hm hc, ha, if_neg (by decide), if_pos ht]

/-! ### WINDOW_FIRST_SAMPLE (R302) -/

section
variable {s : State} {n : Ch} {w : WinId}

theorem exec_windowFirstSample_none (x : WinIn) (hr : s.runs) (h : ((s.ch n).win w).arming = none) :
    exec (.windowFirstSample n w x) s = .next s := by
  refine congrArg _ ((s.live_of _ hr).trans ?_)
  simp only [h]

theorem exec_windowFirstSample_early (x : WinIn) {b : Nat} (hr : s.runs) (h : ((s.ch n).win w).arming = some b) (hb : s.time < b + 512) :
    exec (.windowFirstSample n w x) s = .next s := by
  refine congrArg _ ((s.live_of _ hr).trans ?_)
  simp only [h]
  exact if_neg fun k => absurd k.1 (by omega)

/-- The first sample behind arming: the window is armed no more, and judges (R302). -/
def State.firstJudge (s : State) (n : Ch) (w : WinId) (xs : List Int) : State :=
  (s.upCh n fun c => c.upWin w WinSt.settled).judge n w xs s.time true

theorem exec_windowFirstSample_due (x : WinIn) {b : Nat} (hr : s.runs) (hm : (s.ch n).map.member = false)
    (h : ((s.ch n).win w).arming = some b) (hb : b + 512 ≤ s.time) :
    exec (.windowFirstSample n w x) s = .next (s.firstJudge n w (x.own :: x.others)) := by
  refine congrArg _ ((s.live_of _ hr).trans ?_)
  simp only [h]
  exact if_pos ⟨hb, hm⟩

/-- The end of its arming changes no verdict of a window. -/
theorem State.verdict_settled (s : State) (n : Ch) (w : WinId) (xs : List Int) :
    (s.upCh n fun c => c.upWin w WinSt.settled).verdict n w xs = s.verdict n w xs := by
  unfold State.verdict
  rw [s.winOns_settled n w xs, State.upCh_ch, Chan.upWin_win, Chan.upWin_eff]
  exact WinState.next_map _ _ _ (fun _ => ⟨rfl, rfl⟩) fun _ => ⟨rfl, rfl⟩

/-- A window that is on and not blanked takes the verdict of its first sample. -/
theorem State.firstJudge_spec (s : State) (n : Ch) (w : WinId) (xs : List Int) :
    s.updateOnly (s.firstJudge n w xs) n ∧ ((s.firstJudge n w xs).ch n).cfg = (s.ch n).cfg ∧
      (((s.firstJudge n w xs).ch n).win w).arming = none ∧
      ((s.ch n).blanked w = false → ((s.ch n).eff.win w).mode ≠ .off → (((s.firstJudge n w xs).ch n).win w).st = s.verdict n w xs) := by
  unfold State.firstJudge
  have hch := s.upCh_ch n fun c => c.upWin w WinSt.settled
  have honly := s.upCh_updateOnly n (fun c => c.upWin w WinSt.settled) (Chan.upWin_map _ w _)
  have hverdict := s.verdict_settled n w xs
  generalize (s.upCh n fun c => c.upWin w WinSt.settled) = u at *
  have hcfg : (u.ch n).cfg = (s.ch n).cfg := by rw [hch, Chan.upWin_cfg]
  have heff : (u.ch n).eff = (s.ch n).eff := by rw [hch, Chan.upWin_eff]
  have hblank : (u.ch n).blanked w = (s.ch n).blanked w := by rw [hch, Chan.upWin_blanked]
  have harm : ((u.ch n).win w).arming = none := by rw [hch, Chan.upWin_win]; rfl
  by_cases hon : (s.ch n).blanked w = false ∧ ((s.ch n).eff.win w).mode ≠ .off
  · obtain ⟨hb, hm⟩ := hon
    obtain ⟨hjudge, hjudged⟩ := State.judge_spec (by rwa [heff]) (hblank.trans hb) harm xs s.time true
    exact ⟨honly.trans hjudge, hjudged.cfg.trans hcfg, hjudged.arming.trans harm, fun _ _ => hjudged.enters.trans hverdict⟩
  · have hkeep : ((u.ch n).eff.win w).mode = .off ∨ (u.ch n).blanked w = true ∨ ((u.ch n).win w).arming ≠ none := by
      rw [heff, hblank]
      cases hb : (s.ch n).blanked w
      · exact .inl (by simpa [hb] using hon)
      · exact .inr (.inl rfl)
    rw [State.judge_keeps_state hkeep, State.comparators_ch]
    exact ⟨honly.trans (u.comparators_updateOnly n w true _ xs), hcfg, harm, fun hb hm => absurd ⟨hb, hm⟩ hon⟩

end

/-! ### WIN_CFG_WRITE (R300, R312) -/

section
variable {s : State} {n : Ch} {w : WinId}

theorem exec_winCfgWrite_takes (v : Word) (h : s.takes n) :
    exec (.winCfgWrite n w v) s = .next (((s.winCfgLand n w v).sample n).winAct n w) := congrArg _ (h.chWrite _ _ _)

theorem ChanCfg.upWin_congr (g : ChanCfg) (w : WinId) {f f' : WinCfg → WinCfg} (h : f (g.win w) = f' (g.win w)) : g.upWin w f = g.upWin w f' := by
  cases w
  · exact congrArg (fun x => { g with winV := x }) h
  · exact congrArg (fun x => { g with winI := x }) h

theorem State.winAct_same (h : ((s.ch n).cfg.win w).mode = ((s.ch n).eff.win w).mode) : s.winAct n w = s := if_pos h

theorem State.winAct_new (h : ((s.ch n).cfg.win w).mode ≠ ((s.ch n).eff.win w).mode) :
    s.winAct n w = (s.upCh n fun c => c.takeMode w s.time).powerWindow n w := if_neg h

theorem Chan.takeMode_win (c : Chan) (w : WinId) (now : Nat) : (c.takeMode w now).win w = (c.win w).arm (c.cfg.win w).mode now := by
  cases w <;> rfl

theorem Chan.takeMode_mode (c : Chan) (w : WinId) (now : Nat) : ((c.takeMode w now).eff.win w).mode = (c.cfg.win w).mode := by
  cases w <;> rfl

/-- The configuration written and sampled. -/
theorem State.winCfgSampled_ch (s : State) (n : Ch) (w : WinId) (v : Word) : ((s.winCfgLand n w v).sample n).ch n =
    Chan.sampled { s.ch n with cfg := (s.ch n).cfg.upWin w fun _ => ((s.ch n).cfg.win w).setCfg v s.isBare } s.period := by
  rw [State.sample_ch, State.winCfgLand, State.upCh_ch, ChanCfg.upWin_congr _ w (f' := fun _ => ((s.ch n).cfg.win w).setCfg v s.isBare) rfl]
  rfl

/-- A written mode that is not in force arms the window; its flags and its count stand. -/
structure Chan.TakesMode (c d : Chan) (w : WinId) (m : WinMode) (now : Nat) : Prop where
  mode : (d.eff.win w).mode = m
  same : m = (c.eff.win w).mode → d.win w = c.win w
  arms : m ≠ (c.eff.win w).mode → d.win w = (c.win w).arm m now

theorem Chan.TakesMode.flags {c d : Chan} {w : WinId} {m : WinMode} {now : Nat} (h : c.TakesMode d w m now) :
    (d.win w).trips = (c.win w).trips ∧ (d.win w).tripHi = (c.win w).tripHi ∧ (d.win w).tripLo = (c.win w).tripLo := by
  by_cases hm : m = (c.eff.win w).mode
  · rw [h.same hm]
    exact ⟨rfl, rfl, rfl⟩
  · rw [h.arms hm]
    exact ⟨rfl, rfl, rfl⟩

theorem State.winCfgWrite_spec (s : State) (n : Ch) (w : WinId) (v : Word) {g : WinCfg} (hg : g = ((s.ch n).cfg.win w).setCfg v s.isBare) :
    let t := ((s.winCfgLand n w v).sample n).winAct n w
    (∀ m, m ≠ n → t.ch m = s.ch m) ∧ (t.ch n).cfg = (s.ch n).cfg.upWin w (fun _ => g) ∧ t.flt = s.flt ∧
      (s.ch n).TakesMode (t.ch n) w g.mode s.time := by
  have hch := s.winCfgSampled_ch n w v
  rw [← hg] at hch
  have hne (m : Ch) (e : m ≠ n) : ((s.winCfgLand n w v).sample n).ch m = s.ch m := (State.sample_ch_ne _ e).trans (s.upCh_ch_ne _ e)
  have hflt : ((s.winCfgLand n w v).sample n).flt = s.flt := rfl
  have htime : ((s.winCfgLand n w v).sample n).time = s.time := rfl
  generalize (s.winCfgLand n w v).sample n = u at *
  have hcfg : (u.ch n).cfg = (s.ch n).cfg.upWin w fun _ => g := by rw [hch, Chan.sampled_cfg]
  have hwrite : ((u.ch n).cfg.win w).mode = g.mode := by rw [hcfg, ChanCfg.upWin_win]
  have hmode : ((u.ch n).eff.win w).mode = ((s.ch n).eff.win w).mode := by rw [hch, Chan.sampled_mode]
  have hwin : (u.ch n).win w = (s.ch n).win w := by
    rw [hch, Chan.sampled_win]
    exact Chan.win_congr rfl rfl w
  by_cases hm : g.mode = ((s.ch n).eff.win w).mode
  · rw [State.winAct_same (by rw [hwrite, hmode, hm])]
    exact ⟨hne, hcfg, hflt, hmode.trans hm.symm, fun _ => hwin, fun k => absurd hm k⟩
  · rw [State.winAct_new (by rwa [hwrite, hmode])]
    simp only [State.powerWindow_ch, State.powerWindow_flt, State.upCh_ch, Chan.takeMode_cfg]
    refine ⟨fun m e => (u.upCh_ch_ne _ e).trans (hne m e), hcfg, hflt, (Chan.takeMode_mode _ w _).trans hwrite, fun k => absurd k hm, fun _ => ?_⟩
    rw [Chan.takeMode_win, hwrite, hwin, htime]

end

/-! ### WIN_THR_WRITE (R307, R313) -/

theorem exec_winThrWrite_takes {s : State} {n : Ch} {w : WinId} (v : Word) (h : s.takes n) : exec (.winThrWrite n w v) s =
    .next (((s.upCh n fun c => { c with cfg := c.cfg.upWin w fun g => g.setThr v }).sample n).upCh n fun c => c.refThr w) :=
  congrArg _ (h.chWrite _ _ _)

/-- LO above HI is stored as HI. -/
theorem WinCfg.setThr_spec (g : WinCfg) (v : Word) : (g.setThr v).hi = v.extractLsb' 16 12 ∧
    (g.setThr v).lo.toNat = min (v.extractLsb' 0 12).toNat (v.extractLsb' 16 12).toNat := by
  refine ⟨rfl, ?_⟩
  unfold WinCfg.setThr
  dsimp only
  split <;> omega

/-- New thresholds take their reference from the range in force, and re-arm nothing. -/
theorem Chan.refThr_spec (c : Chan) (w : WinId) : (c.refThr w).cfg = c.cfg ∧ (c.refThr w).force = c.force ∧
    ((c.refThr w).win w).refRange = c.winRange w ∧ ((c.refThr w).win w).refFs = c.winFs w (c.winRange w) ∧
    ((c.refThr w).win w).st = (c.win w).st ∧ ((c.refThr w).win w).trips = (c.win w).trips ∧ ((c.refThr w).win w).arming = (c.win w).arming := by
  cases w <;> exact ⟨rfl, rfl, rfl, rfl, rfl, rfl, rfl⟩

theorem Chan.winRange_congr {c d : Chan} (hv : d.range.v = c.range.v) (hi : d.range.i = c.range.i) (w : WinId) : d.winRange w = c.winRange w := by
  cases w
  · exact hv
  · exact hi

/-- A window's full scale hangs on the structure, the mapping and the current range. -/
theorem Chan.winFs_congr {c d : Chan} (hd : d.decl = c.decl) (hm : d.map = c.map) (hi : d.range.i = c.range.i) (w : WinId) (r : BitVec 4) :
    d.winFs w r = c.winFs w r := by
  cases w
  case v =>
    show d.fsVOn r d.range.i = c.fsVOn r c.range.i
    rw [Chan.fsVOn, Chan.fsVOn, hd, hi]
  case i =>
    show d.fsI r = c.fsI r
    rw [Chan.fsI, Chan.fsI, Chan.claspM, Chan.claspM, hd, hm]

/-- The channel with its thresholds written and sampled, and their reference taken. -/
def Chan.thrWritten (c : Chan) (w : WinId) (v : Word) (p : Nat) : Chan :=
  (Chan.sampled { c with cfg := c.cfg.upWin w fun g => g.setThr v } p).refThr w

theorem Chan.thrWritten_spec (c : Chan) (w : WinId) (v : Word) (p : Nat) : (c.thrWritten w v p).cfg = c.cfg.upWin w (fun g => g.setThr v) ∧
    (c.thrWritten w v p).force.code = c.force.code ∧ ((c.thrWritten w v p).win w).refRange = c.winRange w ∧
    ((c.thrWritten w v p).win w).refFs = c.winFs w (c.winRange w) ∧ ((c.thrWritten w v p).win w).st = (c.win w).st ∧
    ((c.thrWritten w v p).win w).trips = (c.win w).trips ∧ ((c.thrWritten w v p).win w).arming = (c.win w).arming := by
  let d : Chan := { c with cfg := c.cfg.upWin w fun g => g.setThr v }
  obtain ⟨hv, hi, -⟩ := d.sampled_range p
  have hd : (d.sampled p).winRange w = c.winRange w := Chan.winRange_congr hv hi w
  have he (r : BitVec 4) : (d.sampled p).winFs w r = c.winFs w r := Chan.winFs_congr (d.sampled_decl p) (d.sampled_map p) hi w r
  have hw : (d.sampled p).win w = c.win w := (d.sampled_win p w).trans (Chan.win_congr rfl rfl w)
  obtain ⟨hcfg, hforce, hrange, hfs, hst, htrips, harm⟩ := (d.sampled p).refThr_spec w
  rw [hd] at hrange hfs
  rw [he] at hfs
  rw [hw] at hst htrips harm
  exact ⟨hcfg.trans (d.sampled_cfg p), (congrArg _ hforce).trans (d.sampled_code p), hrange, hfs, hst, htrips, harm⟩

/-- Settles O47: a judged window takes the table's state and trips on a change outward; the rest by the command that the window is given. -/
theorem windowsFollowTheStateTable : Obligations.WindowsFollowTheStateTable := by
  rintro n w x o _ cyc s _ e _ rfl rfl rfl
  refine ⟨fun hr hm he => ?_, exec_windowCrossing_idle _ _, exec_windowSample_idle _ _, fun hr hm hc ha ht => ?_,
    fun hr hm b hb => ⟨?_, fun hd => ?_⟩, exec_windowFirstSample_none _, fun ht v g hg => ?_, fun ht v => ?_⟩
  · obtain ⟨hon, pow, hexec⟩ := exec_window_judges hr hm he
    refine ⟨fun hkeep => ⟨_, hexec, ?_⟩, fun hb harm => ⟨_, hexec, ?_⟩⟩
    · rw [State.judge_keeps_state (.inr hkeep), State.comparators_frame]
      exact ⟨rfl, rfl⟩
    · obtain ⟨honly, hjudged⟩ := State.judge_spec hon hb harm (x :: o) (s.time + cyc) pow
      obtain ⟨hcfg, hst, -, hstays, htrips⟩ := hjudged
      have hnext : (((s.judge n w (x :: o) (s.time + cyc) pow).ch n).win w).st = ((s.ch n).win w).st.next _ (s.winOns n w (x :: o)) := hst
      refine ⟨honly.ch, honly.map, honly.flt, hcfg,
        fun hs ha => hnext.trans (WinState.next_above (by simp [hs]) ha),
        fun hs ha hb => hnext.trans (WinState.next_below (by simp [hs]) (fun _ => ha) hb),
        fun hs hl => hnext.trans (WinState.next_inside hs hl),
        fun hs hb => hnext.trans (WinState.next_below (by simp [hs]) (by simp [hs]) hb),
        fun hs hl => hnext.trans (WinState.next_backHi hs hl),
        fun hs hb ho => hnext.trans (WinState.next_staysHi hs hb ho),
        fun hs ha => hnext.trans (WinState.next_above (by simp [hs]) ha),
        fun hs hl => hnext.trans (WinState.next_backLo hs hl),
        fun hs ha ho => hnext.trans (WinState.next_staysLo hs ha ho), fun h => ?_, fun h1 h2 => ?_⟩
      · rw [hst] at h
        exact hstays h
      · rw [hst] at h1 h2
        obtain ⟨hcount, htime, hhi, hlo⟩ := (htrips h1 h2).flags
        rw [hst]
        exact ⟨hcount, htime, hhi, hlo, (htrips h1 h2).routes⟩
  · obtain ⟨hch, hflt, hasleep⟩ := s.sleepSample_spec n w (x :: o) (s.time + cyc)
    exact ⟨_, exec_windowSample_asleep _ cyc hr hm hc ha ht, hch, hflt, hasleep.enters, hasleep.trips, hasleep.force, hasleep.waits⟩
  · exact exec_windowFirstSample_early _ hr hb
  · obtain ⟨honly, hcfg, harm, hst⟩ := s.firstJudge_spec n w (x :: o)
    exact ⟨_, exec_windowFirstSample_due _ hr hm hb hd, honly.ch, honly.flt, hcfg, harm, hst⟩
  · obtain ⟨hch, hcfg, hflt, htakes⟩ := s.winCfgWrite_spec n w v hg
    obtain ⟨htrips, hhi, hlo⟩ := htakes.flags
    refine ⟨_, exec_winCfgWrite_takes v ht, hch, hcfg, hflt, htakes.mode, htrips, hhi, hlo, htakes.same, fun hm => ?_⟩
    rw [htakes.arms hm]
    exact ⟨rfl, rfl⟩
  · obtain ⟨hcfg, hcode, hrange, hfs, hst, htrips, harm⟩ := (s.ch n).thrWritten_spec w v s.period
    obtain ⟨hhi, hlo⟩ := ((s.ch n).cfg.win w).setThr_spec v
    have hch : (((s.upCh n fun c => { c with cfg := c.cfg.upWin w fun g => g.setThr v }).sample n).upCh n fun c => c.refThr w).ch n =
        (s.ch n).thrWritten w v s.period := by
      rw [State.upCh_ch, State.sample_ch, State.upCh_ch]
      rfl
    refine ⟨_, exec_winThrWrite_takes v ht, ((s.upCh_chOnly n _).trans (State.sample_chOnly _ n)).trans (State.upCh_chOnly _ n _), ?_⟩
    rw [hch, hcfg, ChanCfg.upWin_win]
    exact ⟨hhi, hlo, hrange, hfs, hst, htrips, harm, hcode⟩

end Sys2Proof.Machine
end

section
/-! SUPPORT. The patrol of the SRAM: a word's correction, the repair of its row, and the effect of an uncorrectable word of each region
(R353 … R355, R388). -/

namespace Sys2Proof.Machine

/-! ### The patrol's read (R354) -/

/-- The patrol's next word is the one behind. -/
def State.patrolled (s : State) : State := s.upAtt fun t => { t with patrol := (t.patrol + 1) % 524288 }

theorem exec_sramPatrolRead_clean {s : State} (hr : s.runs) (r : SramRegion) : exec (.sramPatrolRead r .clean) s = .next s.patrolled :=
  congrArg _ (s.live_of _ hr)

theorem exec_sramPatrolRead_single {s : State} {a : Nat} (hr : s.runs) (ha : a = 8 * s.att.patrol) (r : SramRegion) :
    exec (.sramPatrolRead r .single) s = .next (s.patrolled.sramCorrected a) := by
  subst ha
  exact congrArg _ (s.live_of _ hr)

theorem exec_sramPatrolRead_double {s : State} {a : Nat} (hr : s.runs) (ha : a = 8 * s.att.patrol) (r : SramRegion) :
    exec (.sramPatrolRead r .double) s = .next (s.patrolled.sramUncorrectable r a) := by
  subst ha
  exact congrArg _ (s.live_of _ hr)

/-- What a message leaves at the collector does not hang on the attic. -/
theorem State.upAtt_post_flt (s : State) (f : Att → Att) (src : BitVec 10) (kind addr : Nat) :
    ((s.upAtt f).post src kind addr).flt = (s.post src kind addr).flt := rfl

theorem State.patrolled_post_flt (s : State) (src : BitVec 10) (kind addr : Nat) :
    (s.patrolled.post src kind addr).flt = (s.post src kind addr).flt := s.upAtt_post_flt _ src kind addr

/-! ### The repair of a row (R353, R355) -/

/-- The spare rows of a byte's bank that are in use. -/
def State.rowsUsedAt (s : State) (a : Nat) : Nat := (findAt s.att.rowsUsed (a / 131072)).getD 0

/-- `t` is `s` with the row of `a` repaired by a spare row, or, in a bank without one, with EXHAUSTED set. -/
structure State.RowRepaired (s t : State) (a : Nat) : Prop where
  rest : t = { s with att := t.att, flt := t.flt }
  att : t.att = { s.att with rowsUsed := t.att.rowsUsed, spareRows := t.att.spareRows, rowErrs := t.att.rowErrs, exhausted := t.att.exhausted }
  spareRows : t.att.spareRows = if s.rowsUsedAt a < 16 then s.att.spareRows - 1 else s.att.spareRows
  exhausted : t.att.exhausted = if s.rowsUsedAt a < 16 then s.att.exhausted else true
  rowsUsed : s.rowsUsedAt a < 16 → t.att.rowsUsed = insertAt s.att.rowsUsed (a / 131072) (s.rowsUsedAt a + 1)
  flt : t.flt = (s.post (srcBank a) (if s.rowsUsedAt a < 16 then 0 else 2) a).flt

theorem State.repairRow_repairs (s : State) (a : Nat) : s.RowRepaired (s.repairRow a) a := by
  by_cases h : s.rowsUsedAt a < 16
  · have he : s.repairRow a = (s.upAtt fun t => { t with
        rowsUsed := insertAt t.rowsUsed (a / 131072) (s.rowsUsedAt a + 1), spareRows := t.spareRows - 1,
        rowErrs := removeAt t.rowErrs (a / 128) }).post (srcBank a) 0 a := if_pos h
    rw [he]
    refine ⟨rfl, rfl, ?_, ?_, fun _ => rfl, ?_⟩
    all_goals rw [if_pos h]; rfl
  · have he : s.repairRow a = (s.upAtt fun t => { t with exhausted := true }).post (srcBank a) 2 a := if_neg h
    rw [he]
    refine ⟨rfl, rfl, ?_, ?_, fun h' => absurd h' h, ?_⟩
    all_goals rw [if_neg h]; rfl

/-! ### A corrected word (R353) -/

/-- The corrected errors of a byte's row. -/
def State.rowErrsAt (s : State) (a : Nat) : Nat := (findAt s.att.rowErrs (a / 128)).getD 0

/-- The corrected word counted, in all and in its row. -/
def State.countCorrected (s : State) (a : Nat) : State :=
  s.upAtt fun t => { t with ce := satInc t.ce, rowErrs := insertAt t.rowErrs (a / 128) (s.rowErrsAt a + 1) }

theorem State.countCorrected_post_flt (s : State) (a : Nat) (src : BitVec 10) (kind addr : Nat) :
    ((s.countCorrected a).post src kind addr).flt = (s.post src kind addr).flt := s.upAtt_post_flt _ src kind addr

theorem State.sramCorrected_eq (s : State) (a : Nat) :
    s.sramCorrected a = if s.rowErrsAt a + 1 = 2 then (s.countCorrected a).repairRow a else s.countCorrected a := rfl

theorem State.rowErrsAt_eq_one (s : State) (a : Nat) : s.rowErrsAt a + 1 = 2 ↔ findAt s.att.rowErrs (a / 128) = some 1 := by
  unfold State.rowErrsAt
  cases findAt s.att.rowErrs (a / 128) <;> simp

theorem State.sramCorrected_counts {s : State} {a : Nat} (h : findAt s.att.rowErrs (a / 128) ≠ some 1) : s.sramCorrected a = s.countCorrected a := by
  rw [State.sramCorrected_eq, if_neg fun h' => h ((s.rowErrsAt_eq_one a).mp h')]

theorem State.sramCorrected_repairs {s : State} {a : Nat} (h : findAt s.att.rowErrs (a / 128) = some 1) :
    (s.countCorrected a).RowRepaired (s.sramCorrected a) a := by
  rw [State.sramCorrected_eq, if_pos ((s.rowErrsAt_eq_one a).mpr h)]
  exact State.repairRow_repairs _ a

/-- The second error of a row, in a bank with a spare row. -/
theorem State.sramCorrected_spare {s : State} {a : Nat} (h : findAt s.att.rowErrs (a / 128) = some 1) (hu : s.rowsUsedAt a < 16) :
    (s.sramCorrected a).att.rowsUsed = insertAt s.att.rowsUsed (a / 131072) (s.rowsUsedAt a + 1) ∧
    (s.sramCorrected a).att.spareRows = s.att.spareRows - 1 ∧ (s.sramCorrected a).att.exhausted = s.att.exhausted ∧
    (s.sramCorrected a).flt = (s.post (srcBank a) 0 a).flt := by
  have hrep := State.sramCorrected_repairs h
  have hused : (s.countCorrected a).rowsUsedAt a < 16 := hu
  refine ⟨hrep.rowsUsed hused, hrep.spareRows.trans (if_pos hused), hrep.exhausted.trans (if_pos hused), hrep.flt.trans ?_⟩
  rw [if_pos hused, State.countCorrected_post_flt]

/-- The second error of a row, in a bank without a spare row. -/
theorem State.sramCorrected_exhausts {s : State} {a : Nat} (h : findAt s.att.rowErrs (a / 128) = some 1) (hu : 16 ≤ s.rowsUsedAt a) :
    (s.sramCorrected a).att.exhausted = true ∧ (s.sramCorrected a).att.spareRows = s.att.spareRows ∧
    (s.sramCorrected a).flt = (s.post (srcBank a) 2 a).flt := by
  have hrep := State.sramCorrected_repairs h
  have hused : ¬ (s.countCorrected a).rowsUsedAt a < 16 := Nat.not_lt.mpr hu
  refine ⟨hrep.exhausted.trans (if_neg hused), hrep.spareRows.trans (if_neg hused), hrep.flt.trans ?_⟩
  rw [if_neg hused, State.countCorrected_post_flt]

/-- Whether or not its row is repaired, a corrected word changes its counts, the bank's rows and the collector alone. -/
theorem State.sramCorrected_frame (s : State) (a : Nat) : ∃ t, s.sramCorrected a = t ∧ t = { s with att := t.att, flt := t.flt } ∧ t.att =
    { s.att with ce := satInc s.att.ce, rowsUsed := t.att.rowsUsed, spareRows := t.att.spareRows, rowErrs := t.att.rowErrs,
                 exhausted := t.att.exhausted } := by
  refine ⟨_, rfl, ?_⟩
  by_cases h : findAt s.att.rowErrs (a / 128) = some 1
  · obtain ⟨hrest, hatt, -⟩ := State.sramCorrected_repairs h
    exact ⟨hrest, hatt⟩
  · rw [State.sramCorrected_counts h]
    exact ⟨rfl, rfl⟩

/-! ### The memory behind an uncorrectable word (R355) -/

/-- Every byte of the mapped memories outside `p` … `p + 7` reads as before. -/
def State.memBeside (s t : State) (p : Nat) : Prop :=
  ∀ x, x < p ∨ p + 8 ≤ x → readByte memBackground t.mem x = readByte memBackground s.mem x

theorem State.setMemWords_memBeside {s u t : State} {p : Nat} {w w' : Word} (hu : u.mem = (s.setMemWord p w).mem)
    (ht : t.mem = (u.setMemWord (p + 4) w').mem) : s.memBeside t p := by
  intro x hx
  rw [ht]
  refine (readByte_writeMemWord_ne memBackground u.mem w' (by omega)).trans ?_
  rw [hu]
  exact readByte_writeMemWord_ne memBackground s.mem w (by omega)

theorem State.garble_chans (s : State) (p : Nat) : (s.garble p).chans = s.chans := by simp [State.garble]
theorem State.garble_cells (s : State) (p : Nat) : (s.garble p).cells = s.cells := by simp [State.garble]
theorem State.garble_img (s : State) (p : Nat) : (s.garble p).img = s.img := by simp [State.garble]
theorem State.garble_cel (s : State) (p : Nat) : (s.garble p).cel = s.cel := by simp [State.garble]
theorem State.garble_att (s : State) (p : Nat) : (s.garble p).att = s.att := by simp [State.garble]

theorem State.garble_memBeside (s : State) (p : Nat) : s.memBeside (s.garble p) p := State.setMemWords_memBeside rfl rfl

/-- The word that an address holds at reset. -/
def resetWordAt (p : Nat) : Word := bytesWord [memBackground p, memBackground (p + 1), memBackground (p + 2), memBackground (p + 3)]

theorem State.resetWord_eq (s : State) (p : Nat) : s.resetWord p = s.setMemWord p (resetWordAt p) := rfl

/-- Two neighbouring words at their reset values. -/
theorem State.resetWords_spec {s : State} (h : s.memSound) (p : Nat) :
    ((s.resetWord p).resetWord (p + 4)).memWord p = resetWordAt p ∧
    ((s.resetWord p).resetWord (p + 4)).memWord (p + 4) = resetWordAt (p + 4) := by
  simp only [State.resetWord_eq]
  refine ⟨?_, State.memWord_setMemWord_same _ _ _ (State.setMemWord_memSound _ _ h)⟩
  rw [State.memWord_setMemWord_ne _ _ (.inl le_rfl)]
  exact State.memWord_setMemWord_same s p _ h

/-! ### The cellar's queue and the loops (R140, R388) -/

theorem State.celAsk_frame (s : State) (w : CelWork) : s.celAsk w = { s with cel := (s.celAsk w).cel } := by
  unfold State.celAsk
  split <;> rfl

/-- What the cellar is asked for enters its queue alone. -/
theorem State.celAsk_cel_congr {s t : State} (h : t.cel = s.cel) (w : CelWork) : (t.celAsk w).cel = (s.celAsk w).cel := by
  unfold State.celAsk
  rw [h]
  split <;> rfl

theorem State.loopOpen_path (s : State) (n : Ch) : s.pathOnly (s.loopOpen n) n :=
  (s.upCh_path n Chan.openLoops rfl).trans (State.refresh_path _ n)

@[simp] theorem State.loopOpen_att (s : State) (n : Ch) : (s.loopOpen n).att = s.att := by rw [(s.loopOpen_path n).rest]

@[simp] theorem State.loopOpen_mem (s : State) (n : Ch) : (s.loopOpen n).mem = s.mem := by rw [(s.loopOpen_path n).rest]

@[simp] theorem State.loopOpen_ch (s : State) (n : Ch) : (s.loopOpen n).ch n = (s.ch n).openLoops := by simp [State.loopOpen]

/-! ### The effect of a region (R355, R388) -/

theorem State.sramEffect_loopState (s : State) (n : Ch) (a : Nat) : s.sramEffect (.loopState n) a = (s.post (srcCh n) 0xA a).loopOpen n := rfl

/-- The attic marks a bead that holds an uncorrectable word. -/
def State.markBead (s : State) (i : BitVec 16) : State :=
  s.upAtt fun t => { t with ueBeads := if t.ueBeads.contains i then t.ueBeads else t.ueBeads ++ [i] }

theorem State.sramEffect_bead (s : State) (i : BitVec 16) (upper : Bool) (a : Nat) :
    s.sramEffect (.bead i upper) a = (s.markBead i).garble (0x100000 + 16 * i.toNat + 8 * bit upper) := rfl

theorem State.sramEffect_larder (s : State) (i : BitVec 16) (upper : Bool) (a : Nat) :
    s.sramEffect (.larder i upper) a = s.garble (0x200000 + 16 * i.toNat + 8 * bit upper) := rfl

theorem State.sramEffect_sine (s : State) (w : BitVec 13) (a : Nat) : s.sramEffect (.sine w) a =
    (s.resetWord (0x300000 + 4 * (w.toNat / 2 * 2))).resetWord (0x300000 + 4 * (w.toNat / 2 * 2) + 4) := rfl

theorem State.sramEffect_locket (s : State) (k : CellIx) (a : Nat) : s.sramEffect (.locket k) a = s.celAsk (.readLocket k false) := rfl

/-- Of the attic no region changes more than the beads that read as uncorrectable. -/
theorem State.sramEffect_att (s : State) (r : SramRegion) (a : Nat) :
    (s.sramEffect r a).att = { s.att with ueBeads := (s.sramEffect r a).att.ueBeads } := by
  cases r
  case locket k => rw [State.sramEffect_locket, State.celAsk_frame]
  case loopState n => rw [State.sramEffect_loopState, State.loopOpen_att, State.post_att]
  all_goals exact rfl

/-- Channels and cells change with the state of a loop or of a stream's queue alone. -/
theorem State.sramEffect_chans (s : State) {r : SramRegion} (a : Nat) (hl : ∀ n, r ≠ .loopState n) (hq : ∀ n i, r ≠ .stream n i) :
    (s.sramEffect r a).chans = s.chans ∧ (s.sramEffect r a).cells = s.cells := by
  cases r
  case locket k => rw [State.sramEffect_locket, State.celAsk_frame]; exact ⟨rfl, rfl⟩
  case loopState n => exact absurd rfl (hl n)
  case stream n i => exact absurd rfl (hq n i)
  case bead i u => rw [State.sramEffect_bead, State.garble_chans, State.garble_cells]; exact ⟨rfl, rfl⟩
  case larder i u => rw [State.sramEffect_larder, State.garble_chans, State.garble_cells]; exact ⟨rfl, rfl⟩
  case coffer i => exact ⟨State.post_chans _ _ _ _, State.post_cells _ _ _ _⟩
  all_goals exact ⟨rfl, rfl⟩

theorem State.markBead_marks (s : State) (i : BitVec 16) : i ∈ (s.markBead i).att.ueBeads := by
  show i ∈ if s.att.ueBeads.contains i then s.att.ueBeads else s.att.ueBeads ++ [i]
  split
  · next h => exact List.contains_iff_mem.mp h
  · exact List.mem_append_right _ (List.mem_singleton.mpr rfl)

/-- A queue's entry with an uncorrectable word reads as none; behind the queue's end there is none to lose. -/
theorem State.sramEffect_stream (s : State) (n : Ch) (i a : Nat) : (∀ m, m ≠ n → (s.sramEffect (.stream n i) a).ch m = s.ch m) ∧
    (i < (s.ch n).queue.length → (s.sramEffect (.stream n i) a).ch n = { s.ch n with queue := (s.ch n).queue.set i none }) ∧
    ((s.ch n).queue.length ≤ i → (s.sramEffect (.stream n i) a).ch n = s.ch n) := by
  refine ⟨fun m hm => s.upCh_ch_ne _ hm, fun h => (s.upCh_ch n _).trans ?_, fun h => (s.upCh_ch n _).trans ?_⟩
  · rw [if_pos h]
  · rw [if_neg (by omega)]

/-- The loops of the channel open where their state is lost; level, registers and mapping stand. -/
theorem State.sramEffect_loops (s : State) (n : Ch) (a : Nat) : (s.sramEffect (.loopState n) a).mem = s.mem ∧
    (∀ m, m ≠ n → (s.sramEffect (.loopState n) a).ch m = s.ch m) ∧ ((s.sramEffect (.loopState n) a).ch n).loop.st = .opened ∧
    ((s.sramEffect (.loopState n) a).ch n).force.code = (s.ch n).force.code ∧
    ((s.sramEffect (.loopState n) a).ch n).cfg = (s.ch n).cfg ∧ ((s.sramEffect (.loopState n) a).ch n).map = (s.ch n).map := by
  rw [State.sramEffect_loopState]
  obtain ⟨_, _, hopen, hst, -, hcode, -⟩ := (s.ch n).openLoops_spec
  refine ⟨State.loopOpen_mem _ n, fun m hm => (State.loopOpen_path _ n).ch m hm, ?_⟩
  rw [State.loopOpen_ch, State.post_ch, hopen]
  exact ⟨hst, hcode, rfl, rfl⟩

/-! ### An uncorrectable word (R353, R355) -/

/-- The uncorrectable word reported: UE and its address, its row repaired, its bank's message. -/
def State.reportUe (s : State) (a : Nat) : State :=
  ((s.upAtt fun t => { t with ue := true, ueAddr := BitVec.ofNat 22 a }).repairRow a).post (srcBank a) 1 a

theorem State.sramUncorrectable_eq (s : State) (r : SramRegion) (a : Nat) : s.sramUncorrectable r a = (s.reportUe a).sramEffect r a := rfl

/-- The report stays with the attic and the collector. -/
theorem State.reportUe_spec (s : State) (a : Nat) : ∃ t, s.reportUe a = t ∧ t = { s with att := t.att, flt := t.flt } ∧ t.att.ue = true ∧
    t.att.ueAddr = BitVec.ofNat 22 a ∧ t.att.ce = s.att.ce ∧
    t.att.spareRows = (if s.rowsUsedAt a < 16 then s.att.spareRows - 1 else s.att.spareRows) ∧
    t.att.exhausted = (if s.rowsUsedAt a < 16 then s.att.exhausted else true) ∧ t.att.bays = s.att.bays ∧ t.att.ueBeads = s.att.ueBeads := by
  obtain ⟨hrest, hatt, hspare, hexh, -⟩ := (s.upAtt fun t => { t with ue := true, ueAddr := BitVec.ofNat 22 a }).repairRow_repairs a
  refine ⟨_, rfl, ?_, ?_, ?_, ?_, hspare, hexh, ?_, ?_⟩
  · unfold State.reportUe
    rw [hrest]
    rfl
  all_goals rw [State.reportUe, State.post_att, hatt]; rfl

/-- Settles O49: a clean word by the patrol's step, a corrected one by its row's count, an uncorrectable one by its report and the effect of its
region. -/
theorem thePatrolCorrectsOrReportsAWord : Obligations.ThePatrolCorrectsOrReportsAWord := by
  rintro r s a _ _ _ hr ha rfl rfl rfl
  refine ⟨exec_sramPatrolRead_clean hr r, ⟨_, exec_sramPatrolRead_single hr ha r, ?_⟩, _, exec_sramPatrolRead_double hr ha r, ?_⟩
  · obtain ⟨t, ht, hrest, hatt⟩ := s.patrolled.sramCorrected_frame a
    rw [ht]
    refine ⟨hrest, ?_, ?_, ?_, ?_, ?_, fun h => ?_, fun h hu => ?_, fun h hu => ?_⟩
    iterate 5 rw [hatt]; rfl
    · rw [← ht, State.sramCorrected_counts (s := s.patrolled) h]
      exact ⟨rfl, rfl, rfl, rfl⟩
    · rw [← ht, ← State.patrolled_post_flt]
      exact State.sramCorrected_spare (s := s.patrolled) h hu
    · rw [← ht, ← State.patrolled_post_flt]
      exact State.sramCorrected_exhausts (s := s.patrolled) h hu
  · obtain ⟨u, hu, hframe, hue, haddr, hce, hspare, hexh, hbays, hbeads⟩ := s.patrolled.reportUe_spec a
    rw [State.sramUncorrectable_eq, hu]
    have hmem : u.mem = s.mem := (congrArg State.mem hframe).trans rfl
    have hcel : u.cel = s.cel := (congrArg State.cel hframe).trans rfl
    have himg : u.img = s.img := (congrArg State.img hframe).trans rfl
    have hchans : u.chans = s.chans := (congrArg State.chans hframe).trans rfl
    have hcells : u.cells = s.cells := (congrArg State.cells hframe).trans rfl
    have hch : ∀ m, u.ch m = s.ch m := fun m => (congrArg (fun t : State => t.ch m) hframe).trans rfl
    have hbyte : ∀ {t : State} {p : Nat}, u.memBeside t p → s.memBeside t p := by
      intro t p h
      unfold State.memBeside at h
      rwa [hmem] at h
    have hatt := u.sramEffect_att r a
    refine ⟨by rw [hatt]; exact hue, by rw [hatt]; exact haddr, by rw [hatt]; exact hce, by rw [hatt]; exact hspare,
      by rw [hatt]; exact hexh, by rw [hatt]; exact hbays, fun hl hq => ?_, ?_, ?_, ?_, ?_, ?_, ?_, ?_, ?_, ?_⟩
    · rw [← hchans, ← hcells]
      exact u.sramEffect_chans a hl hq
    · rintro i x rfl
      rw [State.sramEffect_bead, State.garble_att, State.garble_img, State.garble_cel]
      exact ⟨u.markBead_marks i, himg, hcel, hbyte (State.garble_memBeside (u.markBead i) _)⟩
    · rintro i x rfl
      rw [State.sramEffect_larder, State.garble_att]
      exact ⟨hbeads, hbyte (u.garble_memBeside _)⟩
    · rintro n i rfl
      obtain ⟨hothers, hset, hbehind⟩ := u.sramEffect_stream n i a
      simp only [hch] at hothers hset hbehind
      exact ⟨hmem, hcells, hothers, hset, hbehind⟩
    · rintro w _ rfl rfl hs
      have hsound : u.memSound := by
        unfold State.memSound
        rw [hmem, himg]
        exact hs
      rw [State.sramEffect_sine]
      exact ⟨(State.resetWords_spec hsound _).1, (State.resetWords_spec hsound _).2, hbyte (State.setMemWords_memBeside rfl rfl)⟩
    · rintro k rfl
      rw [State.sramEffect_locket]
      refine ⟨?_, ?_, State.celAsk_cel_congr hcel _⟩
      · rw [State.celAsk_frame]; exact hmem
      · rw [State.celAsk_frame]; exact hcells
    · rintro n rfl
      obtain ⟨hsame, hothers, hloop⟩ := u.sramEffect_loops n a
      simp only [hch] at hothers hloop
      exact ⟨hsame.trans hmem, hothers, hloop⟩
    · rintro rfl
      refine ⟨hmem, ?_, hcel⟩
      rw [← himg]
      rfl
    · rintro i rfl
      exact ⟨hmem, himg, hcel⟩
    · rintro rfl
      exact ⟨hmem, himg, hcel, hbeads⟩

end Sys2Proof.Machine
end

section
/-! SUPPORT. The request of a migration and its grant: entries of the bays, the branches of a grant, the range held for a borrow,
and what a channel without a spare loses (R26, R331, R333, R335, R347, R349, R350). -/

namespace Sys2Proof.Machine

/-! ### Entries of the bays, and what a request leaves (R333, R349) -/

theorem State.upMig_mig_ne (s : State) {b x : Bay} (f : BayMig → BayMig) (h : x ≠ b) : (s.upMig b f).mig x = s.mig x := by
  have : b.val ≠ x.val := fun e => h (Fin.ext e.symm)
  simp [State.mig, State.upMig, this]

/-- The bays' entries stand with the attic's. -/
theorem State.mig_congr {s t : State} (h : t.att.bays = s.att.bays) (x : Bay) : t.mig x = s.mig x := by
  unfold State.mig
  rw [h]

@[simp] theorem State.upMig_cell (s : State) (b : Bay) (f : BayMig → BayMig) (k : CellIx) : (s.upMig b f).cell k = s.cell k := rfl
@[simp] theorem State.upCell_mig (s : State) (k : CellIx) (f : Cell → Cell) (b : Bay) : (s.upCell k f).mig b = s.mig b := rfl

theorem exec_attMigrate {s : State} (hs : s.serves) (n : Ch) (keep : Bool) : exec (.attMigrate n keep) s = .next (s.hostMigrate n keep) :=
  congrArg _ (s.hostAct_of _ hs.1 hs.2)

theorem State.hostMigrate_refused {s : State} {n : Ch} (h : (s.ch n).map.avail = false ∨ (s.ch n).map.member = true ∨ s.migrating n = true)
    (keep : Bool) : s.hostMigrate n keep = s.upMig (chBay n) fun m => { m with done := true, result := .refused } :=
  if_pos (by rcases h with h | h | h <;> simp [h])

theorem State.hostMigrate_asks {s : State} {n : Ch} (ha : (s.ch n).map.avail = true) (hm : (s.ch n).map.member = false)
    (hr : s.migrating n = false) (keep : Bool) : s.hostMigrate n keep = s.request { ch := n, cause := .host, keepOld := keep, cold := false } :=
  if_neg (by simp [ha, hm, hr])

theorem State.request_waits {s : State} {q : MigReq} (h : ∃ r, r ∈ s.att.requests ∧ r.ch = q.ch) : s.request q = s := by
  obtain ⟨r, hr, hc⟩ := h
  have : s.att.requests.any (fun r => r.ch == q.ch) = true := List.any_eq_true.mpr ⟨r, hr, beq_iff_eq.mpr hc⟩
  simp [State.request, this]

theorem State.request_queues {s : State} {q : MigReq} (h : ∀ r, r ∈ s.att.requests → r.ch ≠ q.ch) (hm : s.migrating q.ch = false) :
    s.request q = s.upAtt fun a => { a with requests := a.requests ++ [q] } := by
  have : s.att.requests.any (fun r => r.ch == q.ch) = false := List.any_eq_false.mpr fun r hr => by simp [h r hr]
  simp [State.request, this, hm]

/-! ### The grant of one request (R331, R335, R347, R349) -/

theorem exec_migrationGrant {s : State} (hr : s.runs) : exec .migrationGrant s = .next (if s.grantsBlocked then s else s.grants) :=
  congrArg _ (s.live_of _ hr)

theorem exec_migrationGrant_blocked {s : State} (hr : s.runs) (h : s.grantsBlocked = true) : exec .migrationGrant s = .next s := by
  rw [exec_migrationGrant hr, if_pos h]

/-- The requests of the boundary, taken from the queue. -/
def State.noRequests (s : State) : State := s.upAtt fun a => { a with requests := [] }

theorem State.grants_single {s : State} {q : MigReq} (hq : s.att.requests = [q]) (hh : s.homecomings = []) :
    s.grants = s.noRequests.tryGrant q fun b => (s.mig b).busy := by
  simp only [State.grants, hh, State.each_nil, hq]
  rfl

theorem exec_migrationGrant_single {s : State} {q : MigReq} (hr : s.runs) (hb : s.grantsBlocked = false) (hq : s.att.requests = [q])
    (hh : s.homecomings = []) : exec .migrationGrant s = .next (s.noRequests.tryGrant q fun b => (s.mig b).busy) := by
  rw [exec_migrationGrant hr, if_neg (by simp [hb]), State.grants_single hq hh]

section
variable {s : State} {q : MigReq} (hc : s.causeHolds q = true) (hb : (s.mig (chBay q.ch)).busy = false) (before : Bay → Bool)
include hc hb

theorem State.tryGrant_spare {k : CellIx} {l : List CellIx} (hs : s.spares (chBay q.ch) = k :: l)
    (hf : (s.bay (chBay q.ch)).fenced = false) : s.tryGrant q before = s.beginMig q k none := by
  simp [State.tryGrant, State.planFor, hc, hb, hs, hf]

theorem State.tryGrant_borrows {l : Bay} {g : Fin 7} {k : CellIx} {r : List CellIx} (hs : s.spares (chBay q.ch) = [])
    (hl : s.lenderFor q.ch = some (l, g)) (hk : s.spares l = k :: r) (hf : (s.mig l).busy = false) :
    s.tryGrant q before = s.beginMig q k (some (l, g)) := by
  simp [State.tryGrant, State.planFor, hc, hb, hs, hl, hk, hf]

theorem State.tryGrant_noSpare (hs : s.spares (chBay q.ch) = []) (hl : s.lenderFor q.ch = none) : s.tryGrant q before = s.noSpare q := by
  simp [State.tryGrant, State.planFor, hc, hb, hs, hl]

end

theorem State.noRequests_mig (s : State) (b : Bay) : s.noRequests.mig b = s.mig b := rfl

/-! ### A migration begins (R335, R347) -/

@[simp] theorem State.wake_att (s : State) (b : Bay) : (s.wake b).att = s.att := by rw [s.wake_frame b]
@[simp] theorem State.wake_cell (s : State) (b : Bay) (k : CellIx) : (s.wake b).cell k = s.cell k := by rw [s.wake_frame b]; rfl

/-- A bay asked to wake while it sleeps wakes. -/
theorem State.wake_asleep {s : State} {b : Bay} (h : (s.bay b).awake = false) : ((s.wake b).bay b).awake = false ∧ ((s.wake b).bay b).waking = true := by
  unfold State.wake
  split
  · next hw => exact ⟨h, by simpa [h] using hw⟩
  · rw [State.upBay_bay]
    refine ⟨?_, rfl⟩
    have hb : (s.when s.clk.pllOff State.pllsStart).bay b = s.bay b := by
      unfold State.when State.pllsStart
      repeat' split
      all_goals rfl
    rw [hb]
    exact h

/-- The migration that a request starts is cold from its start (R332). -/
def State.startsCold (s : State) (q : MigReq) : Bool := q.cold || !(s.ch (s.pins q.ch)).moves

/-- The entry of the bay whose migration begins. -/
def State.migEntry (s : State) (q : MigReq) (k : CellIx) (l : Option (Bay × Fin 7)) (m : BayMig) : BayMig :=
  { done := m.done, result := m.result, busy := true, phase := .wake, newCell := some k, oldCell := (s.ch q.ch).map.cell, ch := some q.ch,
    cause := q.cause, keepOld := q.keepOld, cold := s.startsCold q, lender := l.map (·.1), bridge := l.map (·.2), confirmed := s.cel.st == .fenced }

/-- The bay that lends is occupied. -/
def State.lends (s : State) (l : Bay) : State := s.upMig l fun m => { m with busy := true, lending := true }

/-- The lending bay and its bridge are occupied, and the channel's ranges are held from here on. -/
def State.lend (s : State) (n : Ch) (l : Bay) : State :=
  ((s.lends l).wake l).upCh n fun c => Chan.rehold { c with range := { c.range with borrow := true } }

/-- The spare's bay wakes, and the spare's comparisons start anew. -/
def State.wakeSpare (s : State) (b : Bay) (k : CellIx) : State := (s.wake b).upCell k fun x => { x with matched := false, run := 0 }

/-- A cellar that is not fenced reads the spare's locket, alone or to confirm it. -/
def State.readSpare (s : State) (cold : Bool) (b : Bay) (k : CellIx) : State :=
  if s.cel.st = .fenced then s else s.celAsk (if cold then .readLocket k false else .confirm b false)

theorem State.beginMig_own (s : State) (q : MigReq) (k : CellIx) : s.beginMig q k none =
    ((s.upMig (chBay q.ch) (s.migEntry q k none)).wakeSpare (chBay q.ch) k).readSpare (s.startsCold q) (chBay q.ch) k := rfl

theorem State.beginMig_borrowed (s : State) (q : MigReq) (k : CellIx) (l : Bay) (g : Fin 7) : s.beginMig q k (some (l, g)) =
    (((s.upMig (chBay q.ch) (s.migEntry q k (some (l, g)))).lend q.ch l).wakeSpare (chBay q.ch) k).readSpare (s.startsCold q) (chBay q.ch) k := rfl

theorem State.readSpare_frame (s : State) (cold : Bool) (b : Bay) (k : CellIx) :
    s.readSpare cold b k = { s with cel := (s.readSpare cold b k).cel } := by
  unfold State.readSpare
  split
  · rfl
  · exact s.celAsk_frame _

theorem State.readSpare_cel {s t : State} (h : t.cel = s.cel) (cold : Bool) (b : Bay) (k : CellIx) :
    (s.cel.st ≠ .fenced → (t.readSpare cold b k).cel = (s.celAsk (if cold = true then .readLocket k false else .confirm b false)).cel) ∧
    (s.cel.st = .fenced → (t.readSpare cold b k).cel = s.cel) := by
  unfold State.readSpare
  rw [h]
  refine ⟨fun hf => ?_, fun hf => ?_⟩
  · rw [if_neg hf]
    exact State.celAsk_cel_congr h _
  · rw [if_pos hf]
    exact h

@[simp] theorem State.readSpare_att (s : State) (cold : Bool) (b : Bay) (k : CellIx) : (s.readSpare cold b k).att = s.att := by
  rw [State.readSpare_frame]
@[simp] theorem State.readSpare_chans (s : State) (cold : Bool) (b : Bay) (k : CellIx) : (s.readSpare cold b k).chans = s.chans := by
  rw [State.readSpare_frame]
@[simp] theorem State.readSpare_cells (s : State) (cold : Bool) (b : Bay) (k : CellIx) : (s.readSpare cold b k).cells = s.cells := by
  rw [State.readSpare_frame]
@[simp] theorem State.readSpare_flt (s : State) (cold : Bool) (b : Bay) (k : CellIx) : (s.readSpare cold b k).flt = s.flt := by
  rw [State.readSpare_frame]
@[simp] theorem State.readSpare_bays (s : State) (cold : Bool) (b : Bay) (k : CellIx) : (s.readSpare cold b k).bays = s.bays := by
  rw [State.readSpare_frame]

/-! ### Ranges held for a borrow (R26, R27) -/

/-- The aim of V_SWITCH leaves every range that is active or asked for. -/
theorem Chan.aimV_ranges (c : Chan) : c.aimV.range.i = c.range.i ∧ c.aimV.range.v = c.range.v ∧ c.aimV.range.wantV = c.range.wantV := by
  unfold Chan.aimV
  dsimp only
  repeat' split
  all_goals exact ⟨rfl, rfl, rfl⟩

/-- A bridge carries the two lower voltage ranges. -/
theorem Chan.holdV_onBridge {c : Chan} (h : c.onBridge = true) (v : BitVec 4) : (c.holdV v).toNat ≤ 1 := by
  unfold Chan.holdV
  split
  · decide
  · next hv => simpa [h] using hv

/-- `d` is `c` but for ranging's course and the limiter's target: the active ranges stand. -/
structure Chan.Reheld (c d : Chan) : Prop where
  eq : ∃ r x, d = { c with range := r, force := { c.force with target := x } }
  i : d.range.i = c.range.i
  v : d.range.v = c.range.v

theorem Chan.Reheld.code {c d : Chan} (h : c.Reheld d) : d.force.code = c.force.code := by
  obtain ⟨r, x, hd⟩ := h.eq
  rw [hd]

theorem Chan.holdWants_reheld (c : Chan) : c.Reheld c.holdWants ∧ (c.onBridge = true → ∀ v, c.holdWants.range.wantV = some v → v.toNat ≤ 1) := by
  let d : Chan := { c with range := { c.range with
    wantV := if c.range.wantV.map c.holdV = some c.range.v then none else c.range.wantV.map c.holdV,
    wantI := if c.range.wantI.map c.holdI = some c.range.i then none else c.range.wantI.map c.holdI,
    limited := c.range.limited || c.range.wantV.map c.holdV != c.range.wantV || c.range.wantI.map c.holdI != c.range.wantI } }
  have hd : c.holdWants = d.aimV := rfl
  obtain ⟨r, x, haim⟩ := d.aimV_spec
  obtain ⟨hi, hv, hw⟩ := d.aimV_ranges
  rw [hd]
  refine ⟨⟨⟨r, x, haim⟩, hi, hv⟩, fun hb v hwant => ?_⟩
  rw [hw] at hwant
  have hheld : c.range.wantV.map c.holdV = some v := by
    by_cases h : c.range.wantV.map c.holdV = some c.range.v
    · simp [d, h] at hwant
    · simpa [d, h] using hwant
  obtain ⟨u, -, rfl⟩ := Option.map_eq_some_iff.mp hheld
  exact Chan.holdV_onBridge hb u

/-- A channel that comes to lie behind a bridge keeps its active ranges, and asks for no voltage range that a bridge does not carry. -/
theorem Chan.rehold_reheld (c : Chan) : c.Reheld c.rehold ∧ (c.onBridge = true → ∀ v, c.rehold.range.wantV = some v → v.toNat ≤ 1) := by
  obtain ⟨⟨⟨r, x, hd⟩, hi, hv⟩, hw⟩ := c.holdWants_reheld
  have hfire : ∀ e : Chan, (∃ r, e = { c.holdWants with range := r } ∧ r.i = c.holdWants.range.i ∧ r.v = c.holdWants.range.v ∧
      r.wantV = c.holdWants.range.wantV) → c.Reheld e ∧ (c.onBridge = true → ∀ v, e.range.wantV = some v → v.toNat ≤ 1) := by
    rintro _ ⟨r', rfl, hi', hv', hw'⟩
    refine ⟨⟨⟨r', x, by rw [hd]⟩, hi'.trans hi, hv'.trans hv⟩, fun hb v hwant => hw hb v (hw'.symm.trans hwant)⟩
  unfold Chan.rehold
  dsimp only
  split
  · split
    · obtain ⟨r', hsq, hv', hi', hwv, -⟩ := c.holdWants.squash_spec
      rw [hsq]
      exact hfire _ ⟨_, rfl, hi', hv', hwv⟩
    · exact hfire _ ⟨_, rfl, rfl, rfl, rfl⟩
  · exact hfire _ ⟨_, rfl, rfl, rfl, rfl⟩

/-! ### A channel opened and fenced for want of a cell (R350) -/

theorem State.endAgain_code (s : State) (n : Ch) (st : StrandState) (r : Reason) (f : RecFate) :
    ((s.endAgain n st r f).ch n).force.code = (s.ch n).force.code := by
  unfold State.endAgain
  dsimp only
  split
  · obtain ⟨-, _, _, _, _, hrec⟩ := s.settled_spec n f
    rw [State.upCh_ch]
    have hcode := congrArg (fun c : Chan => c.force.code) hrec
    exact hcode
  · rfl

theorem State.endStrand_code (s : State) (n : Ch) (st : StrandState) (r : Reason) (f : RecFate) (count : Bool) :
    ((s.endStrand n st r f count).ch n).force.code = (s.ch n).force.code := by
  unfold State.endStrand
  split
  · exact (s.endAs_ended n _).2.code
  · exact s.endAgain_code n st r f

/-- An active strand that ends for FAULT shows it, whatever end was asked for. -/
theorem State.endStrand_faulted {s : State} {n : Ch} (h : (s.ch n).strand.st.active = true) (f : RecFate) (count : Bool) :
    ((s.endStrand n .stopped .fault f count).ch n).strand.reason = .fault := by
  rw [State.endStrand_active h, Chan.strongerEnd_fault]
  exact (s.endAs_ended n _).2.reason

/-- `d` is the channel `c` fenced with its switch and its loops open, its strand over, its code held. -/
structure Chan.FencedOpen (c d : Chan) (f : ChFence) : Prop where
  map : d.map = { c.map with avail := false }
  fence : d.fence = f
  out : d.force.out = .opened
  loops : d.loop.st = .opened
  idle : d.strand.st.active = false
  code : d.force.code = c.force.code
  reason : c.strand.st.active = true → d.strand.reason = .fault

@[simp] theorem Chan.openOut_strand (c : Chan) (o : OutState) : (c.openOut o).strand = c.strand := by
  obtain ⟨m, hout⟩ := c.openOut_spec o
  obtain ⟨l, f, hopen, -⟩ := Chan.openLoops_spec { c with force := { c.force with
    out := o, closeAt := none, closeRest := false, fromRest := false, restAt := if o = OutState.graveOpen then none else c.force.restAt } }
  rw [hout, hopen]

/-- The end of the overlap and of the session that a fence brings. -/
theorem Chan.squashInterrupt_spec (c : Chan) : ∃ r m, c.squash.calInterrupt = { c with range := r, meas := m } := by
  obtain ⟨r, hsq, -⟩ := c.squash_spec
  obtain ⟨m, hcal⟩ := c.squash.calInterrupt_spec
  rw [hcal, hsq]
  exact ⟨_, _, rfl⟩

theorem State.fenceOpen_spec (s : State) (n : Ch) (f : ChFence) : (∀ j, j ≠ n → (s.fenceOpen n f).ch j = s.ch j) ∧
    (s.fenceOpen n f).att = s.att ∧ (s.ch n).FencedOpen ((s.fenceOpen n f).ch n) f := by
  let a := s.endStrand n .stopped .fault .now true
  have ha : s.strandOnly a n := s.endStrand_strandOnly n _ _ _ _
  have hb : a.pathFlt (a.openSwitch n .opened) n := a.openSwitch_flt n .opened
  have he : s.fenceOpen n f = (a.openSwitch n .opened).upCh n fun c =>
      { (c.squash.calInterrupt) with fence := f, map := { c.map with avail := false } } := rfl
  rw [he]
  refine ⟨fun j hj => ?_, ?_, ?_⟩
  · rw [State.upCh_ch_ne _ _ hj, hb.ch j hj, ha.ch j hj]
  · rw [State.upCh_att, hb.rest, ha.rest]
  · rw [State.upCh_ch, State.openSwitch_ch]
    obtain ⟨hout, hl, hcode⟩ := (a.ch n).openOut_opens .opened
    have hstrand := (a.ch n).openOut_strand .opened
    obtain ⟨r, m, hsq⟩ := ((a.ch n).openOut .opened).squashInterrupt_spec
    rw [hsq]
    refine ⟨?_, rfl, hout, hl, ?_, ?_, fun h => ?_⟩
    · dsimp only
      rw [Chan.openOut_map, ha.map]
    · exact (congrArg (fun g : StrandSt => g.st.active) hstrand).trans (s.endStrand_stops n _ _ _)
    · exact hcode.trans (s.endStrand_code n _ _ _ _)
    · exact (congrArg StrandSt.reason hstrand).trans (State.endStrand_faulted h _ _)

/-- MAP_GEN is all that a mapping change counts; it counts where the channel's mapping differs (R30). -/
theorem State.remapped_ch (s old : State) (n : Ch) : ∃ g, (s.remapped old).ch n = { s.ch n with map := { (s.ch n).map with gen := g } } ∧
    ((old.ch n).map.cell ≠ (s.ch n).map.cell → g = (old.ch n).map.gen + 1) := by
  unfold State.remapped
  rw [State.allCh_ch]
  dsimp only
  split
  · exact ⟨_, rfl, fun _ => rfl⟩
  · next h => exact ⟨_, rfl, fun hc => ((not_or.mp h).1 fun e => hc (congrArg ChMap.cell e :)).elim⟩

theorem State.remapped_frame (s old : State) : s.remapped old = { s with chans := (s.remapped old).chans } := rfl

@[simp] theorem State.remapped_att (s old : State) : (s.remapped old).att = s.att := by rw [State.remapped_frame]
@[simp] theorem State.remapped_cells (s old : State) : (s.remapped old).cells = s.cells := by rw [State.remapped_frame]
@[simp] theorem State.remapped_cell (s old : State) (k : CellIx) : (s.remapped old).cell k = s.cell k := by
  simp only [State.cell, State.remapped_cells]

/-- `t` is `s` with channel `n` opened and fenced as `f` without its cell, which is fenced. -/
structure State.Lost (s t : State) (n : Ch) (f : ChFence) : Prop where
  others : ∀ j, j ≠ n → (t.ch j).cfg = (s.ch j).cfg ∧ (t.ch j).map.cell = (s.ch j).map.cell
  own : (s.ch n).FencedOpen { t.ch n with map := { (s.ch n).map with avail := false } } f
  cell : (t.ch n).map.cell = none
  avail : (t.ch n).map.avail = false
  fenced : ∀ k, (s.ch n).map.cell = some k → (t.cell k).role = .fenced

/-- The cell that carried a channel leaves service. -/
def State.retireCell (s : State) (k : Option CellIx) : State :=
  match k with
  | some k => (s.upCell k fun x => x.retire true).upFlt fun f => f.fence (srcCell k)
  | none => s

theorem State.retireCell_ch (s : State) (k : Option CellIx) (j : Ch) : (s.retireCell k).ch j = s.ch j := by cases k <;> rfl

theorem State.retireCell_att (s : State) (k : Option CellIx) : (s.retireCell k).att = s.att := by cases k <;> rfl

theorem State.retireCell_fenced (s : State) (k : CellIx) : ((s.retireCell (some k)).cell k).role = .fenced := by
  show ((s.upCell k fun x => x.retire true).cell k).role = .fenced
  rw [State.upCell_cell]
  rfl

@[simp] theorem State.freeBridge_ch (s : State) (n j : Ch) : (s.freeBridge n).ch j = s.ch j := rfl
@[simp] theorem State.freeBridge_cell (s : State) (n : Ch) (k : CellIx) : (s.freeBridge n).cell k = s.cell k := rfl
@[simp] theorem State.freeBridge_bays (s : State) (n : Ch) : (s.freeBridge n).att.bays = s.att.bays := rfl

/-- The channel without a cell. -/
def Chan.noCell (c : Chan) : Chan := { c with map := { c.map with cell := none, bridged := false } }

theorem State.fenceNoSpare_eq (s : State) (n : Ch) (f : ChFence) : s.fenceNoSpare n f true =
    ((((s.fenceOpen n f).retireCell (s.ch n).map.cell).freeBridge n).upCh n Chan.noCell).remapped s := rfl

theorem State.fenceNoSpare_loses (s : State) (n : Ch) (f : ChFence) :
    s.Lost (s.fenceNoSpare n f true) n f ∧ (s.fenceNoSpare n f true).att.bays = s.att.bays := by
  obtain ⟨hothers, hatt, hown⟩ := s.fenceOpen_spec n f
  rw [State.fenceNoSpare_eq]
  generalize hu : (((s.fenceOpen n f).retireCell (s.ch n).map.cell).freeBridge n).upCh n Chan.noCell = u
  have hun : u.ch n = ((s.fenceOpen n f).ch n).noCell := by
    rw [← hu, State.upCh_ch, State.freeBridge_ch, State.retireCell_ch]
  have hcell : ∀ k, (s.ch n).map.cell = some k → (u.cell k).role = .fenced := by
    intro k hk
    rw [← hu, hk, State.upCh_cell, State.freeBridge_cell]
    exact State.retireCell_fenced _ k
  have hbays : u.att.bays = s.att.bays := by
    rw [← hu, State.upCh_att, State.freeBridge_bays, State.retireCell_att, hatt]
  obtain ⟨g, hg, -⟩ := u.remapped_ch s n
  rw [hun] at hg
  generalize (s.fenceOpen n f).ch n = d at hown hg
  refine ⟨⟨fun j hj => ?_, ?_, ?_, ?_, fun k hk => by rw [State.remapped_cell, hcell k hk]⟩, by rw [State.remapped_att, hbays]⟩
  · obtain ⟨g, hg, -⟩ := u.remapped_ch s j
    have huj : u.ch j = s.ch j := by
      rw [← hu, State.upCh_ch_ne _ _ hj, State.freeBridge_ch, State.retireCell_ch, hothers j hj]
    rw [hg, huj]
    exact ⟨rfl, rfl⟩
  · rw [hg]
    exact ⟨rfl, hown.fence, hown.out, hown.loops, hown.idle, hown.code, hown.reason⟩
  · rw [hg]
    rfl
  · rw [hg]
    exact congrArg ChMap.avail hown.map

/-- Neither the collector nor a bay's entry holds anything of the channel. -/
theorem State.Lost.withFlt {s t : State} {n : Ch} {f : ChFence} (h : s.Lost t n f) (x : Flt) : s.Lost { t with flt := x } n f :=
  ⟨h.others, h.own, h.cell, h.avail, h.fenced⟩

theorem State.Lost.withMig {s t : State} {n : Ch} {f : ChFence} (h : s.Lost t n f) (b : Bay) (g : BayMig → BayMig) : s.Lost (t.upMig b g) n f :=
  ⟨h.others, h.own, h.cell, h.avail, h.fenced⟩

/-- A channel lost to its failing cell: the messages and the fence behind it are the collector's. -/
theorem State.loseChannel_loses (s : State) (n : Ch) (f : ChFence) (kind : Nat) :
    s.Lost (s.loseChannel n f kind true) n f ∧ (s.loseChannel n f kind true).att.bays = s.att.bays := by
  have h : s.loseChannel n f kind true = { s.fenceNoSpare n f true with flt := (s.loseChannel n f kind true).flt } := rfl
  obtain ⟨hlost, hbays⟩ := s.fenceNoSpare_loses n f
  rw [h]
  exact ⟨hlost.withFlt _, hbays⟩

/-- Without a spare a failing cell outside a clasp costs its channel the cell (R350). -/
theorem State.noSpare_alone {s : State} {q : MigReq} (hc : q.cause = .fault) (hm : (s.ch q.ch).map.member = false) (hl : s.members q.ch = []) :
    s.noSpare q = (s.loseChannel q.ch .noCell 7 true).showResult q.ch .noSpare (s.ch q.ch).map.cell := by
  have hp : s.pins q.ch = q.ch := if_neg (by simp [hm])
  simp [State.noSpare, hc, hp, hl]

/-- Without a spare a host's migration that keeps its cell shows NO_SPARE. -/
theorem State.noSpare_kept {s : State} {q : MigReq} (hc : q.cause = .host) (hk : q.keepOld = true) :
    s.noSpare q = s.showResult q.ch .noSpare (s.ch q.ch).map.cell := by
  simp [State.noSpare, hc, hk]

/-! ### What a grant leaves (R26, R335, R347) -/

theorem State.wakeSpare_frame (s : State) (b : Bay) (k : CellIx) : s.wakeSpare b k =
    { s with bays := (s.wake b).bays, clk := (s.wake b).clk, cells := (s.wakeSpare b k).cells } := by
  have h : s.wakeSpare b k = { s.wake b with cells := (s.wakeSpare b k).cells } := rfl
  rw [h, s.wake_frame b]

@[simp] theorem State.wakeSpare_cell (s : State) (b : Bay) (k j : CellIx) :
    (s.wakeSpare b k).cell j = if j = k then { s.cell k with matched := false, run := 0 } else s.cell j := by
  rw [State.wakeSpare, State.upCell_cell_eq, State.wake_cell, State.wake_cell]

@[simp] theorem State.wakeSpare_chans (s : State) (b : Bay) (k : CellIx) : (s.wakeSpare b k).chans = s.chans := by rw [State.wakeSpare_frame]
@[simp] theorem State.wakeSpare_flt (s : State) (b : Bay) (k : CellIx) : (s.wakeSpare b k).flt = s.flt := by rw [State.wakeSpare_frame]
@[simp] theorem State.wakeSpare_att (s : State) (b : Bay) (k : CellIx) : (s.wakeSpare b k).att = s.att := by rw [State.wakeSpare_frame]
@[simp] theorem State.wakeSpare_cel (s : State) (b : Bay) (k : CellIx) : (s.wakeSpare b k).cel = s.cel := by rw [State.wakeSpare_frame]

/-- The spare of the channel's own bay: no channel moves, the entry is the bay's, and the cellar reads the locket. -/
theorem State.beginMig_own_spec (s : State) (q : MigReq) (k : CellIx) : ∃ t, s.beginMig q k none = t ∧ t.chans = s.chans ∧ t.flt = s.flt ∧
    t.att = (s.upMig (chBay q.ch) (s.migEntry q k none)).att ∧
    (∀ j, t.cell j = if j = k then { s.cell k with matched := false, run := 0 } else s.cell j) ∧
    (s.cel.st ≠ .fenced → t.cel = (s.celAsk (if s.startsCold q = true then .readLocket k false else .confirm (chBay q.ch) false)).cel) ∧
    (s.cel.st = .fenced → t.cel = s.cel) ∧
    ((s.bay (chBay q.ch)).awake = false → (t.bay (chBay q.ch)).awake = false ∧ (t.bay (chBay q.ch)).waking = true) := by
  obtain ⟨hask, hfenced⟩ := State.readSpare_cel (s := s) (t := (s.upMig (chBay q.ch) (s.migEntry q k none)).wakeSpare (chBay q.ch) k)
    (State.wakeSpare_cel _ _ _) (s.startsCold q) (chBay q.ch) k
  refine ⟨_, s.beginMig_own q k, ?_, ?_, ?_, fun j => ?_, hask, hfenced, fun h => ?_⟩
  · rw [State.readSpare_chans, State.wakeSpare_chans, State.upMig_chans]
  · rw [State.readSpare_flt, State.wakeSpare_flt, State.upMig_flt]
  · rw [State.readSpare_att, State.wakeSpare_att]
  · simp only [State.cell, State.readSpare_cells]
    exact State.wakeSpare_cell _ _ k j
  · simp only [State.bay, State.readSpare_bays]
    exact State.wake_asleep (s := s.upMig (chBay q.ch) (s.migEntry q k none)) h

@[simp] theorem State.lend_att (s : State) (n : Ch) (l : Bay) : (s.lend n l).att = (s.lends l).att := by
  rw [State.lend, State.upCh_att, State.wake_att]

@[simp] theorem State.lend_flt (s : State) (n : Ch) (l : Bay) : (s.lend n l).flt = s.flt := by
  rw [State.lend, State.upCh_flt, State.wake_flt]
  rfl

@[simp] theorem State.lends_ch (s : State) (l : Bay) (n : Ch) : (s.lends l).ch n = s.ch n := rfl

theorem State.lend_ch_ne (s : State) {n j : Ch} (l : Bay) (h : j ≠ n) : (s.lend n l).ch j = s.ch j := by
  rw [State.lend, State.upCh_ch_ne _ _ h, State.wake_ch, State.lends_ch]

@[simp] theorem State.lend_ch (s : State) (n : Ch) (l : Bay) :
    (s.lend n l).ch n = Chan.rehold { s.ch n with range := { (s.ch n).range with borrow := true } } := by
  rw [State.lend, State.upCh_ch, State.wake_ch, State.lends_ch]

/-- The spare of a neighbour: the channel's ranges are held, both bays are occupied. -/
theorem State.beginMig_borrowed_spec (s : State) (q : MigReq) (k : CellIx) {l : Bay} (g : Fin 7) (hl : l ≠ chBay q.ch) :
    ∃ t, s.beginMig q k (some (l, g)) = t ∧ (∀ j, j ≠ q.ch → t.ch j = s.ch j) ∧
    t.ch q.ch = Chan.rehold { s.ch q.ch with range := { (s.ch q.ch).range with borrow := true } } ∧ t.flt = s.flt ∧
    t.mig (chBay q.ch) = s.migEntry q k (some (l, g)) (s.mig (chBay q.ch)) ∧ (t.mig l).busy = true ∧ (t.mig l).lending = true := by
  obtain ⟨u, hu⟩ : ∃ u, s.upMig (chBay q.ch) (s.migEntry q k (some (l, g))) = u := ⟨_, rfl⟩
  obtain ⟨t, ht⟩ : ∃ t, ((u.lend q.ch l).wakeSpare (chBay q.ch) k).readSpare (s.startsCold q) (chBay q.ch) k = t := ⟨_, rfl⟩
  have hatt : t.att = (u.lends l).att := by rw [← ht, State.readSpare_att, State.wakeSpare_att, State.lend_att]
  have hmig (x : Bay) : t.mig x = (u.lends l).mig x := State.mig_congr (congrArg Att.bays hatt) x
  have hch (j : Ch) : t.ch j = (u.lend q.ch l).ch j := by
    simp only [← ht, State.ch, State.readSpare_chans, State.wakeSpare_chans]
  refine ⟨t, by rw [← ht, ← hu]; exact s.beginMig_borrowed q k l g, fun j hj => ?_, ?_, ?_, ?_, ?_, ?_⟩
  · rw [hch, State.lend_ch_ne _ _ hj, ← hu, State.upMig_ch]
  · rw [hch, State.lend_ch, ← hu, State.upMig_ch]
  · rw [← ht, State.readSpare_flt, State.wakeSpare_flt, State.lend_flt, ← hu, State.upMig_flt]
  · rw [hmig, State.lends, State.upMig_mig_ne _ _ hl.symm, ← hu, State.upMig_mig]
  · rw [hmig, State.lends, State.upMig_mig]
  · rw [hmig, State.lends, State.upMig_mig]

/-! ### MIGRATION_GRANT with one request (R331, R347, R349, R350) -/

section
variable {s : State} {q : MigReq} (hr : s.runs) (hb : s.grantsBlocked = false) (hq : s.att.requests = [q]) (hh : s.homecomings = [])
  (hc : s.causeHolds q = true) (hm : (s.mig (chBay q.ch)).busy = false)
include hr hb hq hh hc hm

theorem exec_migrationGrant_own {k : CellIx} {l : List CellIx} (hs : s.spares (chBay q.ch) = k :: l) (hf : (s.bay (chBay q.ch)).fenced = false) :
    ∃ t, exec .migrationGrant s = .next t ∧ t.chans = s.chans ∧ t.flt = s.flt ∧ t.att.requests = [] ∧
      t.mig (chBay q.ch) = s.migEntry q k none (s.mig (chBay q.ch)) ∧ (∀ x, x ≠ chBay q.ch → t.mig x = s.mig x) ∧ t.att.bridge = s.att.bridge ∧
      (∀ j, t.cell j = if j = k then { s.cell k with matched := false, run := 0 } else s.cell j) ∧
      (s.cel.st ≠ .fenced → t.cel = (s.celAsk (if s.startsCold q = true then .readLocket k false else .confirm (chBay q.ch) false)).cel) ∧
      (s.cel.st = .fenced → t.cel = s.cel) ∧
      ((s.bay (chBay q.ch)).awake = false → (t.bay (chBay q.ch)).awake = false ∧ (t.bay (chBay q.ch)).waking = true) := by
  obtain ⟨t, ht, hchans, hflt, hatt, hcell, hask, hfenced, hwake⟩ := s.noRequests.beginMig_own_spec q k
  have hmig (x : Bay) : t.mig x = (s.noRequests.upMig (chBay q.ch) (s.noRequests.migEntry q k none)).mig x :=
    State.mig_congr (congrArg Att.bays hatt) x
  refine ⟨t, ?_, hchans, hflt, by rw [hatt]; rfl, ?_, fun x hx => ?_, by rw [hatt]; rfl, hcell, fun hne => ?_, hfenced, hwake⟩
  · rw [exec_migrationGrant_single hr hb hq hh, State.tryGrant_spare (s := s.noRequests) hc hm _ hs hf, ht]
  · rw [hmig, State.upMig_mig]
    rfl
  · rw [hmig, State.upMig_mig_ne _ _ hx, State.noRequests_mig]
  · rw [hask hne]
    exact State.celAsk_cel_congr (s := s) (t := s.noRequests) rfl _

theorem exec_migrationGrant_borrowed {k : CellIx} {r : List CellIx} {l : Bay} {g : Fin 7} (hs : s.spares (chBay q.ch) = [])
    (hl : s.lenderFor q.ch = some (l, g)) (hk : s.spares l = k :: r) (hf : (s.mig l).busy = false) (hne : l ≠ chBay q.ch) :
    ∃ t, exec .migrationGrant s = .next t ∧ (∀ j, j ≠ q.ch → t.ch j = s.ch j) ∧
      t.ch q.ch = Chan.rehold { s.ch q.ch with range := { (s.ch q.ch).range with borrow := true } } ∧ t.flt = s.flt ∧
      t.mig (chBay q.ch) = s.migEntry q k (some (l, g)) (s.mig (chBay q.ch)) ∧ (t.mig l).busy = true ∧ (t.mig l).lending = true := by
  obtain ⟨t, ht, hrest⟩ := s.noRequests.beginMig_borrowed_spec q k g hne
  refine ⟨t, ?_, hrest⟩
  rw [exec_migrationGrant_single hr hb hq hh, State.tryGrant_borrows (s := s.noRequests) hc hm _ hs hl hk hf, ht]

/-- The channel of a failing cell that finds no spare, and the bay's entry that shows it. -/
theorem exec_migrationGrant_loses (hs : s.spares (chBay q.ch) = []) (hl : s.lenderFor q.ch = none) (hcause : q.cause = .fault)
    (hmem : (s.ch q.ch).map.member = false) (hmems : s.members q.ch = []) :
    ∃ t, exec .migrationGrant s = .next t ∧ s.Lost t q.ch .noCell ∧
      (t.mig (chBay q.ch)).done = true ∧ (t.mig (chBay q.ch)).result = .noSpare ∧ (t.mig (chBay q.ch)).busy = false := by
  obtain ⟨hlost, hbays⟩ := s.noRequests.loseChannel_loses q.ch .noCell 7
  have hmig : (s.noRequests.loseChannel q.ch .noCell 7 true).mig (chBay q.ch) = s.mig (chBay q.ch) := State.mig_congr hbays _
  refine ⟨(s.noRequests.loseChannel q.ch .noCell 7 true).showResult q.ch .noSpare (s.ch q.ch).map.cell, ?_, ?_, ?_⟩
  · rw [exec_migrationGrant_single hr hb hq hh, State.tryGrant_noSpare (s := s.noRequests) hc hm _ hs hl,
      State.noSpare_alone (s := s.noRequests) hcause hmem hmems]
    rfl
  · exact ⟨(hlost.withMig _ _).others, hlost.own, hlost.cell, hlost.avail, hlost.fenced⟩
  · rw [State.showResult, State.upMig_mig]
    exact ⟨rfl, rfl, (congrArg BayMig.busy hmig).trans hm⟩

end

end Sys2Proof.Machine
end

section
/-! SUPPORT. A migration under way: the mapping change, the shadow, the forced check, the swap and the end (R30, R32, R334, R338, R341,
R342, R344, R358, R412). -/

namespace Sys2Proof.Machine

/-! ### Roles and channels of the cells (R20, R32) -/

/-- Where a cell stands: its role and the channel that it drives or shadows. -/
def Cell.place (x : Cell) : Role × Option Ch := (x.role, x.channel)

theorem Cell.follow_place (x : Cell) (c : Chan) (awake : Bool) : (x.follow c awake).place = x.place := rfl
theorem Cell.followMember_place (x : Cell) (c : Chan) (awake : Bool) : (x.followMember c awake).place = x.place := rfl
theorem Cell.comparator_place (x : Cell) (w : WinId) (pow hi lo : Bool) : (x.comparator w pow hi lo).place = x.place := by cases w <;> rfl

theorem State.upCell_place (s : State) (j k : CellIx) {f : Cell → Cell} (h : ∀ x, (f x).place = x.place) :
    ((s.upCell j f).cell k).place = (s.cell k).place := by
  rw [State.upCell_cell_eq]
  split
  · next e => rw [h, e]
  · rfl

/-- Cells that show their channel keep their places. -/
theorem State.refresh_place (s : State) (n : Ch) (k : CellIx) : ((s.refresh n).cell k).place = (s.cell k).place := by
  unfold State.refresh
  dsimp only
  split
  · next j _ =>
    rw [State.each_keeps (fun t : State => (t.cell k).place) (fun j t => t.upCell j fun x => x.followMember (s.ch n) (t.bay (CellIx.bay j)).awake)
      (fun j t => t.upCell_place j k fun x => x.followMember_place _ _)]
    exact s.upCell_place j k fun x => x.follow_place _ _
  · rfl

theorem State.latchDac_place (s : State) (n : Ch) (k : CellIx) : ((s.latchDac n).cell k).place = (s.cell k).place := by
  unfold State.latchDac
  dsimp only
  split
  · exact State.each_keeps (fun t : State => (t.cell k).place) (fun j t => t.latchCell n j) (fun j t => t.upCell_place
      (f := fun x => { x with dac := (t.dacOn j (t.ch n).range.v (t.ch n).force.code).1 }) j k fun _ => rfl) _ s
  · rfl

theorem State.powerCell_place (s : State) (n : Ch) (j k : CellIx) : ((s.powerCell n j).cell k).place = (s.cell k).place :=
  s.upCell_place j k fun x => (Cell.comparator_place _ _ _ _ _).trans (x.comparator_place _ _ _ _)

/-- The latch of the DAC code shows at any channel as its saturation flag alone. -/
theorem State.latchDac_sat (s : State) (p n : Ch) : ∃ x, (s.latchDac p).ch n = { s.ch n with force := { (s.ch n).force with sat := x } } := by
  by_cases h : n = p
  · subst h
    exact ⟨_, s.latchDac_ch n⟩
  · exact ⟨(s.ch n).force.sat, (s.latchDac_path p).ch n h⟩

/-! ### The mapping change (R30, R332, R341) -/

/-- The old cell's place behind the migration: back in the attic, or out of service. -/
def State.oldRole (s : State) (m : BayMig) (k : CellIx) : Role :=
  if ((m.cause == .homecoming || (m.cause == .host && m.keepOld)) && !(s.cell k).condemned) = true then .spare else .fenced

theorem State.retireOld_frame (s : State) (m : BayMig) : s.retireOld m = { s with cells := (s.retireOld m).cells, flt := (s.retireOld m).flt } := by
  unfold State.retireOld State.when
  split
  · dsimp only
    split <;> rfl
  · rfl

theorem State.retireOld_cell {s : State} {m : BayMig} {k : CellIx} (h : m.oldCell = some k) : (s.retireOld m).cell k =
    (s.cell k).retire (!((m.cause == .homecoming || (m.cause == .host && m.keepOld)) && !(s.cell k).condemned)) := by
  have hflt (t : State) (c : Bool) (f : Flt → Flt) : (t.when c fun s => s.upFlt f).cell k = t.cell k := by cases c <;> rfl
  simp only [State.retireOld, h]
  rw [hflt, State.upCell_cell]

theorem State.retireOld_role {s : State} {m : BayMig} {k : CellIx} (h : m.oldCell = some k) : ((s.retireOld m).cell k).role = s.oldRole m k := by
  rw [State.retireOld_cell h, State.oldRole]
  cases ((m.cause == .homecoming || (m.cause == .host && m.keepOld)) && !(s.cell k).condemned) <;> rfl

@[simp] theorem State.retireOld_ch (s : State) (m : BayMig) (j : Ch) : (s.retireOld m).ch j = s.ch j := by
  rw [State.retireOld_frame]
  rfl

@[simp] theorem State.retireOld_att (s : State) (m : BayMig) : (s.retireOld m).att = s.att := by rw [State.retireOld_frame]
@[simp] theorem State.retireOld_time (s : State) (m : BayMig) : (s.retireOld m).time = s.time := by rw [State.retireOld_frame]

/-- The channel over its new cell. -/
def Chan.onCell (c : Chan) (m : BayMig) (k : CellIx) : Chan :=
  let d := { c with map := { c.map with cell := some k, bridged := m.lender.isSome } }
  if m.lender.isSome then d.rehold else d

/-- `d` is the channel `c` moved to cell `k`, over a bridge where `borrowed` holds: every level, code, range and register where it was. -/
structure Chan.Moved (c d : Chan) (k : CellIx) (borrowed : Bool) : Prop where
  map : d.map = { c.map with cell := some k, bridged := borrowed, gen := d.map.gen }
  rest : ∃ r f m, d = { c with map := d.map, range := r, force := f, meas := m }
  i : d.range.i = c.range.i
  v : d.range.v = c.range.v
  force : d.force = { c.force with target := d.force.target, sat := d.force.sat }
  kept : borrowed = false → d.range = c.range ∧ d.force.target = c.force.target

theorem Chan.onCell_moved (c : Chan) (m : BayMig) (k : CellIx) : c.Moved (c.onCell m k) k m.lender.isSome := by
  unfold Chan.onCell
  dsimp only
  split
  · next hb =>
    obtain ⟨⟨⟨r, x, h⟩, hi, hv⟩, -⟩ := ({ c with map := { c.map with cell := some k, bridged := m.lender.isSome } } : Chan).rehold_reheld
    rw [h] at hi hv ⊢
    exact ⟨rfl, ⟨_, _, _, rfl⟩, hi, hv, rfl, fun hn => absurd hb (by simp [hn])⟩
  · exact ⟨rfl, ⟨_, _, _, rfl⟩, rfl, rfl, rfl, fun _ => ⟨rfl, rfl⟩⟩

section
variable {c d : Chan} {k : CellIx} {borrowed : Bool} (h : c.Moved d k borrowed)
include h

theorem Chan.Moved.code : d.force.code = c.force.code := by rw [h.force]
theorem Chan.Moved.out : d.force.out = c.force.out := by rw [h.force]
theorem Chan.Moved.cell : d.map.cell = some k := by rw [h.map]
theorem Chan.Moved.avail : d.map.avail = c.map.avail := by rw [h.map]

/-- What the move leaves beside mapping, ranging, force path and measuring. -/
theorem Chan.Moved.beside : d.decl = c.decl ∧ d.cfg = c.cfg ∧ d.loop = c.loop ∧ d.strand = c.strand := by
  obtain ⟨r, f, m, hd⟩ := h.rest
  rw [hd]
  exact ⟨rfl, rfl, rfl, rfl⟩

/-- The end of a calibration session, the count of the mapping and the DAC's saturation leave a moved channel where it is. -/
theorem Chan.Moved.withMeas (m : MeasSt) : c.Moved { d with meas := m } k borrowed := by
  obtain ⟨r, f, m', hd⟩ := h.rest
  exact ⟨h.map, ⟨r, f, m, by rw [hd]⟩, h.i, h.v, h.force, h.kept⟩

theorem Chan.Moved.withGen (g : BitVec 8) : c.Moved { d with map := { d.map with gen := g } } k borrowed := by
  obtain ⟨r, f, m', hd⟩ := h.rest
  refine ⟨?_, ⟨r, f, m', by rw [hd]⟩, h.i, h.v, h.force, h.kept⟩
  dsimp only
  rw [h.map]

theorem Chan.Moved.withSat (x : Bool) : c.Moved { d with force := { d.force with sat := x } } k borrowed := by
  obtain ⟨r, f, m', hd⟩ := h.rest
  refine ⟨h.map, ⟨r, { f with sat := x }, m', by rw [hd]⟩, h.i, h.v, ?_, h.kept⟩
  dsimp only
  rw [h.force]

end

/-- The bridge of a borrowed cell carries the channel. -/
def State.takeBridge (s : State) (g : Option (Fin 7)) (n : Ch) : State :=
  match g with
  | some g => s.upAtt fun a => { a with bridge := a.bridge.set g.val (some n) }
  | none => s

theorem State.takeBridge_frame (s : State) (g : Option (Fin 7)) (n : Ch) :
    s.takeBridge g n = { s with att := { s.att with bridge := (s.takeBridge g n).att.bridge } } := by cases g <;> rfl

/-- The new cell in its role. -/
def State.carry (s : State) (m : BayMig) (n : Ch) (k : CellIx) : State :=
  s.upCell k fun x => { x with role := if (s.ch n).map.member then .member else .active, channel := some (s.pins n), viaBridge := m.lender.isSome,
                               awake := true }

theorem State.installNew_eq (s : State) (m : BayMig) (n : Ch) (k : CellIx) :
    s.installNew m n k = ((s.carry m n k).takeBridge m.bridge n).upCh n fun c => c.onCell m k := rfl

theorem State.installNew_ch (s : State) (m : BayMig) (n : Ch) (k : CellIx) : (s.installNew m n k).ch n = (s.ch n).onCell m k := by
  rw [State.installNew_eq, State.upCh_ch, State.takeBridge_frame]
  rfl

theorem State.installNew_att (s : State) (m : BayMig) (n : Ch) (k : CellIx) :
    (s.installNew m n k).att = { s.att with bridge := (s.installNew m n k).att.bridge } := by
  rw [State.installNew_eq, State.upCh_att, State.takeBridge_frame]
  rfl

theorem State.installNew_time (s : State) (m : BayMig) (n : Ch) (k : CellIx) : (s.installNew m n k).time = s.time := by
  rw [State.installNew_eq, State.upCh_time, State.takeBridge_frame]
  rfl

theorem State.installNew_cell (s : State) (m : BayMig) (n : Ch) (k j : CellIx) : (s.installNew m n k).cell j = (s.carry m n k).cell j := by
  rw [State.installNew_eq, State.upCh_cell, State.takeBridge_frame]
  rfl

theorem State.carry_place (s : State) (m : BayMig) (n : Ch) (k : CellIx) :
    ((s.carry m n k).cell k).place = (if (s.ch n).map.member then .member else .active, some (s.pins n)) := by
  rw [State.carry, State.upCell_cell]
  rfl

/-- A channel whose session ends behind a mapping change. -/
theorem State.upCh_calInterrupt (s : State) (p n : Ch) : ∃ m, (s.upCh p fun c => c.calInterrupt).ch n = { s.ch n with meas := m } := by
  by_cases h : n = p
  · subst h
    rw [State.upCh_ch]
    exact (s.ch n).calInterrupt_spec
  · exact ⟨(s.ch n).meas, s.upCh_ch_ne _ h⟩

/-- The cells exchanged and the channel over its new one; the session of its pins ends (R194). -/
def State.exchange (s : State) (m : BayMig) (n : Ch) (k : CellIx) : State :=
  let u := ((s.retireOld m).freeBridge n).installNew m n k
  u.upCh (u.pins n) fun c => c.calInterrupt

theorem State.remapMig_eq {s : State} {b : Bay} {n : Ch} {k : CellIx} (hn : (s.mig b).ch = some n) (hk : (s.mig b).newCell = some k) :
    ∃ p, s.remapMig b = (((s.exchange (s.mig b) n k).remapped s).latchDac p).refresh p := by
  unfold State.remapMig
  dsimp only
  rw [hn, hk]
  exact ⟨_, rfl⟩

/-- `t` is `s` with channel `n` moved to cell `k` by the migration `m`. -/
structure State.Remapped (s t : State) (m : BayMig) (n : Ch) (k : CellIx) : Prop where
  ch : (s.ch n).Moved (t.ch n) k m.lender.isSome
  gen : (s.ch n).map.cell ≠ some k → (t.ch n).map.gen = (s.ch n).map.gen + 1
  att : t.att = { s.att with bridge := t.att.bridge }
  time : t.time = s.time
  new : (t.cell k).place = (if (s.ch n).map.member then .member else .active, some (s.pins n))
  old : ∀ k', m.oldCell = some k' → k' ≠ k → (t.cell k').role = s.oldRole m k'

theorem State.exchange_spec (s : State) (m : BayMig) (n : Ch) (k : CellIx) : (s.ch n).Moved ((s.exchange m n k).ch n) k m.lender.isSome ∧
    (s.exchange m n k).att = { s.att with bridge := (s.exchange m n k).att.bridge } ∧ (s.exchange m n k).time = s.time ∧
    ((s.exchange m n k).cell k).place = (if (s.ch n).map.member then .member else .active, some (s.pins n)) ∧
    ∀ k', m.oldCell = some k' → k' ≠ k → ((s.exchange m n k).cell k').role = s.oldRole m k' := by
  obtain ⟨u, hu⟩ : ∃ u, (s.retireOld m).freeBridge n = u := ⟨_, rfl⟩
  have huch (j : Ch) : u.ch j = s.ch j := by rw [← hu, State.freeBridge_ch, State.retireOld_ch]
  have hpins : u.pins n = s.pins n := by simp only [State.pins, State.lead, huch]
  have hex : s.exchange m n k = (u.installNew m n k).upCh ((u.installNew m n k).pins n) fun c => c.calInterrupt := by rw [← hu]; rfl
  rw [hex]
  refine ⟨?_, ?_, ?_, ?_, fun k' hk' hne => ?_⟩
  · obtain ⟨m', hm'⟩ := (u.installNew m n k).upCh_calInterrupt ((u.installNew m n k).pins n) n
    rw [hm', State.installNew_ch, huch]
    exact ((s.ch n).onCell_moved m k).withMeas m'
  · rw [State.upCh_att, State.installNew_att, ← hu]
    simp only [State.freeBridge, State.upAtt, State.retireOld_att]
  · rw [State.upCh_time, State.installNew_time, ← hu]
    exact s.retireOld_time m
  · rw [State.upCh_cell, State.installNew_cell, State.carry_place, huch, hpins]
  · rw [State.upCh_cell, State.installNew_cell, State.carry, State.upCell_cell_ne _ _ hne, ← hu, State.freeBridge_cell,
      State.retireOld_role hk']

/-- The mapping change, by its parts: the exchange, the count, and what the cells show. -/
theorem State.remapMig_spec {s : State} {b : Bay} {n : Ch} {k : CellIx} (hn : (s.mig b).ch = some n) (hk : (s.mig b).newCell = some k) :
    s.Remapped (s.remapMig b) (s.mig b) n k := by
  obtain ⟨p, hp⟩ := State.remapMig_eq hn hk
  obtain ⟨hmoved, hatt, htime, hnew, hold⟩ := s.exchange_spec (s.mig b) n k
  generalize s.exchange (s.mig b) n k = u at *
  obtain ⟨g, hg, hgen⟩ := u.remapped_ch s n
  obtain ⟨x, hx⟩ := (u.remapped s).latchDac_sat p n
  have hch : (s.remapMig b).ch n = { u.ch n with map := { (u.ch n).map with gen := g }, force := { (u.ch n).force with sat := x } } := by
    rw [hp, State.refresh_ch, hx, hg]
  have hplace (j : CellIx) : ((s.remapMig b).cell j).place = (u.cell j).place := by
    rw [hp, State.refresh_place, State.latchDac_place, State.remapped_cell]
  have hrest : s.remapMig b = { u with chans := (s.remapMig b).chans, cells := (s.remapMig b).cells } := by
    rw [hp, (State.refresh_path _ p).rest, (State.latchDac_path _ p).rest]
    rfl
  refine ⟨?_, fun hc => ?_, ?_, ?_, (hplace k).trans hnew, fun k' hk' hne => ?_⟩
  · rw [hch]
    exact (hmoved.withGen g).withSat x
  · rw [hch]
    refine hgen fun e => hc (e.trans ?_)
    rw [hmoved.map]
  · rw [hrest]
    exact hatt
  · rw [hrest]
    exact htime
  · exact (congrArg Prod.fst (hplace k')).trans (hold k' hk' hne)

/-! ### The end of a migration (R342, R358, R412) -/

/-- The channel is no longer held for a borrow. -/
def Chan.noBorrow (c : Chan) : Chan := { c with range := { c.range with borrow := false } }

theorem State.endBorrow_of {s : State} {b : Bay} {n : Ch} (h : (s.mig b).ch = some n) : s.endBorrow b = s.upCh n Chan.noBorrow := by
  unfold State.endBorrow
  rw [h]
  rfl

/-- A lending bay is free again. -/
def State.freeLender (s : State) (l : Option Bay) : State :=
  match l with
  | some l => s.upMig l fun m => { m with busy := false, lending := false }
  | none => s

theorem State.freeLender_frame (s : State) (l : Option Bay) :
    s.freeLender l = { s with att := { s.att with bays := (s.freeLender l).att.bays } } := by cases l <;> rfl

/-- A lender may be any bay: whose migration a bay shows stands all the same. -/
theorem State.freeLender_mig_ch (s : State) (l : Option Bay) (x : Bay) : ((s.freeLender l).mig x).ch = (s.mig x).ch := by
  cases l with
  | none => rfl
  | some l =>
    by_cases h : x = l
    · subst h
      rw [State.freeLender, State.upMig_mig]
    · rw [State.freeLender, State.upMig_mig_ne _ _ h]

@[simp] theorem State.freeLender_ch (s : State) (l : Option Bay) (j : Ch) : (s.freeLender l).ch j = s.ch j := by rw [State.freeLender_frame]; rfl

theorem State.freeMig_eq (s : State) (b : Bay) (r : MigResult) : s.freeMig b r = ((s.freeLender (s.mig b).lender).endBorrow b).upMig b fun m =>
    { m with busy := false, done := true, phase := .idle, result := r, ch := none, lender := none, bridge := none } := rfl

/-- `t` is `s` with the migration of channel `n` in bay `b` over: the entry shows `r`, and no borrow holds the channel. -/
structure State.Freed (s t : State) (b : Bay) (n : Ch) (r : MigResult) : Prop where
  rest : t = { s with chans := t.chans, att := { s.att with bays := t.att.bays } }
  others : ∀ j, j ≠ n → t.ch j = s.ch j
  ch : t.ch n = (s.ch n).noBorrow
  busy : (t.mig b).busy = false
  done : (t.mig b).done = true
  result : (t.mig b).result = r
  phase : (t.mig b).phase = .idle

theorem State.freeMig_frees {s : State} {b : Bay} {n : Ch} (h : (s.mig b).ch = some n) (r : MigResult) : s.Freed (s.freeMig b r) b n r := by
  have hend : s.freeMig b r = ((s.freeLender (s.mig b).lender).upCh n Chan.noBorrow).upMig b fun m =>
      { m with busy := false, done := true, phase := .idle, result := r, ch := none, lender := none, bridge := none } := by
    rw [State.freeMig_eq, State.endBorrow_of ((s.freeLender_mig_ch _ b).trans h)]
  rw [hend]
  refine ⟨?_, fun j hj => ?_, ?_, ?_, ?_, ?_, ?_⟩
  · rw [State.freeLender_frame]
    rfl
  · rw [State.upMig_ch, State.upCh_ch_ne _ _ hj, State.freeLender_ch]
  · rw [State.upMig_ch, State.upCh_ch, State.freeLender_ch]
  all_goals rw [State.upMig_mig]

/-- The migration counted and entered in the history. -/
def State.countMig (s : State) (b : Bay) (r : MigResult) : State :=
  s.upAtt fun a => { a with migrations := satInc a.migrations, history := a.history ++ [s.historyEntry b r (r == .cold)] }

theorem State.countMig_history (s : State) (b : Bay) (r : MigResult) :
    (s.countMig b r).att.history.length = s.att.history.length + 1 := List.length_append

theorem State.completeMig_eq (s : State) (b : Bay) (r : MigResult) : s.completeMig b r =
    ((s.countMig b r).post srcAttic (if r = .cold then 1 else if (s.mig b).cause = .homecoming then 3 else 0) (s.mig b).addr).freeMig b r := rfl

theorem State.completeMig_frees {s : State} {b : Bay} {n : Ch} (h : (s.mig b).ch = some n) (r : MigResult) :
    ((s.countMig b r).post srcAttic (if r = .cold then 1 else if (s.mig b).cause = .homecoming then 3 else 0) (s.mig b).addr).Freed
      (s.completeMig b r) b n r := by
  rw [State.completeMig_eq]
  exact State.freeMig_frees (s := (s.countMig b r).post _ _ _) h r

theorem exec_migrationEnd_drains {s : State} {b : Bay} {n : Ch} (hr : s.runs) (hm : (s.mig b).runs = true) (hp : (s.mig b).phase = .drain)
    (hn : (s.mig b).ch = some n) : exec (.migrationEnd b) s = .next
      (if (s.ch (s.pins n)).drains (s.mig b) then s else s.completeMig b .ok) := by
  refine congrArg _ ((s.live_of _ hr).trans ?_)
  simp only [hm, hp, hn, beq_self_eq_true, Bool.and_self]

/-! ### SHADOW_AWAKE (R334, R335) -/

/-- Only a migration in WAKE hears of its spare. -/
theorem exec_shadowAwake_idle {s : State} {b : Bay} (hr : s.runs) (h : (s.mig b).runs = false ∨ (s.mig b).phase ≠ .wake) :
    exec (.shadowAwake b) s = .next s := by
  refine congrArg _ ((s.live_of _ hr).trans ?_)
  have hw : ((s.mig b).runs && (s.mig b).phase == .wake) = false := by
    rcases h with h | h
    · rw [h, Bool.false_and]
    · rw [beq_eq_false_iff_ne.mpr h, Bool.and_false]
  simp only [hw]

/-- The spare as a shadow of the channel, FORCE_CHECK begun. -/
def State.shadow (s : State) (b : Bay) (n : Ch) (k : CellIx) : State :=
  let u := s.upCell k fun x => { x with role := .shadow, channel := some (s.pins n), awake := true, run := 0, matched := false }
  ((u.upMig b fun m => { m with phase := .forceCheck, periods := 0, failed := false, sinceVI := u.time }).shadowFollow (u.pins n) k).powerCell
    (u.pins n) k

theorem exec_shadowAwake_wakes {s : State} {b : Bay} {n : Ch} {k : CellIx} (hr : s.runs) (hm : (s.mig b).runs = true)
    (hp : (s.mig b).phase = .wake) (hn : (s.mig b).ch = some n) (hk : (s.mig b).newCell = some k) : exec (.shadowAwake b) s = .next
      (if (s.bay (CellIx.bay k)).awake = false then s else if s.coldNow (s.mig b) n then s.coldMig b else s.shadow b n k) := by
  refine congrArg _ ((s.live_of _ hr).trans ?_)
  simp only [hm, hp, hn, hk, beq_self_eq_true, Bool.and_self, State.spareAwake, Bool.not_eq_true', State.shadow]

theorem State.shadow_spec (s : State) (b : Bay) (n : Ch) (k : CellIx) : (s.shadow b n k).chans = s.chans ∧ (s.shadow b n k).flt = s.flt ∧
    ((s.shadow b n k).cell k).role = .shadow ∧ ((s.shadow b n k).cell k).channel = some (s.pins n) ∧ ((s.shadow b n k).cell k).awake = true ∧
    (∀ j, j ≠ k → (s.shadow b n k).cell j = s.cell j) ∧
    (s.shadow b n k).mig b = { s.mig b with phase := .forceCheck, periods := 0, failed := false, sinceVI := s.time } ∧
    ∀ x, x ≠ b → (s.shadow b n k).mig x = s.mig x := by
  have hcell : ∀ j, (s.shadow b n k).cell j = if j = k then (s.shadow b n k).cell k else s.cell j := by
    intro j
    split
    · next h => rw [h]
    · next h =>
      simp only [State.shadow, State.powerCell, State.shadowFollow]
      rw [State.upCell_cell_ne _ _ h, State.upCell_cell_ne _ _ h, State.upMig_cell, State.upCell_cell_ne _ _ h]
  have hown : ((s.shadow b n k).cell k).role = .shadow ∧ ((s.shadow b n k).cell k).channel = some (s.pins n) ∧
      ((s.shadow b n k).cell k).awake = true := by
    simp only [State.shadow, State.powerCell, State.shadowFollow, State.upCell_cell, State.upMig_cell]
    exact ⟨rfl, rfl, rfl⟩
  have hmig : ∀ x, (s.shadow b n k).mig x =
      (s.upMig b fun m => { m with phase := .forceCheck, periods := 0, failed := false, sinceVI := s.time }).mig x := fun x => rfl
  refine ⟨rfl, rfl, hown.1, hown.2.1, hown.2.2, fun j hj => ?_, ?_, fun x hx => ?_⟩
  · rw [hcell, if_neg hj]
  · rw [hmig, State.upMig_mig]
  · rw [hmig, State.upMig_mig_ne _ _ hx]

/-! ### A cold migration (R334, R382) -/

/-- The channel is available where the image enables it, and no longer fenced. -/
def Chan.available (c : Chan) : Chan := { c with map := { c.map with avail := c.decl.enabled }, fence := .none }

/-- The channel made available; the fence of one that waited without a cell is lifted. -/
def State.makeAvailable (s : State) (n : Ch) (waited : Bool) : State :=
  (s.upCh n Chan.available).when waited fun s => s.upFlt fun f => f.unfence (srcCh n)

theorem State.makeAvailable_frame (s : State) (n : Ch) (waited : Bool) :
    s.makeAvailable n waited = { s.upCh n Chan.available with flt := (s.makeAvailable n waited).flt } := by cases waited <;> rfl

theorem State.coldMig_eq {s : State} {b : Bay} {n : Ch} {k : CellIx} (hn : (s.mig b).ch = some n) (hk : (s.mig b).newCell = some k) :
    ∃ p w, s.coldMig b = (((s.remapMig b).powerCell p k).makeAvailable n w).completeMig b .cold := by
  unfold State.coldMig
  dsimp only
  rw [hn, hk]
  exact ⟨_, _, rfl⟩

/-- What a cold migration leaves: the channel moved and available, the migration counted and over. -/
structure State.MovedCold (s t : State) (b : Bay) (n : Ch) (k : CellIx) : Prop where
  ch : ∃ d, (s.ch n).Moved d k (s.mig b).lender.isSome ∧ ((s.ch n).map.cell ≠ some k → d.map.gen = (s.ch n).map.gen + 1) ∧
    t.ch n = d.available.noBorrow
  busy : (t.mig b).busy = false
  done : (t.mig b).done = true
  result : (t.mig b).result = .cold
  counted : t.att.migrations = satInc s.att.migrations
  history : t.att.history.length = s.att.history.length + 1
  role : (t.cell k).role = if (s.ch n).map.member then .member else .active

theorem State.coldMig_moves {s : State} {b : Bay} {n : Ch} {k : CellIx} (hn : (s.mig b).ch = some n) (hk : (s.mig b).newCell = some k) :
    s.MovedCold (s.coldMig b) b n k := by
  obtain ⟨p, w, he⟩ := State.coldMig_eq hn hk
  have hmap := State.remapMig_spec hn hk
  obtain ⟨u, hu⟩ : ∃ u, ((s.remapMig b).powerCell p k).makeAvailable n w = u := ⟨_, rfl⟩
  have hatt : u.att = { s.att with bridge := u.att.bridge } := by
    rw [← hu, State.makeAvailable_frame]
    exact hmap.att
  have hch : u.ch n = ((s.remapMig b).ch n).available := by
    rw [← hu, State.makeAvailable_frame]
    exact State.upCh_ch _ n _
  have hplace : (u.cell k).place = ((s.remapMig b).cell k).place := by
    rw [← hu, State.makeAvailable_frame]
    exact State.powerCell_place _ p k k
  have hmig : u.mig b = s.mig b := State.mig_congr ((congrArg Att.bays hatt).trans rfl) b
  have hfreed := State.completeMig_frees (hmig ▸ hn : (u.mig b).ch = some n) .cold
  rw [he, hu]
  refine ⟨⟨_, hmap.ch, hmap.gen, ?_⟩, hfreed.busy, hfreed.done, hfreed.result, ?_, ?_, ?_⟩
  · rw [hfreed.ch, ← hch]
    rfl
  · rw [hfreed.rest]
    show satInc u.att.migrations = _
    rw [hatt]
  · rw [hfreed.rest]
    refine (u.countMig_history b .cold).trans ?_
    rw [hatt]
  · rw [hfreed.rest]
    exact congrArg Prod.fst (hplace.trans hmap.new)

/-! ### FORCE_CHECK_END and the swap (R338, R341, R344) -/

theorem exec_forceCheckEnd_passes {s : State} {b : Bay} {k : CellIx} (hr : s.runs) (hm : (s.mig b).runs = true) (hp : (s.mig b).phase = .forceCheck)
    (hk : (s.mig b).newCell = some k) (hrun : 64 ≤ (s.cell k).run.toNat) (hc : (s.mig b).confirmed = true) (hf : (s.mig b).failed = false)
    (hl : (s.cell k).locketSt = .nominal → s.att.useNominal = true) : exec (.forceCheckEnd b) s = .next
      ((s.upCell k fun x => { x with matched := true }).upMig b fun m => { m with phase := .mirror, sinceOvl := s.time }) := by
  have hfails : s.locketFails (s.mig b) k = false := by
    by_cases h : (s.cell k).locketSt = .nominal
    · simp [State.locketFails, hl h]
    · simp [State.locketFails, h]
  refine congrArg _ ((s.live_of _ hr).trans ?_)
  simp only [hk, hm, hp, hc, hf, hrun, hfails]
  rfl

theorem exec_forceCheckEnd_waits {s : State} {b : Bay} {k : CellIx} (hr : s.runs) (hk : (s.mig b).newCell = some k)
    (h : (s.cell k).run.toNat < 64 ∨ (s.mig b).confirmed = false ∨ (s.mig b).failed = true) : exec (.forceCheckEnd b) s = .next s := by
  refine congrArg _ ((s.live_of _ hr).trans ?_)
  simp only [hk]
  refine if_neg fun hpass => ?_
  simp only [Bool.and_eq_true, decide_eq_true_eq, Bool.not_eq_true'] at hpass
  obtain ⟨⟨⟨⟨-, hf⟩, hc⟩, hrun⟩, -⟩ := hpass
  rcases h with h | h | h
  · omega
  · simp [hc] at h
  · simp [hf] at h

theorem exec_migrationSwap_mirror {s : State} {b : Bay} {n : Ch} (hr : s.runs) (hm : (s.mig b).runs = true) (hp : (s.mig b).phase = .mirror)
    (hn : (s.mig b).ch = some n) (hc : s.coldNow (s.mig b) n = false) : exec (.migrationSwap b) s = .next
      (if s.swapDue (s.mig b) n then (s.remapMig b).upMig b fun m => { m with phase := .swap, periods := 0, swapAt := s.time } else s) := by
  refine congrArg _ ((s.live_of _ hr).trans ?_)
  simp [hm, hp, hn, hc]

end Sys2Proof.Machine
end

section
/-! SUPPORT. A rejected spare and the request tried again, and the obligation on migrations (R75, R339). -/

namespace Sys2Proof.Machine

/-! ### A rejected spare (R339) -/

theorem exec_spareReject_none {s : State} {b : Bay} {k : CellIx} (hr : s.runs) (hk : (s.mig b).newCell = some k)
    (h : s.rejectReason (s.mig b) k = none) : exec (.spareReject b) s = .next s := by
  refine congrArg _ ((s.live_of _ hr).trans ?_)
  simp only [hk, h]

theorem exec_spareReject_some {s : State} {b : Bay} {k : CellIx} {r : Nat} (hr : s.runs) (hk : (s.mig b).newCell = some k)
    (h : s.rejectReason (s.mig b) k = some r) : exec (.spareReject b) s = .next (s.rejectSpare b (some r)) := by
  refine congrArg _ ((s.live_of _ hr).trans ?_)
  simp only [hk, h]

/-- The request with which a rejected migration goes on. -/
def BayMig.again (m : BayMig) (n : Ch) : MigReq := { ch := n, cause := m.cause, keepOld := m.keepOld, cold := m.cold }

/-- A spare that a shadow's comparison, its locket or its time refused: out of service until it is admitted again. -/
def Cell.reject (x : Cell) : Cell := { x.retire true with rejected := true }

/-- `t` is `s` with the spare `k` of bay `b`'s migration fenced, rejected and counted, and the bay's entry free. -/
structure State.Rejected (s t : State) (b : Bay) (n : Ch) (k : CellIx) : Prop where
  rest : t = { s with chans := t.chans, cells := t.cells, att := t.att, flt := t.flt }
  att : t.att = { s.att with rejects := satInc s.att.rejects, bays := t.att.bays }
  ch : t.ch n = (s.ch n).noBorrow
  others : ∀ j, j ≠ n → t.ch j = s.ch j
  cell : t.cell k = (s.cell k).reject
  cells : ∀ j, j ≠ k → t.cell j = s.cell j
  busy : (t.mig b).busy = false
  migs : ∀ x, x ≠ b → t.mig x = s.mig x

/-- The spare fenced and counted. -/
def State.rejectCell (s : State) (k : CellIx) : State :=
  ((s.upCell k Cell.reject).upFlt fun f => f.fence (srcCell k)).upAtt fun a => { a with rejects := satInc a.rejects }

/-- The bay's entry free, no borrow holds the channel. -/
def State.freeEntry (s : State) (b : Bay) (n : Ch) : State :=
  (s.upCh n Chan.noBorrow).upMig b fun x => { x with busy := false, phase := .idle, ch := none, newCell := none, lender := none, bridge := none }

theorem State.freeEntry_frame (s : State) (b : Bay) (n : Ch) : s.freeEntry b n =
    { s.upCh n Chan.noBorrow with att := { s.att with bays := (s.freeEntry b n).att.bays } } := rfl

theorem State.dropSpare_rejected (s : State) (b : Bay) (n : Ch) (k : CellIx) (src : BitVec 10) (kind addr : Nat) :
    s.Rejected (((s.post src kind addr).rejectCell k).freeEntry b n) b n k := by
  obtain ⟨u, hu⟩ : ∃ u, (s.post src kind addr).rejectCell k = u := ⟨_, rfl⟩
  have hframe : u = { s.upCell k Cell.reject with att := { s.att with rejects := satInc s.att.rejects }, flt := u.flt } := by
    rw [← hu]
    rfl
  have hch (j : Ch) : u.ch j = s.ch j := by rw [hframe]; rfl
  have hcell (j : CellIx) : u.cell j = (s.upCell k Cell.reject).cell j := by rw [hframe]; rfl
  have hmig (x : Bay) : u.mig x = s.mig x := by rw [hframe]; rfl
  rw [hu]
  refine ⟨?_, ?_, ?_, fun j hj => ?_, ?_, fun j hj => ?_, ?_, fun y hy => ?_⟩
  · rw [State.freeEntry_frame, hframe]
    rfl
  · rw [State.freeEntry_frame, hframe]
  · rw [State.freeEntry, State.upMig_ch, State.upCh_ch, hch]
  · rw [State.freeEntry, State.upMig_ch, State.upCh_ch_ne _ _ hj, hch]
  · rw [State.freeEntry, State.upMig_cell, State.upCh_cell, hcell, State.upCell_cell]
  · rw [State.freeEntry, State.upMig_cell, State.upCh_cell, hcell, State.upCell_cell_ne _ _ hj]
  · rw [State.freeEntry, State.upMig_mig]
  · rw [State.freeEntry, State.upMig_mig_ne _ _ hy, State.upCh_mig, hmig]

theorem State.rejectSpare_eq {s : State} {b : Bay} {n : Ch} {k : CellIx} (hn : (s.mig b).ch = some n) (hk : (s.mig b).newCell = some k)
    (hl : (s.mig b).lender = none) (r : Nat) :
    ∃ u, s.rejectSpare b (some r) = u.resumeMig ((s.mig b).again n) none (s.mig b).bridge ∧ s.Rejected u b n k := by
  refine ⟨_, ?_, s.dropSpare_rejected b n k (srcCell k) 0xD (0x0B * 2 ^ 24 + (s.pins n).val * 2 ^ 16 + r)⟩
  unfold State.rejectSpare
  simp only [hk, hn, hl]
  rw [State.endBorrow_of (n := n)]
  · rfl
  · exact hn

section
variable {s t : State} {b : Bay} {n : Ch} {k : CellIx}

theorem State.taken_eq (s : State) (j : CellIx) : s.taken j = allBayIxs.any fun x => (s.mig x).runs && (s.mig x).newCell == some j := rfl

/-- The spare of a running migration is taken. -/
theorem State.taken_of_runs (hm : (s.mig b).runs = true) (hk : (s.mig b).newCell = some k) : s.taken k = true := by
  rw [State.taken_eq]
  exact List.any_eq_true.mpr ⟨b, List.mem_finRange b, by simp [hm, hk]⟩

/-- The migration that gives its spare up had taken no other cell. -/
theorem State.Rejected.taken (h : s.Rejected t b n k) (hk : (s.mig b).newCell = some k) {j : CellIx} (hj : j ≠ k) : t.taken j = s.taken j := by
  simp only [State.taken_eq]
  congr 1
  funext x
  by_cases hx : x = b
  · have hfree : (t.mig b).runs = false := by simp [BayMig.runs, h.busy]
    have hother : (s.mig b).newCell ≠ some j := by simp [hk, Ne.symm hj]
    rw [hx, hfree, beq_eq_false_iff_ne.mpr hother, Bool.false_and, Bool.and_false]
  · rw [h.migs x hx]

/-- A rejection leaves the eligible spares of every bay: the spare given up was taken before and is fenced behind. -/
theorem State.Rejected.spares (h : s.Rejected t b n k) (hm : (s.mig b).runs = true) (hk : (s.mig b).newCell = some k) (x : Bay) :
    t.spares x = s.spares x := by
  refine List.filter_congr fun j _ => ?_
  by_cases hj : j = k
  · have hgone : (t.cell k).eligible t.att.useNominal = false := by rw [h.cell]; rfl
    rw [hj, hgone, State.taken_of_runs hm hk, Bool.false_and, Bool.not_true, Bool.and_false]
  · rw [h.cells j hj, h.taken hk hj, h.att]

/-- A request that is no re-admission and no homecoming holds for an enabled channel with a cell, unfenced and not migrating. -/
theorem State.causeHolds_of {q : MigReq} (hm : s.migrating q.ch = false) (hc : (s.ch q.ch).map.cell ≠ none)
    (he : (s.ch q.ch).decl.enabled = true) (hf : (s.ch q.ch).fence = .none) (h1 : q.cause ≠ .readmit) (h2 : q.cause ≠ .homecoming) :
    s.causeHolds q = true := by
  simp [State.causeHolds, hm, Option.isSome_iff_ne_none.mpr hc, he, hf, h1, h2]

theorem State.Rejected.migrating (h : s.Rejected t b n k) (hb : b = chBay n) : t.migrating n = false := by
  subst hb
  simp [State.migrating, BayMig.runs, h.busy]

theorem State.Rejected.causeHolds (h : s.Rejected t b n k) (hb : b = chBay n) (hc : (s.ch n).map.cell ≠ none) (he : (s.ch n).decl.enabled = true)
    (hf : (s.ch n).fence = .none) (h1 : (s.mig b).cause ≠ .readmit) (h2 : (s.mig b).cause ≠ .homecoming) :
    t.causeHolds ((s.mig b).again n) = true := by
  refine State.causeHolds_of (h.migrating hb) ?_ ?_ ?_ h1 h2
  all_goals
    show _
    rw [BayMig.again, h.ch]
    assumption

theorem State.Rejected.mapLoads (h : s.Rejected t b n k) : t.mapLoads = s.mapLoads := by rw [h.rest]; rfl

theorem State.Rejected.bay (h : s.Rejected t b n k) (x : Bay) : t.bay x = s.bay x := by rw [h.rest]; rfl

end

/-! ### How a migration goes on (R75, R339) -/

theorem State.lenderFor_none {s : State} {n : Ch} (h : (s.ch n).mayBorrow = false) : s.lenderFor n = none := by
  simp [State.lenderFor, h]

section
variable {s : State} {q : MigReq} (hc : s.causeHolds q = true)
include hc

/-- A spare of its own bay serves a resumed migration, also while a load runs. -/
theorem State.resumeMig_spare {k : CellIx} {l : List CellIx} (hb : (s.mig (chBay q.ch)).busy = false) (hs : s.spares (chBay q.ch) = k :: l)
    (hf : (s.bay (chBay q.ch)).fenced = false) (lender : Option Bay) (g : Option (Fin 7)) : s.resumeMig q lender g = s.beginMig q k none := by
  cases hl : s.mapLoads with
  | false =>
    rw [← State.tryGrant_spare hc hb (fun _ => true) hs hf]
    simp [State.resumeMig, hl]
  | true => simp [State.resumeMig, hl, hc, hs]

theorem State.resumeMig_noSpare (hb : (s.mig (chBay q.ch)).busy = false) (hs : s.spares (chBay q.ch) = []) (hn : s.lenderFor q.ch = none)
    (hl : s.mapLoads = false) (lender : Option Bay) (g : Option (Fin 7)) : s.resumeMig q lender g = s.noSpare q := by
  rw [← State.tryGrant_noSpare hc hb (fun _ => true) hs hn]
  simp [State.resumeMig, hl]

/-- Without a spare the request waits for the end of the load. -/
theorem State.resumeMig_waits (hs : s.spares (chBay q.ch) = []) (hl : s.mapLoads = true) (g : Option (Fin 7)) :
    s.resumeMig q none g = s.request q := by
  simp [State.resumeMig, hl, hc, hs]

end

/-! ### What each phase's command leaves (R334, R338, R339, R341, R342) -/

section
variable {s : State} {b : Bay} {n : Ch} {k : CellIx} (hr : s.runs) (hm : (s.mig b).runs = true) (hn : (s.mig b).ch = some n)
  (hk : (s.mig b).newCell = some k)
include hr hm hn hk

theorem exec_shadowAwake_cold (hp : (s.mig b).phase = .wake) (hb : (s.bay (CellIx.bay k)).awake = true) (hc : s.coldNow (s.mig b) n = true)
    (hne : (s.ch n).map.cell ≠ some k) : ∃ t, exec (.shadowAwake b) s = .next t ∧ (t.ch n).map.cell = some k ∧
      (t.ch n).map.avail = (s.ch n).decl.enabled ∧ (t.ch n).map.gen = (s.ch n).map.gen + 1 ∧ (t.ch n).fence = .none ∧
      (t.ch n).force.code = (s.ch n).force.code ∧ (t.ch n).force.out = (s.ch n).force.out ∧ (t.ch n).loop = (s.ch n).loop ∧
      (t.ch n).cfg = (s.ch n).cfg ∧ (t.mig b).busy = false ∧ (t.mig b).done = true ∧ (t.mig b).result = .cold ∧
      t.att.migrations = satInc s.att.migrations ∧ t.att.history.length = s.att.history.length + 1 ∧
      (t.cell k).role = (if (s.ch n).map.member then .member else .active) := by
  have hcold := State.coldMig_moves hn hk
  obtain ⟨d, hmoved, hgen, hch⟩ := hcold.ch
  obtain ⟨hdecl, hcfg, hloop, -⟩ := hmoved.beside
  refine ⟨s.coldMig b, ?_, ?_⟩
  · rw [exec_shadowAwake_wakes hr hm hp hn hk, if_neg (by simp [hb]), if_pos hc]
  · rw [hch]
    exact ⟨hmoved.cell, congrArg ChDecl.enabled hdecl, hgen hne, rfl, hmoved.code, hmoved.out, hloop, hcfg, hcold.busy, hcold.done, hcold.result,
      hcold.counted, hcold.history, hcold.role⟩

theorem exec_migrationSwap_swaps (hp : (s.mig b).phase = .mirror) (hc : s.coldNow (s.mig b) n = false) (hd : s.swapDue (s.mig b) n = true) :
    ∃ t, exec (.migrationSwap b) s = .next t ∧ s.Remapped (s.remapMig b) (s.mig b) n k ∧ t.ch n = (s.remapMig b).ch n ∧
      (∀ j, t.cell j = (s.remapMig b).cell j) ∧ t.mig b = { s.mig b with phase := .swap, periods := 0, swapAt := s.time } := by
  have hmap := State.remapMig_spec hn hk
  refine ⟨_, (exec_migrationSwap_mirror hr hm hp hn hc).trans (congrArg _ (if_pos hd)), hmap, rfl, fun _ => rfl, ?_⟩
  rw [State.upMig_mig, State.mig_congr ((congrArg Att.bays hmap.att).trans rfl)]

section
variable {r : Nat} (hrej : s.rejectReason (s.mig b) k = some r) (hl : (s.mig b).lender = none) (hb : b = chBay n)
  (hc : (s.ch n).map.cell ≠ none) (he : (s.ch n).decl.enabled = true) (hf : (s.ch n).fence = .none) (h1 : (s.mig b).cause ≠ .readmit)
  (h2 : (s.mig b).cause ≠ .homecoming)
include hrej hl hb hc he hf h1 h2

/-- A rejected spare leaves a request that holds, in a bay without a migration and with the spares that it had. -/
theorem exec_spareReject_resumes : ∃ u, exec (.spareReject b) s = .next (u.resumeMig ((s.mig b).again n) none (s.mig b).bridge) ∧
    s.Rejected u b n k ∧ u.causeHolds ((s.mig b).again n) = true ∧ ∀ x, u.spares x = s.spares x := by
  obtain ⟨u, hu, hrejected⟩ := State.rejectSpare_eq hn hk hl r
  exact ⟨u, by rw [exec_spareReject_some hr hk hrej, hu], hrejected, hrejected.causeHolds hb hc he hf h1 h2, hrejected.spares hm hk⟩

theorem exec_spareReject_next {k' : CellIx} {l : List CellIx} (hs : s.spares b = k' :: l) (hfb : (s.bay b).fenced = false) :
    ∃ t, exec (.spareReject b) s = .next t ∧ (∀ j, j ≠ n → t.ch j = s.ch j) ∧ t.ch n = (s.ch n).noBorrow ∧
      (t.cell k).role = .fenced ∧ (t.cell k).rejected = true ∧ (t.cell k).switchOn = false ∧ (t.mig b).busy = true ∧
      (t.mig b).phase = .wake ∧ (t.mig b).newCell = some k' ∧ (t.mig b).ch = some n ∧ (t.mig b).oldCell = (s.ch n).map.cell ∧
      t.att.rejects = satInc s.att.rejects ∧ ∀ j, j ≠ k → j ≠ k' → t.cell j = s.cell j := by
  obtain ⟨u, hu, hrejected, hholds, hspares⟩ := exec_spareReject_resumes hr hm hn hk hrej hl hb hc he hf h1 h2
  subst hb
  obtain ⟨t, ht, hchans, -, hatt, hcell, -⟩ := u.beginMig_own_spec ((s.mig (chBay n)).again n) k'
  have hch (j : Ch) : t.ch j = u.ch j := by simp only [State.ch, hchans]
  have hmig : t.mig (chBay n) = u.migEntry ((s.mig (chBay n)).again n) k' none (u.mig (chBay n)) := by
    rw [State.mig_congr (congrArg Att.bays hatt)]
    exact u.upMig_mig _ _
  have hk' : ∃ x y, t.cell k = { (s.cell k).reject with matched := x, run := y } := by
    rw [hcell]
    split
    · next h => rw [← h, hrejected.cell]; exact ⟨_, _, rfl⟩
    · rw [hrejected.cell]; exact ⟨_, _, rfl⟩
  obtain ⟨x, y, hxy⟩ := hk'
  refine ⟨t, ?_, fun j hj => (hch j).trans (hrejected.others j hj), (hch n).trans hrejected.ch, ?_, ?_, ?_, ?_, ?_, ?_, ?_, ?_, ?_,
    fun j hj hj' => ?_⟩
  · rw [hu, State.resumeMig_spare hholds hrejected.busy ((hspares _).trans hs) ((congrArg BaySt.fenced (hrejected.bay _)).trans hfb), ht]
  iterate 3 rw [hxy]; rfl
  iterate 4 rw [hmig]; rfl
  · rw [hmig]
    show (u.ch n).map.cell = _
    rw [hrejected.ch]
    rfl
  · rw [hatt]
    exact (congrArg Att.rejects hrejected.att).trans rfl
  · rw [hcell, if_neg hj', hrejected.cells j hj]

theorem exec_spareReject_ends (hs : s.spares b = []) (hmay : (s.ch n).mayBorrow = false) (hcause : (s.mig b).cause = .host)
    (hkeep : (s.mig b).keepOld = true) (hload : s.mapLoads = false) : ∃ t, exec (.spareReject b) s = .next t ∧ (∀ j, j ≠ n → t.ch j = s.ch j) ∧
      (t.cell k).role = .fenced ∧ (t.cell k).rejected = true ∧ (t.mig b).busy = false ∧ (t.mig b).result = .noSpare ∧ (t.mig b).done = true ∧
      t.att.rejects = satInc s.att.rejects ∧ ∀ j, j ≠ k → t.cell j = s.cell j := by
  obtain ⟨u, hu, hrejected, hholds, hspares⟩ := exec_spareReject_resumes hr hm hn hk hrej hl hb hc he hf h1 h2
  subst hb
  have hlender : u.lenderFor n = none := State.lenderFor_none (by rw [hrejected.ch]; exact hmay)
  refine ⟨u.showResult n .noSpare (u.ch n).map.cell, ?_, hrejected.others, ?_, ?_, ?_, ?_, ?_, ?_, hrejected.cells⟩
  · rw [hu, State.resumeMig_noSpare hholds hrejected.busy ((hspares _).trans hs) hlender (hrejected.mapLoads.trans hload),
      State.noSpare_kept hcause hkeep]
    rfl
  · exact congrArg Cell.role hrejected.cell
  · exact congrArg Cell.rejected hrejected.cell
  · rw [State.showResult, State.upMig_mig]
    exact hrejected.busy
  · rw [State.showResult, State.upMig_mig]
  · rw [State.showResult, State.upMig_mig]
  · exact (congrArg Att.rejects hrejected.att).trans rfl

theorem exec_spareReject_waits (hs : s.spares b = []) (hload : s.mapLoads = true) (hq : ∀ q, q ∈ s.att.requests → q.ch ≠ n) :
    ∃ t, exec (.spareReject b) s = .next t ∧ (t.mig b).busy = false ∧ t.att.requests = s.att.requests ++ [(s.mig b).again n] ∧
      t.att.bridge = s.att.bridge := by
  obtain ⟨u, hu, hrejected, hholds, hspares⟩ := exec_spareReject_resumes hr hm hn hk hrej hl hb hc he hf h1 h2
  have hreq : u.att.requests = s.att.requests := (congrArg Att.requests hrejected.att).trans rfl
  have hwaits := State.request_queues (s := u) (q := (s.mig b).again n) (by rw [hreq]; exact hq) (hrejected.migrating hb)
  have hresume := (State.resumeMig_waits hholds ((hspares _).trans (hb ▸ hs)) (hrejected.mapLoads.trans hload) (s.mig b).bridge).trans hwaits
  refine ⟨_, hu.trans (congrArg _ hresume), hrejected.busy, ?_, (congrArg Att.bridge hrejected.att).trans rfl⟩
  rw [← hreq]
  rfl

end

end

theorem exec_migrationEnd_completes {s : State} {b : Bay} {n : Ch} (hr : s.runs) (hm : (s.mig b).runs = true) (hn : (s.mig b).ch = some n)
    (hp : (s.mig b).phase = .drain) (hd : (s.ch (s.pins n)).drains (s.mig b) = false) :
    ∃ t, exec (.migrationEnd b) s = .next t ∧ (∀ j, j ≠ n → t.ch j = s.ch j) ∧ t.ch n = (s.ch n).noBorrow ∧ t.cells = s.cells ∧
      (t.mig b).busy = false ∧ (t.mig b).done = true ∧ (t.mig b).result = .ok ∧ (t.mig b).phase = .idle ∧
      t.att.migrations = satInc s.att.migrations ∧ t.att.history.length = s.att.history.length + 1 ∧
      t.flt = (s.post srcAttic (if (s.mig b).cause = .homecoming then 3 else 0) (s.mig b).addr).flt := by
  have hfreed := State.completeMig_frees hn .ok
  refine ⟨s.completeMig b .ok, ?_, hfreed.others, hfreed.ch, ?_, hfreed.busy, hfreed.done, hfreed.result, hfreed.phase, ?_, ?_, ?_⟩
  · rw [exec_migrationEnd_drains hr hm hp hn, if_neg (by simp [hd])]
  · rw [hfreed.rest]
    rfl
  · rw [hfreed.rest]
    rfl
  · rw [hfreed.rest]
    exact s.countMig_history b .ok
  · rw [hfreed.rest]
    exact s.upAtt_post_flt _ _ _ _

/-- Settles O50: the request by what holds of its channel, the grant by the spares that there are, a running migration by its phase. -/
theorem migrationsRunFromRequestToEnd : Obligations.MigrationsRunFromRequestToEnd := by
  rintro n b s _ rfl rfl
  refine ⟨fun hs keep => ⟨fun h => ?_, fun ha hm hr => ⟨fun hq => ?_, fun hq => ?_⟩⟩, exec_migrationGrant_blocked, ?_,
    exec_shadowAwake_idle, fun hr hm hn k hk => ⟨fun hp => ⟨fun hb => ?_, fun hb hc => ?_, fun hb hc hne _ =>
      exec_shadowAwake_cold hr hm hn hk hp hb hc hne⟩,
      fun hp => ⟨fun hrun hc hf hl => ?_, exec_forceCheckEnd_waits hr hk⟩,
      ⟨fun r hrej hl => ⟨fun k' l hs hfb hc he hf h1 h2 => exec_spareReject_next hr hm hn hk hrej hl rfl hc he hf h1 h2 hs hfb,
        fun hs hmay hc he hf hcause hkeep hload => exec_spareReject_ends hr hm hn hk hrej hl rfl hc he hf (by simp [hcause]) (by simp [hcause])
          hs hmay hcause hkeep hload,
        fun hs hc he hf h1 h2 => exec_spareReject_waits hr hm hn hk hrej hl rfl hc he hf h1 h2 hs⟩, exec_spareReject_none hr hk⟩,
      fun hp => ⟨fun hc hd => ?_, fun hc hd hne ho => ?_⟩,
      fun hp => ⟨fun hd => ?_, exec_migrationEnd_completes hr hm hn hp⟩⟩⟩
  · exact ⟨_, (exec_attMigrate hs n keep).trans (congrArg _ (State.hostMigrate_refused h keep)), rfl, s.upMig_mig _ _,
      fun x hx => s.upMig_mig_ne _ hx, rfl, rfl⟩
  · rw [exec_attMigrate hs, State.hostMigrate_asks ha hm hr, State.request_waits hq]
  · rw [exec_attMigrate hs, State.hostMigrate_asks ha hm hr, State.request_queues hq hr]
    rfl
  · rintro hr hb q hq hh rfl hc hm
    refine ⟨fun k l hs hf => ?_, fun l g k r hs hl hk hf hne => ?_, fun hs hl hcause hmem hmems => ?_⟩
    · obtain ⟨t, ht, hchans, hflt, hreq, hown, hothers, hbridge, hcell, hask, hfenced, hwake⟩ := exec_migrationGrant_own hr hb hq hh hc hm hs hf
      refine ⟨t, ht, hchans, hflt, hreq, ?_⟩
      rw [hown]
      exact ⟨rfl, rfl, rfl, rfl, rfl, rfl, rfl, hothers, hbridge, hcell, rfl, hask, hfenced, rfl, hwake⟩
    · obtain ⟨t, ht, hothers, hch, hflt, hown, hlends⟩ := exec_migrationGrant_borrowed hr hb hq hh hc hm hs hl hk hf hne
      obtain ⟨hheld, hwant⟩ := ({ s.ch q.ch with range := { (s.ch q.ch).range with borrow := true } } : Chan).rehold_reheld
      refine ⟨t, ht, hothers, hch, ?_⟩
      rw [hch, hown]
      exact ⟨hheld.i, hheld.v, hwant (Bool.or_true _), hheld.code, hflt, rfl, rfl, rfl, rfl, rfl, rfl, hlends⟩
    · obtain ⟨t, ht, hlost, hdone, hresult, hbusy⟩ := exec_migrationGrant_loses hr hb hq hh hc hm hs hl hcause hmem hmems
      exact ⟨t, ht, hlost.others, hlost.cell, hlost.avail, hlost.own.fence, hlost.own.out, hlost.own.loops, hlost.own.idle, hlost.own.code,
        hdone, hresult, hbusy, fun h _ => hlost.own.reason h, hlost.fenced⟩
  · rw [exec_shadowAwake_wakes hr hm hp hn hk, if_pos hb]
  · refine ⟨_, ?_, s.shadow_spec (chBay n) n k⟩
    rw [exec_shadowAwake_wakes hr hm hp hn hk, if_neg (by simp [hb]), if_neg (by simp [hc])]
  · refine ⟨_, exec_forceCheckEnd_passes hr hm hp hk hrun hc hf hl, rfl, ?_, fun x hx => ?_, fun j => ?_, rfl⟩
    · rw [State.upMig_mig, State.upCell_mig]
    · rw [State.upMig_mig_ne _ _ hx, State.upCell_mig]
    · rw [State.upMig_cell, State.upCell_cell_eq]
  · rw [exec_migrationSwap_mirror hr hm hp hn hc, if_neg (by simp [hd])]
  · obtain ⟨t, ht, hmap, hch, hcell, hmig⟩ := exec_migrationSwap_swaps hr hm hn hk hp hc hd
    obtain ⟨-, hcfg, hloop, hstrand⟩ := hmap.ch.beside
    have hnew : (t.cell k).place = (if (s.ch n).map.member then .member else .active, some (s.pins n)) := by rw [hcell, hmap.new]
    refine ⟨t, ht, ?_⟩
    rw [hch, hmig]
    have hkept (hl : (s.mig (chBay n)).lender = none) := hmap.ch.kept (congrArg Option.isSome hl)
    exact ⟨hmap.ch.cell, hmap.gen hne, hmap.ch.avail, hmap.ch.code, fun hl => (hkept hl).2, hmap.ch.out, hloop, fun hl => (hkept hl).1, hmap.ch.i,
      hmap.ch.v, hstrand, hcfg, rfl, rfl, (Bool.and_eq_true_iff.mp hm).1, congrArg Prod.fst hnew, congrArg Prod.snd hnew,
      fun k' hk' => (congrArg Cell.role (hcell k')).trans (hmap.old k' hk' fun e => ho (hk'.trans (congrArg some e)))⟩
  · rw [exec_migrationEnd_drains hr hm hp hn, if_pos hd]

end Sys2Proof.Machine
end

section
/-! SUPPORT. The Grave latch: no command but a power-on reset clears it, and what a host write does while it holds (R377, R381, R426, R512). -/

namespace Sys2Proof.Machine

/-! ### The commands that are not the logic's own (R377, R512, R553) -/

theorem State.softReset_atGrave {s : State} (source : BitVec 2) (jtag : Jtag) (h : s.flt.grave = true) : s.softReset source jtag = s := if_pos h

theorem State.endStep_grave (s : State) : s.endStep.flt.grave = s.flt.grave := by
  unfold State.endStep
  split <;> rfl

theorem State.live_grave {s : State} (f : State → State) (h : s.flt.grave = true) (hf : (f s).flt.grave = true) : (s.live f).flt.grave = true := by
  unfold State.live
  split
  · exact h
  · exact hf

/-- Start-up is work of the logic behind the release itself, which takes the coffer alone. -/
theorem State.release_grave {s : State} (b : BootIn) (h : s.flt.grave = true) : (s.release b).flt.grave = true := by
  unfold State.release
  dsimp only
  split
  · exact h
  · next e _ =>
    have hd (r : State) : Keeps r (r.detected e) := State.detected_keeps (Keeps.refl r) e
    split
    · exact (State.bootNext_keeps (State.lockHeld_keeps (State.lockHeld_keeps (State.lockAcquired_keeps
        (State.lockAcquired_keeps (hd _) .a) .b) .a) .b)).grave h
    · exact (hd _).grave h

theorem State.regAccess_grave {s : State} (write : Bool) (a : Addr) (v : Word) (h : s.flt.grave = true) :
    (s.regAccess write a v).flt.grave = true := by
  unfold State.regAccess
  split
  · exact (State.landWord_keeps (Keeps.refl s) a v true).grave h
  · exact (State.readSide_keeps (Keeps.refl s) a).grave h

theorem State.loadIr_pinsOpen_grave {s : State} (i : JtagIr) (h : s.flt.grave = true) : ((s.loadIr i).live State.pinsOpen).flt.grave = true :=
  (State.live_keeps (Keeps.refl (s.loadIr i)) _ State.pinsOpen_keeps).grave h

/-- Every command but the two power-on resets leaves the latch set. -/
theorem exec_keeps_grave (c : Instr) {s : State} (h : s.flt.grave = true) (hp : c ≠ .powerOnReset) (ha : c ≠ .alwaysOnPowerOnReset) :
    ∃ t, exec c s = .next t ∧ t.flt.grave = true := by
  cases hc : isLogic c with
  | true =>
    obtain ⟨t, e, hk⟩ := exec_keeps c s hc
    exact ⟨t, e, hk.grave h⟩
  | false =>
    cases c
    case powerOnReset => exact absurd rfl hp
    case alwaysOnPowerOnReset => exact absurd rfl ha
    case resetNAssert => exact ⟨_, rfl, by rw [State.softReset_atGrave _ _ h]; exact h⟩
    case chipReset => exact ⟨_, rfl, by rw [State.softReset_atGrave (s := s.loadIr .chipReset) _ _ h]; exact h⟩
    case timeStepEnd => exact ⟨_, rfl, State.live_grave _ h (s.endStep_grave.trans h)⟩
    case resetRelease b =>
      refine ⟨_, rfl, ?_⟩
      split
      · exact State.release_grave b h
      · exact h
    case extest => exact ⟨_, rfl, State.loadIr_pinsOpen_grave _ h⟩
    case clamp => exact ⟨_, rfl, State.loadIr_pinsOpen_grave _ h⟩
    case highz => exact ⟨_, rfl, State.loadIr_pinsOpen_grave _ h⟩
    case samplePreload => exact ⟨_, rfl, h⟩
    case idcode => exact ⟨_, rfl, h⟩
    case bypass => exact ⟨_, rfl, h⟩
    case factoryTest testen => exact ⟨_, rfl, h⟩
    case testenLow => exact ⟨_, rfl, h⟩
    case regAccess write a v =>
      refine ⟨_, rfl, ?_⟩
      split
      · exact State.live_grave (s := s.loadIr .regAccess) _ h (State.regAccess_grave write a v h)
      · exact h
    all_goals exact absurd (show false = true from hc.symm) Bool.false_ne_true

/-- Settles O5: the logic's own commands keep the latch, the soft resets do nothing while it holds, and the test access port leaves the
collector to the logic. -/
theorem onlyAPowerOnResetClearsTheGraveLatch : Obligations.OnlyAPowerOnResetClearsTheGraveLatch := by
  intro c s t he hg hp ha
  obtain ⟨u, hu, hgu⟩ := exec_keeps_grave c hg hp ha
  cases he.symm.trans hu
  exact hgu

/-! ### Host writes at Grave (R377, R426) -/

theorem State.hostAct_atGrave {s : State} (f : State → State) (h : s.flt.grave = true) : s.hostAct f = s := by
  simp [State.hostAct, State.live, h]

theorem State.pageWrite_atGrave {s : State} (b : Bay) (a : Addr) (w : Word) (f : State → State) (h : s.flt.grave = true) :
    s.pageWrite b a w f = s := State.hostAct_atGrave _ h

theorem exec_hostWrite_atGrave {s : State} {c : Instr} (h : s.flt.grave = true) (hc : (pageChannel c).isSome ∨ blockWrite c = true) :
    exec c s = .next s := by
  rcases hc with hc | hc
  · obtain ⟨n, hn⟩ := Option.isSome_iff_exists.mp hc
    obtain ⟨a, w, f, e⟩ := exec_pageWrite c n s hn
    rw [e, State.pageWrite_atGrave _ _ _ _ h]
  · obtain ⟨f, e⟩ := exec_hostAct c s hc
    rw [e, State.hostAct_atGrave _ h]

theorem State.landWord_atGrave {s : State} {a : Addr} (v : Word) (jtag : Bool) (h : s.flt.grave = true) (ha : graveServes a = false) :
    s.landWord a v jtag = s := by
  unfold State.landWord
  rw [ha]
  split
  · rfl
  · exact State.hostAct_atGrave _ h

/-! ### Re-admission is decided and refused (R377, R381) -/

/-- The registers of a re-admission with result `r`, before its effect. -/
def State.readmitted (s : State) (v : Word) (r : ReadmitResult) : State :=
  s.upFlt fun f => { f with readmitDone := true, readmitRes := r, readmitUnit := v.extractLsb' 24 4, readmitIndex := v.extractLsb' 0 10 }

theorem exec_fltReadmit_runs {s : State} (v : Word) (hr : s.runs) :
    exec (.fltReadmit v) s = .next (s.readmit v) := congrArg _ (s.live_of _ hr)

theorem State.readmit_refused {s : State} {v : Word} (h : v.getLsbD 31 = true) (hr : s.readmitResult v ≠ .ok) :
    s.readmit v = s.readmitted v (s.readmitResult v) := by
  unfold State.readmit
  rw [if_pos h]
  dsimp only
  split
  · next hk _ => exact absurd hk hr
  · rfl

theorem State.readmitResult_atGrave {s : State} (v : Word) (h : s.flt.grave = true) : s.readmitResult v = .grave := if_pos h

/-- Settles O8: each host write passes a gate that the latch shuts; a re-admission shows its refusal in the collector's registers. -/
theorem graveIgnoresHostWrites : Obligations.GraveIgnoresHostWrites := by
  intro s hr hg
  refine ⟨fun c hc => exec_hostWrite_atGrave hg hc, fun a v ha => ?_, fun v hv => ?_⟩
  · have hs : graveServes a = false := by simpa [graveServes] using ha
    rw [exec_registerWrite_runs a v hr, State.landWord_atGrave v false hg hs]
  · have hres := State.readmitResult_atGrave v hg
    refine ⟨_, exec_fltReadmit_runs v hr, ?_⟩
    rw [State.readmit_refused hv (by rw [hres]; decide), hres]
    exact ⟨rfl, rfl, rfl, hg⟩

end Sys2Proof.Machine
end

section
/-! SUPPORT. The test access port: the pins that it samples and holds open, and its register path (R392, R446, R553). -/

namespace Sys2Proof.Machine

/-! ### The boundary register (R446) -/

theorem bit_le_one (b : Bool) : bit b ≤ 1 := by cases b <;> decide

theorem decide_bit (b : Bool) : decide (bit b = 1) = b := by cases b <;> rfl

/-- A word of eight pins, of which the first and the last two stand alone. -/
theorem pinWord_getLsbD (a x y : Bool) {m : Nat} (hm : m % 2 = 0) (h : m < 64) :
    (BitVec.ofNat 8 (bit a + m + 64 * bit x + 128 * bit y)).getLsbD 0 = a ∧
    (BitVec.ofNat 8 (bit a + m + 64 * bit x + 128 * bit y)).getLsbD 6 = x ∧
    (BitVec.ofNat 8 (bit a + m + 64 * bit x + 128 * bit y)).getLsbD 7 = y := by
  have ha := bit_le_one a
  have hx := bit_le_one x
  have hy := bit_le_one y
  have hv : ∀ (i : Nat) (b : Bool), i < 8 → ((bit a + m + 64 * bit x + 128 * bit y) / 2 ^ i % 2 = bit b) →
      (BitVec.ofNat 8 (bit a + m + 64 * bit x + 128 * bit y)).getLsbD i = b := fun i b hi e => by
    rw [BitVec.getLsbD_ofNat, Nat.testBit_eq_decide_div_mod_eq, e, decide_bit, decide_eq_true hi, Bool.true_and]
  exact ⟨hv 0 a (by decide) (by omega), hv 6 x (by decide) (by omega), hv 7 y (by decide) (by omega)⟩

theorem State.pinLevels_getLsbD (s : State) : s.pinLevels.getLsbD 0 = s.flt.alive ∧ s.pinLevels.getLsbD 6 = s.clk.pllA.lockPin ∧
    s.pinLevels.getLsbD 7 = s.clk.pllB.lockPin := by
  have h0 := bit_le_one (s.marks.any fun m => m.1 == 0)
  have h1 := bit_le_one (s.marks.any fun m => m.1 == 1)
  have h2 := bit_le_one (s.marks.any fun m => m.1 == 2)
  have h3 := bit_le_one (s.marks.any fun m => m.1 == 3)
  have hd := bit_le_one s.host.drove
  obtain ⟨m, hm⟩ : ∃ m, (List.finRange 4).foldl (fun a x => a + bit (s.marks.any fun m => m.1 == x) * 2 ^ (x.val + 1)) 0 + 32 * bit s.host.drove = m :=
    ⟨_, rfl⟩
  have hs : bit (s.marks.any fun m => m.1 == 0) * 2 + bit (s.marks.any fun m => m.1 == 1) * 4 + bit (s.marks.any fun m => m.1 == 2) * 8 +
      bit (s.marks.any fun m => m.1 == 3) * 16 + 32 * bit s.host.drove = m := by
    rw [← hm]
    simp [List.finRange_succ]
  have hp : s.pinLevels = BitVec.ofNat 8 (bit s.flt.alive + m + 64 * bit s.clk.pllA.lockPin + 128 * bit s.clk.pllB.lockPin) := by
    rw [← hm, ← Nat.add_assoc (bit s.flt.alive)]
    rfl
  rw [hp]
  exact pinWord_getLsbD _ _ _ (by omega) (by omega)

/-- A LOCK pin is low without a reference, and in a commit until LOCKED. -/
theorem Pll.lockPin_eq (l : Pll) : l.lockPin = (l.refOk && (l.phase != .committing || l.locked)) := by
  simp [Pll.lockPin, bne]

/-! ### The register path (R392) -/

theorem exec_regAccess_locked {s : State} (w : Bool) (a : Addr) (v : Word) (h : s.jtag.factory = false) :
    exec (.regAccess w a v) s = .next (s.loadIr .bypass) := congrArg _ (if_neg (by simp [h]))

theorem exec_regAccess_factory {s : State} (w : Bool) (a : Addr) (v : Word) (h : s.jtag.factory = true) (hr : s.runs) :
    exec (.regAccess w a v) s = .next ((s.loadIr .regAccess).regAccess w a v) :=
  congrArg _ ((if_pos h).trans (State.live_of (s.loadIr .regAccess) _ hr))

/-! ### The pins that an instruction holds open (R553) -/

/-- What EXTEST, CLAMP and HIGHZ do to a channel. -/
def Chan.pinOpen (c : Chan) : Chan := match c.force.out with
  | .closed | .closing | .resting | .restHold | .hold => c.openOut .opened
  | _ => c.openLoops

def State.pinOpen (s : State) (n : Ch) : State := match (s.ch n).force.out with
  | .closed | .closing | .resting | .restHold | .hold => s.openSwitch n .opened
  | _ => (s.upCh n Chan.openLoops).refresh n

theorem State.pinOpen_flt (s : State) (n : Ch) : s.pathFlt (s.pinOpen n) n := by
  have hc : s.pathFlt ((s.upCh n Chan.openLoops).refresh n) n :=
    ((s.upCh_path n Chan.openLoops (Chan.openLoops_map _)).trans (State.refresh_path _ n)).flt
  unfold State.pinOpen
  split
  case h_6 => exact hc
  all_goals exact s.openSwitch_flt n .opened

theorem State.pinOpen_ch (s : State) (n : Ch) : (s.pinOpen n).ch n = (s.ch n).pinOpen := by
  unfold State.pinOpen Chan.pinOpen
  split <;> simp [*]

theorem State.pinsOpen_ch (s : State) (n : Ch) : s.pinsOpen.ch n = (s.ch n).pinOpen :=
  State.each_allChs (fun n s => s.pinOpen n) (fun _ c => c.pinOpen) (fun n s m h => (s.pinOpen_flt n).ch m h) (fun n s => s.pinOpen_ch n) s n

theorem State.pinsOpen_frame (s : State) : s.pinsOpen = { s with chans := s.pinsOpen.chans, cells := s.pinsOpen.cells, flt := s.pinsOpen.flt } :=
  State.each_inv (fun t => t = { s with chans := t.chans, cells := t.cells, flt := t.flt }) (fun n s => s.pinOpen n)
    (fun n t h => by rw [(t.pinOpen_flt n).rest, h]) allChs s rfl

/-- The held command of an opening is the limiter's code (R140). -/
theorem Chan.openOut_cmd (c : Chan) (o : OutState) (h : c.loop.st ≠ .opened) : (c.openOut o).loop.cmd = c.force.code := by
  obtain ⟨m, e⟩ := c.openOut_spec o
  rw [e]
  exact (Chan.openLoops_holds (c := { c with force := { c.force with
    out := o, closeAt := none, closeRest := false, fromRest := false, restAt := if o = OutState.graveOpen then none else c.force.restAt } }) h).1

theorem Chan.openLoops_out (c : Chan) : c.openLoops.force.out = c.force.out := by
  obtain ⟨l, f, h, -, hout, -⟩ := c.openLoops_spec
  rw [h]
  exact hout

theorem Chan.pinOpen_opens (c : Chan) : c.pinOpen.force.out.switchClosed c.pinOpen.force.tripped = false ∧ c.pinOpen.force.out ≠ .closing ∧
    c.pinOpen.loop.st = .opened ∧ c.pinOpen.force.code = c.force.code ∧ (c.loop.st ≠ .opened → c.pinOpen.loop.cmd = c.force.code) := by
  unfold Chan.pinOpen
  split
  case h_6 h1 h2 h3 h4 h5 =>
    refine ⟨?_, ?_, c.openLoops_st, c.openLoops_code, fun h => (Chan.openLoops_holds h).1⟩
    · rw [c.openLoops_out]
      unfold OutState.switchClosed
      split <;> simp_all
    · rw [c.openLoops_out]; exact h2
  all_goals
    obtain ⟨hout, hst, hcode⟩ := c.openOut_opens .opened
    refine ⟨by rw [hout]; rfl, by rw [hout]; decide, hst, hcode, fun h => c.openOut_cmd .opened h⟩

theorem exec_pinsOpen {s : State} {c : Instr} (hr : s.runs) (hc : c = .extest ∨ c = .clamp ∨ c = .highz) :
    ∃ i, i.holdsPins = true ∧ exec c s = .next (s.loadIr i).pinsOpen := by
  have hl : ∀ i, (s.loadIr i).live State.pinsOpen = (s.loadIr i).pinsOpen := fun i => State.live_of (s.loadIr i) _ hr
  rcases hc with rfl | rfl | rfl
  · exact ⟨.extest, rfl, congrArg Host.Outcome.next (hl _)⟩
  · exact ⟨.clamp, rfl, congrArg Host.Outcome.next (hl _)⟩
  · exact ⟨.highz, rfl, congrArg Host.Outcome.next (hl _)⟩

/-- Settles O14: the instructions without work of the logic by evaluation, the boundary register bit by bit, and the pins channel by channel. -/
theorem jtagInstructionsLoadThemselvesAndHoldThePins : Obligations.JtagInstructionsLoadThemselvesAndHoldThePins := by
  intro s
  refine ⟨rfl, rfl, ⟨_, rfl, rfl, ?_⟩, rfl, rfl, rfl, fun w a v h => exec_regAccess_locked w a v h, fun a v hf hr => ⟨?_, ?_⟩, fun hr c hc => ?_⟩
  · obtain ⟨h0, h6, h7⟩ := s.pinLevels_getLsbD
    exact ⟨h0, h6.trans (Pll.lockPin_eq _), h7.trans (Pll.lockPin_eq _)⟩
  · have hj : (State.readSide (s.loadIr .regAccess) a).jtag = (s.loadIr .regAccess).jtag := (State.readSide_keeps (Keeps.refl _) a).jtag
    exact ⟨_, exec_regAccess_factory false a v hf hr, congrArg Jtag.ir hj, rfl, _, exec_readClearCounter_runs (s := s.loadIr .regAccess) a hr, rfl⟩
  · have hj : (State.landWord (s.loadIr .regAccess) a v true).jtag = (s.loadIr .regAccess).jtag := (State.landWord_keeps (Keeps.refl _) a v true).jtag
    exact ⟨_, exec_regAccess_factory true a v hf hr, congrArg Jtag.ir hj, rfl, _, rfl, rfl⟩
  · obtain ⟨i, hi, he⟩ := exec_pinsOpen hr hc
    have hj : (s.loadIr i).pinsOpen.jtag = (s.loadIr i).jtag := (State.pinsOpen_keeps (Keeps.refl _)).jtag
    refine ⟨_, he, by rw [hj]; exact hi, ?_, fun n => ?_⟩
    · rw [hj]; exact (s.loadIr i).pinsOpen_frame
    · rw [State.pinsOpen_ch]
      exact (s.ch n).pinOpen_opens

end Sys2Proof.Machine
end

section
/-! SUPPORT. The collector: a source's state behind its updates, what a message leaves of it by its class, acknowledgement, ALIVE and injection
(R368 … R380, R383 … R385, R391, R392, R395). -/

namespace Sys2Proof.Machine

/-! ### Sources (R363) -/

@[simp] theorem Flt.upSrc_srcSt (f : Flt) (u : BitVec 10) (g : SrcSt → SrcSt) : (f.upSrc u g).srcSt u = g (f.srcSt u) := by
  simp [Flt.srcSt, Flt.upSrc]

theorem Flt.upSrc_srcSt_ne (f : Flt) {u y : BitVec 10} (g : SrcSt → SrcSt) (h : y ≠ u) : (f.upSrc u g).srcSt y = f.srcSt y := by
  have hk : y.toNat ≠ u.toNat := fun e => h (BitVec.eq_of_toNat_eq e)
  simp [Flt.srcSt, Flt.upSrc, findAt_insertAt_ne _ _ hk]

theorem Flt.srcSt_congr {f g : Flt} (h : g.srcs = f.srcs) (y : BitVec 10) : g.srcSt y = f.srcSt y := by rw [Flt.srcSt, h, Flt.srcSt]

/-! ### The intake (R383 … R385) -/

@[simp] theorem Flt.intake_srcSt (f : Flt) (r : FRec) (t : Nat) (y : BitVec 10) : (f.intake r t).srcSt y = f.srcSt y := by
  obtain ⟨_, _, _, _, h⟩ := f.intake_spec r t
  rw [h]
  exact Flt.srcSt_congr rfl y

@[simp] theorem Flt.intake_tag (f : Flt) (r : FRec) (t : Nat) : (f.intake r t).tag = f.tag := by
  obtain ⟨_, _, _, _, h⟩ := f.intake_spec r t
  rw [h]

@[simp] theorem Flt.intake_alive (f : Flt) (r : FRec) (t : Nat) : (f.intake r t).alive = f.alive := by
  obtain ⟨_, _, _, _, h⟩ := f.intake_spec r t
  rw [h]

@[simp] theorem Flt.intake_conseqs (f : Flt) (r : FRec) (t : Nat) : (f.intake r t).conseqs = f.conseqs := by
  obtain ⟨_, _, _, _, h⟩ := f.intake_spec r t
  rw [h]

/-- Below 56 messages every class enters the FIFO, unless the code holds a coalesce counter. -/
theorem Flt.intake_fifo {f : Flt} {r : FRec} (t : Nat) (hh : f.holds r.src r.kind = false) (hl : f.fifo.length < 56) :
    (f.intake r t).fifo = f.fifo ++ [r] := by
  have hroom : f.fifo.length < if r.cls.rank ≤ 1 then 56 else 64 := by split <;> omega
  simp [Flt.intake, hh, hroom]

/-! ### The sticky bit (R379) -/

@[simp] theorem Flt.markSticky_tag (f : Flt) (m : Msg) : (f.markSticky m).tag = f.tag := rfl
@[simp] theorem Flt.markSticky_alive (f : Flt) (m : Msg) : (f.markSticky m).alive = f.alive := rfl
@[simp] theorem Flt.markSticky_conseqs (f : Flt) (m : Msg) : (f.markSticky m).conseqs = f.conseqs := rfl

theorem Flt.markSticky_srcSt_ne (f : Flt) (m : Msg) {y : BitVec 10} (h : y ≠ m.src) : (f.markSticky m).srcSt y = f.srcSt y := f.upSrc_srcSt_ne _ h

theorem Flt.markSticky_srcSt (f : Flt) (m : Msg) : ∃ l, (f.markSticky m).srcSt m.src =
    { f.srcSt m.src with sticky := (f.srcSt m.src).sticky ||| (1#64 <<< m.kind.toNat), live := l } := ⟨_, f.upSrc_srcSt m.src _⟩

/-! ### Counting (R370, R371) -/

/-- The place of a message in its source's window, which begins anew when it is empty or over. -/
def State.countOf (s : State) (u : BitVec 10) : Nat :=
  (if (s.flt.srcSt u).winCount = 0 ∨ (s.flt.srcSt u).winStart + s.ftW u ≤ s.ticks then 0 else (s.flt.srcSt u).winCount) + 1

/-- The class of a counted message: raised when the count is full or an earlier one of its class is unacknowledged. -/
def State.raised (s : State) (u : BitVec 10) (c : FClass) : FClass :=
  if s.ftN u ≤ s.countOf u ∨ (s.flt.srcSt u).unack c = true then c.raise else c

theorem State.count_spec (s : State) (m : Msg) (c : FClass) : (s.count m c).2.1 = s.raised m.src c ∧ ∃ w, (s.count m c).1 =
    { s.flt.srcSt m.src with
      winStart := w, winCount := if s.ftN m.src ≤ s.countOf m.src then 0 else s.countOf m.src,
      unackMinor := (s.flt.srcSt m.src).unackMinor || s.raised m.src c == .minor,
      unackMajor := (s.flt.srcSt m.src).unackMajor || s.raised m.src c == .major } := by
  have hr : (s.count m c).2.1 = s.raised m.src c := by
    simp only [State.count, State.raised, State.countOf, Bool.or_eq_true, decide_eq_true_eq]
    congr
  refine ⟨hr, (s.count m c).1.winStart, ?_⟩
  rw [← hr]
  simp only [State.count, State.countOf, Bool.or_eq_true, decide_eq_true_eq]
  congr

/-- The verdict on a message that no consequence window covers: its source's new state, its class, and whether it was raised. -/
def State.judged (s : State) (m : Msg) : SrcSt × FClass × Bool :=
  if s.codeClass m.src m.kind = .minor ∨ s.codeClass m.src m.kind = .major then s.count m (s.codeClass m.src m.kind)
  else (s.flt.srcSt m.src, s.codeClass m.src m.kind, false)

theorem State.judged_counts {s : State} {m : Msg} (h : s.codeClass m.src m.kind = .minor ∨ s.codeClass m.src m.kind = .major) :
    s.judged m = s.count m (s.codeClass m.src m.kind) := if_pos h

theorem State.judged_uncounted {s : State} {m : Msg} (h : s.codeClass m.src m.kind = .note ∨ s.codeClass m.src m.kind = .grave) :
    s.judged m = (s.flt.srcSt m.src, s.codeClass m.src m.kind, false) := if_neg (by rcases h with h | h <;> simp [h])

/-- Counting leaves a source's bits and its fence alone. -/
theorem State.judged_keeps (s : State) (m : Msg) : (s.judged m).1.sticky = (s.flt.srcSt m.src).sticky ∧
    (s.judged m).1.fenced = (s.flt.srcSt m.src).fenced := by
  unfold State.judged
  split
  · obtain ⟨-, w, h⟩ := s.count_spec m (s.codeClass m.src m.kind)
    rw [h]
    exact ⟨rfl, rfl⟩
  · exact ⟨rfl, rfl⟩

/-- The state behind the count, before the message reacts. -/
def State.counted (s : State) (m : Msg) : State := s.upFlt fun f => f.upSrc m.src fun _ => (s.judged m).1

/-! ### Classification by class (R370 … R376) -/

theorem State.classify_logged {s : State} {m : Msg} (h : (s.judged m).2.1 = .note ∨ (s.judged m).2.1 = .minor) :
    (s.classify m).1 = (s.counted m).flt := by
  show (match (s.judged m).2.1 with
    | .grave => (s.counted m).startGrave m
    | .major => (s.counted m).startMajor m
    | _ => ((s.counted m).flt, 0) : Flt × BitVec 8).1 = _
  rcases h with h | h <;> rw [h]

theorem State.classify_major {s : State} {m : Msg} (h : (s.judged m).2.1 = .major) : (s.classify m).1 = ((s.counted m).startMajor m).1 := by
  show (match (s.judged m).2.1 with
    | .grave => (s.counted m).startGrave m
    | .major => (s.counted m).startMajor m
    | _ => ((s.counted m).flt, 0) : Flt × BitVec 8).1 = _
  rw [h]

theorem State.classify_grave {s : State} {m : Msg} (h : (s.judged m).2.1 = .grave) : (s.classify m).1 = ((s.counted m).startGrave m).1 := by
  show (match (s.judged m).2.1 with
    | .grave => (s.counted m).startGrave m
    | .major => (s.counted m).startMajor m
    | _ => ((s.counted m).flt, 0) : Flt × BitVec 8).1 = _
  rw [h]

/-- No reaction touches the sources in the cycle of its classification. -/
theorem State.classify_srcs (s : State) (m : Msg) : (s.classify m).1.srcs = (s.counted m).flt.srcs := by
  cases h : (s.judged m).2.1 with
  | note => rw [State.classify_logged (.inl h)]
  | minor => rw [State.classify_logged (.inr h)]
  | major =>
    rw [State.classify_major h]
    obtain ⟨_, _, _, e⟩ := (s.counted m).startMajor_spec m
    rw [e]
  | grave => rw [State.classify_grave h]; rfl

theorem State.classify_srcSt (s : State) (m : Msg) : (s.classify m).1.srcSt m.src = (s.judged m).1 := by
  rw [Flt.srcSt_congr (s.classify_srcs m)]
  exact s.flt.upSrc_srcSt m.src _

theorem State.classify_srcSt_ne (s : State) (m : Msg) {y : BitVec 10} (h : y ≠ m.src) : (s.classify m).1.srcSt y = s.flt.srcSt y := by
  rw [Flt.srcSt_congr (s.classify_srcs m)]
  exact s.flt.upSrc_srcSt_ne _ h

/-- Classification leaves the FIFO and the coalesce counters to the intake. -/
theorem State.classify_intake (s : State) (m : Msg) : (s.classify m).1.fifo = s.flt.fifo ∧ (s.classify m).1.coal = s.flt.coal := by
  obtain ⟨_, _, _, _, _, _, h⟩ := s.classify_spec m
  rw [h]
  exact ⟨rfl, rfl⟩

/-! ### Taking a message (R368, R378) -/

theorem State.collectFlt_unlisted {s : State} {m : Msg} (h : codeInfo m.src m.kind.toNat = none) : s.collectFlt m = s.flt := by
  simp [State.collectFlt, h]

/-- The tag of the window, or of the Grave latch, that covers a message (R376, R378). -/
def State.coverTag (s : State) (m : Msg) : Option (BitVec 8) :=
  if s.flt.grave then some s.flt.tag else s.flt.conseqTag m.src (some m.kind.toNat) s.ticks

theorem State.collectFlt_covered {s : State} {m : Msg} {tag : BitVec 8} (h : codeInfo m.src m.kind.toNat ≠ none) (ht : s.coverTag m = some tag) :
    s.collectFlt m = (s.flt.markSticky m).intake (recOf m (s.codeClass m.src m.kind) true false tag s.ticks) s.ticks := by
  obtain ⟨i, hi⟩ := Option.ne_none_iff_exists'.mp h
  simp only [State.coverTag] at ht
  simp only [State.collectFlt, hi, ht]

theorem State.collectFlt_classified {s : State} {m : Msg} (h : codeInfo m.src m.kind.toNat ≠ none) (ht : s.coverTag m = none) :
    s.collectFlt m = ((s.classify m).1.markSticky m).intake
      (recOf m (s.classify m).2.1 false (s.classify m).2.2.1 (s.classify m).2.2.2 s.ticks) s.ticks := by
  obtain ⟨i, hi⟩ := Option.ne_none_iff_exists'.mp h
  simp only [State.coverTag] at ht
  simp only [State.collectFlt, hi, ht]

/-- A listed message's record is the FIFO's last, whichever way it was taken. -/
theorem State.collectFlt_record {s : State} {m : Msg} (h : codeInfo m.src m.kind.toNat ≠ none) (hh : s.flt.holds m.src m.kind = false)
    (hl : s.flt.fifo.length < 56) : ∃ c q e tag, (s.collectFlt m).fifo = s.flt.fifo ++ [recOf m c q e tag s.ticks] := by
  cases ht : s.coverTag m with
  | some tag =>
    rw [State.collectFlt_covered h ht]
    exact ⟨_, _, _, _, Flt.intake_fifo (f := s.flt.markSticky m) _ hh hl⟩
  | none =>
    obtain ⟨hfifo, hcoal⟩ := s.classify_intake m
    have hc : ((s.classify m).1.markSticky m).holds m.src m.kind = false := by
      rw [← hh, Flt.holds, Flt.holds, ← hcoal]; rfl
    have hf : ((s.classify m).1.markSticky m).fifo = s.flt.fifo := hfifo
    rw [State.collectFlt_classified h ht]
    exact ⟨_, _, _, _, (Flt.intake_fifo _ hc (by rw [hf]; exact hl)).trans (by rw [hf])⟩

/-- Every listed message sets its sticky bit, and leaves the fence and the other sources alone. -/
theorem State.collectFlt_source {s : State} {m : Msg} (h : codeInfo m.src m.kind.toNat ≠ none) :
    ((s.collectFlt m).srcSt m.src).sticky = (s.flt.srcSt m.src).sticky ||| (1#64 <<< m.kind.toNat) ∧
    (∀ y, y ≠ m.src → (s.collectFlt m).srcSt y = s.flt.srcSt y) ∧ ((s.collectFlt m).srcSt m.src).fenced = (s.flt.srcSt m.src).fenced := by
  cases ht : s.coverTag m with
  | some tag =>
    obtain ⟨l, hl⟩ := s.flt.markSticky_srcSt m
    rw [State.collectFlt_covered h ht]
    simp only [Flt.intake_srcSt, hl]
    exact ⟨trivial, fun y hy => s.flt.markSticky_srcSt_ne m hy, trivial⟩
  | none =>
    obtain ⟨l, hl⟩ := (s.classify m).1.markSticky_srcSt m
    obtain ⟨hsticky, hfenced⟩ := s.judged_keeps m
    rw [State.collectFlt_classified h ht]
    simp only [Flt.intake_srcSt, hl, s.classify_srcSt m, hsticky, hfenced]
    exact ⟨trivial, fun y hy => ((s.classify m).1.markSticky_srcSt_ne m hy).trans (s.classify_srcSt_ne m hy), trivial⟩

theorem State.collectFlt_coffer (s : State) (m : Msg) : (s.collectFlt m).coffer = s.flt.coffer := by
  obtain ⟨_, _, _, _, _, _, _, _, _, _, h⟩ := s.collectFlt_spec m
  rw [h]

theorem State.collectFlt_injectAddr (s : State) (m : Msg) : (s.collectFlt m).injectAddr = s.flt.injectAddr := by
  obtain ⟨_, _, _, _, _, _, _, _, _, _, h⟩ := s.collectFlt_spec m
  rw [h]

/-- A consequential message neither counts nor reacts (R378). -/
theorem State.collectFlt_covered_still {s : State} {m : Msg} {tag : BitVec 8} (h : codeInfo m.src m.kind.toNat ≠ none) (ht : s.coverTag m = some tag) :
    (s.collectFlt m).reactions = s.flt.reactions ∧ (s.collectFlt m).tag = s.flt.tag ∧ (s.collectFlt m).grave = s.flt.grave ∧
    ((s.collectFlt m).srcSt m.src).winCount = (s.flt.srcSt m.src).winCount ∧
    ((s.collectFlt m).srcSt m.src).unackMinor = (s.flt.srcSt m.src).unackMinor ∧
    ((s.collectFlt m).srcSt m.src).unackMajor = (s.flt.srcSt m.src).unackMajor := by
  obtain ⟨l, hl⟩ := s.flt.markSticky_srcSt m
  rw [State.collectFlt_covered h ht]
  simp [hl]

/-- What the collector shows of a message that no window covers: the classified state, but for the sticky bit and the intake. -/
theorem State.collectFlt_classified_shows {s : State} {m : Msg} (h : codeInfo m.src m.kind.toNat ≠ none) (ht : s.coverTag m = none) :
    (s.collectFlt m).reactions = (s.classify m).1.reactions ∧ (s.collectFlt m).tag = (s.classify m).1.tag ∧
    (s.collectFlt m).grave = (s.classify m).1.grave ∧ (s.collectFlt m).alive = (s.classify m).1.alive ∧
    (s.collectFlt m).conseqs = (s.classify m).1.conseqs ∧ ((s.collectFlt m).srcSt m.src).winCount = (s.judged m).1.winCount ∧
    ((s.collectFlt m).srcSt m.src).unackMinor = (s.judged m).1.unackMinor ∧
    ((s.collectFlt m).srcSt m.src).unackMajor = (s.judged m).1.unackMajor := by
  obtain ⟨l, hl⟩ := (s.classify m).1.markSticky_srcSt m
  rw [State.collectFlt_classified h ht]
  simp [hl, s.classify_srcSt m]

/-! ### What each class does (R370 … R376) -/

theorem State.judged_class {s : State} {m : Msg} (h : s.codeClass m.src m.kind = .minor ∨ s.codeClass m.src m.kind = .major) :
    (s.judged m).2.1 = s.raised m.src (s.codeClass m.src m.kind) := by
  rw [State.judged_counts h]
  exact (s.count_spec m _).1

theorem State.judged_counters {s : State} {m : Msg} (h : s.codeClass m.src m.kind = .minor ∨ s.codeClass m.src m.kind = .major) :
    (s.judged m).1.winCount = (if s.ftN m.src ≤ s.countOf m.src then 0 else s.countOf m.src) ∧
    (s.judged m).1.unackMinor = ((s.flt.srcSt m.src).unackMinor || (s.judged m).2.1 == .minor) ∧
    (s.judged m).1.unackMajor = ((s.flt.srcSt m.src).unackMajor || (s.judged m).2.1 == .major) := by
  obtain ⟨-, w, e⟩ := s.count_spec m (s.codeClass m.src m.kind)
  rw [State.judged_class h, State.judged_counts h, e]
  exact ⟨rfl, rfl, rfl⟩

theorem State.raised_full {s : State} {u : BitVec 10} {c : FClass} (h : s.ftN u ≤ s.countOf u ∨ (s.flt.srcSt u).unack c = true) :
    s.raised u c = c.raise := if_pos h

theorem State.raised_first {s : State} {u : BitVec 10} {c : FClass} (hk : s.countOf u < s.ftN u) (hu : (s.flt.srcSt u).unack c = false) :
    s.raised u c = c := if_neg (by simp [hu, hk])

/-- The count leaves every fence, done or due. -/
theorem State.counted_fencedOrDue (s : State) (m : Msg) (u : BitVec 10) : (s.counted m).flt.fencedOrDue u = s.flt.fencedOrDue u := by
  have hf : ((s.counted m).flt.srcSt u).fenced = (s.flt.srcSt u).fenced := by
    by_cases h : u = m.src
    · subst h
      exact (congrArg SrcSt.fenced (s.flt.upSrc_srcSt m.src _)).trans (s.judged_keeps m).2
    · exact congrArg SrcSt.fenced (s.flt.upSrc_srcSt_ne _ h)
  unfold Flt.fencedOrDue
  rw [hf]
  rfl

theorem State.startMajor_known {s : State} {m : Msg} {u : BitVec 10} (h : majorUnit m = some u) (hf : s.flt.fencedOrDue u = true) :
    (s.startMajor m).1 = s.flt := by
  simp [State.startMajor, h, hf]

/-- The first Major on a unit takes the next tag, and its fence waits for its boundary. -/
theorem State.startMajor_fences {s : State} {m : Msg} {u : BitVec 10} (h : majorUnit m = some u) (hf : s.flt.fencedOrDue u = false) :
    (s.startMajor m).1.tag = nextTag s.flt.tag ∧
    (s.startMajor m).1.reactions = s.flt.reactions ++ [{ msg := m, cls := .major, unit := u, tag := nextTag s.flt.tag, since := s.period }] ∧
    ∃ w, w ∈ (s.startMajor m).1.conseqs ∧ w.src = u ∧ w.start = s.ticks ∧ w.until_ = s.ticks + s.ftConseq ∧ w.tag = nextTag s.flt.tag := by
  simp only [State.startMajor, h, hf, Bool.false_eq_true, if_false]
  exact ⟨trivial, trivial, _, List.mem_append_right _ (List.mem_singleton_self _), rfl, rfl, rfl, rfl⟩

section
variable {s : State} {m : Msg} (h : codeInfo m.src m.kind.toNat ≠ none) (ht : s.coverTag m = none)
include h ht

/-- A Note is only logged. -/
theorem State.collectFlt_note (hc : s.codeClass m.src m.kind = .note) : (s.collectFlt m).reactions = s.flt.reactions ∧
    (s.collectFlt m).grave = s.flt.grave ∧ ((s.collectFlt m).srcSt m.src).winCount = (s.flt.srcSt m.src).winCount ∧
    ((s.collectFlt m).srcSt m.src).unackMinor = (s.flt.srcSt m.src).unackMinor ∧
    ((s.collectFlt m).srcSt m.src).unackMajor = (s.flt.srcSt m.src).unackMajor ∧ (s.collectFlt m).alive = s.flt.alive := by
  have hj := State.judged_uncounted (.inl hc)
  obtain ⟨hreact, -, hgrave, halive, -, hcount, hminor, hmajor⟩ := State.collectFlt_classified_shows h ht
  rw [State.classify_logged (.inl (by rw [hj]; exact hc))] at hreact hgrave halive
  rw [hj] at hcount hminor hmajor
  exact ⟨hreact, hgrave, hcount, hminor, hmajor, halive⟩

/-- The first Minor of its window is counted and waits for its acknowledgement. -/
theorem State.collectFlt_minor (hc : s.codeClass m.src m.kind = .minor) (hk : s.countOf m.src < s.ftN m.src)
    (hu : (s.flt.srcSt m.src).unackMinor = false) : (s.collectFlt m).reactions = s.flt.reactions ∧ (s.collectFlt m).tag = s.flt.tag ∧
    (s.collectFlt m).grave = s.flt.grave ∧ ((s.collectFlt m).srcSt m.src).winCount = s.countOf m.src ∧
    ((s.collectFlt m).srcSt m.src).unackMinor = true ∧ ((s.collectFlt m).srcSt m.src).unackMajor = (s.flt.srcSt m.src).unackMajor := by
  have hj : (s.judged m).2.1 = .minor := by rw [State.judged_class (.inl hc), hc]; exact State.raised_first hk hu
  obtain ⟨hcounts, hminor, hmajor⟩ := State.judged_counters (.inl hc)
  obtain ⟨hreact, htag, hgrave, -, -, hcount', hminor', hmajor'⟩ := State.collectFlt_classified_shows h ht
  rw [State.classify_logged (.inr hj)] at hreact htag hgrave
  rw [hj] at hminor hmajor
  exact ⟨hreact, htag, hgrave, hcount'.trans (hcounts.trans (if_neg (by omega))), hminor'.trans (hminor.trans (Bool.or_true _)),
    hmajor'.trans (hmajor.trans (Bool.or_false _))⟩

/-- A message that counts as Major, raised or by its class, fences its unit unless a fence stands or is due. -/
theorem State.collectFlt_major (hc : (s.codeClass m.src m.kind = .minor ∧ (s.ftN m.src ≤ s.countOf m.src ∨ (s.flt.srcSt m.src).unackMinor = true)) ∨
      (s.codeClass m.src m.kind = .major ∧ s.countOf m.src < s.ftN m.src ∧ (s.flt.srcSt m.src).unackMajor = false)) :
    (s.collectFlt m).grave = s.flt.grave ∧ ((s.collectFlt m).srcSt m.src).unackMajor = true ∧
    ((s.collectFlt m).srcSt m.src).winCount = (if s.ftN m.src ≤ s.countOf m.src then 0 else s.countOf m.src) ∧
    ∀ u, majorUnit m = some u →
      (s.flt.fencedOrDue u = true → (s.collectFlt m).reactions = s.flt.reactions ∧ (s.collectFlt m).tag = s.flt.tag) ∧
      (s.flt.fencedOrDue u = false → (s.collectFlt m).tag = nextTag s.flt.tag ∧
        (s.collectFlt m).reactions = s.flt.reactions ++ [{ msg := m, cls := .major, unit := u, tag := nextTag s.flt.tag, since := s.period }] ∧
        ∃ w, w ∈ (s.collectFlt m).conseqs ∧ w.src = u ∧ w.start = s.ticks ∧ w.until_ = s.ticks + s.ftConseq ∧ w.tag = nextTag s.flt.tag) := by
  have hcls : s.codeClass m.src m.kind = .minor ∨ s.codeClass m.src m.kind = .major := hc.imp And.left And.left
  have hj : (s.judged m).2.1 = .major := by
    rw [State.judged_class hcls]
    rcases hc with ⟨hc, hfull⟩ | ⟨hc, hk, hu⟩
    · rw [hc]; exact State.raised_full hfull
    · rw [hc]; exact State.raised_first hk hu
  obtain ⟨hcounts, -, hmajor⟩ := State.judged_counters hcls
  obtain ⟨hreact, htag, hgrave, -, hconseqs, hcount', -, hmajor'⟩ := State.collectFlt_classified_shows h ht
  rw [State.classify_major hj] at hreact htag hgrave hconseqs
  rw [hj] at hmajor
  refine ⟨hgrave.trans ((s.counted m).startMajor_grave m), hmajor'.trans (hmajor.trans (Bool.or_true _)), hcount'.trans hcounts,
    fun u hu => ⟨fun hf => ?_, fun hf => ?_⟩⟩
  · rw [State.startMajor_known hu ((s.counted_fencedOrDue m u).trans hf)] at hreact htag
    exact ⟨hreact, htag⟩
  · obtain ⟨htag', hreact', hw⟩ := State.startMajor_fences hu ((s.counted_fencedOrDue m u).trans hf)
    exact ⟨htag.trans htag', hreact.trans hreact', by rw [hconseqs]; exact hw⟩

/-- A Grave, by its class or raised, sets the latch and drives ALIVE low at once. -/
theorem State.collectFlt_toGrave (hc : s.codeClass m.src m.kind = .grave ∨ (s.codeClass m.src m.kind = .major ∧
      (s.ftN m.src ≤ s.countOf m.src ∨ (s.flt.srcSt m.src).unackMajor = true))) :
    (s.collectFlt m).grave = true ∧ (s.collectFlt m).alive = false ∧ (s.collectFlt m).tag = nextTag s.flt.tag ∧
    ((s.collectFlt m).reactions.getLast?.map (·.cls)) = some .grave := by
  have hj : (s.judged m).2.1 = .grave := by
    rcases hc with hc | ⟨hc, hfull⟩
    · rw [State.judged_uncounted (.inr hc)]; exact hc
    · rw [State.judged_class (.inr hc), hc]; exact State.raised_full hfull
  obtain ⟨hreact, htag, hgrave, halive, -⟩ := State.collectFlt_classified_shows h ht
  rw [State.classify_grave hj] at hreact htag hgrave halive
  refine ⟨hgrave, halive, htag, ?_⟩
  rw [hreact]
  simp [State.startGrave]

end

/-! ### Messages, conditions and windows as commands -/

theorem exec_faultMessage_runs {s : State} (src : BitVec 10) (kind : BitVec 6) (addr : Word) (hr : s.runs) :
    exec (.faultMessage src kind addr) s = .next (s.collect { src := src, kind := kind, addr := addr }) := congrArg _ (s.live_of _ hr)

theorem exec_faultConditionEnd_runs {s : State} (src : BitVec 10) (kind : BitVec 6) (hr : s.runs) :
    exec (.faultConditionEnd src kind) s = .next (s.endLive src kind.toNat) := congrArg _ (s.live_of _ hr)

/-- The collector without the windows of a unit that have ended (R378). -/
def Flt.closeWindows (f : Flt) (src : BitVec 10) (t : Nat) : Flt :=
  { f with conseqs := f.conseqs.filter fun w => w.src != src || w.isOpen t }

theorem exec_conseqWindowEnd_runs {s : State} (src : BitVec 10) (hr : s.runs) :
    exec (.conseqWindowEnd src) s = .next (s.upFlt fun f => f.closeWindows src s.ticks) := congrArg _ (s.live_of _ hr)

theorem Flt.mem_closeWindows {f : Flt} {src : BitVec 10} {t : Nat} {w : Conseq} :
    w ∈ (f.closeWindows src t).conseqs ↔ w ∈ f.conseqs ∧ (w.src ≠ src ∨ (w.start ≤ t ∧ t < w.until_)) := by
  simp [Flt.closeWindows, Conseq.isOpen]

theorem State.coverTag_none {s : State} {m : Msg} (hg : s.flt.grave = false) (hw : s.flt.conseqTag m.src (some m.kind.toNat) s.ticks = none) :
    s.coverTag m = none := by
  simp [State.coverTag, hg, hw]

/-- At Grave, or in a window, some tag covers a message: at Grave the tag in force. -/
theorem State.coverTag_some {s : State} {m : Msg} (h : s.flt.grave = true ∨ (s.flt.conseqTag m.src (some m.kind.toNat) s.ticks).isSome = true) :
    ∃ tag, s.coverTag m = some tag ∧ (s.flt.grave = true → tag = s.flt.tag) := by
  by_cases hg : s.flt.grave = true
  · exact ⟨_, if_pos hg, fun _ => rfl⟩
  · obtain ⟨tag, hw⟩ := Option.isSome_iff_exists.mp (h.resolve_left hg)
    exact ⟨tag, (if_neg hg).trans hw, fun hg' => absurd hg' hg⟩

/-- Settles O51: what every listed message does, then the covered ones, then the others class by class. -/
theorem messagesAreCountedRaisedAndReactedTo : Obligations.MessagesAreCountedRaisedAndReactedTo := by
  rintro src kind addr s x c k hr rfl rfl hk
  have hcount : k = s.countOf src := hk
  subst hcount
  let m : Msg := { src := src, kind := kind, addr := addr }
  refine ⟨fun hn => ?_, fun hn => ?_, ⟨_, exec_faultConditionEnd_runs src kind hr, rfl, ?_, fun y hy => ?_, rfl, rfl⟩,
    _, exec_conseqWindowEnd_runs src hr, rfl, fun w => Flt.mem_closeWindows⟩
  · rw [exec_faultMessage_runs src kind addr hr, State.collect, State.collectFlt_unlisted hn]
  · obtain ⟨hsticky, hothers, hfenced⟩ := State.collectFlt_source (s := s) (m := m) hn
    refine ⟨_, exec_faultMessage_runs src kind addr hr, rfl, hsticky, hothers, hfenced, s.collectFlt_coffer m, fun hcov => ?_, fun hg hw => ?_⟩
    · obtain ⟨tag, ht, htag⟩ := State.coverTag_some (m := m) hcov
      obtain ⟨hreact, htags, hgrave, hwin, hminor, hmajor⟩ := State.collectFlt_covered_still (m := m) hn ht
      refine ⟨hreact, htags, hgrave, hwin, hminor, hmajor, fun hh hl =>
        ⟨recOf m (s.codeClass src kind) true false tag s.ticks, ?_, rfl, rfl, rfl, rfl, rfl, htag⟩⟩
      exact (congrArg Flt.fifo (State.collectFlt_covered (m := m) hn ht)).trans (Flt.intake_fifo (f := s.flt.markSticky m) _ hh hl)
    · have ht : s.coverTag m = none := State.coverTag_none (m := m) hg hw
      refine ⟨fun hc => ?_, fun hc hk hu => ?_, fun hc => ?_, fun hc => State.collectFlt_toGrave hn ht hc⟩
      · obtain ⟨hreact, hgrave, hrest⟩ := State.collectFlt_note hn ht hc
        exact ⟨hreact, hgrave.trans hg, hrest⟩
      · obtain ⟨hreact, htag, hgrave, hrest⟩ := State.collectFlt_minor hn ht hc hk hu
        exact ⟨hreact, htag, hgrave.trans hg, hrest⟩
      · obtain ⟨hgrave, hrest⟩ := State.collectFlt_major hn ht hc
        exact ⟨hgrave.trans hg, hrest⟩
  · exact s.flt.upSrc_srcSt src _
  · exact s.flt.upSrc_srcSt_ne _ hy

/-! ### Acknowledgement (R380, R395) -/

theorem findAt_map {α : Type} (g : Nat → α → α) (l : List (Nat × α)) (k : Nat) :
    findAt (l.map fun x => (x.1, g x.1 x.2)) k = (findAt l k).map (g k) := by
  induction l with
  | nil => rfl
  | cons x l ih =>
    obtain ⟨j, v⟩ := x
    simp only [List.map_cons, findAt, ih]
    split
    · next h => subst h; rfl
    · rfl

/-- A source behind an FLT_ACK: untouched where it names nothing of it. -/
def ackSrc (v : Word) (y : BitVec 10) (x : SrcSt) : SrcSt := if ackMask v y = BitVec.allOnes 64 then x else x.ack (ackMask v y)

theorem SrcSt.ack_spec (x : SrcSt) (m : BitVec 64) : ∃ a b, x.ack m = { x with sticky := x.sticky &&& m, unackMinor := a, unackMajor := b } ∧
    (x.sticky &&& m = 0 → a = false ∧ b = false) ∧ (x.sticky &&& m ≠ 0 → a = x.unackMinor ∧ b = x.unackMajor) := by
  unfold SrcSt.ack
  dsimp only
  split
  · next h => exact ⟨_, _, rfl, fun _ => ⟨rfl, rfl⟩, fun hn => absurd h hn⟩
  · next h => exact ⟨_, _, rfl, fun he => absurd he h, fun _ => ⟨rfl, rfl⟩⟩

theorem ackSrc_spec (v : Word) (y : BitVec 10) (x : SrcSt) : ∃ a b, ackSrc v y x =
      { x with sticky := x.sticky &&& ackMask v y, unackMinor := a, unackMajor := b } ∧
    (ackMask v y ≠ BitVec.allOnes 64 → x.sticky &&& ackMask v y = 0 → a = false ∧ b = false) ∧
    (x.sticky &&& ackMask v y ≠ 0 ∨ ackMask v y = BitVec.allOnes 64 → a = x.unackMinor ∧ b = x.unackMajor) := by
  unfold ackSrc
  split
  · next h => exact ⟨_, _, by rw [h, BitVec.and_allOnes], fun hn => absurd h hn, fun _ => ⟨rfl, rfl⟩⟩
  · next h =>
    obtain ⟨a, b, e, hz, hnz⟩ := x.ack_spec (ackMask v y)
    exact ⟨a, b, e, fun _ => hz, fun hn => hnz (hn.resolve_right h)⟩

/-- A source that the collector holds nothing of has nothing to acknowledge. -/
theorem Flt.acknowledge_srcSt (f : Flt) (v : Word) (y : BitVec 10) : (f.acknowledge v).srcSt y = ackSrc v y (f.srcSt y) := by
  have hempty : ackSrc v y {} = {} := by
    unfold ackSrc SrcSt.ack
    simp
  have hf : findAt (f.acknowledge v).srcs y.toNat = (findAt f.srcs y.toNat).map (ackSrc v (BitVec.ofNat 10 y.toNat)) :=
    findAt_map (fun k => ackSrc v (BitVec.ofNat 10 k)) f.srcs y.toNat
  rw [Flt.srcSt, hf, BitVec.ofNat_toNat, BitVec.setWidth_eq, Flt.srcSt]
  cases findAt f.srcs y.toNat with
  | none => exact hempty.symm
  | some x => rfl

theorem ackMask_eq (v : Word) (y : BitVec 10) : ackMask v y = if v.getLsbD 31 = true then 0#64
    else if y ≠ v.extractLsb' 0 10 then BitVec.allOnes 64 else if v.getLsbD 30 = true then 0#64
    else ~~~ (1#64 <<< (v.extractLsb' 16 6).toNat) := by
  have hk : bits v 16 6 = (v.extractLsb' 16 6).toNat := (BitVec.extractLsb'_toNat 16 6 v).symm
  unfold ackMask
  rw [hk]
  by_cases hy : y = v.extractLsb' 0 10
  · simp [hy]
  · simp [hy]

/-- A record behind an FLT_ACK. -/
def ackRec (v : Word) (r : FRec) : FRec := if ackNames v r.src r.kind then { r with acked := true } else r

theorem ackRec_spec (v : Word) (r : FRec) : ackRec v r = { r with acked := (ackRec v r).acked } ∧ ((ackRec v r).acked = true ↔
    r.acked = true ∨ v.getLsbD 31 = true ∨ (r.src = v.extractLsb' 0 10 ∧ (v.getLsbD 30 = true ∨ r.kind = v.extractLsb' 16 6))) := by
  have hn : ackNames v r.src r.kind = true ↔
      v.getLsbD 31 = true ∨ (r.src = v.extractLsb' 0 10 ∧ (v.getLsbD 30 = true ∨ r.kind = v.extractLsb' 16 6)) := by simp [ackNames]
  rw [← hn]
  unfold ackRec
  split
  · next h => exact ⟨rfl, by simp [h]⟩
  · next h => exact ⟨rfl, by simp [h]⟩

theorem Flt.acknowledge_coffer (f : Flt) (v : Word) (i : Nat) : findAt (f.acknowledge v).coffer i = (findAt f.coffer i).map (ackRec v) :=
  findAt_map (fun _ => ackRec v) f.coffer i

theorem exec_fltAck_runs {s : State} (v : Word) (hr : s.runs) : exec (.fltAck v) s = .next (s.upFlt fun f => f.acknowledge v) :=
  congrArg _ (s.live_of _ hr)

/-! ### ALIVE and injection (R391, R392) -/

theorem exec_aliveToggle_still {s : State} {a w c : Bool} (hr : s.runs)
    (h : s.flt.grave = true ∨ s.pwr.aonDown = true ∨ a = false ∨ w = false ∨ c = false ∨ s.ticks % 16 ≠ 0) :
    exec (.aliveToggle a w c) s = .next s := by
  change execAliveToggle a w c s = _
  rw [execAliveToggle, s.live_of _ hr, if_pos]
  rcases h with h | h | h | h | h | h <;> simp [h]

theorem exec_aliveToggle_toggles {s : State} (hr : s.runs) (hg : s.flt.grave = false) (ha : s.pwr.aonDown = false) (ht : s.ticks % 16 = 0) :
    exec (.aliveToggle true true true) s = .next (s.upFlt fun f => { f with alive := !f.alive }) := by
  change execAliveToggle true true true s = _
  rw [execAliveToggle, s.live_of _ hr, if_neg]
  simp [hg, ha, ht]

theorem exec_fltInject_locked {s : State} (v addr : Word) (hr : s.runs) (h : s.jtag.factory = false ∨ s.flt.grave = true) :
    exec (.fltInject v addr) s = .next s := by
  change execFltInject v addr s = _
  rw [execFltInject, s.live_of _ hr, if_neg]
  rcases h with h | h <;> simp [h]

/-- The state with the address word that the injection takes. -/
def State.withInjectAddr (s : State) (addr : Word) : State := s.upFlt fun f => { f with injectAddr := addr }

theorem exec_fltInject_factory {s : State} (v addr : Word) (hr : s.runs) (hf : s.jtag.factory = true) (hg : s.flt.grave = false) :
    exec (.fltInject v addr) s = .next ((s.withInjectAddr addr).inject v) :=
  congrArg _ ((s.live_of _ hr).trans (if_pos (by simp [hf, hg])))

theorem State.inject_none {s : State} {v : Word} (h : v.getLsbD 31 = false) : s.inject v = s := if_neg (by rw [h]; decide)

theorem State.inject_go {s : State} {v : Word} (h : v.getLsbD 31 = true) : s.inject v =
    s.collect { src := v.extractLsb' 0 10, kind := v.extractLsb' 10 6, addr := s.flt.injectAddr, injected := true } := if_pos h

/-- Settles O52: an acknowledgement source by source and record by record, then ALIVE and the injection by their gates. -/
theorem acknowledgementsAliveAndInjection : Obligations.AcknowledgementsAliveAndInjection := by
  intro v s hr
  refine ⟨⟨_, exec_fltAck_runs v hr, rfl, fun y m hm => ?_, fun i r hi => ?_⟩, fun a w c h => exec_aliveToggle_still hr h,
    fun hg ha ht => exec_aliveToggle_toggles hr hg ha ht, fun addr => ⟨fun h => exec_fltInject_locked v addr hr h, fun hf hg hv => ?_, fun hf hg hv => ?_⟩⟩
  · rw [← ackMask_eq] at hm
    subst hm
    obtain ⟨a, b, e, hz, hnz⟩ := ackSrc_spec v y (s.flt.srcSt y)
    have hsrc : (s.upFlt fun f => f.acknowledge v).flt.srcSt y = _ := (s.flt.acknowledge_srcSt v y).trans e
    rw [hsrc]
    exact ⟨rfl, rfl, rfl, rfl, rfl, hz, hnz⟩
  · obtain ⟨hrec, hacked⟩ := ackRec_spec v r
    exact ⟨_, (s.flt.acknowledge_coffer v i).trans (congrArg _ hi), hrec, hacked⟩
  · rw [exec_fltInject_factory v addr hr hf hg, State.inject_none hv]
    rfl
  · refine ⟨_, exec_fltInject_factory v addr hr hf hg, ?_⟩
    rw [State.inject_go hv]
    refine ⟨rfl, State.collectFlt_injectAddr _ _, fun hn hh hl => ?_⟩
    obtain ⟨c, q, e, tag, hfifo⟩ := State.collectFlt_record (s := s.withInjectAddr addr)
      (m := { src := v.extractLsb' 0 10, kind := v.extractLsb' 10 6, addr := addr, injected := true }) hn hh hl
    exact ⟨_, hfifo, rfl, rfl, rfl, rfl⟩

end Sys2Proof.Machine
end

section
/-! SUPPORT. The pieces of a reaction: the collector's fence, a migration abandoned early, a channel sent to rest (R108, R344, R374). -/

namespace Sys2Proof.Machine

/-! ### Fences of the collector (R374, R382) -/

@[simp] theorem Flt.fence_fenced (f : Flt) (u : BitVec 10) : ((f.fence u).srcSt u).fenced = true := by
  unfold Flt.fence
  split
  · next h => exact h
  · rw [Flt.upSrc_srcSt]

@[simp] theorem Flt.unfence_fenced (f : Flt) (u : BitVec 10) : ((f.unfence u).srcSt u).fenced = false := by
  rw [Flt.unfence, Flt.upSrc_srcSt]

/-! ### A migration abandoned (R344) -/

/-- Abandoned migrations leave ranging, cells, the bays' entries and the collector other than they were, and nothing else. -/
structure State.Abandons (s t : State) : Prop where
  rest : t = { s with chans := t.chans, cells := t.cells, flt := t.flt, att := { s.att with bays := t.att.bays } }
  ch : ∀ j, ∃ r, t.ch j = { s.ch j with range := r }

theorem State.Abandons.refl (s : State) : s.Abandons s := ⟨rfl, fun _ => ⟨_, rfl⟩⟩

theorem State.Abandons.trans {a b c : State} (h : a.Abandons b) (k : b.Abandons c) : a.Abandons c := by
  refine ⟨?_, fun j => ?_⟩
  · rw [k.rest, h.rest]
  · obtain ⟨r, hr⟩ := h.ch j
    obtain ⟨r', hr'⟩ := k.ch j
    exact ⟨r', by rw [hr', hr]⟩

theorem State.Abandons.requests {s t : State} (h : s.Abandons t) : t.att.requests = s.att.requests := by rw [h.rest]

theorem State.Abandons.each {α : Type} {f : α → State → State} (hf : ∀ a (s : State), s.Abandons (f a s)) (l : List α) (s : State) :
    s.Abandons (s.each l f) := State.each_inv (fun t => s.Abandons t) f (fun a t h => h.trans (hf a t)) l s (State.Abandons.refl s)

/-- The end of a migration moves no channel but the one that migrated. -/
theorem State.freeMig_ch_ne {s : State} {b : Bay} {j : Ch} (r : MigResult) (h : (s.mig b).ch ≠ some j) : (s.freeMig b r).ch j = s.ch j := by
  cases hm : (s.mig b).ch with
  | some n => exact (State.freeMig_frees hm r).others j fun e => h (e ▸ hm)
  | none =>
    rw [State.freeMig_eq, State.upMig_ch, State.endBorrow, (s.freeLender_mig_ch _ b).trans hm, State.freeLender_ch]

theorem State.freeMig_abandons (s : State) (b : Bay) (r : MigResult) : s.Abandons (s.freeMig b r) := by
  cases hm : (s.mig b).ch with
  | some n =>
    have h := State.freeMig_frees hm r
    refine ⟨by rw [h.rest], fun j => ?_⟩
    by_cases e : j = n
    · subst e
      exact ⟨_, h.ch⟩
    · exact ⟨_, h.others j e⟩
  | none =>
    refine ⟨?_, fun j => ⟨_, State.freeMig_ch_ne r (by simp [hm])⟩⟩
    rw [State.freeMig_eq, State.endBorrow, (s.freeLender_mig_ch _ b).trans hm, State.freeLender_frame]
    rfl

/-- The spare of an abandoned migration returns to the attic. -/
def State.dropSpare (s : State) (b : Bay) : State :=
  match (s.mig b).newCell with
  | some k => if (s.cell k).role = Role.shadow ∨ (s.cell k).role = Role.spare then s.upCell k fun x => x.retire false else s
  | none => s

theorem State.dropSpare_frame (s : State) (b : Bay) : s.dropSpare b = { s with cells := (s.dropSpare b).cells } := by
  unfold State.dropSpare
  repeat' split
  all_goals rfl

theorem State.abandonMig_eq (s : State) (b : Bay) : s.abandonMig b =
    if (s.mig b).runs && (s.mig b).phase.early then ((s.dropSpare b).post srcAttic 2 (s.mig b).addr).freeMig b .abandoned else s := rfl

theorem State.abandonMig_abandons (s : State) (b : Bay) : s.Abandons (s.abandonMig b) := by
  rw [State.abandonMig_eq]
  split
  · have hpost : s.Abandons ((s.dropSpare b).post srcAttic 2 (s.mig b).addr) := by
      rw [State.dropSpare_frame]
      exact ⟨rfl, fun _ => ⟨_, rfl⟩⟩
    exact hpost.trans (State.freeMig_abandons _ b _)
  · exact State.Abandons.refl s

theorem State.abandonMig_ch_ne {s : State} {b : Bay} {j : Ch} (h : (s.mig b).ch ≠ some j) : (s.abandonMig b).ch j = s.ch j := by
  rw [State.abandonMig_eq]
  split
  · rw [State.dropSpare_frame]
    exact State.freeMig_ch_ne _ h
  · rfl

/-- A channel's own migration is dropped with its request. -/
theorem State.abandonFor_ch (s : State) (n : Ch) : (∀ j, j ≠ n → (s.abandonFor n).ch j = s.ch j) ∧
    ∃ r, (s.abandonFor n).ch n = { s.ch n with range := r } := by
  unfold State.abandonFor
  dsimp only
  split
  · next h =>
    refine ⟨fun j hj => State.abandonMig_ch_ne fun e => hj ?_, (State.abandonMig_abandons _ _).ch n⟩
    have hn := (Bool.and_eq_true _ _).mp h
    exact Option.some.inj (e.symm.trans (beq_iff_eq.mp hn.2))
  · exact ⟨fun _ _ => rfl, _, rfl⟩

/-! ### A channel sent to rest (R108) -/

/-- `d` is the channel `c` sent to rest: its strand is over, its mapping and its code stand. -/
structure Chan.Rested (c d : Chan) : Prop where
  map : d.map = c.map
  idle : d.strand.st.active = false
  code : d.force.code = c.force.code
  reason : c.strand.st.active = true → d.strand.reason = .fault

/-- What a rest sequence's start changes beyond its channel: cells, the larder's memory, wake requests and the collector. -/
structure State.Rests (s t : State) (n : Ch) : Prop where
  rest : t = { s with chans := t.chans, cells := t.cells, mem := t.mem, flt := t.flt, bays := t.bays, clk := t.clk }
  others : ∀ j, j ≠ n → t.ch j = s.ch j
  own : (s.ch n).Rested (t.ch n)

theorem State.endStrand_fault_rested (s : State) (n : Ch) : (s.ch n).Rested ((s.endStrand n .stopped .fault .now true).ch n) :=
  ⟨(s.endStrand_strandOnly n _ _ _ _).map, s.endStrand_stops n _ _ _, s.endStrand_code n _ _ _ _, fun h => State.endStrand_faulted h _ _⟩

theorem Chan.Rested.withForce {c d e : Chan} (h : c.Rested d) (hm : e.map = d.map) (hs : e.strand = d.strand) (hc : e.force.code = d.force.code) :
    c.Rested e :=
  ⟨hm.trans h.map, by rw [hs]; exact h.idle, hc.trans h.code, fun ha => by rw [hs]; exact h.reason ha⟩

theorem State.restStart_rests (s : State) (n : Ch) : s.restOnly (s.restStart n) n ∧ ((s.restStart n).ch n).map = (s.ch n).map ∧
    ((s.restStart n).ch n).strand = (s.ch n).strand ∧ ((s.restStart n).ch n).force.code = (s.ch n).force.code := by
  by_cases h : (s.ch n).canRest = true ∧ (s.ch n).force.out ≠ .graveOpen ∧ n ∉ s.pwr.waitRest
  · obtain ⟨hc, ho, hw⟩ := h
    obtain ⟨honly, hch⟩ := State.restStart_spec hc ho hw
    obtain ⟨_, _, _, _, hb, -, -, hcode, -⟩ := (s.ch n).restBegin_spec s.time
    rw [hch, hb]
    exact ⟨honly, rfl, rfl, hcode⟩
  · have hs : s.restStart n = s := if_neg (by simpa [and_assoc] using h)
    rw [hs]
    exact ⟨State.restOnly.refl s n, rfl, rfl, rfl⟩

theorem State.restNow_rests (s : State) (n : Ch) : s.Rests (s.restNow n) n := by
  have hend := s.endStrand_strandOnly n .stopped .fault .now true
  have hown := s.endStrand_fault_rested n
  unfold State.restNow
  generalize s.endStrand n .stopped .fault .now true = a at hend hown ⊢
  obtain ⟨hrest, hm, hg, hc⟩ := a.restStart_rests n
  generalize a.restStart n = b at hrest hm hg hc ⊢
  have htail := hrest.trans ((b.startRanging_path n).restOnly.trans (State.refresh_path _ n).restOnly)
  refine ⟨?_, fun j hj => (htail.ch j hj).trans (hend.ch j hj), ?_⟩
  · rw [htail.rest, hend.rest]
  · obtain ⟨_, _, hr⟩ := b.startRanging_ch n
    rw [State.refresh_ch, hr]
    exact hown.withForce hm hg hc

/-- A channel that its fence sends to rest. -/
def Chan.fenceAtRest (c : Chan) : Chan := { c with fence := .atRest, map := { c.map with avail := false } }

/-- The reaction on a channel, and on each channel of a bay (R374). -/
def State.restFenced (s : State) (n : Ch) : State := ((s.abandonFor n).restNow n).upCh n Chan.fenceAtRest

theorem State.restFenced_ch (s : State) (n : Ch) : (∀ j, j ≠ n → (s.restFenced n).ch j = s.ch j) ∧
    ∃ d, (s.ch n).Rested d ∧ (s.restFenced n).ch n = d.fenceAtRest := by
  obtain ⟨hothers, r, hr⟩ := s.abandonFor_ch n
  have hrest := (s.abandonFor n).restNow_rests n
  have hown := hrest.own
  rw [hr] at hown
  refine ⟨fun j hj => ?_, _, ⟨hown.map, hown.idle, hown.code, hown.reason⟩, State.upCh_ch _ _ _⟩
  rw [State.restFenced, State.upCh_ch_ne _ _ hj, hrest.others j hj, hothers j hj]

end Sys2Proof.Machine
end

section
/-! SUPPORT. The reactions: Grave, and a Major on each kind of unit (R332, R374 … R376). -/

namespace Sys2Proof.Machine

/-! ### Reactions take effect (R375) -/

/-- The reactions have left their queue. -/
def State.taking (s : State) : State := s.upFlt fun f => { f with reactions := [] }

theorem exec_faultReaction_runs {s : State} (hr : s.runs) : exec .faultReaction s = .next (s.taking.each s.flt.reactions fun r s => s.react r) :=
  congrArg _ (s.live_of _ hr)

theorem exec_faultReaction_none {s : State} (hr : s.runs) (h : s.flt.reactions = []) : exec .faultReaction s = .next s := by
  rw [exec_faultReaction_runs hr, h, State.each_nil]
  refine congrArg Host.Outcome.next ?_
  show { s with flt := { s.flt with reactions := [] } } = s
  rw [← h]

theorem exec_faultReaction_grave {s : State} {r : Reaction} (hr : s.runs) (h : s.flt.reactions = [r]) (hc : r.cls = .grave) :
    exec .faultReaction s = .next s.taking.reactGrave := by
  rw [exec_faultReaction_runs hr, h]
  exact congrArg Host.Outcome.next (if_pos hc)

theorem exec_faultReaction_major {s : State} {r : Reaction} (hr : s.runs) (h : s.flt.reactions = [r]) (hc : r.cls ≠ .grave) :
    exec .faultReaction s = .next (s.taking.reactMajor r) := by
  rw [exec_faultReaction_runs hr, h]
  exact congrArg Host.Outcome.next (if_neg hc)

/-- The state in which a Major reaction finds its unit: fenced. -/
def State.fencing (s : State) (u : BitVec 10) : State := s.taking.upFlt fun f => f.fence u

@[simp] theorem State.fencing_fenced (s : State) (u : BitVec 10) : ((s.fencing u).flt.srcSt u).fenced = true := Flt.fence_fenced _ u

/-! ### Grave (R344, R376) -/

theorem State.Abandons.rested {s t : State} (h : s.Abandons t) {j : Ch} {d : Chan} (hd : (t.ch j).Rested d) : (s.ch j).Rested d := by
  obtain ⟨r, hr⟩ := h.ch j
  rw [hr] at hd
  exact ⟨hd.map, hd.idle, hd.code, hd.reason⟩

/-- No request waits at Grave, and no early migration runs on (R344). -/
def State.dropAll (s : State) : State := (s.upAtt fun a => { a with requests := [] }).each allBayIxs fun b s => s.abandonMig b

/-- Every channel goes to rest with its loops open (R376). -/
def State.restAll (s : State) : State := s.each allChs fun n s => (s.restNow n).upCh n Chan.openLoops

theorem State.dropAll_abandons (s : State) : (s.upAtt fun a => { a with requests := [] }).Abandons s.dropAll :=
  State.Abandons.each (fun b t => t.abandonMig_abandons b) allBayIxs _

theorem State.restAll_att (s : State) : s.restAll.att = s.att :=
  State.each_keeps State.att _ (fun n t => by rw [State.upCh_att, (t.restNow_rests n).rest]) allChs s

theorem State.restAll_ch (s : State) (n : Ch) : (s.restAll.ch n).loop.st = .opened ∧ (s.ch n).Rested (s.restAll.ch n) := by
  obtain ⟨-, hin⟩ := State.each_turn (P := fun _ => True) (f := fun n s => (s.restNow n).upCh n Chan.openLoops) (fun _ _ _ => trivial)
    (fun a u j _ hj => (State.upCh_ch_ne _ _ hj).trans ((u.restNow_rests a).others j hj)) allChs_nodup (s := s) trivial n
  obtain ⟨u, -, hu, hres⟩ := hin (mem_allChs n)
  have hch : s.restAll.ch n = ((u.restNow n).ch n).openLoops := hres.trans (State.upCh_ch _ n _)
  have hown := (u.restNow_rests n).own
  rw [hu] at hown
  obtain ⟨_, _, hopen, -⟩ := ((u.restNow n).ch n).openLoops_spec
  rw [hch]
  exact ⟨Chan.openLoops_st _, hown.withForce (Chan.openLoops_map _) (by rw [hopen]) (Chan.openLoops_code _)⟩

/-- The cellar's part leaves channels and requests alone. -/
theorem State.reactGrave_frame (s : State) : s.reactGrave = { s.dropAll.restAll with cel := s.reactGrave.cel } := by
  unfold State.reactGrave State.dropAll State.restAll
  dsimp only
  rw [State.celAsk_frame]

/-- Every channel behind Grave is at rest with its loops open. -/
theorem State.reactGrave_spec (s : State) : s.reactGrave.att.requests = [] ∧
    ∀ n, (s.reactGrave.ch n).loop.st = .opened ∧ (s.ch n).Rested (s.reactGrave.ch n) := by
  have hdrop := s.dropAll_abandons
  rw [State.reactGrave_frame]
  generalize s.reactGrave.cel = x
  generalize s.dropAll = u at hdrop ⊢
  have hatt := u.restAll_att
  have hch := u.restAll_ch
  generalize u.restAll = v at hatt hch ⊢
  refine ⟨?_, fun n => ?_⟩
  · show v.att.requests = []
    rw [hatt, hdrop.requests]
    rfl
  · obtain ⟨hloop, hrest⟩ := hch n
    have hown := hdrop.rested hrest
    rw [State.upAtt_ch] at hown
    exact ⟨hloop, hown⟩

/-! ### A port and the cellar (R374, R421) -/

theorem State.reactMajor_link {s : State} {r : Reaction} {p : Port} (hu : srcGroup r.unit = .link p) : s.taking.reactMajor r =
    { s.fencing r.unit with lnk := { s.lnk with ports := s.lnk.ports.set p.val { s.lnk.ports[p.val] with st := .fenced } } } := by
  simp only [State.reactMajor, hu]
  rfl

theorem State.reactMajor_cellar {s : State} {r : Reaction} (hu : srcGroup r.unit = .cellar) :
    s.taking.reactMajor r = (s.fencing r.unit).reactCellar := by
  simp only [State.reactMajor, hu]
  rfl

/-- The cellar stops, and the migrations that run pass their confirmation. -/
theorem State.reactCellar_spec (s : State) : s.reactCellar =
    { s with cel := { s.cel with st := .fenced, work := [], running := none, busy := false }, flt := { s.flt with persistOff := true },
             att := { s.att with bays := s.att.bays.map fun m => { m with confirmed := m.confirmed || m.runs } } } := rfl

theorem State.reactCellar_mig (s : State) (b : Bay) : s.reactCellar.mig b = { s.mig b with confirmed := (s.mig b).confirmed || (s.mig b).runs } := by
  simp [State.mig, State.reactCellar_spec]

/-! ### A cell (R332, R374) -/

theorem State.reactMajor_cell {s : State} {r : Reaction} {k : CellIx} (hu : srcGroup r.unit = .cell k) :
    s.taking.reactMajor r = (s.fencing r.unit).reactCell k r.msg.kind := by
  simp only [State.reactMajor, hu]
  rfl

/-- A spare that no migration has taken leaves service at once. -/
theorem State.reactCell_spare {s : State} {k : CellIx} (kind : BitVec 6) (h : (s.cell k).role = .spare)
    (hm : ∀ b, (s.mig b).runs = true → (s.mig b).newCell ≠ some k) : s.reactCell k kind = s.upCell k fun x => x.retire true := by
  have hnone : (allBayIxs.find? fun b => (s.mig b).runs && (s.mig b).newCell == some k) = none := by
    refine List.find?_eq_none.mpr fun b _ => ?_
    simpa using hm b
  simp only [State.reactCell, h, hnone]

/-- A carrying cell is condemned. -/
def State.condemn (s : State) (k : CellIx) : State := s.upCell k fun x => { x with condemned := true }

/-- The output of the channel whose cell failed cold opens first. -/
def State.openCold (s : State) (p : Ch) : State := (s.endStrand p .stopped .fault .now true).openSwitch p .opened

/-- A carrying cell keeps its channel until the migration that it asks for. -/
theorem State.reactCell_carries {s : State} {k : CellIx} {n : Ch} (kind : BitVec 6) (h : (s.cell k).role = .active ∨ (s.cell k).role = .member)
    (hn : s.channelOf k = some n) (he : (s.ch n).decl.enabled = true) : s.reactCell k kind =
      (if coldKind kind then (s.condemn k).openCold (s.pins n) else s.condemn k).request
        { ch := n, cause := .fault, keepOld := false, cold := coldKind kind } := by
  rcases h with h | h <;> simp only [State.reactCell, h, hn, he, if_true] <;> rfl

/-- With the output open first, each mapping and the attic stand, and no other channel moves. -/
theorem State.openCold_spec (s : State) (p : Ch) : (s.openCold p).att = s.att ∧ (∀ j, j ≠ p → (s.openCold p).ch j = s.ch j) ∧
    (s.ch p).Rested ((s.openCold p).ch p) ∧ ((s.openCold p).ch p).force.out = .opened ∧ ((s.openCold p).ch p).loop.st = .opened := by
  have hend := s.endStrand_strandOnly p .stopped .fault .now true
  have hown := s.endStrand_fault_rested p
  have hopen := (s.endStrand p .stopped .fault .now true).openSwitch_flt p .opened
  obtain ⟨hout, hloop, hcode⟩ := ((s.endStrand p .stopped .fault .now true).ch p).openOut_opens .opened
  unfold State.openCold
  refine ⟨by rw [hopen.rest, hend.rest], fun j hj => (hopen.ch j hj).trans (hend.ch j hj), ?_⟩
  rw [State.openSwitch_ch]
  exact ⟨hown.withForce (Chan.openOut_map _ _) (Chan.openOut_strand _ _) hcode, hout, hloop⟩

theorem State.openCold_map (s : State) (p n : Ch) : ((s.openCold p).ch n).map = (s.ch n).map := by
  obtain ⟨-, hothers, hown, -⟩ := s.openCold_spec p
  by_cases h : n = p
  · subst h
    exact hown.map
  · rw [hothers n h]

/-! ### A channel, a bay and a bridge (R374) -/

theorem State.reactMajor_channel {s : State} {r : Reaction} {n : Ch} (hu : srcGroup r.unit = .channel n) :
    s.taking.reactMajor r = (s.fencing r.unit).reactChannel n r.msg := by
  simp only [State.reactMajor, hu]
  rfl

theorem State.reactChannel_rests {s : State} {n : Ch} {m : Msg} (hb : ∀ b, srcGroup m.src ≠ .bay b) (h7 : m.kind ≠ 7) (h9 : m.kind ≠ 9) :
    s.reactChannel n m = (s.restFenced n).remapped s := by
  unfold State.reactChannel
  split
  · next b h => exact absurd h (hb b)
  · exact if_neg (not_or.mpr ⟨h7, h9⟩)

theorem State.reactMajor_bay {s : State} {r : Reaction} {b : Bay} (hu : srcGroup r.unit = .bay b) :
    s.taking.reactMajor r = (s.fencing r.unit).reactBay b := by
  simp only [State.reactMajor, hu]
  rfl

/-- The available channels of a bay. -/
def State.availOf (s : State) (b : Bay) : List Ch := (bayChs b).filter fun n => (s.ch n).map.avail

theorem State.mem_availOf {s : State} {b : Bay} {n : Ch} : n ∈ s.availOf b ↔ chBay n = b ∧ (s.ch n).map.avail = true := by
  simp [State.availOf, bayChs, mem_allChs, and_comm]

theorem State.availOf_nodup (s : State) (b : Bay) : (s.availOf b).Nodup := (allChs_nodup.filter _).filter _

/-- The channels of a bay go to rest, each with its own fence. -/
def State.restBay (s : State) (l : List Ch) : State := s.each l fun n s => (s.restFenced n).upFlt fun f => f.fence (srcCh n)

theorem State.restBay_ch (s : State) {l : List Ch} (hl : l.Nodup) (n : Ch) : (n ∉ l → (s.restBay l).ch n = s.ch n) ∧
    (n ∈ l → ∃ d, (s.ch n).Rested d ∧ (s.restBay l).ch n = d.fenceAtRest) := by
  obtain ⟨hout, hin⟩ := State.each_turn (P := fun _ => True) (f := fun n s => (s.restFenced n).upFlt fun f => f.fence (srcCh n))
    (fun _ _ _ => trivial) (fun a u j _ hj => (State.upFlt_ch _ _ j).trans ((u.restFenced_ch a).1 j hj)) hl (s := s) trivial n
  refine ⟨hout, fun hn => ?_⟩
  obtain ⟨u, -, hu, hres⟩ := hin hn
  obtain ⟨d, hd, he⟩ := (u.restFenced_ch n).2
  rw [hu] at hd
  exact ⟨d, hd, hres.trans ((State.upFlt_ch _ _ n).trans he)⟩

/-- No migration borrows from bay `b` any more. -/
def State.dropLent (s : State) (b : Bay) : State :=
  s.each (allBayIxs.filter fun a => (s.mig a).runs && (s.mig a).lender == some b) fun a s => s.abandonMig a

theorem State.dropLent_abandons (s : State) (b : Bay) : s.Abandons (s.dropLent b) := State.Abandons.each (fun a t => t.abandonMig_abandons a) _ s

/-- The bay shows its fence with the channels that it sent to rest. -/
def BaySt.fence (x : BaySt) (l : List Ch) : BaySt := { x with fenced := true, sent := l }

theorem State.reactBay_eq (s : State) (b : Bay) : s.reactBay b =
    ((((s.abandonMig b).restBay (s.availOf b)).dropLent b).upBay b fun x => x.fence (s.availOf b)).remapped s := by
  unfold State.reactBay State.restBay State.dropLent State.availOf
  rfl

/-- What a channel shows behind its bay's fence, whichever migrations were abandoned around it. -/
theorem State.reactBay_ch (s : State) (b : Bay) (n : Ch) : ∃ y g d, (s.reactBay b).ch n = { d with range := y, map := { d.map with gen := g } } ∧
    (n ∉ s.availOf b → ∃ x, d = { s.ch n with range := x }) ∧ (n ∈ s.availOf b → ∃ e, (s.ch n).Rested e ∧ d = e.fenceAtRest) := by
  have hdrop := s.abandonMig_abandons b
  obtain ⟨x, hx⟩ := hdrop.ch n
  obtain ⟨hout, hin⟩ := (s.abandonMig b).restBay_ch (s.availOf_nodup b) n
  rw [State.reactBay_eq]
  generalize (s.abandonMig b).restBay (s.availOf b) = u at hout hin ⊢
  obtain ⟨y, hy⟩ := (u.dropLent_abandons b).ch n
  obtain ⟨g, hg, -⟩ := ((u.dropLent b).upBay b fun x => x.fence (s.availOf b)).remapped_ch s n
  rw [State.upBay_ch, hy] at hg
  refine ⟨y, g, u.ch n, hg, fun hn => ⟨x, (hout hn).trans hx⟩, fun hn => ?_⟩
  obtain ⟨e, he, hd⟩ := hin hn
  exact ⟨e, hdrop.rested he, hd⟩

theorem State.reactBay_fenced (s : State) (b : Bay) : ((s.reactBay b).bay b).fenced = true := by
  rw [State.reactBay_eq]
  generalize ((s.abandonMig b).restBay (s.availOf b)).dropLent b = u
  have hbay : ((u.upBay b fun x => x.fence (s.availOf b)).remapped s).bay b = (u.upBay b fun x => x.fence (s.availOf b)).bay b := rfl
  rw [hbay, State.upBay_bay]
  rfl

theorem State.reactMajor_bridge {s : State} {r : Reaction} {g : Fin 7} (hu : srcGroup r.unit = .bridge g) :
    s.taking.reactMajor r = (s.fencing r.unit).reactBridge g := by
  simp only [State.reactMajor, hu]
  rfl

/-- With a spare at home, and no migration over the bridge, the channel that it carries asks to go home. -/
theorem State.reactBridge_home {s : State} {g : Fin 7} {n : Ch} (hn : s.att.bridge[g.val] = some n) (hs : s.spares (chBay n) ≠ [])
    (hm : ∀ b, (s.mig b).runs = true → (s.mig b).bridge ≠ some g) : s.reactBridge g =
      s.request { ch := n, cause := .homecoming, keepOld := true, cold := false } := by
  have hnone : (allBayIxs.filter fun a => (s.mig a).runs && (s.mig a).bridge == some g) = [] := by
    refine List.filter_eq_nil_iff.mpr fun b _ => ?_
    simpa using hm b
  unfold State.reactBridge
  simp only [hnone, State.each_nil, hn]
  exact if_neg (by simpa using hs)

end Sys2Proof.Machine
end

section
/-! SUPPORT. What FAULT_REACTION leaves of each unit that fails (R332, R374 … R376). -/

namespace Sys2Proof.Machine

theorem exec_faultReaction_opensAll {s : State} {r : Reaction} (hr : s.runs) (h : s.flt.reactions = [r]) (hc : r.cls = .grave) :
    ∃ t, exec .faultReaction s = .next t ∧ t.att.requests = [] ∧
      ∀ n, (t.ch n).loop.st = .opened ∧ (t.ch n).strand.st.active = false ∧ (t.ch n).map.cell = (s.ch n).map.cell ∧
        (t.ch n).force.code = (s.ch n).force.code ∧
        ((s.ch n).strand.st.active = true → (s.ch n).strand.endReq = none → (t.ch n).strand.reason = .fault) := by
  obtain ⟨hreq, hch⟩ := s.taking.reactGrave_spec
  refine ⟨_, exec_faultReaction_grave hr h hc, hreq, fun n => ?_⟩
  obtain ⟨hloop, hown⟩ := hch n
  exact ⟨hloop, hown.idle, congrArg ChMap.cell hown.map, hown.code, fun ha _ => hown.reason ha⟩

section
variable {s : State} {r : Reaction} (hr : s.runs) (h : s.flt.reactions = [r]) (hc : r.cls ≠ .grave)
include hr h hc

theorem exec_faultReaction_link {p : Port} (hu : srcGroup r.unit = .link p) :
    ∃ t, exec .faultReaction s = .next t ∧ t = { s with flt := t.flt, lnk := t.lnk } ∧
      t.lnk.ports[p.val].st = .fenced ∧ (∀ x : Port, x ≠ p → t.lnk.ports[x.val] = s.lnk.ports[x.val]) ∧
      (t.flt.srcSt r.unit).fenced = true := by
  refine ⟨_, (exec_faultReaction_major hr h hc).trans (congrArg Host.Outcome.next (State.reactMajor_link hu)), rfl, ?_, fun x hx => ?_,
    s.fencing_fenced r.unit⟩
  · exact congrArg PortSt.st (Vector.getElem_set_self p.isLt)
  · exact Vector.getElem_set_ne p.isLt x.isLt fun e => hx (Fin.ext e.symm)

theorem exec_faultReaction_cellar (hu : srcGroup r.unit = .cellar) :
    ∃ t, exec .faultReaction s = .next t ∧ t = { s with flt := t.flt, cel := t.cel, att := t.att } ∧
      t.cel.st = .fenced ∧ t.cel.work = [] ∧ t.cel.running = none ∧ t.cel.busy = false ∧ t.flt.persistOff = true ∧
      (t.flt.srcSt r.unit).fenced = true ∧ ∀ b, (s.mig b).runs = true → (t.mig b).confirmed = true := by
  refine ⟨_, (exec_faultReaction_major hr h hc).trans (congrArg Host.Outcome.next (State.reactMajor_cellar hu)), rfl, rfl, rfl, rfl, rfl, rfl,
    s.fencing_fenced r.unit, fun b hb => ?_⟩
  have hruns : ((s.fencing r.unit).mig b).runs = true := hb
  rw [State.reactCellar_mig, hruns, Bool.or_true]

theorem exec_faultReaction_carrying {k : CellIx} {n : Ch} (hu : srcGroup r.unit = .cell k)
    (hk : (s.cell k).role = .active ∨ (s.cell k).role = .member) (hn : s.channelOf k = some n) (he : (s.ch n).decl.enabled = true)
    (hm : s.migrating n = false) (hq : ∀ q, q ∈ s.att.requests → q.ch ≠ n) :
    ∃ t, exec .faultReaction s = .next t ∧ (t.ch n).map.cell = (s.ch n).map.cell ∧ (t.ch n).map.avail = (s.ch n).map.avail ∧
      t.att.requests = s.att.requests ++ [{ ch := n, cause := .fault, keepOld := false, cold := coldKind r.msg.kind }] ∧
      (coldKind r.msg.kind = false → t.chans = s.chans ∧ (t.cell k).condemned = true ∧ (t.flt.srcSt r.unit).fenced = true ∧
        (t.cell k).role = (s.cell k).role ∧ (t.cell k).switchOn = (s.cell k).switchOn) ∧
      (coldKind r.msg.kind = true → (t.ch (s.pins n)).force.out = .opened ∧ (t.ch (s.pins n)).loop.st = .opened ∧
        (t.ch (s.pins n)).strand.st.active = false ∧ (t.ch (s.pins n)).force.code = (s.ch (s.pins n)).force.code ∧
        ∀ j, j ≠ s.pins n → t.ch j = s.ch j) := by
  have hreact : s.taking.reactMajor r = _ :=
    (State.reactMajor_cell hu).trans (State.reactCell_carries (s := s.fencing r.unit) r.msg.kind hk hn he)
  refine ⟨_, (exec_faultReaction_major hr h hc).trans (congrArg Host.Outcome.next hreact), ?_⟩
  cases hcold : coldKind r.msg.kind with
  | false =>
    have hreq := State.request_queues (s := (s.fencing r.unit).condemn k) (q := { ch := n, cause := .fault, keepOld := false, cold := false }) hq hm
    have hcell : ((s.fencing r.unit).condemn k).cell k = { s.cell k with condemned := true } := State.upCell_cell _ k _
    simp only [Bool.false_eq_true, if_false]
    rw [hreq]
    refine ⟨rfl, rfl, rfl, fun _ => ⟨rfl, ?_, s.fencing_fenced r.unit, ?_, ?_⟩, False.elim⟩
    · exact congrArg Cell.condemned hcell
    · exact (congrArg Cell.role hcell :)
    · exact (congrArg Cell.switchOn hcell :)
  | true =>
    obtain ⟨hatt, hothers, hown, hout, hloop⟩ := ((s.fencing r.unit).condemn k).openCold_spec (s.pins n)
    have hmap := ((s.fencing r.unit).condemn k).openCold_map (s.pins n) n
    have hpins : (s.fencing r.unit).pins n = s.pins n := rfl
    simp only [if_true, hpins]
    generalize ((s.fencing r.unit).condemn k).openCold (s.pins n) = u at hatt hothers hown hout hloop hmap ⊢
    have hreq := State.request_queues (s := u) (q := { ch := n, cause := .fault, keepOld := false, cold := true }) (by rw [hatt]; exact hq)
      (by rw [State.migrating, State.mig_congr (congrArg Att.bays hatt)]; exact hm)
    rw [hreq]
    refine ⟨congrArg ChMap.cell hmap, congrArg ChMap.avail hmap, ?_, fun e => Bool.noConfusion e, fun _ => ⟨hout, hloop, hown.idle, hown.code, hothers⟩⟩
    exact congrArg (fun a : Att => a.requests ++ [_]) hatt

theorem exec_faultReaction_spare {k : CellIx} (hu : srcGroup r.unit = .cell k) (hk : (s.cell k).role = .spare)
    (hm : ∀ b, (s.mig b).runs = true → (s.mig b).newCell ≠ some k) :
    ∃ t, exec .faultReaction s = .next t ∧ t.chans = s.chans ∧ t.att = s.att ∧ (t.cell k).role = .fenced ∧
      (t.flt.srcSt r.unit).fenced = true ∧ ∀ j, j ≠ k → t.cell j = s.cell j := by
  have hreact : s.taking.reactMajor r = (s.fencing r.unit).upCell k fun x => x.retire true :=
    (State.reactMajor_cell hu).trans (State.reactCell_spare (s := s.fencing r.unit) r.msg.kind hk hm)
  refine ⟨_, (exec_faultReaction_major hr h hc).trans (congrArg Host.Outcome.next hreact), rfl, rfl, ?_, s.fencing_fenced r.unit, fun j hj => ?_⟩
  · rw [State.upCell_cell]
    rfl
  · exact State.upCell_cell_ne _ _ hj

theorem exec_faultReaction_channel {n : Ch} (hu : srcGroup r.unit = .channel n) (hb : ∀ b, srcGroup r.msg.src ≠ .bay b)
    (h7 : r.msg.kind ≠ 7) (h9 : r.msg.kind ≠ 9) :
    ∃ t, exec .faultReaction s = .next t ∧ (t.ch n).map.avail = false ∧ (t.ch n).fence = .atRest ∧ (t.ch n).strand.st.active = false ∧
      (t.ch n).map.cell = (s.ch n).map.cell ∧ (t.ch n).force.code = (s.ch n).force.code ∧
      ((s.ch n).strand.st.active = true → (s.ch n).strand.endReq = none → (t.ch n).strand.reason = .fault) ∧
      ∀ j, j ≠ n → ∃ g, t.ch j = { s.ch j with map := { (s.ch j).map with gen := g } } := by
  have hreact := (State.reactMajor_channel hu).trans (State.reactChannel_rests (s := s.fencing r.unit) hb h7 h9)
  obtain ⟨hothers, d, hd, hown⟩ := (s.fencing r.unit).restFenced_ch n
  refine ⟨_, (exec_faultReaction_major hr h hc).trans (congrArg Host.Outcome.next hreact), ?_⟩
  obtain ⟨g, hg, -⟩ := ((s.fencing r.unit).restFenced n).remapped_ch (s.fencing r.unit) n
  rw [hg, hown]
  refine ⟨rfl, rfl, hd.idle, (congrArg ChMap.cell hd.map :), hd.code, fun ha _ => hd.reason ha, fun j hj => ?_⟩
  obtain ⟨g, hg, -⟩ := ((s.fencing r.unit).restFenced n).remapped_ch (s.fencing r.unit) j
  rw [hothers j hj] at hg
  exact ⟨g, hg⟩

theorem exec_faultReaction_bay {b : Bay} (hu : srcGroup r.unit = .bay b) :
    ∃ t, exec .faultReaction s = .next t ∧ (t.bay b).fenced = true ∧
      (∀ n, chBay n = b → (s.ch n).map.avail = true → (t.ch n).map.avail = false ∧ (t.ch n).fence = .atRest ∧
        (t.ch n).strand.st.active = false ∧ (t.ch n).force.code = (s.ch n).force.code) ∧
      ∀ n, chBay n ≠ b → (t.ch n).map.avail = (s.ch n).map.avail ∧ (t.ch n).strand = (s.ch n).strand ∧ (t.ch n).force = (s.ch n).force := by
  refine ⟨_, (exec_faultReaction_major hr h hc).trans (congrArg Host.Outcome.next (State.reactMajor_bay hu)), State.reactBay_fenced _ b,
    fun n hn ha => ?_, fun n hn => ?_⟩
  · obtain ⟨y, g, d, hch, -, hin⟩ := (s.fencing r.unit).reactBay_ch b n
    obtain ⟨e, he, rfl⟩ := hin (State.mem_availOf.mpr ⟨hn, ha⟩)
    rw [hch]
    exact ⟨rfl, rfl, he.idle, he.code⟩
  · obtain ⟨y, g, d, hch, hout, -⟩ := (s.fencing r.unit).reactBay_ch b n
    obtain ⟨x, rfl⟩ := hout fun hm => hn (State.mem_availOf.mp hm).1
    rw [hch]
    exact ⟨rfl, rfl, rfl⟩

theorem exec_faultReaction_bridge {g : Fin 7} {n : Ch} (hu : srcGroup r.unit = .bridge g) (hn : s.att.bridge[g.val] = some n)
    (hs : s.spares (chBay n) ≠ []) (hm : s.migrating n = false) (hq : ∀ q, q ∈ s.att.requests → q.ch ≠ n)
    (hb : ∀ b, (s.mig b).runs = true → (s.mig b).bridge ≠ some g) :
    ∃ t, exec .faultReaction s = .next t ∧ t.chans = s.chans ∧ t.cells = s.cells ∧
      t.att.requests = s.att.requests ++ [{ ch := n, cause := .homecoming, keepOld := true, cold := false }] := by
  have hreact : s.taking.reactMajor r = _ :=
    ((State.reactMajor_bridge hu).trans (State.reactBridge_home (s := s.fencing r.unit) hn hs hb)).trans (State.request_queues hq hm)
  exact ⟨_, (exec_faultReaction_major hr h hc).trans (congrArg Host.Outcome.next hreact), rfl, rfl, rfl⟩

end

end Sys2Proof.Machine
end

section
/-! SUPPORT. The coffer: a record written from the FIFO, a coalesce counter drained, and a persistence (R383 … R389, R411, R412). -/

namespace Sys2Proof.Machine

/-! ### The collector writes a record (R383 … R387) -/

/-- The FIFO's first record enters the coffer. -/
def Flt.writeFirst (f : Flt) : Flt :=
  match f.fifo with
  | r :: l => ({ f with fifo := l }).writeRecord r
  | [] => f

theorem exec_cofferWrite_runs {s : State} (hr : s.runs) :
    exec .cofferWrite s = .next (s.upFlt fun f => f.writeFirst.drainCoal).reportLost := by
  refine congrArg Host.Outcome.next ((s.live_of _ hr).trans ?_)
  unfold Flt.writeFirst
  dsimp only
  split <;> next h => simp only [State.upFlt, h]

theorem Flt.writeFirst_cons {f : Flt} {r : FRec} {l : List FRec} (h : f.fifo = r :: l) : f.writeFirst = ({ f with fifo := l }).writeRecord r := by
  rw [Flt.writeFirst, h]

theorem Flt.writeFirst_nil {f : Flt} (h : f.fifo = []) : f.writeFirst = f := by
  rw [Flt.writeFirst, h]

/-- Without a counter, or without room, nothing drains. -/
theorem Flt.drainCoal_none {f : Flt} (h : earliest f.coal = none) : f.drainCoal = f := by
  simp [Flt.drainCoal, h]

theorem Flt.drainCoal_some {f : Flt} {c : Coal} (h : earliest f.coal = some c) (hl : f.fifo.length < 32) : f.drainCoal =
    { f with fifo := f.fifo ++ [c.toRec], coal := f.coal.filter fun d => !(d.src == c.src && d.kind == c.kind), coalCount := satInc f.coalCount } := by
  simp [Flt.drainCoal, h, hl]

/-- A drained counter moves to the FIFO: the coffer knows nothing of it. -/
theorem Flt.drainCoal_frame (f : Flt) : f.drainCoal =
    { f with fifo := f.drainCoal.fifo, coal := f.drainCoal.coal, coalCount := f.drainCoal.coalCount } := by
  unfold Flt.drainCoal
  repeat' split
  all_goals rfl

theorem State.reportLost_of {s : State} (h : s.flt.lost = false) : s.reportLost = s := by
  simp [State.reportLost, h]

/-- A LOST record waits in the FIFO: the coffer and its counters stand. -/
theorem State.reportLost_frame (s : State) : s.reportLost = { s with flt := s.reportLost.flt } ∧ s.reportLost.flt.coffer = s.flt.coffer ∧
    s.reportLost.flt.seq = s.flt.seq ∧ s.reportLost.flt.overwrites = s.flt.overwrites := by
  unfold State.reportLost
  split
  · obtain ⟨_, _, _, _, _, _, _, _, _, _, h⟩ := (s.upFlt fun f => { f with lostWritten := true }).collectFlt_spec
      { src := srcCollector, kind := BitVec.ofNat 6 1, addr := BitVec.ofNat 32 s.flt.lostCount.toNat }
    have hpost : ((s.upFlt fun f => { f with lostWritten := true }).post srcCollector 1 s.flt.lostCount.toNat).flt = _ := h
    exact ⟨rfl, (congrArg Flt.coffer hpost :), (congrArg Flt.seq hpost :), (congrArg Flt.overwrites hpost :)⟩
  · exact ⟨rfl, rfl, rfl, rfl⟩

theorem exec_cofferWrite_idle {s : State} (hr : s.runs) (hf : s.flt.fifo = []) (hc : s.flt.coal = []) (hl : s.flt.lost = false) :
    exec .cofferWrite s = .next s := by
  have hcoal : earliest s.flt.coal = none := by rw [hc, earliest]
  rw [exec_cofferWrite_runs hr]
  have hsame : (s.upFlt fun f => f.writeFirst.drainCoal) = s := by
    rw [State.upFlt, Flt.writeFirst_nil hf, Flt.drainCoal_none hcoal]
  rw [hsame, State.reportLost_of hl]

/-- The record as the coffer holds it. -/
def Flt.recorded (f : Flt) (r : FRec) : FRec := { r with seq := nextSeqNo f.seq, live := (f.srcSt r.src).live.getLsbD r.kind.toNat }

theorem Flt.writeRecord_room {f : Flt} (r : FRec) (h : f.coffer.length < 4096) :
    (f.writeRecord r).coffer = insertAt f.coffer f.coffer.length (f.recorded r) ∧ (f.writeRecord r).overwrites = f.overwrites := by
  have hfull : decide (4096 ≤ f.coffer.length) = false := by simpa using h
  simp only [Flt.writeRecord, hfull, Bool.false_eq_true, if_false]
  exact ⟨rfl, trivial⟩

theorem Flt.writeRecord_full {f : Flt} (r : FRec) (h : 4096 ≤ f.coffer.length) :
    (f.writeRecord r).coffer = insertAt f.coffer f.victim (f.recorded r) ∧ (f.writeRecord r).overwrites = satInc f.overwrites := by
  have hfull : decide (4096 ≤ f.coffer.length) = true := by simpa using h
  simp only [Flt.writeRecord, hfull, if_true]
  exact ⟨rfl, trivial⟩

theorem exec_cofferWrite_writes {s : State} {r : FRec} {l : List FRec} (hr : s.runs) (hf : s.flt.fifo = r :: l) :
    ∃ t, exec .cofferWrite s = .next t ∧ t = { s with flt := t.flt } ∧ t.flt.seq = nextSeqNo s.flt.seq ∧
      (s.flt.coffer.length < 4096 → findAt t.flt.coffer s.flt.coffer.length =
          some { r with seq := nextSeqNo s.flt.seq, live := (s.flt.srcSt r.src).live.getLsbD r.kind.toNat } ∧
        t.flt.overwrites = s.flt.overwrites ∧ ∀ i, i ≠ s.flt.coffer.length → findAt t.flt.coffer i = findAt s.flt.coffer i) ∧
      (4096 ≤ s.flt.coffer.length → findAt t.flt.coffer s.flt.victim =
          some { r with seq := nextSeqNo s.flt.seq, live := (s.flt.srcSt r.src).live.getLsbD r.kind.toNat } ∧
        t.flt.overwrites = satInc s.flt.overwrites ∧ ∀ i, i ≠ s.flt.victim → findAt t.flt.coffer i = findAt s.flt.coffer i) ∧
      (s.flt.coal = [] → s.flt.lost = false → t.flt.fifo = l) ∧
      (∀ c, earliest s.flt.coal = some c → l.length < 32 → s.flt.lost = false → t.flt.fifo = l ++ [c.toRec] ∧
        t.flt.coalCount = satInc s.flt.coalCount ∧ t.flt.coal = s.flt.coal.filter (fun d => !(d.src == c.src && d.kind == c.kind))) := by
  let w : Flt := ({ s.flt with fifo := l }).writeRecord r
  have hw : s.flt.writeFirst = w := Flt.writeFirst_cons hf
  have hdrain : w.drainCoal.coffer = w.coffer ∧ w.drainCoal.seq = w.seq ∧ w.drainCoal.overwrites = w.overwrites := by
    rw [Flt.drainCoal_frame]
    exact ⟨rfl, rfl, rfl⟩
  obtain ⟨hframe, hcoffer, hseq, hover⟩ := (s.upFlt fun f => f.writeFirst.drainCoal).reportLost_frame
  have hupd : (s.upFlt fun f => f.writeFirst.drainCoal).flt = w.drainCoal := by rw [State.upFlt, hw]
  rw [hupd] at hcoffer hseq hover
  refine ⟨_, exec_cofferWrite_runs hr, hframe, hseq.trans hdrain.2.1, fun h => ?_, fun h => ?_, fun hc hl => ?_, fun c hc hlen hl => ?_⟩
  · obtain ⟨hin, hov⟩ := Flt.writeRecord_room (f := { s.flt with fifo := l }) r h
    rw [hcoffer, hdrain.1, hin]
    exact ⟨findAt_insertAt_same _ _ _, (hover.trans hdrain.2.2).trans hov, fun i hi => findAt_insertAt_ne _ _ hi⟩
  · obtain ⟨hin, hov⟩ := Flt.writeRecord_full (f := { s.flt with fifo := l }) r h
    rw [hcoffer, hdrain.1, hin]
    exact ⟨findAt_insertAt_same _ _ _, (hover.trans hdrain.2.2).trans hov, fun i hi => findAt_insertAt_ne _ _ hi⟩
  · have hnone : earliest w.coal = none := by
      show earliest s.flt.coal = none
      rw [hc, earliest]
    rw [Flt.drainCoal_none hnone] at hupd
    rw [State.reportLost_of (by rw [hupd]; exact hl), hupd]
    rfl
  · rw [Flt.drainCoal_some (f := w) hc hlen] at hupd
    rw [State.reportLost_of (by rw [hupd]; exact hl), hupd]
    exact ⟨rfl, rfl, rfl⟩

/-! ### A persistence (R389, R411, R412) -/

theorem exec_cofferPersist_runs {s : State} (hr : s.runs) : exec .cofferPersist s =
    .next (if s.celWrites && !s.flt.persistOff && s.persistDue then s.persistAll.persistEnd s.flt.grave else s) :=
  congrArg _ (s.live_of _ hr)

theorem exec_cofferPersist_rests {s : State} (hr : s.runs) (h : s.cel.st ≠ .ready ∨ s.flt.persistOff = true ∨ s.persistDue = false) :
    exec .cofferPersist s = .next s := by
  rw [exec_cofferPersist_runs hr, if_neg]
  rcases h with h | h | h <;> simp [State.celWrites, h]

theorem exec_cofferPersist_due {s : State} (hr : s.runs) (hc : s.cel.st = .ready) (ho : s.flt.persistOff = false) (hd : s.persistDue = true) :
    exec .cofferPersist s = .next (s.persistAll.persistEnd s.flt.grave) := by
  rw [exec_cofferPersist_runs hr, if_pos]
  simp [State.celWrites, hc, ho, hd]

theorem State.program_frame (s : State) (r : Region) (l set : Nat) (last : Bool) (data : List Byte) : s.program r l set last data =
    { s with flash := (s.program r l set last data).flash, cel := (s.program r l set last data).cel } := by
  unfold State.program
  split <;> rfl

/-- What a persistence leaves alone: it is the flash's, the cellar's and the collector's, and no record of the coffer changes. -/
structure State.Persists (s t : State) : Prop where
  rest : t = { s with flt := t.flt, flash := t.flash, cel := t.cel }
  coffer : t.flt.coffer = s.flt.coffer
  off : t.flt.persistOff = s.flt.persistOff

theorem State.Persists.refl (s : State) : s.Persists s := ⟨rfl, rfl, rfl⟩

theorem State.Persists.trans {a b c : State} (h : a.Persists b) (k : b.Persists c) : a.Persists c :=
  ⟨by rw [k.rest, h.rest], k.coffer.trans h.coffer, k.off.trans h.off⟩

/-- A record for which no block was found is marked, with its message. -/
def State.persistFailed (x : Nat × FRec) (s : State) : State :=
  (s.upFlt fun f => { f with failed := f.failed ++ [x.2.seq] }).post srcCollector 3 x.2.seq.toNat

theorem State.persistFails_eq (s : State) (l : List (Nat × FRec)) :
    s.persistFails l = s.each (l.filter fun x => !s.flt.failed.contains x.2.seq) State.persistFailed := rfl

theorem State.persistFailed_spec (x : Nat × FRec) (s : State) : s.Persists (State.persistFailed x s) ∧
    (State.persistFailed x s).flt.failed = s.flt.failed ++ [x.2.seq] ∧ (State.persistFailed x s).flt.persistSeq = s.flt.persistSeq ∧
    (State.persistFailed x s).flt.persisted = s.flt.persisted := by
  obtain ⟨_, _, _, _, _, _, _, _, _, _, h⟩ := (s.upFlt fun f => { f with failed := f.failed ++ [x.2.seq] }).collectFlt_spec
    { src := srcCollector, kind := BitVec.ofNat 6 3, addr := BitVec.ofNat 32 x.2.seq.toNat }
  have hpost : (State.persistFailed x s).flt = _ := h
  exact ⟨⟨rfl, (congrArg Flt.coffer hpost :), (congrArg Flt.persistOff hpost :)⟩, (congrArg Flt.failed hpost :), (congrArg Flt.persistSeq hpost :),
    (congrArg Flt.persisted hpost :)⟩

theorem State.eachFailed_spec (l : List (Nat × FRec)) (s : State) : s.Persists (s.each l State.persistFailed) ∧
    (s.each l State.persistFailed).flt.failed = s.flt.failed ++ l.map (fun x => x.2.seq) ∧
    (s.each l State.persistFailed).flt.persistSeq = s.flt.persistSeq ∧ (s.each l State.persistFailed).flt.persisted = s.flt.persisted := by
  induction l generalizing s with
  | nil => exact ⟨State.Persists.refl s, by simp, rfl, rfl⟩
  | cons x l ih =>
    obtain ⟨hp, hf, hq, hs⟩ := State.persistFailed_spec x s
    obtain ⟨hp', hf', hq', hs'⟩ := ih (State.persistFailed x s)
    exact ⟨hp.trans hp', by rw [State.each_cons, hf', hf]; simp, hq'.trans hq, hs'.trans hs⟩

/-- Each record waits on, marked as failed whether now or before. -/
theorem State.persistFails_marks (s : State) (l : List (Nat × FRec)) : s.Persists (s.persistFails l) ∧
    (s.persistFails l).flt.persistSeq = s.flt.persistSeq ∧ (s.persistFails l).flt.persisted = s.flt.persisted ∧
    ∀ y, y ∈ l → y.2.seq ∈ (s.persistFails l).flt.failed := by
  obtain ⟨hp, hf, hq, hs⟩ := State.eachFailed_spec (l.filter fun x => !s.flt.failed.contains x.2.seq) s
  rw [State.persistFails_eq]
  refine ⟨hp, hq, hs, fun y hy => ?_⟩
  rw [hf, List.mem_append]
  by_cases h : y.2.seq ∈ s.flt.failed
  · exact .inl h
  · exact .inr (List.mem_map.mpr ⟨y, List.mem_filter.mpr ⟨hy, by simpa using h⟩, rfl⟩)

theorem State.persistPage_refused {s : State} (l : List (Nat × FRec)) (h : s.flash.target .coffer = none) : s.persistPage l = s.persistFails l :=
  if_pos h

/-- A page that finds a block commits its records. -/
theorem State.persistPage_commits {s : State} (l : List (Nat × FRec)) (h : s.flash.target .coffer ≠ none) : s.Persists (s.persistPage l) ∧
    (s.persistPage l).flt.persisted = s.flt.persisted ++ l.map (·.1) ∧
    ∀ x, l.getLast? = some x → (s.persistPage l).flt.persistSeq = x.2.seq := by
  unfold State.persistPage
  rw [if_neg h]
  dsimp only
  rw [State.program_frame]
  exact ⟨⟨rfl, rfl, rfl⟩, rfl, fun x hx => by simp only [State.upFlt, hx]⟩

theorem State.persistPage_persists (s : State) (l : List (Nat × FRec)) : s.Persists (s.persistPage l) := by
  by_cases h : s.flash.target .coffer = none
  · rw [State.persistPage_refused l h]
    exact (s.persistFails_marks l).1
  · exact (State.persistPage_commits l h).1

theorem State.persistRecords_persists (s : State) (fuel : Nat) (l : List (Nat × FRec)) : s.Persists (s.persistRecords fuel l) := by
  induction fuel generalizing s l with
  | zero => exact State.Persists.refl s
  | succ fuel ih =>
    cases l with
    | nil => exact State.Persists.refl s
    | cons x l => exact (s.persistPage_persists _).trans (ih _ _)

/-- Records that fit a page are one page. -/
theorem State.persistRecords_page {s : State} {l : List (Nat × FRec)} (fuel : Nat) (hl : l ≠ []) (hp : l.length ≤ s.flash.pageSize / 32) :
    s.persistRecords (fuel + 1) l = s.persistPage l := by
  obtain ⟨x, l', rfl⟩ := List.exists_cons_of_ne_nil hl
  rw [State.persistRecords, List.take_of_length_le hp, List.drop_of_length_le hp]
  · cases fuel <;> rfl
  · simp

theorem State.persistHistory_frame (s : State) (fuel : Nat) (h : List (List Word)) : s.persistHistory fuel h =
    { s with flash := (s.persistHistory fuel h).flash, cel := (s.persistHistory fuel h).cel } := by
  induction fuel generalizing s h with
  | zero => rfl
  | succ fuel ih =>
    cases h with
    | nil => rfl
    | cons e h =>
      rw [State.persistHistory]
      · rw [ih, State.program_frame]
      · simp

/-- A persistence behind its records: the history goes where a block takes it. -/
theorem State.persistAll_spec (s : State) : s.persistAll.flt = (s.persistRecords 4096 s.flt.unpersisted).flt ∧ s.persistAll.chans = s.chans ∧
    s.persistAll.cells = s.cells ∧ (s.persistAll.att.history = [] ∨ s.persistAll.flash.target .history = none) := by
  have hp := s.persistRecords_persists 4096 s.flt.unpersisted
  unfold State.persistAll
  generalize s.persistRecords 4096 s.flt.unpersisted = u at hp ⊢
  dsimp only
  split
  · next h => exact ⟨rfl, by rw [hp.rest], by rw [hp.rest], .inr h⟩
  · rw [State.persistHistory_frame]
    exact ⟨rfl, by rw [State.upAtt_chans, hp.rest], by rw [State.upAtt_cells, hp.rest], .inl rfl⟩

theorem State.persistEnd_frame (s : State) (final : Bool) :
    s.persistEnd final = { s with flt := { s.flt with persistOff := final || s.flt.persistOff } } := by
  cases final <;> rfl

theorem exec_cofferPersist_persists {s : State} (hr : s.runs) (hc : s.cel.st = .ready) (ho : s.flt.persistOff = false) (hd : s.persistDue = true) :
    ∃ t, exec .cofferPersist s = .next t ∧ t.chans = s.chans ∧
      t.cells = s.cells ∧ t.flt.coffer = s.flt.coffer ∧ (t.att.history = [] ∨ t.flash.target .history = none) ∧ t.flt.persistOff = s.flt.grave ∧
      ∀ x, s.flt.unpersisted.getLast? = some x → s.flt.unpersisted.length ≤ s.flash.pageSize / 32 →
        (s.flash.target .coffer ≠ none → t.flt.persistSeq = x.2.seq ∧ t.flt.persisted = s.flt.persisted ++ s.flt.unpersisted.map (·.1)) ∧
        (s.flash.target .coffer = none → t.flt.persistSeq = s.flt.persistSeq ∧ t.flt.persisted = s.flt.persisted ∧
          ∀ y, y ∈ s.flt.unpersisted → y.2.seq ∈ t.flt.failed) := by
  obtain ⟨hflt, hchans, hcells, hhist⟩ := s.persistAll_spec
  have hp := s.persistRecords_persists 4096 s.flt.unpersisted
  refine ⟨_, exec_cofferPersist_due hr hc ho hd, ?_⟩
  rw [State.persistEnd_frame]
  refine ⟨hchans, hcells, (congrArg Flt.coffer hflt).trans hp.coffer, hhist, ?_, fun x hx hlen => ?_⟩
  · show (s.flt.grave || s.persistAll.flt.persistOff) = s.flt.grave
    rw [hflt, hp.off, ho, Bool.or_false]
  · have hne : s.flt.unpersisted ≠ [] := fun e => by simp [e] at hx
    rw [State.persistRecords_page 4095 hne hlen] at hflt
    rw [hflt]
    refine ⟨fun ht => ?_, fun ht => ?_⟩
    · obtain ⟨-, hps, hseq⟩ := State.persistPage_commits s.flt.unpersisted ht
      exact ⟨hseq x hx, hps⟩
    · rw [State.persistPage_refused _ ht]
      exact (s.persistFails_marks s.flt.unpersisted).2

end Sys2Proof.Machine
end

section
/-! SUPPORT. Re-admission: its result in the order of R381, and its effect on each kind of unit (R31, R382, R396, R421, R490). -/

namespace Sys2Proof.Machine

/-! ### The result (R381) -/

theorem State.readmit_idle {s : State} {v : Word} (h : v.getLsbD 31 = false) : s.readmit v = s := if_neg (Bool.eq_false_iff.mp h)

theorem State.readmit_accepted {s : State} {v : Word} {u : BitVec 10} (h : v.getLsbD 31 = true) (hr : s.readmitResult v = .ok)
    (hu : readmitUnit v = some u) : s.readmit v = (s.readmitted v .ok).readmitEffect u := by
  unfold State.readmit
  rw [if_pos h]
  simp only [hr, hu]
  rfl

theorem State.readmitResult_badUnit {s : State} {v : Word} (hg : s.flt.grave = false) (hu : readmitUnit v = none) : s.readmitResult v = .badUnit := by
  simp [State.readmitResult, hg, hu]

/-- The order of the conditions on a unit that exists. -/
theorem State.readmitResult_unit {s : State} {v : Word} {u : BitVec 10} (hg : s.flt.grave = false) (hu : readmitUnit v = some u) :
    s.readmitResult v = if (s.flt.srcSt u).fenced = false then .notFenced else if s.unitBusy u = true then .busy
      else if (s.flt.srcSt u).live ≠ 0 then .live else if (s.flt.srcSt u).sticky ≠ 0 then .unacked
      else if s.readmitNoSpare u = true then .noSpare else .ok := by
  simp [State.readmitResult, hg, hu]

theorem State.readmitResult_ok {s : State} {v : Word} (h : s.readmitResult v = .ok) : ∃ u, readmitUnit v = some u := by
  cases hu : readmitUnit v with
  | some u => exact ⟨u, rfl⟩
  | none =>
    cases hg : s.flt.grave with
    | true => cases (State.readmitResult_atGrave v hg).symm.trans h
    | false => cases (State.readmitResult_badUnit hg hu).symm.trans h

/-! ### What every effect leaves: the registers of the re-admission (R396) -/

/-- `g` shows the same re-admission as `f`. -/
structure Flt.SameReadmit (f g : Flt) : Prop where
  done : g.readmitDone = f.readmitDone
  res : g.readmitRes = f.readmitRes
  unit : g.readmitUnit = f.readmitUnit
  index : g.readmitIndex = f.readmitIndex

theorem Flt.SameReadmit.refl (f : Flt) : f.SameReadmit f := ⟨rfl, rfl, rfl, rfl⟩

section
variable {f : Flt} {s : State} (h : f.SameReadmit s.flt)
include h

theorem State.post_sameReadmit (src : BitVec 10) (kind addr : Nat) : f.SameReadmit (s.post src kind addr).flt := by
  obtain ⟨_, _, _, _, _, _, _, _, _, _, e⟩ := s.collectFlt_spec { src := src, kind := BitVec.ofNat 6 kind, addr := BitVec.ofNat 32 addr }
  have hpost : (s.post src kind addr).flt = _ := e
  rw [hpost]
  exact ⟨h.done, h.res, h.unit, h.index⟩

theorem State.sealCheck_sameReadmit : f.SameReadmit s.sealCheck.flt := by
  unfold State.sealCheck
  split
  · refine State.post_sameReadmit ?_ _ _ _
    exact ⟨h.done, h.res, h.unit, h.index⟩
  · exact h

theorem State.mount_sameReadmit : f.SameReadmit s.mount.flt := by
  unfold State.mount
  split
  · exact h
  · refine State.sealCheck_sameReadmit ?_
    exact h

theorem State.celStart_sameReadmit (id : Word) : f.SameReadmit (s.celStart id).flt := by
  unfold State.celStart
  dsimp only
  split
  · refine State.post_sameReadmit ?_ _ _ _
    exact h
  · obtain ⟨hdone, hres, hunit, hindex⟩ := State.mount_sameReadmit (s := State.send { s with cel := { s.cel with id := id } } startOps) h
    exact ⟨hdone, hres, hunit, hindex⟩

theorem State.unfence_sameReadmit (u : BitVec 10) : f.SameReadmit (s.upFlt fun f => f.unfence u).flt := ⟨h.done, h.res, h.unit, h.index⟩

end

/-! ### A channel returns from its fence (R31) -/

/-- A request is the attic's alone. -/
theorem State.request_frame (s : State) (q : MigReq) : s.request q = { s with att := (s.request q).att } := by
  unfold State.request
  split <;> rfl

/-- A channel whose fence sent it to rest is available again. -/
def Chan.unrested (c : Chan) : Chan :=
  if c.fence = .atRest then { c with fence := .none, map := { c.map with avail := c.decl.enabled && c.map.cell.isSome } } else c

theorem State.unrest_eq (s : State) (n : Ch) : s.unrest n = (s.upCh n Chan.unrested).remapped s ∨
    s.unrest n = ((s.upCh n Chan.unrested).remapped s).request { ch := n, cause := .fault, keepOld := false, cold := false } := by
  have hc : (s.upCh n Chan.unrested).remapped s = (s.upCh n fun c => if c.fence = .atRest then
    { c with fence := .none, map := { c.map with avail := c.decl.enabled && c.map.cell.isSome } } else c).remapped s := rfl
  unfold State.unrest
  rw [← hc]
  dsimp only
  split
  · next k _ =>
    cases (((s.upCh n Chan.unrested).remapped s).cell k).condemned with
    | true => exact .inr rfl
    | false => exact .inl rfl
  · exact .inl rfl

theorem State.unrest_frame (s : State) (n : Ch) : s.unrest n = { s with chans := (s.unrest n).chans, att := (s.unrest n).att } ∧
    (s.unrest n).chans = ((s.upCh n Chan.unrested).remapped s).chans := by
  rcases s.unrest_eq n with h | h <;> rw [h]
  · exact ⟨rfl, rfl⟩
  · rw [State.request_frame]
    exact ⟨rfl, rfl⟩

theorem State.unrest_flt (s : State) (n : Ch) : (s.unrest n).flt = s.flt := by rw [(s.unrest_frame n).1]

theorem State.unrest_bays (s : State) (n : Ch) : (s.unrest n).bays = s.bays := by rw [(s.unrest_frame n).1]

theorem State.unrest_ch {s : State} {n : Ch} (h : (s.ch n).fence = .atRest) : ∃ g, (s.unrest n).ch n = { s.ch n with
    fence := .none, map := { (s.ch n).map with avail := (s.ch n).decl.enabled && (s.ch n).map.cell.isSome, gen := g } } := by
  obtain ⟨g, hg, -⟩ := (s.upCh n Chan.unrested).remapped_ch s n
  have hch : (s.unrest n).ch n = ((s.upCh n Chan.unrested).remapped s).ch n := by
    rw [State.ch, (s.unrest_frame n).2, ← State.ch]
  rw [State.upCh_ch, Chan.unrested, if_pos h] at hg
  exact ⟨g, hch.trans hg⟩

/-! ### The effect (R382, R421, R490) -/

/-- The unit is no longer fenced. -/
def State.unfencing (s : State) (u : BitVec 10) : State := s.upFlt fun f => f.unfence u

@[simp] theorem State.unfencing_fenced (s : State) (u : BitVec 10) : ((s.unfencing u).flt.srcSt u).fenced = false := Flt.unfence_fenced _ u

theorem State.readmitEffect_cell {s : State} {u : BitVec 10} {k : CellIx} (hu : srcGroup u = .cell k) :
    s.readmitEffect u = (s.unfencing u).upCell k Cell.readmit := by
  simp only [State.readmitEffect, hu]
  rfl

theorem State.readmitEffect_channel {s : State} {u : BitVec 10} {n : Ch} (hu : srcGroup u = .channel n) :
    ((s.ch n).fence = .atRest → s.readmitEffect u = (s.unfencing u).unrest n) ∧
    ((s.ch n).fence = .noCell → (s.ch n).decl.enabled = true →
      s.readmitEffect u = (s.unfencing u).request { ch := n, cause := .readmit, keepOld := false, cold := true }) := by
  refine ⟨fun hf => ?_, fun hf he => ?_⟩
  · simp only [State.readmitEffect, hu, State.upFlt_ch, hf]
    rfl
  · simp only [State.readmitEffect, hu, State.upFlt_ch, hf, he, if_true]
    rfl

/-- The channels that a bay's fence sent to rest return, each with its own fence lifted. -/
def State.unrestAll (s : State) (l : List Ch) : State := s.each l fun n s => (s.unrest n).upFlt fun f => f.unfence (srcCh n)

theorem State.unrestAll_bays (s : State) (l : List Ch) : (s.unrestAll l).bays = s.bays :=
  State.each_keeps State.bays _ (fun n t => by rw [State.upFlt_bays, t.unrest_bays]) l s

theorem State.unrestAll_sameReadmit {f : Flt} {s : State} (h : f.SameReadmit s.flt) (l : List Ch) : f.SameReadmit (s.unrestAll l).flt :=
  State.each_inv (fun t => f.SameReadmit t.flt) _
    (fun n t ht => State.unfence_sameReadmit (by rw [t.unrest_flt]; exact ht) _) l s h

/-- The bay's own entry without its fence. -/
def BaySt.unfence (x : BaySt) : BaySt := { x with fenced := false, sent := [] }

theorem State.readmitEffect_bay {s : State} {u : BitVec 10} {b : Bay} (hu : srcGroup u = .bay b) :
    s.readmitEffect u = ((s.unfencing u).upBay b BaySt.unfence).unrestAll (s.bay b).sent := by
  simp only [State.readmitEffect, hu]
  rfl

theorem State.readmitEffect_link {s : State} {u : BitVec 10} {p : Port} (hu : srcGroup u = .link p) : s.readmitEffect u =
    { s.unfencing u with lnk := { s.lnk with ports := s.lnk.ports.set p.val { s.lnk.ports[p.val] with st := .training } } } := by
  simp only [State.readmitEffect, hu]
  rfl

theorem State.readmitEffect_bridge {s : State} {u : BitVec 10} {g : Fin 7} (hu : srcGroup u = .bridge g) :
    s.readmitEffect u = s.unfencing u := by
  simp only [State.readmitEffect, hu]
  rfl

theorem State.readmitEffect_sameReadmit (s : State) (u : BitVec 10) : s.flt.SameReadmit (s.readmitEffect u).flt := by
  have h : s.flt.SameReadmit (s.unfencing u).flt := State.unfence_sameReadmit (Flt.SameReadmit.refl _) u
  cases hu : srcGroup u with
  | cell k =>
    rw [State.readmitEffect_cell hu]
    exact h
  | channel n =>
    simp only [State.readmitEffect, hu]
    split
    · split
      · rw [State.request_frame]
        exact h
      · exact h
    · exact h
    · rw [State.unrest_flt]
      exact h
  | bay b =>
    rw [State.readmitEffect_bay hu]
    exact State.unrestAll_sameReadmit (s := (s.unfencing u).upBay b BaySt.unfence) h _
  | cellar =>
    simp only [State.readmitEffect, hu]
    refine State.celStart_sameReadmit ?_ _
    exact ⟨h.done, h.res, h.unit, h.index⟩
  | link p =>
    rw [State.readmitEffect_link hu]
    exact h
  | bridge _ | bank _ | image | host | power | attic | collector | unused =>
    simp only [State.readmitEffect, hu]
    exact h

/-- The registers of a re-admission behind its effect. -/
theorem State.readmit_shows {s : State} {v : Word} (h : v.getLsbD 31 = true) : (s.readmit v).flt.readmitDone = true ∧
    (s.readmit v).flt.readmitRes = s.readmitResult v ∧ (s.readmit v).flt.readmitUnit = v.extractLsb' 24 4 ∧
    (s.readmit v).flt.readmitIndex = v.extractLsb' 0 10 := by
  by_cases hr : s.readmitResult v = .ok
  · obtain ⟨u, hu⟩ := State.readmitResult_ok hr
    obtain ⟨hdone, hres, hunit, hindex⟩ := (s.readmitted v .ok).readmitEffect_sameReadmit u
    rw [State.readmit_accepted h hr hu, hr]
    exact ⟨hdone, hres, hunit, hindex⟩
  · rw [State.readmit_refused h hr]
    exact ⟨rfl, rfl, rfl, rfl⟩

/-! ### What an accepted re-admission leaves of its unit -/

section
variable {s : State} {u : BitVec 10}

theorem State.readmitEffect_spare {k : CellIx} (hu : srcGroup u = .cell k) (hk : (s.cell k).role = .fenced) :
    ((s.readmitEffect u).cell k).role = .spare ∧ (s.readmitEffect u).chans = s.chans ∧ ((s.readmitEffect u).flt.srcSt u).fenced = false := by
  rw [State.readmitEffect_cell hu]
  refine ⟨?_, rfl, s.unfencing_fenced u⟩
  rw [State.upCell_cell, Cell.readmit]
  exact congrArg Cell.role (if_pos hk)

theorem State.readmitEffect_unrests {n : Ch} (hu : srcGroup u = .channel n) (hf : (s.ch n).fence = .atRest) :
    ((s.readmitEffect u).ch n).fence = .none ∧
      ((s.readmitEffect u).ch n).map.avail = ((s.ch n).decl.enabled && (s.ch n).map.cell.isSome) ∧
      ((s.readmitEffect u).ch n).force = (s.ch n).force ∧ ((s.readmitEffect u).flt.srcSt u).fenced = false := by
  rw [(State.readmitEffect_channel hu).1 hf]
  obtain ⟨g, hg⟩ := State.unrest_ch (s := s.unfencing u) hf
  rw [hg, State.unrest_flt]
  exact ⟨rfl, rfl, rfl, s.unfencing_fenced u⟩

theorem State.readmitEffect_asks {n : Ch} (hu : srcGroup u = .channel n) (hf : (s.ch n).fence = .noCell) (he : (s.ch n).decl.enabled = true)
    (hm : s.migrating n = false) (hq : ∀ q, q ∈ s.att.requests → q.ch ≠ n) :
    (s.readmitEffect u).att.requests = s.att.requests ++ [{ ch := n, cause := .readmit, keepOld := false, cold := true }] := by
  have hreq := State.request_queues (s := s.unfencing u) (q := { ch := n, cause := .readmit, keepOld := false, cold := true }) hq hm
  rw [(State.readmitEffect_channel hu).2 hf he, hreq]
  rfl

theorem State.readmitEffect_trains {p : Port} (hu : srcGroup u = .link p) :
    (s.readmitEffect u).lnk.ports[p.val].st = .training ∧ (s.readmitEffect u).chans = s.chans := by
  rw [State.readmitEffect_link hu]
  exact ⟨congrArg PortSt.st (Vector.getElem_set_self p.isLt), rfl⟩

theorem State.readmitEffect_bridges {g : Fin 7} (hu : srcGroup u = .bridge g) :
    ((s.readmitEffect u).flt.srcSt u).fenced = false ∧ (s.readmitEffect u).chans = s.chans ∧ (s.readmitEffect u).att = s.att := by
  rw [State.readmitEffect_bridge hu]
  exact ⟨s.unfencing_fenced u, rfl, rfl⟩

theorem State.readmitEffect_opensBay {b : Bay} (hu : srcGroup u = .bay b) :
    ((s.readmitEffect u).bay b).fenced = false ∧ ((s.readmitEffect u).bay b).sent = [] := by
  rw [State.readmitEffect_bay hu, State.bay, State.unrestAll_bays, ← State.bay, State.upBay_bay]
  exact ⟨rfl, rfl⟩

end

end Sys2Proof.Machine
end

section
/-! SUPPORT. Reactions, the coffer and re-admission settled together (R374 … R376, R381 … R389, R396). -/

namespace Sys2Proof.Machine

/-- What an accepted re-admission leaves, by the kind of the unit. -/
theorem State.readmit_effects {s : State} {v : Word} {u : BitVec 10} (h : v.getLsbD 31 = true) (hr : s.readmitResult v = .ok)
    (hu : readmitUnit v = some u) :
    (∀ k, srcGroup u = .cell k → (s.cell k).role = .fenced → ((s.readmit v).cell k).role = .spare ∧ (s.readmit v).chans = s.chans ∧
      ((s.readmit v).flt.srcSt u).fenced = false) ∧
    (∀ n, srcGroup u = .channel n → (s.ch n).fence = .atRest → ((s.readmit v).ch n).fence = .none ∧
      ((s.readmit v).ch n).map.avail = ((s.ch n).decl.enabled && (s.ch n).map.cell.isSome) ∧ ((s.readmit v).ch n).force = (s.ch n).force ∧
      ((s.readmit v).flt.srcSt u).fenced = false) ∧
    (∀ n, srcGroup u = .channel n → (s.ch n).fence = .noCell → (s.ch n).decl.enabled = true → s.migrating n = false →
      (∀ q, q ∈ s.att.requests → q.ch ≠ n) → (s.readmit v).att.requests =
        s.att.requests ++ [{ ch := n, cause := .readmit, keepOld := false, cold := true }]) ∧
    (∀ p, srcGroup u = .link p → (s.readmit v).lnk.ports[p.val].st = .training ∧ (s.readmit v).chans = s.chans) ∧
    (∀ g, srcGroup u = .bridge g → ((s.readmit v).flt.srcSt u).fenced = false ∧ (s.readmit v).chans = s.chans ∧ (s.readmit v).att = s.att) ∧
    (∀ b, srcGroup u = .bay b → ((s.readmit v).bay b).fenced = false ∧ ((s.readmit v).bay b).sent = []) := by
  rw [State.readmit_accepted h hr hu]
  exact ⟨fun _ hg hk => State.readmitEffect_spare (s := s.readmitted v .ok) hg hk,
    fun _ hg hf => State.readmitEffect_unrests (s := s.readmitted v .ok) hg hf,
    fun _ hg hf he hm hq => State.readmitEffect_asks (s := s.readmitted v .ok) hg hf he hm hq,
    fun _ hg => State.readmitEffect_trains (s := s.readmitted v .ok) hg,
    fun _ hg => State.readmitEffect_bridges (s := s.readmitted v .ok) hg,
    fun _ hg => State.readmitEffect_opensBay (s := s.readmitted v .ok) hg⟩

/-- Settles O53: a reaction by the kind of its unit, the coffer's write and its persistence through their lemmas, and a re-admission by the order
of its conditions. -/
theorem reactionsRecordsAndReadmission : Obligations.ReactionsRecordsAndReadmission := by
  intro s hr
  refine ⟨exec_faultReaction_none hr, fun r h => ⟨exec_faultReaction_opensAll hr h, fun hc => ⟨?_, ?_, ?_, ?_, ?_, ?_, ?_⟩⟩,
    exec_cofferWrite_idle hr, fun r l hf => exec_cofferWrite_writes hr hf, exec_cofferPersist_rests hr, exec_cofferPersist_persists hr,
    fun v hv => ?_, fun v hv => ?_⟩
  · exact fun p hu => exec_faultReaction_link hr h hc hu
  · exact exec_faultReaction_cellar hr h hc
  · exact fun k n hu hk hn he hm hq => exec_faultReaction_carrying hr h hc hu hk hn he hm hq
  · exact fun k hu hk hm => exec_faultReaction_spare hr h hc hu hk hm
  · exact fun n hu hb h7 h9 => exec_faultReaction_channel hr h hc hu hb h7 h9
  · exact fun b hu => exec_faultReaction_bay hr h hc hu
  · exact fun g n hu hn hs hm hq hb => exec_faultReaction_bridge hr h hc hu hn hs hm hq hb
  · rw [exec_fltReadmit_runs v hr, State.readmit_idle hv]
  · obtain ⟨hdone, hres, hunit, hindex⟩ := State.readmit_shows (s := s) hv
    refine ⟨_, _, exec_fltReadmit_runs v hr, hdone, hres, hunit, hindex, State.readmitResult_atGrave v, State.readmitResult_badUnit,
      fun u hg hu => ?_, fun hno => State.readmit_refused hv hno⟩
    have hord := State.readmitResult_unit hg hu
    refine ⟨fun hf => ?_, fun hf hb => ?_, fun hf hb hl => ?_, fun hf hb hl hs => ?_, fun hf hb hl hs hn => ?_, fun hf hb hl hs hn => ?_⟩
    · simp [hord, hf]
    · simp [hord, hf, hb]
    · rw [hord, if_neg (by simp [hf]), if_neg (by simp [hb]), if_pos hl]
    · rw [hord, if_neg (by simp [hf]), if_neg (by simp [hb]), if_neg (not_not.mpr hl), if_pos hs]
    · simp [hord, hf, hb, hl, hs, hn]
    · have hok : s.readmitResult v = .ok := by simp [hord, hf, hb, hl, hs, hn]
      exact ⟨hok, State.readmit_effects hv hok hu⟩

end Sys2Proof.Machine
end

section
/-! SUPPORT. Resets held and released, falling supplies and keepers: what a held logic answers, what the release of a reset starts from, and the
opening of switches by their keepers (R390, R512 … R518). -/

namespace Sys2Proof.Machine

/-! ### A held reset and its release (R512, R513) -/

/-- Settles O7: every command that needs the logic passes the gate that a reset shuts. -/
theorem nothingActsWhileAResetHolds : Obligations.NothingActsWhileAResetHolds := by
  intro c s hr hc
  obtain ⟨f, e⟩ := exec_live c s hc
  rw [e, s.live_reset f hr]

/-- The device as a release finds it: keepers let go, straps sampled, POWER_UP written, and no clock detected yet. -/
def State.released (s : State) (b : BootIn) : State :=
  { s.allCells fun k _ => Cell.reset k with
    lnk := { s.lnk with strap := b.straps }, pwr := { s.pwr with inReset := false, boot := some b },
    flt := { s.flt with coffer := [(0, { powerUpRecord (s.pwr.source.setWidth 32) with time := timeLo s.ticks })] } }

theorem State.release_noEdges (s : State) {b : BootIn} (h : b.refEdges = none) : s.release b = s.released b := by
  unfold State.release
  rw [h]
  rfl

/-- Detection and start-up keep what every operation of the running logic keeps. -/
theorem State.release_keeps (s : State) (b : BootIn) : Keeps (s.released b) (s.release b) := by
  cases he : b.refEdges with
  | none => rw [s.release_noEdges he]; exact Keeps.refl _
  | some e =>
    have hd := State.detected_keeps (Keeps.refl (s.released b)) e
    have hrun : s.release b = if b.locked then
        ((((((s.released b).detected e).lockAcquired .a).lockAcquired .b).lockHeld .a).lockHeld .b).bootNext
        else (s.released b).detected e := by
      unfold State.release
      rw [he]
      rfl
    rw [hrun]
    split
    · exact State.bootNext_keeps (State.lockHeld_keeps (State.lockHeld_keeps (State.lockAcquired_keeps (State.lockAcquired_keeps hd .a) .b) .a) .b)
    · exact hd

theorem exec_resetRelease_releases {s : State} (b : BootIn) (hj : s.jtag.ir ≠ .chipReset) (hr : s.pwr.inReset = true) :
    exec (.resetRelease b) s = .next (s.release b) :=
  congrArg _ (if_pos (by simp [State.mayRelease, hj, hr]))

theorem exec_resetRelease_chipReset {s : State} (b : BootIn) (hj : s.jtag.ir = .chipReset) : exec (.resetRelease b) s = .next s :=
  congrArg _ (if_neg (by simp [State.mayRelease, hj]))

/-- Settles O12: the release itself field by field, and start-up by what the running logic keeps. -/
theorem aReleaseStartsTheDevice : Obligations.AReleaseStartsTheDevice := by
  intro b s
  refine ⟨fun hj hr => ⟨?_, fun he => ?_⟩, exec_resetRelease_chipReset b⟩
  · have hk := s.release_keeps b
    exact ⟨_, exec_resetRelease_releases b hj hr, hk.inReset, hk.strap, hk.time, hk.ticks, hk.pending⟩
  · refine ⟨s.released b, ?_, rfl, fun k => ?_, rfl, rfl, rfl, rfl⟩
    · rw [exec_resetRelease_releases b hj hr, s.release_noEdges he]
    · exact State.allCells_cell s (fun k _ => Cell.reset k) k

/-! ### A cell that nothing connects (R517, R518) -/

/-- The cell drives no output and its keeper does not hold. -/
def Cell.off (x : Cell) : Prop := x.switchOn = false ∧ x.boostOn = false ∧ x.keeper.hold = false

theorem Cell.off_keeperOpens (x : Cell) (flag : Bool) : (x.keeperOpens flag).off := ⟨rfl, rfl, rfl⟩

theorem Cell.off.follow {x : Cell} (h : x.off) {c : Chan} (hc : c.connected = false) (awake : Bool) : (x.follow c awake).off := by
  obtain ⟨-, -, hk⟩ := h
  exact ⟨by simp [Cell.follow, hc], by simp [Cell.follow, hc], hk⟩

theorem Cell.off.followMember {x : Cell} (h : x.off) {c : Chan} (hc : c.connected = false) (awake : Bool) : (x.followMember c awake).off := by
  obtain ⟨-, -, hk⟩ := h
  exact ⟨by simp [Cell.followMember, hc], rfl, hk⟩

/-- A change of cell `k` that leaves it off leaves every cell off that was. -/
theorem State.upCell_off {s : State} {j : CellIx} (k : CellIx) (f : Cell → Cell) (hf : (s.cell k).off → (f (s.cell k)).off) (h : (s.cell j).off) :
    ((s.upCell k f).cell j).off := by
  rw [State.upCell_cell_eq]
  split
  · next e => subst e; exact hf h
  · exact h

theorem State.refresh_off {s : State} {j : CellIx} (n : Ch) (hc : (s.ch n).connected = false) (h : (s.cell j).off) : ((s.refresh n).cell j).off := by
  unfold State.refresh
  dsimp only
  split
  · exact State.each_inv (fun t => (t.cell j).off) _ (fun i t ht => t.upCell_off i _ (fun hi => hi.followMember hc _) ht) _ _
      (s.upCell_off _ _ (fun hk => hk.follow hc _) h)
  · exact h

theorem State.releaseKeepers_off {s : State} {j : CellIx} (n : Ch) (h : (s.cell j).off) : ((s.releaseKeepers n).cell j).off := by
  unfold State.releaseKeepers
  refine State.each_inv (fun t => (t.cell j).off) _ (fun i t ht => ?_) _ _ h
  have hu : ((t.upCell i fun x => { x with keeper := { x.keeper with hold := false, armed := false } }).cell j).off :=
    t.upCell_off i _ (fun hi => ⟨hi.1, hi.2.1, rfl⟩) ht
  dsimp only
  cases (t.cell i).keeper.hold <;> exact hu

theorem Chan.openOut_connected (c : Chan) : (c.openOut .opened).connected = false := by
  simp [Chan.connected, Chan.moves, (c.openOut_opens .opened).1, OutState.switchClosed]

theorem State.openSwitch_off {s : State} {j : CellIx} (n : Ch) (h : (s.cell j).off) : ((s.openSwitch n .opened).cell j).off := by
  unfold State.openSwitch
  exact State.refresh_off n (by simpa using Chan.openOut_connected _) (State.releaseKeepers_off n h)

/-- Nothing but channels, cells and the collector differs. -/
def State.pathsOnly (s t : State) : Prop := t = { s with chans := t.chans, cells := t.cells, flt := t.flt }

theorem State.pathsOnly.trans {a b c : State} (h : a.pathsOnly b) (k : b.pathsOnly c) : a.pathsOnly c := by
  unfold State.pathsOnly at *
  rw [k, h]

theorem State.each_pathsOnly {α : Type} (f : α → State → State) (hf : ∀ a s, State.pathsOnly s (f a s)) (l : List α) (s : State) :
    s.pathsOnly (s.each l f) :=
  State.each_inv (fun t => s.pathsOnly t) f (fun a _ ht => ht.trans (hf a _)) l s rfl

/-! ### A keeper opens (R517) -/

/-- The keeper's own cell has opened its switch, and its hold is no longer live. -/
def State.keeperCut (s : State) (k : CellIx) : State := (s.upCell k fun x => x.keeperOpens true).endLive (srcCell k) 1

theorem State.keeperCut_cell (s : State) (k : CellIx) : (s.keeperCut k).cell k = (s.cell k).keeperOpens true :=
  s.upCell_cell k fun x => x.keeperOpens true

theorem State.keeperCut_cell_ne (s : State) {k j : CellIx} (h : j ≠ k) : (s.keeperCut k).cell j = s.cell j :=
  s.upCell_cell_ne (fun x => x.keeperOpens true) h

theorem State.keeperOpened_alone {s : State} {k : CellIx} (h : s.carried k = none) : s.keeperOpened k = (s.keeperCut k).postCell k 2 2 0 := by
  show (match s.carried k with
    | some n => (s.keeperCut k).openSwitch n .opened
    | none => s.keeperCut k).postCell k 2 2 0 = _
  rw [h]

theorem State.keeperOpened_carrying {s : State} {k : CellIx} {n : Ch} (h : s.carried k = some n) :
    s.keeperOpened k = ((s.keeperCut k).openSwitch n .opened).postCell k 2 2 0 := by
  show (match s.carried k with
    | some n => (s.keeperCut k).openSwitch n .opened
    | none => s.keeperCut k).postCell k 2 2 0 = _
  rw [h]

theorem State.cell_of_carried {s : State} {k : CellIx} {n : Ch} (h : s.carried k = some n) : (s.ch n).map.cell = some k := by
  have hp := List.find?_some h
  simp only [Bool.and_eq_true, beq_iff_eq] at hp
  exact hp.1

@[simp] theorem State.postCell_ch (s : State) (k : CellIx) (kind unit detail : Nat) (m : Ch) : (s.postCell k kind unit detail).ch m = s.ch m := rfl

@[simp] theorem State.postCell_cell (s : State) (k j : CellIx) (kind unit detail : Nat) : (s.postCell k kind unit detail).cell j = s.cell j := rfl

theorem State.postCell_flt (s : State) (n : Ch) (k : CellIx) (kind unit detail : Nat) : s.pathFlt (s.postCell k kind unit detail) n :=
  ⟨rfl, fun _ _ => rfl, rfl, fun _ _ _ => rfl⟩

theorem State.keeperCut_flt {s : State} {k : CellIx} {n : Ch} (h : (s.ch n).map.cell = some k) : s.pathFlt (s.keeperCut k) n :=
  (s.upCell_path n k _ (.inl h)).flt.trans (State.endLive_flt _ n _ _)

/-- A keeper that opens the switch of a carrying cell changes that channel's path alone. -/
theorem State.keeperOpened_flt {s : State} {k : CellIx} {n : Ch} (h : s.carried k = some n) : s.pathFlt (s.keeperOpened k) n := by
  rw [State.keeperOpened_carrying h]
  exact ((State.keeperCut_flt (State.cell_of_carried h)).trans (State.openSwitch_flt _ n _)).trans (State.postCell_flt _ n k _ _ _)

theorem State.keeperOpened_ch {s : State} {k : CellIx} {n : Ch} (h : s.carried k = some n) :
    (s.keeperOpened k).ch n = (s.ch n).openOut .opened := by
  rw [State.keeperOpened_carrying h, State.postCell_ch, State.openSwitch_ch]
  rfl

theorem State.keeperOpened_rest (s : State) (k : CellIx) : s.pathsOnly (s.keeperOpened k) := by
  cases h : s.carried k with
  | none => rw [State.keeperOpened_alone h]; rfl
  | some n => exact (State.keeperOpened_flt h).rest

theorem State.keeperCut_off {s : State} {j : CellIx} (k : CellIx) (h : j = k ∨ (s.cell j).off) : ((s.keeperCut k).cell j).off := by
  by_cases e : j = k
  · rw [e, State.keeperCut_cell]
    exact Cell.off_keeperOpens _ _
  · rw [State.keeperCut_cell_ne _ e]
    exact h.resolve_left e

theorem State.keeperOpened_off {s : State} {j : CellIx} (k : CellIx) (h : j = k ∨ (s.cell j).off) : ((s.keeperOpened k).cell j).off := by
  cases hc : s.carried k with
  | none => rw [State.keeperOpened_alone hc]; exact State.keeperCut_off k h
  | some n => rw [State.keeperOpened_carrying hc]; exact State.openSwitch_off n (State.keeperCut_off k h)

/-! ### Falling supplies (R518) -/

/-- What AONVDD's fall does to one cell: a keeper that has anything to open opens it. -/
def State.aonCell (k : CellIx) (s : State) : State :=
  if (s.cell k).switchOn || (s.cell k).boostOn || (s.cell k).keeper.hold then
    (if s.pwr.inReset then s.upCell k fun x => x.keeperOpens false else s.keeperOpened k)
  else s

theorem State.aonFalls_eq (s : State) : s.aonFalls = (s.upPwr fun p => { p with aonDown := true }).each allCellIxs State.aonCell := rfl

theorem State.aonCell_rest (k : CellIx) (s : State) : s.pathsOnly (State.aonCell k s) := by
  unfold State.aonCell
  split
  · split
    · rfl
    · exact s.keeperOpened_rest k
  · rfl

theorem State.aonCell_off (k : CellIx) {s : State} {j : CellIx} (h : j = k ∨ (s.cell j).off) : ((State.aonCell k s).cell j).off := by
  unfold State.aonCell
  split
  · split
    · rw [State.upCell_cell_eq]
      split
      · exact Cell.off_keeperOpens _ _
      · next e => exact h.resolve_left e
    · exact State.keeperOpened_off k h
  · next hn =>
    rcases h with rfl | h
    · simp only [Bool.or_eq_true, not_or, Bool.not_eq_true] at hn
      exact ⟨hn.1.1, hn.1.2, hn.2⟩
    · exact h

theorem State.each_aonCell_off {j : CellIx} (l : List CellIx) (s : State) (h : j ∈ l ∨ (s.cell j).off) : ((s.each l State.aonCell).cell j).off := by
  induction l generalizing s with
  | nil => exact h.resolve_left (List.not_mem_nil)
  | cons k l ih =>
    rw [State.each_cons]
    refine ih _ ?_
    rcases h with h | h
    · rcases List.mem_cons.mp h with e | hl
      · exact .inr (State.aonCell_off k (.inl e))
      · exact .inl hl
    · exact .inr (State.aonCell_off k (.inr h))

/-- Settles O13: AVDD's fall is one change of every cell; AONVDD's opens cell after cell, and no opening closes one again. -/
theorem sagsOpenEverySwitch : Obligations.SagsOpenEverySwitch := by
  intro s
  refine ⟨⟨_, rfl, rfl, fun k => State.allCells_cell s _ k⟩, ⟨s.aonFalls, rfl, ?_, fun k => ?_⟩⟩
  · rw [s.aonFalls_eq]
    exact State.each_pathsOnly _ State.aonCell_rest _ _
  · rw [s.aonFalls_eq]
    exact State.each_aonCell_off _ _ (.inl (List.mem_finRange k))

/-! ### Keepers that hold and open (R515 … R517) -/

/-- A cell whose keeper has entered hold. -/
def Cell.keeperHolds (x : Cell) : Cell := { x with stage := .hold, keeper := { x.keeper with hold := true, held := true } }

/-- A keeper has entered hold, before the channel and the collector show it. -/
def State.keeperHeld (s : State) (k : CellIx) : State := (s.upCell k Cell.keeperHolds).upPwr fun p => { p with keeper := true }

theorem State.keeperHolds_eq (s : State) (k : CellIx) : ∃ miss, s.keeperHolds k = (match s.carried k with
    | some n => (s.keeperHeld k).upCh n fun c => { c with force := { c.force with out := .hold } }
    | none => s.keeperHeld k).postCell k 1 2 miss := ⟨_, rfl⟩

/-- Entering hold touches its own cell, the summary bit, the channel that the cell carries, and the collector. -/
theorem State.keeperHolds_spec (s : State) (k : CellIx) :
    s.keeperHolds k = { s with chans := (s.keeperHolds k).chans, cells := (s.keeperHolds k).cells, flt := (s.keeperHolds k).flt, pwr := { s.pwr with keeper := true } } ∧
      (∀ j, (s.keeperHolds k).cell j = (s.keeperHeld k).cell j) ∧
      (∀ n, s.carried k = some n → (s.keeperHolds k).ch n = { s.ch n with force := { (s.ch n).force with out := .hold } } ∧
        ∀ m, m ≠ n → (s.keeperHolds k).ch m = s.ch m) ∧
      (s.carried k = none → (s.keeperHolds k).chans = s.chans) := by
  obtain ⟨miss, e⟩ := s.keeperHolds_eq k
  rw [e]
  cases h : s.carried k with
  | none => exact ⟨rfl, fun j => rfl, fun n hn => absurd hn (by simp), fun _ => rfl⟩
  | some n =>
    refine ⟨rfl, fun j => rfl, fun m hm => ?_, fun hn => absurd hn (by simp)⟩
    cases hm
    refine ⟨?_, fun i hi => ?_⟩
    · rw [State.postCell_ch, State.upCh_ch]
      rfl
    · rw [State.postCell_ch, State.upCh_ch_ne _ _ hi]
      rfl

theorem exec_keeperHold_holds {s : State} {k : CellIx} (hr : s.runs) (ha : (s.cell k).keeper.armed = true) (hh : (s.cell k).keeper.hold = false) :
    exec (.keeperHold k) s = .next (s.keeperHolds k) :=
  congrArg _ ((s.live_of _ hr).trans (if_pos (by simp [ha, hh])))

theorem exec_keeperOpen_inReset {s : State} {k : CellIx} (hr : s.pwr.inReset = true) (hh : (s.cell k).keeper.hold = true) :
    exec (.keeperOpen k) s = .next (s.upCell k fun x => x.keeperOpens false) :=
  congrArg _ ((if_pos hh).trans (if_pos hr))

theorem exec_keeperOpen_runs {s : State} {k : CellIx} (hr : s.runs) (hh : (s.cell k).keeper.hold = true) :
    exec (.keeperOpen k) s = .next (s.keeperOpened k) :=
  congrArg _ ((if_pos hh).trans (if_neg (by simp [show s.pwr.inReset = false from hr])))

theorem exec_keeperOpen_idle {s : State} {k : CellIx} (hh : (s.cell k).keeper.hold = false) : exec (.keeperOpen k) s = .next s :=
  congrArg _ (if_neg (by simp [hh]))

/-- Settles O33: the hold by what it touches, the opening by whether the logic runs and whether the cell carries a channel. -/
theorem keepersHoldThenOpen : Obligations.KeepersHoldThenOpen := by
  intro k s
  refine ⟨fun hr ha hh => ?_, fun hr hh => ?_, fun hr hh hc => ?_, fun hr hh n hc => ?_, exec_keeperOpen_idle⟩
  · obtain ⟨hrest, hcell, hch, hnone⟩ := s.keeperHolds_spec k
    exact ⟨_, exec_keeperHold_holds hr ha hh, hrest, (hcell k).trans (s.upCell_cell k Cell.keeperHolds),
      fun j hj => (hcell j).trans (s.upCell_cell_ne Cell.keeperHolds hj), hch, hnone⟩
  · refine ⟨_, exec_keeperOpen_inReset hr hh, rfl, fun j hj => s.upCell_cell_ne _ hj, ?_⟩
    rw [State.upCell_cell]
    exact ⟨rfl, rfl, rfl, Bool.or_false _⟩
  · refine ⟨_, (exec_keeperOpen_runs hr hh).trans (congrArg _ (State.keeperOpened_alone hc)), rfl, fun j hj => s.keeperCut_cell_ne hj, ?_⟩
    rw [State.postCell_cell, State.keeperCut_cell]
    exact ⟨rfl, rfl, rfl, Bool.or_true _⟩
  · obtain ⟨hout, hloop, hcode⟩ := (s.ch n).openOut_opens .opened
    refine ⟨_, exec_keeperOpen_runs hr hh, State.keeperOpened_flt hc, ?_⟩
    rw [State.keeperOpened_ch hc]
    exact ⟨hout, hloop, hcode⟩

end Sys2Proof.Machine
end

section
/-! SUPPORT. The clocks: the end of detection, LOCKED and its hold, a commit, a band measurement, and the outputs and the crystal
(R434 … R447, R455, R457). -/

namespace Sys2Proof.Machine

/-! ### Detection (R434, R436) -/

/-- A PLL with the dividers `d`, shadow and active. -/
def Pll.load (l : Pll) (d : BitVec 10 × BitVec 16 × BitVec 7) : Pll :=
  { l with shM := d.1, actM := d.1, shN := d.2.1, actN := d.2.1, shP := d.2.2, actP := d.2.2 }

/-- Class and count as the end of detection stores them. -/
def Clk.detects (k : Clk) (e : Nat) : Clk := { k with refClass := refClassOf e, detect := BitVec.ofNat 16 (min e 0xFFFF) }

/-- The clocks behind the detection of a supported class: both PLLs acquire lock on its defaults. -/
def Clk.acquires (k : Clk) (c : RefClass) : Clk :=
  { k with pllOff := false, pllA := (k.pllA.load (pllDefaults c .a)).acquire c.khz, pllB := (k.pllB.load (pllDefaults c .b)).acquire c.khz }

theorem State.detected_unsupported (s : State) {e : Nat} (h : (refClassOf e).khz = 0) : s.detected e = s.upClk fun k => k.detects e :=
  if_pos h

theorem State.detected_supported (s : State) {e : Nat} (h : (refClassOf e).khz ≠ 0) :
    s.detected e = s.upClk fun k => (k.detects e).acquires (refClassOf e) :=
  (if_neg h).trans (if_neg h)

theorem refClassOf_mhz24 {e : Nat} (h : 43200 ≤ e ∧ e ≤ 52800) : refClassOf e = .mhz24 := if_pos h

theorem refClassOf_mhz10 {e : Nat} (h : 17578 ≤ e ∧ e ≤ 21484) : refClassOf e = .mhz10 :=
  (if_neg (by omega)).trans (if_pos h)

theorem refClassOf_unknown {e : Nat} (h : e < 17578 ∨ (21484 < e ∧ e < 43200) ∨ 52800 < e) : refClassOf e = .unknown :=
  (if_neg (by omega)).trans (if_neg (by omega))

/-- A detection changes nothing of the clocks but class, count and the two PLLs. -/
theorem State.detected_clk (s : State) (e : Nat) : s.detected e = { s with clk := (s.detected e).clk } ∧
    (s.detected e).clk.detect = BitVec.ofNat 16 (min e 0xFFFF) ∧ (s.detected e).clk.refClass = refClassOf e ∧
    (s.detected e).clk.guard = s.clk.guard ∧ (s.detected e).clk.outs = s.clk.outs ∧ (s.detected e).clk.unaligned = s.clk.unaligned := by
  by_cases h : (refClassOf e).khz = 0
  · rw [s.detected_unsupported h]; exact ⟨rfl, rfl, rfl, rfl, rfl, rfl⟩
  · rw [s.detected_supported h]; exact ⟨rfl, rfl, rfl, rfl, rfl, rfl⟩

/-- With a supported class both PLLs start on equal shadow and active dividers. -/
theorem Clk.acquires_pll (k : Clk) (c : RefClass) (p : PllId) : ((k.acquires c).pll p).refOk = true ∧ ((k.acquires c).pll p).locked = false ∧
    ((k.acquires c).pll p).phase = .startup ∧ ((k.acquires c).pll p).shM = ((k.acquires c).pll p).actM ∧
    ((k.acquires c).pll p).shN = ((k.acquires c).pll p).actN := by
  cases p <;> exact ⟨rfl, rfl, rfl, rfl, rfl⟩

theorem exec_refDetectionEnd_detects {s : State} (e : Nat) (hr : s.runs) (hs : s.pwr.step = .clocks) (hc : s.clk.refClass = .unfinished) :
    exec (.refDetectionEnd e) s = .next (s.detected e) :=
  congrArg _ ((s.live_of _ hr).trans (if_pos ⟨hs, hc⟩))

/-- Settles O15: class by class of the count. -/
theorem detectionPicksTheClassAndItsDefaults : Obligations.DetectionPicksTheClassAndItsDefaults := by
  intro e s hr hs hc
  obtain ⟨hrest, hdet, hcls, hguard, houts, hun⟩ := s.detected_clk e
  refine ⟨_, exec_refDetectionEnd_detects e hr hs hc, hrest, hdet, hguard, houts, hun, fun h1 h2 => ?_, fun h1 h2 => ?_, fun h p => ?_, fun h => ?_⟩
  · have h24 := refClassOf_mhz24 ⟨h1, h2⟩
    refine ⟨hcls.trans h24, ?_⟩
    rw [s.detected_supported (by rw [h24]; decide), h24]
    exact ⟨rfl, rfl, rfl, rfl, rfl, rfl⟩
  · have h10 := refClassOf_mhz10 ⟨h1, h2⟩
    refine ⟨hcls.trans h10, ?_⟩
    rw [s.detected_supported (by rw [h10]; decide), h10]
    exact ⟨rfl, rfl, rfl, rfl, rfl, rfl⟩
  · have hk : (refClassOf e).khz ≠ 0 := by
      rcases h with h | h
      · rw [refClassOf_mhz24 h]; decide
      · rw [refClassOf_mhz10 h]; decide
    rw [s.detected_supported hk]
    exact Clk.acquires_pll _ _ p
  · have hu := refClassOf_unknown h
    rw [s.detected_unsupported (by rw [hu]; rfl)]
    show s.clk.detects e = _
    rw [Clk.detects, hu]

/-! ### LOCKED and its hold (R436, R443, R447, R455) -/

/-- A PLL whose LOCKED has held: what it did ends with OK. -/
def Pll.holds (l : Pll) : Pll :=
  let ended := l.phase == .committing || l.phase == .measuring
  { l with held := true, phase := .running, done := l.done || ended, result := if ended then .ok else l.result }

theorem Pll.holds_ended {l : Pll} (h : l.phase = .committing ∨ l.phase = .measuring) : l.holds.result = .ok ∧ l.holds.done = true := by
  rcases h with h | h <;> simp [Pll.holds, h]

theorem State.lockAcquired_locks {s : State} {p : PllId} (hr : (s.clk.pll p).refOk = true) (hl : (s.clk.pll p).locked = false)
    (hp : (s.clk.pll p).phase ≠ .off) : s.lockAcquired p = s.upPll p fun l => { l with locked := true, held := false } :=
  if_pos (by simp [hr, hl, hp])

theorem State.lockHeld_a {s : State} (hl : s.clk.pllA.locked = true) (hh : s.clk.pllA.held = false) :
    s.lockHeld .a = (s.upPll .a Pll.holds).enterVco8 :=
  if_pos (by simp [Clk.pll, hl, hh])

theorem State.lockHeld_b {s : State} (hl : s.clk.pllB.locked = true) (hh : s.clk.pllB.held = false) :
    s.lockHeld .b = (s.upPll .b Pll.holds).outsRun.portsStart :=
  if_pos (by simp [Clk.pll, hl, hh])

/-- Outside start-up nothing waits for the hold of LOCKED. -/
theorem State.bootNext_idle {s : State} (h : s.pwr.boot = none) : s.bootNext = s := by
  unfold State.bootNext
  rw [h]

theorem exec_lockHoldEnd {s : State} (p : PllId) (hr : s.runs) : exec (.lockHoldEnd p) s = .next (s.lockHeld p).bootNext :=
  congrArg _ (s.live_of _ hr)

theorem exec_pllLockAcquired {s : State} (p : PllId) (hr : s.runs) : exec (.pllLockAcquired p) s = .next (s.lockAcquired p) :=
  congrArg _ (s.live_of _ hr)

theorem State.outsRun_outs (s : State) (x : Fin 4) : s.outsRun.clk.outs[x.val].running = (s.clk.outs[x.val].fmt != .off) ∧
    s.outsRun.clk.outs[x.val].fmt = s.clk.outs[x.val].fmt ∧ s.outsRun.clk.outs[x.val].divM1 = s.clk.outs[x.val].divM1 := by
  simp [State.outsRun, State.upClk]

/-- The hold on PLL-A: the guard enters VCO8. -/
theorem exec_lockHoldEnd_a {s : State} (hr : s.runs) (hl : s.clk.pllA.locked = true) (hh : s.clk.pllA.held = false) (hb : s.pwr.boot = none) :
    exec (.lockHoldEnd .a) s = .next { s with
      clk := { s.clk with pllA := s.clk.pllA.holds, guard := .vco8 },
      chans := if s.clk.guard = .vco8 then s.chans else tabulate 64 fun n => (s.ch n).markWindows s.time } := by
  rw [exec_lockHoldEnd .a hr, State.lockHeld_a hl hh, State.enterVco8_spec]
  exact congrArg _ (State.bootNext_idle hb)

/-- The hold on PLL-B: every output with a format starts, and the ports start. -/
theorem exec_lockHoldEnd_b {s : State} (hr : s.runs) (hl : s.clk.pllB.locked = true) (hh : s.clk.pllB.held = false) (hb : s.pwr.boot = none) :
    ∃ l, exec (.lockHoldEnd .b) s = .next { (s.upPll .b Pll.holds).outsRun with lnk := l } := by
  obtain ⟨l, e⟩ := State.portsStart_spec (s.upPll .b Pll.holds).outsRun
  refine ⟨l, ?_⟩
  rw [exec_lockHoldEnd .b hr, State.lockHeld_b hl hh, e]
  exact congrArg _ (State.bootNext_idle hb)

/-- Settles O16: LOCKED by its guard, the hold PLL by PLL, and start-up behind it by what the running logic keeps. -/
theorem lockAndItsHoldStartTheClocks : Obligations.LockAndItsHoldStartTheClocks := by
  intro s hr
  refine ⟨fun p h1 h2 h3 => ?_, fun hl hh hb => ?_, fun hl hh hb => ?_, fun p => ?_⟩
  · rw [exec_pllLockAcquired p hr, State.lockAcquired_locks h1 h2 h3]
  · refine ⟨_, exec_lockHoldEnd_a hr hl hh hb, rfl, rfl, rfl, rfl, rfl, rfl, rfl, rfl, Pll.holds_ended, fun n => ?_⟩
    by_cases hg : s.clk.guard = .vco8
    · rw [if_pos hg, if_pos hg]
      rfl
    · rw [if_neg hg, if_neg hg]
      exact tabulate_get 64 (fun n => (s.ch n).markWindows s.time) n
  · obtain ⟨l, e⟩ := exec_lockHoldEnd_b hr hl hh hb
    exact ⟨_, e, rfl, rfl, rfl, rfl, rfl, rfl, (s.upPll .b Pll.holds).outsRun_outs, Pll.holds_ended⟩
  · have hk := State.bootNext_keeps (State.lockHeld_keeps (Keeps.refl s) p)
    exact ⟨_, exec_lockHoldEnd p hr, hk.inReset.trans hr, hk.time, hk.jtag⟩

/-! ### A commit (R439, R440) -/

theorem exec_pllCommit {s : State} (p : PllId) (h : s.serves) : exec (.pllCommit p) s = .next (s.commitPll p) :=
  congrArg _ (s.hostAct_of _ h.1 h.2)

theorem State.commitPll_refused {s : State} {p : PllId} (h : (s.commitCheck p).1 ≠ .ok) :
    s.commitPll p = s.pllEnd p (s.commitCheck p).1 := by
  unfold State.commitPll
  split
  · next b hc => exact absurd (congrArg Prod.fst hc) h
  · next r b _ hc => rw [hc]

theorem State.commitPll_same {s : State} {p : PllId} (h : (s.commitCheck p).1 = .ok) (hd : (s.clk.pll p).shM = (s.clk.pll p).actM ∧
    (s.clk.pll p).shN = (s.clk.pll p).actN ∧ (s.clk.pll p).shP = (s.clk.pll p).actP) : s.commitPll p = s.pllEnd p .ok := by
  unfold State.commitPll
  split
  · exact if_pos hd
  · next r b hn hc =>
    rw [hc] at h
    exact absurd h hn

/-- A PLL that takes its shadow dividers with the band `b` and acquires lock again. -/
def Pll.commits (l : Pll) (b : BitVec 6) : Pll :=
  { l with actM := l.shM, actN := l.shN, actP := l.shP, band := b, locked := false, held := false, phase := .committing }

theorem State.commitPll_applies {s : State} {p : PllId} (h : (s.commitCheck p).1 = .ok) (hd : (s.clk.pll p).shN ≠ (s.clk.pll p).actN) :
    s.commitPll p = ((s.pllAway p .vco16).upPll p fun l => l.commits (s.commitCheck p).2).when (p == .b) State.portsEnable := by
  unfold State.commitPll
  split
  · next b hc => rw [hc]; exact if_neg fun e => hd e.2.1
  · next r b hn hc =>
    rw [hc] at h
    exact absurd h hn

/-- What leaving VCO8, or the stop of outputs and ports, leaves of the clocks: both PLLs, and by the PLL the guard or the outputs. -/
structure Clk.Away (k k' : Clk) (p : PllId) (g : Guard) : Prop where
  pllA : k'.pllA = k.pllA
  pllB : k'.pllB = k.pllB
  outs : p = .a → k'.outs = k.outs
  leaves : p = .a → k.guard = .vco8 → k'.guard = g ∧ k'.unaligned = true
  toRef : p = .a → g = .ref → k'.guard = .ref ∧ k'.guardCount = k.guardCount
  guard : p = .b → k'.guard = k.guard ∧ k'.unaligned = true
  stops : p = .b → ∀ x : Fin 4, k'.outs[x.val].running = false

theorem State.pllAway_spec (s : State) (p : PllId) (g : Guard) :
    ∃ k c l f, s.pllAway p g = { s with clk := k, chans := c, lnk := l, flt := f } ∧ s.clk.Away k p g := by
  cases p with
  | a =>
    by_cases hg : s.clk.guard = .vco8
    · obtain ⟨l, f, e, -⟩ := s.leaveVco8_of g hg
      exact ⟨_, _, l, f, e, rfl, rfl, fun _ => rfl, fun _ _ => ⟨rfl, rfl⟩, fun _ hr => ⟨hr, if_neg (by rw [hr]; decide)⟩, nofun, nofun⟩
    · exact ⟨_, _, _, _, s.leaveVco8_else g hg, rfl, rfl, fun _ => rfl, fun _ hv => absurd hv hg, fun _ hr => ⟨if_pos hr, rfl⟩, nofun, nofun⟩
  | b =>
    obtain ⟨o, l, f, e, ho⟩ := s.stopB_spec true
    exact ⟨_, _, l, f, e, rfl, rfl, nofun, nofun, nofun, fun _ => ⟨rfl, rfl⟩, fun _ x => by simp [ho]⟩

/-- A commit that passes: the PLL takes its shadows, the other stays, and the core or the outputs go away. -/
theorem State.commitPll_spec {s : State} {p : PllId} (h : (s.commitCheck p).1 = .ok) (hd : (s.clk.pll p).shN ≠ (s.clk.pll p).actN) :
    ∃ k k' c l f, s.commitPll p = { s with clk := k', chans := c, lnk := l, flt := f } ∧ s.clk.Away k p .vco16 ∧
      k' = (match p with
        | .a => { k with pllA := k.pllA.commits (s.commitCheck p).2 }
        | .b => { k with pllB := k.pllB.commits (s.commitCheck p).2 }) := by
  obtain ⟨k, c, l, f, e, ha⟩ := s.pllAway_spec p .vco16
  rw [State.commitPll_applies h hd, e]
  cases p with
  | a => exact ⟨k, _, c, l, f, rfl, ha, rfl⟩
  | b =>
    obtain ⟨l', e'⟩ := State.portsEnable_spec
      { s with clk := { k with pllB := k.pllB.commits (s.commitCheck .b).2 }, chans := c, lnk := l, flt := f }
    exact ⟨k, _, c, l', f, e', ha, rfl⟩

/-! The order of R439: BUSY, NO_REF, BAD_POST. -/

theorem State.commitCheck_busy {s : State} (p : PllId) (h : s.clk.pllBusy = true) : (s.commitCheck p).1 = .busy := by
  simp [State.commitCheck, h]

theorem State.commitCheck_noRef {s : State} {p : PllId} (h : s.clk.pllBusy = false) (hr : (s.clk.pll p).refOk = false) :
    (s.commitCheck p).1 = .noRef := by
  simp [State.commitCheck, h, hr]

theorem State.commitCheck_badPost {s : State} (h : s.clk.pllBusy = false) (hr : (s.clk.pll .a).refOk = true) (hp : (s.clk.pll .a).shP ≠ 8) :
    (s.commitCheck .a).1 = .badPost := by
  have hpost : pllPostOk .a (s.clk.pll .a).shP = false := by simpa [pllPostOk] using hp
  simp [State.commitCheck, h, hr, hpost]

/-- Settles O18: a refusal by its code, a commit of nothing by the dividers, and one that applies by `commitPll_spec`. -/
theorem aCommitIsRefusedOrAppliesTheShadows : Obligations.ACommitIsRefusedOrAppliesTheShadows := by
  intro p s hs
  refine ⟨fun r h hr => ?_, fun h hm hn hp => ?_, fun h hd => ?_, s.commitCheck_busy p, State.commitCheck_noRef, fun h hr hp hb => ?_⟩
  · subst h
    rw [exec_pllCommit p hs, State.commitPll_refused hr]
    rfl
  · rw [exec_pllCommit p hs, State.commitPll_same h ⟨hm, hn, hp⟩]
    rfl
  · obtain ⟨k, k', c, l, f, e, ha, hk⟩ := State.commitPll_spec h hd
    refine ⟨_, (exec_pllCommit p hs).trans (congrArg _ e), rfl, ?_⟩
    subst hk
    cases p with
    | a =>
      refine ⟨congrArg (fun x => Pll.commits x (s.commitCheck .a).2) ha.pllA, fun _ hg => ?_, nofun⟩
      obtain ⟨h1, h2⟩ := ha.leaves rfl hg
      exact ⟨h1, h2, ha.outs rfl, ha.pllB⟩
    | b =>
      obtain ⟨h1, h2⟩ := ha.guard rfl
      exact ⟨congrArg (fun x => Pll.commits x (s.commitCheck .b).2) ha.pllB, nofun, fun _ => ⟨h1, h2, ha.pllA, ha.stops rfl⟩⟩
  · subst hp
    exact State.commitCheck_badPost h hr hb

/-! ### A band measurement (R441) -/

theorem exec_pllBandMeasure {s : State} (p : PllId) (khz : List (Nat × Nat)) (h : s.serves) :
    exec (.pllBandMeasure p khz) s = .next (s.measureBands p khz) :=
  congrArg _ (s.hostAct_of _ h.1 h.2)

/-- A PLL that locks again on its active dividers with the table `v`. -/
def Pll.measures (l : Pll) (v : Vector Band 64) (khz : Nat) : Pll :=
  { ({ l with bands := v } : Pll).selectBand khz with locked := false, held := false, phase := .measuring }

/-- The table that a measurement writes. -/
def State.bandTable (s : State) (khz : List (Nat × Nat)) : Vector Band 64 := tabulate 64 fun i => s.bandOf khz i.val

theorem State.bandTable_get (s : State) {khz : List (Nat × Nat)} {i : Fin 64} {x : Nat × Nat} (h : khz[i.val]? = some x) :
    (s.bandTable khz)[i.val] =
      { valid := decide ((x.1 + 999) / 1000 ≤ x.2 / 1000), hi := BitVec.ofNat 12 (x.2 / 1000), lo := BitVec.ofNat 12 ((x.1 + 999) / 1000) } := by
  have ht : (s.bandTable khz)[i.val] = s.bandOf khz i.val := tabulate_get 64 (fun i => s.bandOf khz i.val) i
  rw [ht, State.bandOf, h]
  rfl

theorem State.measureBands_busy {s : State} (p : PllId) (khz : List (Nat × Nat)) (h : s.clk.pllBusy = true) :
    s.measureBands p khz = s.pllEnd p .busy := if_pos h

theorem State.measureBands_noRef {s : State} {p : PllId} (khz : List (Nat × Nat)) (h : s.clk.pllBusy = false)
    (hr : (s.clk.pll p).refOk = false) : s.measureBands p khz = s.pllEnd p .noRef := by
  simp [State.measureBands, h, hr]

theorem State.measureBands_notQuiet {s : State} (khz : List (Nat × Nat)) (h : s.clk.pllBusy = false) (hr : (s.clk.pll .a).refOk = true)
    (hq : s.allQuiet = false) : s.measureBands .a khz = s.pllEnd .a .notQuiescent := by
  simp [State.measureBands, h, hr, hq]

theorem State.measureBands_switchClosed {s : State} (khz : List (Nat × Nat)) (h : s.clk.pllBusy = false) (hr : (s.clk.pll .a).refOk = true)
    (hq : s.allQuiet = true) (ho : s.allSwitchesOpen = false) : s.measureBands .a khz = s.pllEnd .a .switchClosed := by
  simp [State.measureBands, h, hr, hq, ho]

theorem State.measureBands_runs {s : State} {p : PllId} (khz : List (Nat × Nat)) (h : s.clk.pllBusy = false) (hr : (s.clk.pll p).refOk = true)
    (ha : p = .a → s.allQuiet = true ∧ s.allSwitchesOpen = true) : s.measureBands p khz =
      { (s.pllAway p .ref).upPll p fun l => l.measures (s.bandTable khz) s.clk.refClass.khz with
        draws := if khz.length < 64 then s.draws + 64 else s.draws } := by
  have h1 : ¬ (p = .a ∧ s.allQuiet = false) := fun ⟨hp, hq⟩ => by simp [(ha hp).1] at hq
  have h2 : ¬ (p = .a ∧ s.allSwitchesOpen = false) := fun ⟨hp, hq⟩ => by simp [(ha hp).2] at hq
  unfold State.measureBands
  dsimp only
  rw [if_neg (by simp [h]), if_neg (by simp [hr]), if_neg h1, if_neg h2]
  rfl

/-- Settles O19: the refusals in R441's order, and a measurement by what the core and the outputs do meanwhile. -/
theorem aMeasurementRewritesTheBandTable : Obligations.AMeasurementRewritesTheBandTable := by
  intro p khz s hs
  rw [exec_pllBandMeasure p khz hs, exec_pllBandMeasure .a khz hs]
  refine ⟨fun h => congrArg _ (State.measureBands_busy p khz h), fun h hr => congrArg _ (State.measureBands_noRef khz h hr),
    fun h hr hq => congrArg _ (State.measureBands_notQuiet khz h hr hq), fun h hr hq ho => congrArg _ (State.measureBands_switchClosed khz h hr hq ho),
    fun h hr hq => ?_⟩
  obtain ⟨k, c, l, f, e, ha⟩ := s.pllAway_spec p .ref
  rw [State.measureBands_runs khz h hr hq, e]
  cases p with
  | a =>
    have hact : k.pllA.actN = s.clk.pllA.actN ∧ k.pllA.actM = s.clk.pllA.actM := by rw [ha.pllA]; exact ⟨rfl, rfl⟩
    exact ⟨_, rfl, rfl, rfl, rfl, rfl, hact.1, hact.2, fun i x hx => s.bandTable_get hx, fun _ => ha.toRef rfl rfl, nofun⟩
  | b =>
    have hact : k.pllB.actN = s.clk.pllB.actN ∧ k.pllB.actM = s.clk.pllB.actM := by rw [ha.pllB]; exact ⟨rfl, rfl⟩
    exact ⟨_, rfl, rfl, rfl, rfl, rfl, hact.1, hact.2, fun i x hx => s.bandTable_get hx, nofun, fun _ => (ha.guard rfl).2⟩

/-! ### The outputs and the crystal (R455, R457, R464) -/

/-- CLK_OUT_x as a write leaves it. -/
def ClkOut.written (o : ClkOut) (v : Word) (held : Bool) : ClkOut :=
  { coast := v.getLsbD 31, fmt := outFmtOf (bits v 24 3), divM1 := v.extractLsb' 0 10, running := outFmtOf (bits v 24 3) != .off && (o.running || held) }

theorem exec_clkoutWrite {s : State} (x : Fin 4) (v : Word) (h : s.serves) :
    exec (.clkoutWrite x v) s =
      .next { s with clk := { s.clk with outs := s.clk.outs.set x.val ((s.clk.outs[x.val]).written v s.clk.pllB.held) } } :=
  congrArg _ (s.hostAct_of _ h.1 h.2)

theorem bits_format (v : Word) : bits v 24 3 = v.toNat / 2 ^ 24 % 8 := by rw [bits, Nat.shiftRight_eq_div_pow]; rfl

theorem ClkOut.written_off {v : Word} (h : 4 < v.toNat / 2 ^ 24 % 8 ∨ v.toNat / 2 ^ 24 % 8 = 0) (o : ClkOut) (held : Bool) :
    (o.written v held).fmt = .off ∧ (o.written v held).running = false := by
  have hf : outFmtOf (bits v 24 3) = .off := by
    rw [bits_format]
    unfold outFmtOf
    split
    · omega
    · omega
    · omega
    · omega
    · rfl
  simp [ClkOut.written, hf]

theorem ClkOut.written_lvds {v : Word} (h : v.toNat / 2 ^ 24 % 8 = 3) (o : ClkOut) (held : Bool) :
    (o.written v held).fmt = .lvds ∧ (o.written v held).running = (o.running || held) := by
  have hf : outFmtOf (bits v 24 3) = .lvds := by rw [bits_format, h]; rfl
  simp [ClkOut.written, hf]

/-- Settles O20: one entry of the outputs is written, and the crystal's bits are set or cleared. -/
theorem outputsAndCrystalChangeAlone : Obligations.OutputsAndCrystalChangeAlone := by
  intro s
  refine ⟨fun hs x v => ?_, rfl, fun h => congrArg _ (if_pos h), fun h => congrArg _ (if_neg (by simp [h]))⟩
  have hx : (s.clk.outs.set x.val ((s.clk.outs[x.val]).written v s.clk.pllB.held))[x.val] = (s.clk.outs[x.val]).written v s.clk.pllB.held :=
    Vector.getElem_set_self x.isLt
  refine ⟨_, exec_clkoutWrite x v hs, rfl, fun y hy => Vector.getElem_set_ne x.isLt y.isLt (fun e => hy (Fin.ext e.symm)), ?_⟩
  show (_ : Vector ClkOut 4)[x.val].coast = _ ∧ _
  rw [hx]
  exact ⟨rfl, rfl, fun h => ClkOut.written_off h _ _, fun h => ClkOut.written_lvds h _ _⟩

end Sys2Proof.Machine
end

section
/-! SUPPORT. The host port: what a read of the time latches, the words of an incrementing frame, and the frames that the port judges, drives and
lands (R495 … R504, R551, R552). -/

namespace Sys2Proof.Machine

/-! ### The two halves of system time (R504) -/

theorem State.hostAct_id (s : State) : (s.hostAct fun s => s) = s := by
  unfold State.hostAct State.live
  split
  · rfl
  · exact ite_self s

/-- The two words of the time ignore writes. -/
theorem State.landWord_time (s : State) (v : Word) (jtag : Bool) : s.landWord 0x10 v jtag = s ∧ s.landWord 0x14 v jtag = s := by
  have hw : s.writable 0x10 = true ∧ s.writable 0x14 = true := ⟨rfl, rfl⟩
  have hg : graveServes 0x10 = false ∧ graveServes 0x14 = false := by decide
  constructor
  · rw [State.landWord, hw.1, hg.1]
    exact s.hostAct_id
  · rw [State.landWord, hw.2, hg.2]
    exact s.hostAct_id

theorem exec_registerWrite_time {s : State} (v : Word) (h : s.runs) :
    exec (.registerWrite 0x10 v) s = .next s ∧ exec (.registerWrite 0x14 v) s = .next s := by
  rw [exec_registerWrite_runs _ v h, exec_registerWrite_runs _ v h, (s.landWord_time v false).1, (s.landWord_time v false).2]
  exact ⟨rfl, rfl⟩

/-- Settles O21: the read is the latch, and both addresses lie in GLB, whose writes reach neither. -/
theorem timeReadsLatchTheHighHalf : Obligations.TimeReadsLatchTheHighHalf := by
  refine ⟨fun s hr => ⟨rfl, rfl, s.latchTime, congrArg _ (s.live_of _ hr), rfl, rfl, ?_, ?_, fun v => exec_registerWrite_time v hr⟩, rfl, rfl⟩
  · exact exec_readClearCounter_runs _ hr
  · exact exec_readClearCounter_runs _ hr

/-! ### The words of a frame (R495, R499, R501, R552) -/

theorem nextAddr_rising {op : BitVec 8} (h : op.getLsbD 1 = false) (a : Addr) : nextAddr op a = a + 4 :=
  if_neg fun hf => Bool.false_ne_true (h.symm.trans hf)

theorem nextAddr_fixed {op : BitVec 8} (h : op.getLsbD 1 = true) (a : Addr) : nextAddr op a = a := if_pos h

theorem State.readWords_mapped {s : State} {a : Addr} {w : Word} (op : BitVec 8) (k : Nat) (h : s.readWord a = some w) :
    s.readWords op a (k + 1) = (((s.readSide a).readWords op (nextAddr op a) k).1, w :: ((s.readSide a).readWords op (nextAddr op a) k).2.1,
      ((s.readSide a).readWords op (nextAddr op a) k).2.2) := by
  rw [State.readWords, h]

theorem State.readWords_unmapped {s : State} {a : Addr} (op : BitVec 8) (k : Nat) (h : s.readWord a = none) :
    s.readWords op a (k + 1) = ((s.readWords op (nextAddr op a) k).1, 0 :: (s.readWords op (nextAddr op a) k).2.1, some a) := by
  rw [State.readWords, h]

/-- A read drives as many words as it is asked for. -/
theorem State.readWords_length (s : State) (op : BitVec 8) (a : Addr) (k : Nat) : (s.readWords op a k).2.1.length = k := by
  induction k generalizing s a with
  | zero => rfl
  | succ k ih =>
    cases h : s.readWord a with
    | some w => rw [State.readWords_mapped op k h]; exact congrArg (· + 1) (ih _ _)
    | none => rw [State.readWords_unmapped op k h]; exact congrArg (· + 1) (ih _ _)

/-- Settles O25: one word of the frame and the address behind it. -/
theorem incrementingFramesJudgeEachWord : Obligations.IncrementingFramesJudgeEachWord := by
  refine ⟨fun op a h => nextAddr_rising h a, fun op h => nextAddr_rising h _, fun s op a v l h => ?_, fun s op a k h => ⟨fun w hw => ?_, fun hn => ?_⟩⟩
  · rw [State.writeWords, nextAddr_rising h]
  · rw [State.readWords_mapped op k hw, nextAddr_rising h]
  · rw [State.readWords_unmapped op k hn, nextAddr_rising h]
    exact ⟨rfl, rfl⟩

theorem State.silent_readWord (s : State) (a : Addr) : s.silent.readWord a = s.readWord a := rfl

/-! ### What a header says (R485, R487, R495) -/

theorem State.header_bad {s : State} {op : BitVec 8} (h : opValid op = false) (dev : BitVec 16) (a : Addr) (done rd : Bool) :
    s.header op dev a done rd = .bad := by
  rw [State.header, h]
  rfl

/-- A good header that names this device. -/
theorem State.header_own {s : State} {op : BitVec 8} {dev : BitVec 16} {a : Addr} {done rd : Bool} (hv : opValid op = true) (hr : opRead op = rd)
    (hd : done = true) (hdev : dev = s.lnk.devId.setWidth 16) (ha : a.extractLsb' 0 2 = 0) : s.header op dev a done rd = .own := by
  have hi : dev.extractLsb' 0 12 = s.lnk.devId := by subst hdev; ext i hi; simp [hi]; omega
  have hz : dev.extractLsb' 12 4 = 0 := by subst hdev; ext i hi; simp
  simp [State.header, hv, hr, hd, hi, hz, ha]

/-- A good header that names another device, off the root. -/
theorem State.header_other {s : State} {op : BitVec 8} {dev : BitVec 16} (a : Addr) {done rd : Bool} (hv : opValid op = true) (hr : opRead op = rd)
    (hd : done = true) (hz : dev.extractLsb' 12 4 = 0) (hroot : s.lnk.root = false) (hi : dev.extractLsb' 0 12 ≠ s.lnk.devId) :
    s.header op dev a done rd = .other := by
  simp [State.header, hv, hr, hd, hi, hz, hroot]

theorem opValid_outside {op : BitVec 8} (h : op.toNat < 0xA0 ∨ 0xB0 ≤ op.toNat) : opValid op = false := by
  have hn : op.extractLsb' 4 4 ≠ 0xA#4 := by
    intro he
    have := congrArg BitVec.toNat he
    simp only [BitVec.extractLsb'_toNat, Nat.shiftRight_eq_div_pow, BitVec.toNat_ofNat] at this
    omega
  exact beq_false_of_ne hn

/-! ### Bad frames (R498) -/

/-- A frame error changes the port's flags, counters and last opcode, and posts its message. -/
theorem State.frameError_hostFlt (s : State) (op : BitVec 8) (kind addr : Nat) :
    s.frameError op kind addr = { s with host := (s.frameError op kind addr).host, flt := (s.frameError op kind addr).flt } := rfl

/-! ### Read frames (R499) -/

/-- A good read frame for this device is served. -/
theorem State.readFrame_own {s : State} {f : ReadFrame} (hown : s.silent.header f.opcode f.devId f.addr f.headerDone true = .own)
    (hcrc : opCrc f.opcode = true → f.headerCrc = crc16 (headerBytes f.opcode f.devId f.addr f.len)) : s.readFrame f = s.silent.serveRead f := by
  have hc : (opCrc f.opcode && f.headerCrc != crc16 (headerBytes f.opcode f.devId f.addr f.len)) = false := by
    cases h : opCrc f.opcode with
    | false => rfl
    | true => simp [hcrc h]
  simp [State.readFrame, hown, hc]

/-- One whose header CRC fails drives zeros behind a wrong CRC. -/
theorem State.readFrame_badCrc {s : State} {f : ReadFrame} (hown : s.silent.header f.opcode f.devId f.addr f.headerDone true = .own)
    (hc : opCrc f.opcode = true) (hcrc : f.headerCrc ≠ crc16 (headerBytes f.opcode f.devId f.addr f.len)) :
    s.readFrame f = (s.silent.drive f.opcode (List.replicate (readCount f) 0) false).frameError f.opcode 0 f.opcode.toNat := by
  simp [State.readFrame, hown, hc, hcrc]

theorem State.readFrame_bad {s : State} {f : ReadFrame} (h : s.silent.header f.opcode f.devId f.addr f.headerDone true = .bad) :
    s.readFrame f = s.silent.badFrame f.opcode := by
  rw [State.readFrame, h]

theorem State.readFrame_other {s : State} {f : ReadFrame} (h : s.silent.header f.opcode f.devId f.addr f.headerDone true = .other) :
    s.readFrame f = s.silent := by
  rw [State.readFrame, h]

theorem State.noteUnmapped_out (s : State) (op : BitVec 8) (a : Option Addr) :
    (s.noteUnmapped op a).host.drove = s.host.drove ∧ (s.noteUnmapped op a).host.out = s.host.out ∧
      (s.noteUnmapped op a).host.outCrc = s.host.outCrc := by
  cases a <;> exact ⟨rfl, rfl, rfl⟩

/-- What a served frame drives. -/
theorem State.serveRead_drives (s : State) (f : ReadFrame) :
    (s.serveRead f).host.drove = true ∧ (s.serveRead f).host.out = (s.readWords f.opcode f.addr (readCount f)).2.1 ∧
      (s.serveRead f).host.outCrc = if opCrc f.opcode then crc16 (dataBytes (s.readWords f.opcode f.addr (readCount f)).2.1) else 0 :=
  State.noteUnmapped_out _ _ _

theorem exec_hostReadFrame {s : State} (f : ReadFrame) (h : s.runs) : exec (.hostReadFrame f) s = .next (s.readFrame f) := congrArg _ (s.live_of _ h)

/-- Settles O23: the header's judgement, then the words of the one word that the frame asks for. -/
theorem readFramesDriveTheirWords : Obligations.ReadFramesDriveTheirWords := by
  rintro f s u hr rfl
  rw [exec_hostReadFrame f hr]
  refine ⟨fun hop hd hdev ha => ?_, fun hop hd hdev ha => ?_, fun hop => ?_, fun hop hd hroot hz hi => ?_⟩
  · obtain ⟨hv, hrd, hc⟩ : opValid f.opcode = true ∧ opRead f.opcode = true ∧ opCrc f.opcode = false := by
      rcases hop with h | h | h | h <;> rw [h] <;> decide
    have hserve : s.readFrame f = s.silent.serveRead f :=
      State.readFrame_own (State.header_own hv hrd hd hdev ha) fun h => absurd (hc.symm.trans h) Bool.false_ne_true
    have hcount : readCount f = f.count := if_neg fun h => absurd (hc.symm.trans h) Bool.false_ne_true
    obtain ⟨hdrove, hout, hocrc⟩ := s.silent.serveRead_drives f
    rw [hc, if_neg Bool.false_ne_true] at hocrc
    rw [hcount] at hout
    rw [hserve]
    refine ⟨fun h0 => ?_, fun h1 w hw => ⟨_, rfl, hdrove, ?_, hocrc, ?_⟩, fun h1 hn => ⟨_, rfl, ?_, hdrove, ?_, ?_, ?_⟩, _, rfl, hdrove, ?_⟩
    · rw [State.serveRead, hcount, h0, State.readWords, State.drive, hc]
      rfl
    · rw [hout, h1, State.readWords_mapped (s := s.silent) f.opcode 0 hw]
      rfl
    · rw [State.serveRead, hcount, h1, State.readWords_mapped (s := s.silent) f.opcode 0 hw]
      rfl
    · rw [State.serveRead, hcount, h1, State.readWords_unmapped (s := s.silent) f.opcode 0 hn]
      rfl
    · rw [hout, h1, State.readWords_unmapped (s := s.silent) f.opcode 0 hn]
      rfl
    · rw [State.serveRead, hcount, h1, State.readWords_unmapped (s := s.silent) f.opcode 0 hn]
      exact Bool.or_true _
    · rw [State.serveRead, hcount, h1, State.readWords_unmapped (s := s.silent) f.opcode 0 hn]
      rfl
    · rw [hout, State.readWords_length]
  · obtain ⟨hv, hrd, hc⟩ : opValid f.opcode = true ∧ opRead f.opcode = true ∧ opCrc f.opcode = true := by
      rcases hop with h | h | h | h <;> rw [h] <;> decide
    have hown := State.header_own (s := s.silent) hv hrd hd hdev ha
    have hcount : readCount f = f.len.toNat + 1 := if_pos hc
    refine ⟨fun hbad => ?_, fun hgood => ?_⟩
    · rw [State.readFrame_badCrc hown hc hbad, hcount]
      exact ⟨_, rfl, rfl, rfl, rfl, if_pos hc, Bool.or_true _, rfl, rfl⟩
    · obtain ⟨hdrove, hout, hocrc⟩ := s.silent.serveRead_drives f
      rw [State.readFrame_own hown fun _ => hgood]
      refine ⟨_, rfl, hdrove, ?_, ?_⟩
      · rw [hout, State.readWords_length, hcount]
      · rw [hocrc, if_pos hc, hout]
  · rw [State.readFrame_bad (State.header_bad (opValid_outside hop) _ _ _ _)]
    exact ⟨_, rfl, rfl, rfl, rfl, Bool.or_true _, rfl, rfl⟩
  · have hv : opValid f.opcode = true ∧ opRead f.opcode = true := by rw [hop]; decide
    rw [State.readFrame_other (State.header_other f.addr hv.1 hv.2 hd hz hroot hi)]
    rfl

/-! ### Write frames (R501, R502) -/

theorem State.silent_writable (s : State) (a : Addr) : s.silent.writable a = s.writable a := rfl

/-- A write frame for this device whose words nothing refuses. -/
theorem State.writeFrame_own {s : State} {f : WriteFrame} (hown : s.silent.header f.opcode f.devId f.addr f.headerDone false = .own)
    (hok : s.silent.writeBad f = none) (ht : f.tail = 0) : s.writeFrame f = s.silent.serveWrite f := by
  simp [State.writeFrame, hown, hok, ht, State.when]

theorem State.writeFrame_refused {s : State} {f : WriteFrame} {k : Nat}
    (hown : s.silent.header f.opcode f.devId f.addr f.headerDone false = .own) (hbad : s.silent.writeBad f = some k) :
    s.writeFrame f = s.silent.frameError f.opcode k f.opcode.toNat := by
  simp [State.writeFrame, hown, hbad]

theorem State.writeBad_plain {s : State} {f : WriteFrame} (hc : opCrc f.opcode = false) (hreq : s.host.crcReq = false) : s.writeBad f = none := by
  simp [State.writeBad, hc, hreq]

theorem State.writeBad_required {s : State} {f : WriteFrame} (hc : opCrc f.opcode = false) (hreq : s.host.crcReq = true) :
    s.writeBad f = some 1 := by
  simp [State.writeBad, hc, hreq]

theorem State.writeBad_crc {s : State} {f : WriteFrame} (hc : opCrc f.opcode = true) (hlen : f.words.length = f.len.toNat + 1) (ht : f.tail = 0)
    (hcrc : f.crc ≠ crc16 (headerBytes f.opcode f.devId f.addr f.len ++ dataBytes f.words)) : s.writeBad f = some 0 := by
  simp [State.writeBad, hc, hlen, ht, hcrc]

/-- Without a collision and with every word mapped, a frame does what its words do in order. -/
theorem State.serveWrite_mapped {s : State} {f : WriteFrame} (hg : s.flt.grave = false) (hc : f.collide = false)
    (hm : s.firstUnmapped f.opcode f.addr f.words = none) : s.serveWrite f = s.writeWords f.opcode f.addr f.words := by
  simp [State.serveWrite, hg, hc, hm, State.when, State.noteUnmapped]

/-- One word that no write reaches is ignored and reported. -/
theorem State.serveWrite_unmapped {s : State} {f : WriteFrame} {v : Word} (hg : s.flt.grave = false) (hc : f.collide = false) (hw : f.words = [v])
    (hm : s.writable f.addr = false) : s.serveWrite f = s.frameError f.opcode 2 f.addr.toNat := by
  simp [State.serveWrite, hg, hc, hw, State.firstUnmapped, hm, State.when, State.noteUnmapped, State.writeWords, State.landWord_unwritable v false hm]

/-- The fields of a write opcode without CRC. -/
theorem opPlain_of {op : BitVec 8} (h : op.extractLsb' 3 5 = 0b10100) : opValid op = true ∧ opCrc op = false := by
  revert h
  unfold opValid opCrc
  revert op
  decide

theorem exec_hostWriteFrame {s : State} (f : WriteFrame) (h : s.runs) : exec (.hostWriteFrame f) s = .next (s.writeFrame f) :=
  congrArg _ (s.live_of _ h)

/-- Settles O24: the header's judgement, what refuses the words, then the words one by one. -/
theorem writeFramesLandTheirWords : Obligations.WriteFramesLandTheirWords := by
  rintro f s u ⟨hr, hg⟩ rfl hd hdev ha hcol
  rw [exec_hostWriteFrame f hr]
  have hserve (hop : opValid f.opcode = true ∧ opRead f.opcode = false ∧ opCrc f.opcode = false) (hreq : s.host.crcReq = false) (ht : f.tail = 0) :
      s.writeFrame f = s.silent.serveWrite f :=
    State.writeFrame_own (State.header_own hop.1 hop.2.1 hd hdev ha) (State.writeBad_plain hop.2.2 hreq) ht
  have hland (hm : s.silent.firstUnmapped f.opcode f.addr f.words = none) : s.silent.serveWrite f = s.silent.writeWords f.opcode f.addr f.words :=
    State.serveWrite_mapped hg hcol hm
  refine ⟨fun hop hreq ht => ?_, fun hop hreq ht v w hw hm => ?_, fun hop h0 hreq => ?_, fun hop hlen ht hcrc => ?_⟩
  · obtain ⟨hplain, hfix⟩ : (opValid f.opcode = true ∧ opRead f.opcode = false ∧ opCrc f.opcode = false) ∧ f.opcode.getLsbD 1 = false := by
      rcases hop with h | h <;> rw [h] <;> decide
    rw [hserve hplain hreq ht]
    refine ⟨fun hw => ?_, fun v hw hm => ?_, fun v w hw hm hm' => ?_, fun v hw hm => ?_⟩
    · rw [hland (by rw [hw, State.firstUnmapped]), hw, State.writeWords]
      rfl
    · rw [hland (by simp [hw, State.firstUnmapped, State.silent_writable, hm]), hw]
      rfl
    · rw [hland (by simp [hw, State.firstUnmapped, State.silent_writable, hm, nextAddr_rising hfix, show s.writable (f.addr + 4#24) = true from hm']), hw, State.writeWords, State.writeWords, nextAddr_rising hfix]
      rfl
    · rw [State.serveWrite_unmapped (s := s.silent) hg hcol hw hm]
      exact ⟨_, rfl, rfl, Bool.or_true _, rfl⟩
  · obtain ⟨hplain, hfix⟩ : (opValid f.opcode = true ∧ opRead f.opcode = false ∧ opCrc f.opcode = false) ∧ f.opcode.getLsbD 1 = true := by
      rcases hop with h | h <;> rw [h] <;> decide
    rw [hserve hplain hreq ht, hland (by simp [hw, State.firstUnmapped, State.silent_writable, hm, nextAddr_fixed hfix]), hw, State.writeWords, State.writeWords,
      nextAddr_fixed hfix]
    rfl
  · obtain ⟨hv, hc⟩ := opPlain_of hop
    rw [State.writeFrame_refused (State.header_own hv h0 hd hdev ha) (State.writeBad_required hc hreq)]
    exact ⟨_, rfl, rfl, Bool.or_true _, rfl, hreq⟩
  · have hplain : opValid f.opcode = true ∧ opRead f.opcode = false ∧ opCrc f.opcode = true := by rw [hop]; decide
    rw [State.writeFrame_refused (State.header_own hplain.1 hplain.2.1 hd hdev ha) (State.writeBad_crc hplain.2.2 hlen ht hcrc)]
    exact ⟨_, rfl, rfl, Bool.or_true _, rfl, rfl⟩

end Sys2Proof.Machine
end

section
/-! SUPPORT. The governor, the stop of both PLLs and the rail gate (R514, R523 … R526). -/

namespace Sys2Proof.Machine

/-! ### Messages (R379) -/

/-- A message of a listed code leaves its sticky bit set. -/
theorem State.post_sticky (s : State) {src : BitVec 10} {kind : Nat} (addr : Nat) (hk : kind < 64) (h : codeInfo src kind ≠ none) :
    ((s.post src kind addr).flt.srcSt src).sticky.getLsbD kind = true := by
  have hkind : (BitVec.ofNat 6 kind).toNat = kind := by simp; omega
  have hs := (State.collectFlt_source (s := s) (m := { src := src, kind := BitVec.ofNat 6 kind, addr := BitVec.ofNat 32 addr })
    (by dsimp only; rwa [hkind])).1
  have hpost : (s.post src kind addr).flt = s.collectFlt { src := src, kind := BitVec.ofNat 6 kind, addr := BitVec.ofNat 32 addr } := rfl
  rw [hpost, hs]
  simp only [hkind]
  simp [hk]

/-! ### The governor (R524 … R526) -/

/-- With every cell asleep the estimate is the base and 2 mW a cell. -/
theorem State.totalMw_asleep {s : State} (h : ∀ k, (s.cell k).awake = false) : s.totalMw = 3500 + 72 * 2 := by
  have hc : s.cellMw = fun _ => 2 := funext fun k => by simp [State.cellMw, h k]
  rw [State.totalMw, hc]
  decide

theorem nextCeiling_lt {g : Nat} (h : g < 512) (t l : Nat) : nextCeiling g t l < 512 := by
  unfold nextCeiling
  repeat' split
  all_goals omega

/-- The registers of the governor after one of its updates. -/
def Pwr.governed (p : Pwr) (t : Nat) : Pwr :=
  { p with totalMw := BitVec.ofNat 16 (min t 65535), ceilMw := BitVec.ofNat 9 (nextCeiling p.ceilMw.toNat t p.limitMw.toNat),
           govHit := p.govHit || decide (nextCeiling p.ceilMw.toNat t p.limitMw.toNat < 300),
           overCount := if (nextCeiling p.ceilMw.toNat t p.limitMw.toNat == 10 && decide (p.limitMw.toNat < t)) = true then p.overCount + 1 else 0 }

/-- An update before its message: the governor's registers and every grant. -/
def State.granted (s : State) : State := (s.upPwr fun p => p.governed s.totalMw).grantAll

/-- The message, or the end of its condition, where the ceiling crosses 300 mW. -/
theorem State.govern_eq (s : State) (g' : Nat) (h : g' = nextCeiling s.pwr.ceilMw.toNat s.totalMw s.pwr.limitMw.toNat) :
    s.govern = if g' < 300 ∧ 300 ≤ s.pwr.ceilMw.toNat then s.granted.post srcPower 0 s.granted.lowestGrant
      else if 300 ≤ g' ∧ s.pwr.ceilMw.toNat < 300 then s.granted.endLive srcPower 0 else s.granted := by
  subst h
  rfl

theorem State.governed_ceiling (s : State) :
    (s.pwr.governed s.totalMw).ceilMw.toNat = nextCeiling s.pwr.ceilMw.toNat s.totalMw s.pwr.limitMw.toNat :=
  Nat.mod_eq_of_lt (nextCeiling_lt s.pwr.ceilMw.isLt _ _)

theorem State.granted_ch (s : State) (n : Ch) :
    (s.granted.ch n) = { s.ch n with loop := { (s.ch n).loop with grantMw := (s.granted.ch n).loop.grantMw } } ∧
    (s.granted.ch n).loop.grantMw.toNat = min (s.ch n).eff.capMw.toNat (s.pwr.governed s.totalMw).ceilMw.toNat := by
  rw [State.granted, State.grantAll, State.allCh_ch]
  refine ⟨rfl, ?_⟩
  show (if (s.ch n).eff.capMw.toNat < (s.pwr.governed s.totalMw).ceilMw.toNat then (s.ch n).eff.capMw else (s.pwr.governed s.totalMw).ceilMw).toNat = _
  split <;> omega

/-- Whatever the message, the channels and the governor's registers stand as granted. -/
theorem State.govern_frame (s : State) : s.govern = { s with chans := s.granted.chans, pwr := s.pwr.governed s.totalMw, flt := s.govern.flt } := by
  rw [s.govern_eq _ rfl]
  repeat' split
  all_goals rfl

theorem State.govern_rest (s : State) : s.govern = { s with chans := s.govern.chans, pwr := s.govern.pwr, flt := s.govern.flt } := by
  rw [s.govern_frame]

theorem State.govern_ch (s : State) (n : Ch) : s.govern.ch n = s.granted.ch n := by
  rw [s.govern_frame]
  rfl

theorem State.govern_pwr (s : State) : s.govern.pwr = s.pwr.governed s.totalMw := by
  rw [s.govern_frame]

/-! ### What stops both PLLs (R523) -/

theorem State.mayStopPlls_iff (s : State) : s.mayStopPlls = true ↔ s.pwr.pllSleep = true ∧ s.clk.pllOff = false ∧
    (∀ b, (s.bay b).awake = false ∧ (s.bay b).waking = false) ∧ (∀ n, (s.ch n).eff.winV.mode = .off ∧ (s.ch n).eff.winI.mode = .off) ∧
    (∀ p : Port, s.lnk.ports[p.val].st = .off) ∧ s.cel.running = none ∧ s.cel.work = [] := by
  have hports : (s.lnk.ports.all fun p => p.st == .off) = true ↔ ∀ p : Port, s.lnk.ports[p.val].st = .off := by
    rw [Vector.all_eq_true]
    exact ⟨fun h p => by simpa using h p.val p.isLt, fun h i hi => by simpa using h ⟨i, hi⟩⟩
  simp only [State.mayStopPlls, Bool.and_eq_true, hports]
  simp [allBayIxs, allChs, and_assoc]

/-- A clock without its PLLs: the reference runs the core, no output runs and system time is unaligned. -/
structure Clk.Stopped (k : Clk) : Prop where
  pllOff : k.pllOff = true
  guard : k.guard = .ref
  phaseA : k.pllA.phase = .off
  phaseB : k.pllB.phase = .off
  lockedA : k.pllA.locked = false
  lockedB : k.pllB.locked = false
  unaligned : k.unaligned = true
  outs : ∀ x : Fin 4, k.outs[x.val].running = false

theorem State.stopPlls_spec (s : State) : ∃ c k l f, s.stopPlls = { s with chans := c, clk := k, lnk := l, flt := f } ∧ k.Stopped ∧
    ∀ n : Ch, s.stopPlls.ch n = if s.clk.guard = .vco8 then ((s.ch n).markWindows s.time).calInterrupt else s.ch n := by
  have hend (u : State) : ∃ k l f, (((u.outsStop true).unalign).upClk fun k => { k with
      pllOff := true, pllA := { k.pllA with phase := .off, locked := false, held := false, refOk := false },
      pllB := { k.pllB with phase := .off, locked := false, held := false, refOk := false } }) = { u with clk := k, lnk := l, flt := f } ∧
      (u.clk.guard = .ref → k.Stopped) := by
    obtain ⟨o, ho, hrun⟩ := u.outsStop_spec true
    rw [ho]
    obtain ⟨l, f, hu, -⟩ := State.unalign_spec { u with clk := { u.clk with outs := o } }
    rw [hu]
    exact ⟨_, l, f, rfl, fun hg => ⟨rfl, hg, rfl, rfl, rfl, rfl, rfl, fun x => by simp [hrun]⟩⟩
  obtain ⟨k, l, f, he, hstop⟩ := hend (s.leaveVco8 .ref)
  have hs : s.stopPlls = { s.leaveVco8 .ref with clk := k, lnk := l, flt := f } := he
  rw [hs]
  by_cases hg : s.clk.guard = .vco8
  · obtain ⟨l', f', hl, -⟩ := s.leaveVco8_of .ref hg
    rw [hl] at hstop ⊢
    exact ⟨_, k, l, f, rfl, hstop rfl, fun n => by rw [if_pos hg]; exact tabulate_get 64 _ n⟩
  · have hl := s.leaveVco8_else .ref hg
    rw [hl] at hstop ⊢
    exact ⟨_, k, l, f, rfl, hstop rfl, fun n => by rw [if_neg hg]; rfl⟩

/-! ### The rail gate (R514) -/

theorem State.refresh_restOnly (s : State) (n : Ch) : s.restOnly (s.refresh n) n := (s.refresh_path n).restOnly

/-- The first rest sequence of a channel changes what the start of any changes. -/
theorem State.restFirst_restOnly (s : State) (n : Ch) : s.restOnly (s.restFirst n) n := by
  have hstart : s.restOnly (s.restStart n) n := by
    by_cases h : (s.ch n).canRest = true ∧ (s.ch n).force.out ≠ .graveOpen ∧ n ∉ s.pwr.waitRest
    · obtain ⟨hc, ho, hw⟩ := h
      exact (State.restStart_spec hc ho hw).1
    · have hs : s.restStart n = s := if_neg (by simpa using h)
      rw [hs]
      exact State.restOnly.refl s n
  exact (hstart.trans (State.startRanging_path _ n).restOnly).trans (State.refresh_restOnly _ n)

/-- Where it runs, the sequence begins now, and the channel may rest again. -/
theorem State.restFirst_begins {s : State} {n : Ch} (hc : (s.ch n).canRest = true) (ho : (s.ch n).force.out ≠ .graveOpen)
    (hw : n ∉ s.pwr.waitRest) : ((s.restFirst n).ch n).force.restAt = some s.time ∧ ((s.restFirst n).ch n).canRest = true ∧
      ((s.restFirst n).ch n).force.out ≠ .graveOpen := by
  obtain ⟨r, x, hranging⟩ := (s.restStart n).startRanging_ch n
  obtain ⟨r', m, l, f, hbegin, -, hat, -, hout⟩ := (s.ch n).restBegin_spec s.time
  have hch : (s.restFirst n).ch n = { (s.ch n).restBegin s.time with
      range := r, force := { ((s.ch n).restBegin s.time).force with target := x } } := by
    rw [State.restFirst, State.refresh_ch, hranging, (State.restStart_spec hc ho hw).2]
  rw [hch, hbegin]
  exact ⟨hat, hc, hout ho⟩

/-- Nothing differs but what the first rest sequences change. -/
def State.restsOnly (s t : State) : Prop := t = { s with chans := t.chans, cells := t.cells, flt := t.flt, bays := t.bays, clk := t.clk }

/-- The first rest sequences of a list of channels: the others stay, and those of the list that may rest begin theirs now. -/
theorem State.each_restFirst (l : List Ch) (s : State) (hw : s.pwr.waitRest = []) :
    s.restsOnly (s.each l fun n s => s.restFirst n) ∧ (∀ n, n ∉ l → (s.each l fun n s => s.restFirst n).ch n = s.ch n) ∧
    ∀ n, n ∈ l → (s.ch n).canRest = true → (s.ch n).force.out ≠ .graveOpen →
      ((s.each l fun n s => s.restFirst n).ch n).force.restAt = some s.time := by
  induction l generalizing s with
  | nil => exact ⟨rfl, fun _ _ => rfl, nofun⟩
  | cons m l ih =>
    rw [State.each_cons]
    obtain ⟨hrest, hother⟩ := s.restFirst_restOnly m
    have htime : (s.restFirst m).time = s.time := by rw [hrest]
    have hpwr : (s.restFirst m).pwr = s.pwr := by rw [hrest]
    obtain ⟨hframe, hstay, hbegin⟩ := ih (s.restFirst m) (by rw [hpwr, hw])
    refine ⟨?_, fun n hn => ?_, fun n hn hc ho => ?_⟩
    · unfold State.restsOnly at hframe ⊢
      rw [hframe, hrest]
    · obtain ⟨hm, hl⟩ : n ≠ m ∧ n ∉ l := by simpa using hn
      rw [hstay n hl, hother n hm]
    · rw [htime] at hbegin
      by_cases hm : n = m
      · subst hm
        obtain ⟨hat, hc', ho'⟩ := State.restFirst_begins hc ho (by simp [hw])
        by_cases hl : n ∈ l
        · exact hbegin n hl hc' ho'
        · rw [hstay n hl, hat]
      · have hl : n ∈ l := (List.mem_cons.mp hn).resolve_left hm
        exact hbegin n hl (by rwa [hother n hm]) (by rwa [hother n hm])

theorem State.restWaiting_spec (s : State) : ∃ c k f b x, s.restWaiting =
      { s with chans := c, cells := k, flt := f, bays := b, clk := x, pwr := { s.pwr with waitRest := [] } } ∧
    (∀ n, n ∉ s.pwr.waitRest → s.restWaiting.ch n = s.ch n) ∧
    ∀ n, n ∈ s.pwr.waitRest → (s.ch n).canRest = true → (s.ch n).force.out ≠ .graveOpen → (s.restWaiting.ch n).force.restAt = some s.time := by
  obtain ⟨hframe, hstay, hbegin⟩ := State.each_restFirst s.pwr.waitRest { s with pwr := { s.pwr with waitRest := [] } } rfl
  exact ⟨_, _, _, _, _, hframe, hstay, hbegin⟩

/-- The end of step REST changes start-up's own registers alone. -/
theorem State.bootDone_spec (s : State) : ∃ p : Pwr, s.bootDone = { s with pwr := p } ∧ p.gateDone = s.pwr.gateDone ∧ p.railWait = s.pwr.railWait ∧
    p.waitRest = s.pwr.waitRest ∧ (p.step = s.pwr.step ∨ p.step = .done) := by
  unfold State.bootDone
  split
  · split
    · exact ⟨_, rfl, rfl, rfl, rfl, .inr rfl⟩
    · exact ⟨_, rfl, rfl, rfl, rfl, .inl rfl⟩
  · exact ⟨_, rfl, rfl, rfl, rfl, .inl rfl⟩

/-- The awake bays with the rails as measured. -/
def State.railed (s : State) (vpos vneg : BitVec 16) : State := s.allBays fun _ x => if x.awake then { x with vposMv := vpos, vnegMv := vneg } else x

theorem State.railed_bay (s : State) (vpos vneg : BitVec 16) (b : Bay) :
    (s.railed vpos vneg).bay b = if (s.bay b).awake then { s.bay b with vposMv := vpos, vnegMv := vneg } else s.bay b :=
  s.allBays_bay _ b

theorem State.railed_ok (s : State) (vpos vneg : BitVec 16) :
    (s.railed vpos vneg).railsOk = true ↔ ∀ b, (s.bay b).awake = true → 13500 ≤ vpos.toNat ∧ 13500 ≤ vneg.toNat := by
  have hb (b : Bay) : (!((s.railed vpos vneg).bay b).awake || (decide (13500 ≤ ((s.railed vpos vneg).bay b).vposMv.toNat) &&
      decide (13500 ≤ ((s.railed vpos vneg).bay b).vnegMv.toNat))) = true ↔ ((s.bay b).awake = true → 13500 ≤ vpos.toNat ∧ 13500 ≤ vneg.toNat) := by
    rw [s.railed_bay]
    cases h : (s.bay b).awake <;> simp [h]
  simp only [State.railsOk, List.all_eq_true, hb]
  exact ⟨fun h b => h b (List.mem_finRange b), fun h b _ => h b⟩

theorem State.railsMeasured_boot {s : State} (vpos vneg : BitVec 16) (h : s.pwr.step = .rails) :
    s.railsMeasured vpos vneg = if (s.railed vpos vneg).railsOk then (s.railed vpos vneg).bootRails else s.railed vpos vneg :=
  if_pos h

theorem State.railsMeasured_gate {s : State} (vpos vneg : BitVec 16) (h : s.pwr.step ≠ .rails) :
    s.railsMeasured vpos vneg = (s.railed vpos vneg).railGate :=
  if_neg h

/-- The gate opened: start-up's registers as the first rest sequences find them. -/
def State.gateOpened (s : State) : State := s.upPwr fun p => { p with gateDone := true, railWait := false }

theorem State.railGate_open {s : State} (hw : s.pwr.waitRest ≠ []) (hok : s.railsOk = true) : s.railGate = s.gateOpened.restWaiting := by
  rw [State.railGate, if_neg hw, hok, Bool.or_true]
  rfl

theorem State.bootRails_open {s : State} (hi : s.img.st ≠ .bare) (hok : s.railsOk = true) :
    s.bootRails = ((s.gateOpened.upPwr fun p => { p with step := .rest }).restWaiting).bootDone := by
  rw [State.bootRails, if_neg hi, if_pos hok]
  rfl

theorem exec_railsInSpan {s : State} (vpos vneg : BitVec 16) (h : s.runs) : exec (.railsInSpan vpos vneg) s = .next (s.railsMeasured vpos vneg) :=
  congrArg _ (s.live_of _ h)

/-- Settles O60: the governor by its registers and grants, the PLLs by what stops them, the rails by the gate's branches. -/
theorem theGovernorTheRailsAndThePllsFollowPower : Obligations.TheGovernorTheRailsAndThePllsFollowPower := by
  intro s hr
  have hgovern : exec .governorUpdate s = .next s.govern := congrArg _ (s.live_of _ hr)
  have hfail : exec .govFail s = .next (if 1024 ≤ s.pwr.overCount then (s.upPwr fun p => { p with overCount := 0 }).post srcPower 1 s.pwr.totalMw.toNat
    else s) := congrArg _ (s.live_of _ hr)
  have hstop : exec .pllStop s = .next (if s.mayStopPlls then s.stopPlls else s) := congrArg _ (s.live_of _ hr)
  refine ⟨State.totalMw_asleep, ⟨_, hgovern, s.govern_rest, ?_⟩, fun h => ?_, fun h => ⟨_, hfail, ?_⟩, fun h => ?_,
    fun h0 h1 h2 h3 h4 h5 h6 => ?_, fun vpos vneg => ⟨s.railed vpos vneg, rfl, s.railed_bay vpos vneg, ?_⟩⟩
  · dsimp only
    have hceil : s.govern.pwr.ceilMw.toNat = nextCeiling s.pwr.ceilMw.toNat s.totalMw s.pwr.limitMw.toNat := by
      rw [s.govern_pwr, s.governed_ceiling]
    have hmsg := s.govern_eq _ hceil
    refine ⟨by rw [s.govern_pwr]; rfl, ?_, ?_, ?_, ?_, ?_, ?_, fun n => ?_, ?_, ?_, ?_⟩
    · rw [s.govern_pwr]
      exact Nat.mod_eq_of_lt (by omega)
    · exact fun h => hceil.trans (if_pos h)
    · intro h
      rw [hceil, nextCeiling, if_neg (by omega), if_pos h]
    · intro h h'
      rw [hceil, nextCeiling, if_neg (by omega), if_neg (by omega)]
    · rw [hceil, s.govern_pwr]
      rfl
    · rw [hceil, s.govern_pwr]
      simp [Pwr.governed]
    · rw [s.govern_ch, s.govern_pwr]
      exact s.granted_ch n
    · intro hlow hwas
      rw [hmsg, if_pos ⟨hlow, hwas⟩]
      exact State.post_sticky _ _ (by decide) (by decide)
    · intro hhigh hwas
      rw [hmsg, if_neg (by omega), if_pos ⟨hhigh, hwas⟩]
      rfl
    · intro hdown hup
      rw [hmsg, if_neg hdown, if_neg hup]
      rfl
  · rw [hfail, if_neg (by omega)]
  · rw [if_pos h]
    exact ⟨rfl, State.post_sticky _ _ (by decide) (by decide)⟩
  · have hno : ¬ s.mayStopPlls = true := by
      rw [s.mayStopPlls_iff]
      rintro ⟨k0, k1, k2, k3, k4, k5, k6⟩
      rcases h with h | h | ⟨b, h⟩ | ⟨n, h⟩ | ⟨p, h⟩ | h | h
      · simp [k0] at h
      · simp [k1] at h
      · simp [k2 b] at h
      · simp [k3 n] at h
      · exact h (k4 p)
      · exact h k5
      · exact h k6
    rw [hstop, if_neg hno]
  · obtain ⟨c, k, l, f, he, hk, hch⟩ := s.stopPlls_spec
    rw [hstop, if_pos (s.mayStopPlls_iff.mpr ⟨h0, h1, h2, h3, h4, h5, h6⟩)]
    refine ⟨_, rfl, ?_, ?_⟩
    · rw [he]
    · rw [show s.stopPlls.clk = k by rw [he]]
      exact ⟨hk.pllOff, hk.guard, hk.phaseA, hk.phaseB, hk.lockedA, hk.lockedB, hk.unaligned, hk.outs, hch⟩
  · dsimp only
    rw [exec_railsInSpan vpos vneg hr]
    refine ⟨fun hs hn => ?_, fun hs hw => ?_, fun hs hw hg hn => ?_, fun hgo hin => ⟨_, rfl, ?_⟩⟩
    · rw [State.railsMeasured_boot vpos vneg hs, if_neg (mt (s.railed_ok vpos vneg).mp hn)]
    · rw [State.railsMeasured_gate vpos vneg hs]
      exact congrArg _ (if_pos hw)
    · rw [State.railsMeasured_gate vpos vneg hs]
      refine congrArg _ ((if_neg hw).trans (if_neg ?_))
      rw [Bool.or_eq_true, s.railed_ok]
      exact not_or.mpr ⟨by rw [show (s.railed vpos vneg).pwr.gateDone = s.pwr.gateDone from rfl, hg]; exact Bool.false_ne_true, hn⟩
    · have hok := (s.railed_ok vpos vneg).mpr hin
      rcases hgo with ⟨hs, hi⟩ | ⟨hs, hw⟩
      · rw [State.railsMeasured_boot vpos vneg hs, if_pos hok, State.bootRails_open (s := s.railed vpos vneg) hi hok]
        obtain ⟨c, k, f, b, x, he, hstay, hbegin⟩ := ((s.railed vpos vneg).gateOpened.upPwr fun p => { p with step := .rest }).restWaiting_spec
        obtain ⟨p, hp, hgate, hwait, hlist, hstep⟩ := State.bootDone_spec (((s.railed vpos vneg).gateOpened.upPwr fun p => { p with step := .rest }).restWaiting)
        have hpwr : p.gateDone = true ∧ p.railWait = false ∧ p.waitRest = [] := by
          rw [hgate, hwait, hlist, he]
          exact ⟨rfl, rfl, rfl⟩
        have hphase : p.step = .rest ∨ p.step = .done := hstep.imp_left fun h => by rw [h, he]; rfl
        rw [hp]
        exact ⟨by rw [he]; rfl, hpwr.1, hpwr.2.1, hpwr.2.2, fun _ => hphase, fun h => absurd hs h, hstay, hbegin⟩
      · rw [State.railsMeasured_gate vpos vneg hs, State.railGate_open (s := s.railed vpos vneg) hw hok]
        obtain ⟨c, k, f, b, x, he, hstay, hbegin⟩ := (s.railed vpos vneg).gateOpened.restWaiting_spec
        refine ⟨by rw [he]; rfl, ?_, ?_, ?_, fun h => absurd h hs, fun _ => ?_, hstay, hbegin⟩ <;> rw [he] <;> rfl

end Sys2Proof.Machine
end

section
/-! SUPPORT. Sleep and wake: the gates of a bay, the trips that a sleeping bay kept, and the writes it held (R304, R310, R329, R521, R522). -/

namespace Sys2Proof.Machine

/-! ### The gates of a bay (R521) -/

/-- One change of each cell of a list. -/
theorem State.each_upCell_cell (f : Cell → Cell) {l : List CellIx} (hl : l.Nodup) (s : State) (k : CellIx) :
    (s.each l fun j s => s.upCell j f).cell k = if k ∈ l then f (s.cell k) else s.cell k := by
  induction l generalizing s with
  | nil => simp
  | cons j l ih =>
    obtain ⟨hj, hl⟩ := List.nodup_cons.mp hl
    rw [State.each_cons, ih hl]
    by_cases e : k = j
    · subst e; simp [hj]
    · simp [e, s.upCell_cell_ne f e]

theorem bayCells_nodup (b : Bay) : (bayCells b).Nodup := (List.nodup_finRange 72).filter _

theorem bayChs_nodup (b : Bay) : (bayChs b).Nodup := allChs_nodup.filter _

theorem State.bayUsers_nodup (s : State) (b : Bay) : (s.bayUsers b).Nodup := allChs_nodup.filter _

theorem State.gates_frame (s : State) (b : Bay) (on : Bool) : s.gates b on = { s with cells := (s.gates b on).cells } :=
  State.each_upCell_frame (bayCells b) (fun k => k) (fun _ _ x => { x with awake := on && (x.role == .active || x.role == .member || x.role == .shadow) }) s

theorem State.gates_cell (s : State) (b : Bay) (on : Bool) (k : CellIx) : (s.gates b on).cell k =
    if k ∈ bayCells b then { s.cell k with awake := on && ((s.cell k).role == .active || (s.cell k).role == .member || (s.cell k).role == .shadow) }
    else s.cell k :=
  State.each_upCell_cell _ (bayCells_nodup b) s k

/-- Which channels use a bay hangs on their maps alone. -/
theorem State.bayUsers_congr {s t : State} (h : ∀ n, (t.ch n).map = (s.ch n).map) (b : Bay) : t.bayUsers b = s.bayUsers b := by
  have hbays (n : Ch) : t.chBays n = s.chBays n := by rw [State.chBays, h n]; rfl
  unfold State.bayUsers
  simp only [hbays, h]

/-! ### Sleep (R521) -/

/-- What a channel's refresh leaves of a cell: its gate, its role and channel, its stored trims and its code. -/
def Cell.standing (x : Cell) := (x.awake, x.role, x.channel, x.locket, x.dac)

theorem State.upCell_standing (s : State) (j k : CellIx) (f : Cell → Cell) (h : ∀ x, (f x).standing = x.standing) :
    ((s.upCell j f).cell k).standing = (s.cell k).standing := by
  rw [State.upCell_cell_eq]
  split
  · next e => rw [h, e]
  · rfl

theorem State.refresh_standing (s : State) (n : Ch) (k : CellIx) : ((s.refresh n).cell k).standing = (s.cell k).standing := by
  unfold State.refresh
  dsimp only
  split
  · next j _ =>
    refine (State.each_keeps (fun t : State => (t.cell k).standing)
      (fun i t => t.upCell i fun x => x.followMember (s.ch n) (t.bay (CellIx.bay i)).awake) (fun i t => t.upCell_standing i k _ fun _ => rfl) _ _).trans ?_
    exact s.upCell_standing j k _ fun _ => rfl
  · rfl

theorem Cell.comparators_standing (x : Cell) : ((x.comparator .v false false false).comparator .i false false false).standing = x.standing := rfl

/-- Behind the gates, the channels of the bay forget their last overlap and their cells follow. -/
def State.restChs (s : State) (l : List Ch) : State :=
  s.each l fun n s => (s.upCh n fun c => { c with meas := { c.meas with lastOvl := none } }).refresh n

theorem State.restChs_pathsOnly (s : State) (l : List Ch) : s.pathsOnly (s.restChs l) :=
  State.each_pathsOnly _ (fun n s => State.pathsOnly.trans (b := s.upCh n _) rfl (State.refresh_path _ n).flt.rest) l s

theorem State.restChs_flt (s : State) (l : List Ch) : (s.restChs l).flt = s.flt :=
  State.each_keeps (fun t : State => t.flt) _ (fun n s => by rw [(State.refresh_path _ n).rest]; rfl) l s

theorem State.restChs_ch (s : State) {l : List Ch} (hl : l.Nodup) (n : Ch) :
    (s.restChs l).ch n = if n ∈ l then { s.ch n with meas := { (s.ch n).meas with lastOvl := none } } else s.ch n :=
  State.each_chs _ (fun _ c => { c with meas := { c.meas with lastOvl := none } })
    (fun a s m h => by rw [State.refresh_ch, s.upCh_ch_ne _ h]) (fun a s => by rw [State.refresh_ch, State.upCh_ch]) l hl s n

theorem State.restChs_standing (s : State) (l : List Ch) (k : CellIx) : ((s.restChs l).cell k).standing = (s.cell k).standing :=
  State.each_keeps (fun t : State => (t.cell k).standing) (fun n t => (t.upCh n fun c => { c with meas := { c.meas with lastOvl := none } }).refresh n)
    (fun n t => State.refresh_standing (t.upCh n _) n k) l s

/-- The gates of the bay have closed, and its comparators are off. -/
def State.darkened (s : State) (b : Bay) : State :=
  ((s.upBay b fun x => { x with awake := false, idle := 0 }).gates b false).each (bayCells b) fun k s =>
    s.upCell k fun x => (x.comparator .v false false false).comparator .i false false false

theorem State.darkened_frame (s : State) (b : Bay) : s.darkened b = { s with cells := (s.darkened b).cells, bays := (s.darkened b).bays } := by
  have hcmp := State.each_upCell_frame (bayCells b) (fun k => k) (fun _ _ x => (x.comparator .v false false false).comparator .i false false false)
    ((s.upBay b fun x => { x with awake := false, idle := 0 }).gates b false)
  unfold State.darkened
  rw [hcmp, State.gates_frame]
  rfl

theorem State.darkened_ch (s : State) (b : Bay) (n : Ch) : (s.darkened b).ch n = s.ch n := by
  rw [s.darkened_frame]
  rfl

theorem State.sleepBay_eq (s : State) (b : Bay) : s.sleepBay b = (s.darkened b).restChs (s.bayUsers b) := by
  have h : s.sleepBay b = (s.darkened b).restChs ((s.darkened b).bayUsers b) := rfl
  exact h.trans (congrArg (State.restChs _) (State.bayUsers_congr (fun n => by rw [s.darkened_ch]) b))

theorem State.maySleep_iff (s : State) (b : Bay) : s.maySleep b = true ↔ (s.bay b).awake = true ∧ (s.bay b).sleepOk = true ∧
    s.pwr.holdAwake.getLsbD b.val = false ∧ s.bayHeld b = false ∧ 1024 ≤ (s.bay b).idle := by
  simp [State.maySleep, and_assoc]

theorem State.darkened_standing (s : State) (b : Bay) (k : CellIx) :
    ((s.darkened b).cell k).standing = (if k ∈ bayCells b then { s.cell k with awake := false } else s.cell k).standing := by
  refine (State.each_keeps (fun t : State => (t.cell k).standing) _ (fun j t => t.upCell_standing j k _ Cell.comparators_standing) _ _).trans ?_
  rw [State.gates_cell]
  rfl

theorem State.sleepBay_standing (s : State) (b : Bay) (k : CellIx) :
    ((s.sleepBay b).cell k).standing = (if k ∈ bayCells b then { s.cell k with awake := false } else s.cell k).standing := by
  rw [s.sleepBay_eq, State.restChs_standing, s.darkened_standing]

theorem State.sleepBay_bay (s : State) (b x : Bay) :
    (s.sleepBay b).bay x = if x = b then { s.bay b with awake := false, idle := 0 } else s.bay x := by
  have hdark : (s.darkened b).bays = (s.upBay b fun x => { x with awake := false, idle := 0 }).bays := by
    have hcmp := State.each_upCell_frame (bayCells b) (fun k => k) (fun _ _ x => (x.comparator .v false false false).comparator .i false false false)
      ((s.upBay b fun x => { x with awake := false, idle := 0 }).gates b false)
    unfold State.darkened
    rw [hcmp, State.gates_frame]
  have hbays : (s.sleepBay b).bays = (s.darkened b).bays := by
    rw [s.sleepBay_eq, State.restChs_pathsOnly]
  have hbay : (s.sleepBay b).bay x = (s.upBay b fun x => { x with awake := false, idle := 0 }).bay x := by
    rw [State.bay, hbays, hdark]
    rfl
  rw [hbay]
  split
  · next e => rw [e, State.upBay_bay]
  · next e => rw [State.upBay_bay_ne _ _ e]

/-! ### The trips that a sleeping bay kept (R304, R310) -/

theorem State.when_pathsOnly (s : State) (b : Bool) {f : State → State} (h : ∀ t, State.pathsOnly t (f t)) : s.pathsOnly (s.when b f) := by
  cases b
  · rfl
  · exact h s

theorem State.cutPulse_pathsOnly (s : State) (n : Ch) (now : Nat) : s.pathsOnly (s.cutPulse n now) := by
  unfold State.cutPulse
  split
  · exact State.pathsOnly.trans (b := (s.upCh n Chan.cutPass).upCh n fun c => c.fastRecord now) rfl (State.pulseOver_spec _ n).1.flt.rest
  · rfl

theorem State.routeStage_pathsOnly (s : State) (n : Ch) (w : WinId) : s.pathsOnly (s.routeStage n w) := by
  unfold State.routeStage State.pathsOnly
  rw [State.stageTrip_eq, State.tripCells_frame]
  rfl

theorem State.trip_pathsOnly (s : State) (n : Ch) (w : WinId) (st : WinState) (now : Nat) : s.pathsOnly (s.trip n w st now) := by
  have hcut : s.pathsOnly (s.noteCut n w st now) :=
    State.pathsOnly.trans (b := s.upCh n fun c => c.noteTrip w st now) rfl (State.when_pathsOnly _ _ fun t => t.cutPulse_pathsOnly n now)
  have hroutes : s.pathsOnly (s.noteRoutes n w st now) := hcut.trans (State.when_pathsOnly _ _ fun t => t.routeStage_pathsOnly n w)
  rw [State.trip_eq]
  exact hroutes.trans rfl

theorem Chan.upWin_win_ne (c : Chan) {w w' : WinId} (h : w' ≠ w) (f : WinSt → WinSt) : (c.upWin w f).win w' = c.win w' := by
  match w, w', h with
  | .v, .i, _ => rfl
  | .i, .v, _ => rfl
  | .v, .v, h => exact absurd rfl h
  | .i, .i, h => exact absurd rfl h

/-- A trip of one window leaves the other alone. -/
theorem State.trip_other (s : State) (n : Ch) {w w' : WinId} (h : w' ≠ w) (st : WinState) (now : Nat) :
    ((s.trip n w st now).ch n).win w' = (s.ch n).win w' := by
  have hnote : ((s.ch n).noteTrip w st now).win w' = (s.ch n).win w' := by
    obtain ⟨b, e⟩ := (s.ch n).noteTrip_spec w st now
    rw [e]
    exact (Chan.win_congr rfl rfl w').trans (Chan.upWin_win_ne _ h _)
  have hcut : ((s.noteCut n w st now).ch n).win w' = (s.ch n).win w' := by
    unfold State.noteCut
    cases ((s.ch n).eff.win w).route.getLsbD 0 with
    | false => rw [State.when_false, State.upCh_ch, hnote]
    | true => rw [State.when_true, (State.cutPulse_spec _ n now).2.win w', State.upCh_ch, hnote]
  have hroutes : ((s.noteRoutes n w st now).ch n).win w' = (s.ch n).win w' := by
    unfold State.noteRoutes
    cases ((s.ch n).eff.win w).route.getLsbD 1 with
    | false => exact hcut
    | true =>
      rw [State.when_true, State.routeStage_ch]
      exact ((Chan.win_congr rfl rfl w').trans (Chan.upWin_win_ne _ h _)).trans hcut
  obtain ⟨g, e, -⟩ := ((s.noteRoutes n w st now).ch n).askTrip_spec (((s.ch n).eff.win w).route.getLsbD 1)
  rw [State.trip_eq, State.upCh_ch, e]
  exact (Chan.win_congr rfl rfl w').trans hroutes

/-- The boundary behind a trip reaches no window and no register. -/
theorem State.stageOpen_wins (s : State) (n : Ch) :
    ((s.stageOpen n).ch n).cfg = (s.ch n).cfg ∧ ∀ w, ((s.stageOpen n).ch n).win w = (s.ch n).win w := by
  unfold State.stageOpen
  split
  · exact ⟨rfl, fun _ => rfl⟩
  · obtain ⟨r, hr, -⟩ := (s.ch n).squash_spec
    have hsq : (s.upCh n fun c => { c.squash with force := { c.squash.force with tripped := true, tripReq := false } }).ch n =
        { s.ch n with range := r, force := { (s.ch n).force with tripped := true, tripReq := false } } := by
      rw [State.upCh_ch, hr]
    generalize (s.upCh n fun c => { c.squash with force := { c.squash.force with tripped := true, tripReq := false } }) = u at hsq ⊢
    have hopen : (u.ch n).openLoops.cfg = (s.ch n).cfg ∧ ∀ w, (u.ch n).openLoops.win w = (s.ch n).win w := by
      obtain ⟨l, f, e, -⟩ := (u.ch n).openLoops_spec
      rw [e, hsq]
      exact ⟨rfl, fun w => Chan.win_congr rfl rfl w⟩
    have hswitch (o : OutState) : ((u.ch n).openOut o).cfg = (s.ch n).cfg ∧ ∀ w, ((u.ch n).openOut o).win w = (s.ch n).win w := by
      obtain ⟨m, e⟩ := (u.ch n).openOut_spec o
      obtain ⟨l, f, e', -⟩ := Chan.openLoops_spec { u.ch n with force := { (u.ch n).force with
        out := o, closeAt := none, closeRest := false, fromRest := false, restAt := if o = OutState.graveOpen then none else (u.ch n).force.restAt } }
      rw [e, e', hsq]
      exact ⟨rfl, fun w => Chan.win_congr rfl rfl w⟩
    dsimp only
    split
    case h_5 =>
      rw [State.refresh_ch, State.upCh_ch]
      exact hopen
    all_goals
      rw [State.openSwitch_ch]
      exact hswitch .tripOpen

theorem State.stageOpen_pathsOnly (s : State) (n : Ch) : s.pathsOnly (s.stageOpen n) := by
  unfold State.stageOpen
  dsimp only
  split
  · rfl
  · split
    case h_5 => exact State.pathsOnly.trans (b := (s.upCh n _).upCh n Chan.openLoops) rfl (State.refresh_path _ n).flt.rest
    all_goals exact State.pathsOnly.trans (b := s.upCh n _) rfl (State.openSwitch_flt _ n _).rest

theorem State.stageOpen_ch_ne (s : State) {n m : Ch} (h : m ≠ n) : (s.stageOpen n).ch m = s.ch m := by
  unfold State.stageOpen
  dsimp only
  split
  · rfl
  · split
    case h_5 => rw [State.refresh_ch, State.upCh_ch_ne _ _ h, State.upCh_ch_ne _ _ h]
    all_goals rw [(State.openSwitch_flt _ n _).ch m h, State.upCh_ch_ne _ _ h]

/-- The window behind every trip of a list. -/
def WinSt.notedAll (x : WinSt) (l : List (WinState × Nat)) : WinSt := l.foldl (fun x y => x.noted y.1 y.2) x

theorem WinSt.notedAll_stage (x : WinSt) (l : List (WinState × Nat)) (b : Bool) :
    WinSt.notedAll { x with stage := b } l = { x.notedAll l with stage := b } := by
  induction l generalizing x with
  | nil => rfl
  | cons y l ih => exact ih (x.noted y.1 y.2)

theorem WinSt.notedAll_fields (x : WinSt) (l : List (WinState × Nat)) : (x.notedAll l).late = x.late ∧
    (x.notedAll l).trips = l.foldl (fun k _ => satInc k) x.trips ∧ (x.notedAll l).tripHi = (x.tripHi || l.any fun y => y.1 == .outHi) := by
  induction l generalizing x with
  | nil => exact ⟨rfl, rfl, (Bool.or_false _).symm⟩
  | cons y l ih =>
    obtain ⟨hlate, htrips, hhi⟩ := ih (x.noted y.1 y.2)
    exact ⟨hlate, htrips, hhi.trans (Bool.or_assoc _ _ _)⟩

/-- The time shown is the last trip's. -/
theorem WinSt.notedAll_time (x : WinSt) (l : List (WinState × Nat)) (y : WinState × Nat) : (x.notedAll (l ++ [y])).time = timeLo y.2 := by
  unfold WinSt.notedAll
  rw [List.foldl_append]
  rfl

/-- The trips of a list on window `w`: each is noted, and nothing reaches the other window or another channel. -/
theorem State.trips_spec (n : Ch) (w : WinId) (l : List (WinState × Nat)) (s : State) :
    s.pathsOnly (s.each l fun x s => s.trip n w x.1 x.2) ∧ (∀ m, m ≠ n → (s.each l fun x s => s.trip n w x.1 x.2).ch m = s.ch m) ∧
    ((s.each l fun x s => s.trip n w x.1 x.2).ch n).cfg = (s.ch n).cfg ∧
    (∃ b, ((s.each l fun x s => s.trip n w x.1 x.2).ch n).win w = { ((s.ch n).win w).notedAll l with stage := b }) ∧
    ∀ w', w' ≠ w → ((s.each l fun x s => s.trip n w x.1 x.2).ch n).win w' = (s.ch n).win w' := by
  induction l generalizing s with
  | nil => exact ⟨rfl, fun _ _ => rfl, rfl, ⟨_, rfl⟩, fun _ _ => rfl⟩
  | cons y l ih =>
    rw [State.each_cons]
    obtain ⟨honly, htripped⟩ := s.trip_spec n w y.1 y.2
    obtain ⟨b, hb⟩ := htripped.win
    obtain ⟨hpaths, hch, hcfg, ⟨b', hwin⟩, hother⟩ := ih (s.trip n w y.1 y.2)
    refine ⟨(s.trip_pathsOnly n w y.1 y.2).trans hpaths, fun m h => (hch m h).trans (honly.ch m h), hcfg.trans htripped.cfg, ⟨b', ?_⟩,
      fun w' h => (hother w' h).trans (s.trip_other n h y.1 y.2)⟩
    rw [hwin, hb, WinSt.notedAll_stage]
    rfl

/-- The kept trips of window `w` at the wake. -/
theorem State.lateTrip_spec (s : State) (n : Ch) (w : WinId) : s.pathsOnly (s.lateTrip n w) ∧ (∀ m, m ≠ n → (s.lateTrip n w).ch m = s.ch m) ∧
    ((s.lateTrip n w).ch n).cfg = (s.ch n).cfg ∧
    (∃ b, ((s.lateTrip n w).ch n).win w = { WinSt.notedAll { (s.ch n).win w with late := [] } ((s.ch n).win w).late with stage := b }) ∧
    ∀ w', w' ≠ w → ((s.lateTrip n w).ch n).win w' = (s.ch n).win w' := by
  obtain ⟨hpaths, hch, hcfg, ⟨b, hwin⟩, hother⟩ :=
    State.trips_spec n w ((s.ch n).win w).late (s.upCh n fun c => c.upWin w fun x => { x with late := [] })
  unfold State.lateTrip
  generalize (s.upCh n fun c => c.upWin w fun x => { x with late := [] }).each ((s.ch n).win w).late (fun x s => s.trip n w x.1 x.2) = u at *
  obtain ⟨hocfg, howin⟩ := u.stageOpen_wins n
  rw [State.upCh_ch] at hcfg hwin hother
  refine ⟨(State.pathsOnly.trans (b := s.upCh n _) rfl hpaths).trans (u.stageOpen_pathsOnly n), fun m h => ?_, ?_, ⟨b, ?_⟩, fun w' h => ?_⟩
  · rw [u.stageOpen_ch_ne h, hch m h, State.upCh_ch_ne _ _ h]
  · rw [hocfg, hcfg, Chan.upWin_cfg]
  · rw [howin, hwin, Chan.upWin_win]
  · rw [howin, hother w' h, Chan.upWin_win_ne _ h]

theorem Chan.upWin_same {c : Chan} {w : WinId} {f : WinSt → WinSt} (h : f (c.win w) = c.win w) : c.upWin w f = c := by
  cases w
  · show ({ c with winV := f (c.win .v) } : Chan) = c
    rw [h]
    rfl
  · show ({ c with winI := f (c.win .i) } : Chan) = c
    rw [h]
    rfl

/-- Without a kept trip and without one at the output stage the wake leaves the window's channel alone. -/
theorem State.lateTrip_none {s : State} {n : Ch} {w : WinId} (hl : ((s.ch n).win w).late = []) (hr : (s.ch n).force.tripReq = false) :
    s.lateTrip n w = s := by
  have hsame : s.upCh n (fun c => c.upWin w fun x => { x with late := [] }) = s := by
    refine s.upCh_same n _ ?_
    have hx : ({ (s.ch n).win w with late := [] } : WinSt) = (s.ch n).win w := by rw [← hl]
    exact Chan.upWin_same hx
  unfold State.lateTrip
  rw [hsame, hl, State.each_nil, State.stageOpen, hr]
  rfl

/-! ### Wake (R329, R522) -/

/-- A switch that waited to close in its sleeping bay closes from now on. -/
def Chan.closeFrom (c : Chan) (now : Nat) : Chan := { c with force := { c.force with closeAt := c.force.closeAt.map fun _ => now } }

/-- The bay awake, its gates open and a long wake reported. -/
def State.lit (s : State) (b : Bay) : State :=
  ((s.upBay b fun x => { x with awake := true, waking := false, idle := 0, held := [] }).gates b true).when (decide (96 < (s.bay b).wakePeriods))
    fun t => t.post (srcBay b) 3 (s.bay b).wakePeriods

theorem State.lit_frame (s : State) (b : Bay) : s.lit b = { s with cells := (s.lit b).cells, bays := (s.lit b).bays, flt := (s.lit b).flt } := by
  unfold State.lit
  rw [State.gates_frame]
  cases decide (96 < (s.bay b).wakePeriods) <;> rfl

theorem State.lit_ch (s : State) (b : Bay) (n : Ch) : (s.lit b).ch n = s.ch n := by
  rw [s.lit_frame]
  rfl

theorem State.lit_bay (s : State) (b x : Bay) :
    (s.lit b).bay x = if x = b then { s.bay b with awake := true, waking := false, idle := 0, held := [] } else s.bay x := by
  have h : (s.lit b).bay x = (s.upBay b fun x => { x with awake := true, waking := false, idle := 0, held := [] }).bay x := by
    unfold State.lit
    rw [State.gates_frame]
    cases decide (96 < (s.bay b).wakePeriods) <;> rfl
  rw [h]
  split
  · next e => rw [e, State.upBay_bay]
  · next e => rw [State.upBay_bay_ne _ _ e]

theorem State.lit_cell (s : State) (b : Bay) (k : CellIx) : (s.lit b).cell k = if k ∈ bayCells b then
    { s.cell k with awake := (s.cell k).role == .active || (s.cell k).role == .member || (s.cell k).role == .shadow } else s.cell k := by
  have h : (s.lit b).cell k = ((s.upBay b fun x => { x with awake := true, waking := false, idle := 0, held := [] }).gates b true).cell k := by
    unfold State.lit
    cases decide (96 < (s.bay b).wakePeriods) <;> rfl
  rw [h, State.gates_cell]
  rfl

/-- The collector's answer hangs on no cell and no bay. -/
theorem State.collectFlt_place (s : State) (c : Vector Cell 72) (y : Vector BaySt 8) (m : Msg) :
    ({ s with cells := c, bays := y } : State).collectFlt m = s.collectFlt m := rfl

theorem State.lit_flt (s : State) (b : Bay) :
    (s.lit b).flt = if 96 < (s.bay b).wakePeriods then (s.post (srcBay b) 3 (s.bay b).wakePeriods).flt else s.flt := by
  unfold State.lit
  rw [State.gates_frame]
  split
  · next h =>
    rw [decide_eq_true h, State.when_true]
    exact s.collectFlt_place _ _ _
  · next h =>
    rw [decide_eq_false h]
    rfl

/-- The switches that waited close from now on. -/
def State.lateCloses (s : State) (l : List Ch) : State := s.each l fun n t => t.upCh n fun c => c.closeFrom t.time

theorem State.lateCloses_frame (s : State) (l : List Ch) : s.lateCloses l = { s with chans := (s.lateCloses l).chans } :=
  State.each_inv (fun t => t = { s with chans := t.chans }) _ (fun n t h => by rw [h]; rfl) l s rfl

theorem State.lateCloses_ch (s : State) {l : List Ch} (hl : l.Nodup) (n : Ch) :
    (s.lateCloses l).ch n = if n ∈ l then (s.ch n).closeFrom s.time else s.ch n := by
  obtain ⟨hout, hin⟩ := State.each_turn (P := fun t => t.time = s.time) (f := fun n t => t.upCh n fun c => c.closeFrom t.time)
    (fun _ _ h => h) (fun a u j _ h => u.upCh_ch_ne _ h) hl rfl n
  split
  · next h =>
    obtain ⟨u, ht, hch, he⟩ := hin h
    exact he.trans (by rw [State.upCh_ch, hch, ht])
  · next h => exact hout h

/-- The bay awake before its kept trips and held writes. -/
def State.woken (s : State) (b : Bay) : State := (s.lit b).lateCloses (s.bayUsers b)

/-- The kept trips of a list of channels. -/
def State.lateTrips (s : State) (l : List Ch) : State := s.each l fun n s => (s.lateTrip n .v).lateTrip n .i

/-- The held writes, and the cells that follow them. -/
def State.takeHeld (s : State) (b : Bay) (l : List (Addr × Word)) : State :=
  (s.each l fun x s => s.landWord x.1 x.2 false).each ((s.each l fun x s => s.landWord x.1 x.2 false).bayUsers b) fun n s => s.refresh n

theorem State.wakeBay_eq (s : State) (b : Bay) : s.wakeBay b = ((s.woken b).lateTrips (bayChs b)).takeHeld b (s.bay b).held := by
  have h : s.wakeBay b = (((s.lit b).lateCloses ((s.lit b).bayUsers b)).lateTrips (bayChs b)).takeHeld b (s.bay b).held := rfl
  have hu : (s.lit b).bayUsers b = s.bayUsers b := State.bayUsers_congr (fun n => by rw [s.lit_ch]) b
  rw [hu] at h
  exact h

theorem State.takeHeld_nil_ch (s : State) (b : Bay) (n : Ch) : (s.takeHeld b []).ch n = s.ch n :=
  State.each_keeps (fun t : State => t.ch n) (fun m t => t.refresh m) (fun m t => t.refresh_ch m n) _ s

theorem State.takeHeld_nil_pathsOnly (s : State) (b : Bay) : s.pathsOnly (s.takeHeld b []) :=
  State.each_pathsOnly _ (fun m t => (t.refresh_path m).flt.rest) _ s

theorem State.woken_ch (s : State) (b : Bay) (n : Ch) : (s.woken b).ch n = if n ∈ s.bayUsers b then (s.ch n).closeFrom s.time else s.ch n := by
  have htime : (s.lit b).time = s.time := by rw [s.lit_frame]
  rw [State.woken, State.lateCloses_ch _ (s.bayUsers_nodup b), s.lit_ch, htime]

theorem State.woken_frame (s : State) (b : Bay) : s.woken b =
    { s with chans := (s.woken b).chans, cells := (s.lit b).cells, bays := (s.lit b).bays, flt := (s.lit b).flt } := by
  unfold State.woken
  rw [State.lateCloses_frame, s.lit_frame]

theorem State.woken_bay (s : State) (b x : Bay) :
    (s.woken b).bay x = if x = b then { s.bay b with awake := true, waking := false, idle := 0, held := [] } else s.bay x := by
  rw [← s.lit_bay, s.woken_frame]
  rfl

theorem State.woken_cell (s : State) (b : Bay) (k : CellIx) : (s.woken b).cell k = (s.lit b).cell k := by
  rw [s.woken_frame]
  rfl

theorem State.woken_flt (s : State) (b : Bay) :
    (s.woken b).flt = if 96 < (s.bay b).wakePeriods then (s.post (srcBay b) 3 (s.bay b).wakePeriods).flt else s.flt := by
  rw [← s.lit_flt, s.woken_frame]

/-- The windows, the registers and the request to the output stage are those of the sleep. -/
theorem State.woken_keeps (s : State) (b : Bay) (n : Ch) : (s.ch n).KeepsWindows ((s.woken b).ch n) := by
  rw [s.woken_ch]
  split
  · exact ⟨rfl, fun w => Chan.win_congr rfl rfl w, rfl⟩
  · exact Chan.KeepsWindows.refl _

/-- Without a kept trip the trips of a list change nothing. -/
theorem State.lateTrips_none {s : State} {l : List Ch} (h : ∀ n ∈ l, (s.ch n).force.tripReq = false ∧ ∀ w, ((s.ch n).win w).late = []) :
    s.lateTrips l = s := by
  refine State.each_invMem (P := fun t => t = s) (fun n hn t ht => ?_) rfl
  subst ht
  obtain ⟨hreq, hlate⟩ := h n hn
  rw [State.lateTrip_none (hlate .v) hreq, State.lateTrip_none (hlate .i) hreq]

theorem State.lateTrips_pathsOnly (s : State) (l : List Ch) : s.pathsOnly (s.lateTrips l) :=
  State.each_pathsOnly _ (fun n t => (t.lateTrip_spec n .v).1.trans ((t.lateTrip n .v).lateTrip_spec n .i).1) l s

/-- Both windows' kept trips: window `w` is noted for each of its own. -/
theorem State.lateBoth_win (s : State) (n : Ch) (w : WinId) : (((s.lateTrip n .v).lateTrip n .i).ch n).cfg = (s.ch n).cfg ∧
    ∃ b, (((s.lateTrip n .v).lateTrip n .i).ch n).win w =
      { WinSt.notedAll { (s.ch n).win w with late := [] } ((s.ch n).win w).late with stage := b } := by
  obtain ⟨-, -, hcv, ⟨bv, hv⟩, hov⟩ := s.lateTrip_spec n .v
  obtain ⟨-, -, hci, ⟨bi, hi⟩, hoi⟩ := (s.lateTrip n .v).lateTrip_spec n .i
  refine ⟨hci.trans hcv, ?_⟩
  cases w with
  | v => exact ⟨bv, (hoi .v (by decide)).trans hv⟩
  | i =>
    rw [hov .i (by decide)] at hi
    exact ⟨bi, hi⟩

theorem State.lateTrips_win (s : State) {l : List Ch} (hl : l.Nodup) {n : Ch} (hn : n ∈ l) (w : WinId) : ((s.lateTrips l).ch n).cfg = (s.ch n).cfg ∧
    ∃ b, ((s.lateTrips l).ch n).win w = { WinSt.notedAll { (s.ch n).win w with late := [] } ((s.ch n).win w).late with stage := b } := by
  obtain ⟨u, -, hch, he⟩ := (State.each_turn (P := fun _ => True) (f := fun n t => (t.lateTrip n .v).lateTrip n .i) (fun _ _ h => h)
    (fun a u j _ h => (((u.lateTrip a .v).lateTrip_spec a .i).2.1 j h).trans ((u.lateTrip_spec a .v).2.1 j h)) hl trivial n).2 hn
  have hboth := u.lateBoth_win n w
  rw [hch, ← he] at hboth
  exact hboth

theorem exec_bayAwake {s : State} (b : Bay) (h : s.runs) :
    exec (.bayAwake b) s = .next (if (s.bay b).waking && s.clk.started then s.wakeBay b else s) := congrArg _ (s.live_of _ h)

/-- Settles O48: the sleep by its gates, the wake by the bay lit, its kept trips and its held writes. -/
theorem baysSleepWhenIdleAndWakeWithTheirWrites : Obligations.BaysSleepWhenIdleAndWakeWithTheirWrites := by
  intro b s hr
  have hsleep : exec (.baySleep b) s = .next (if s.maySleep b then s.sleepBay b else s) := congrArg _ (s.live_of _ hr)
  have hwake := exec_bayAwake b hr
  refine ⟨fun h => ?_, fun h1 h2 h3 h4 h5 => ⟨_, hsleep, ?_⟩, fun h => ?_, fun hw hs hn => ?_, fun hw hs hh n hn w l st x hl => ?_⟩
  · have hno : ¬ s.maySleep b = true := by
      rw [s.maySleep_iff]
      rintro ⟨k1, k2, k3, k4, k5⟩
      rcases h with h | h | h | h | h
      · simp [k1] at h
      · simp [k2] at h
      · exact absurd (k3.symm.trans h) Bool.false_ne_true
      · simp [k4] at h
      · omega
    rw [hsleep, if_neg hno]
  · rw [if_pos ((s.maySleep_iff b).mpr ⟨h1, h2, h3, h4, h5⟩)]
    refine ⟨?_, by rw [s.sleepBay_bay, if_pos rfl], fun x hx => by rw [s.sleepBay_bay, if_neg hx], fun n => ?_, fun k => ?_, fun k => ?_⟩
    · have hflt : (s.sleepBay b).flt = s.flt := by rw [s.sleepBay_eq, State.restChs_flt, s.darkened_frame]
      have hrest : s.sleepBay b = { s.darkened b with chans := (s.sleepBay b).chans, cells := (s.sleepBay b).cells, flt := (s.sleepBay b).flt } := by
        rw [s.sleepBay_eq]
        exact State.restChs_pathsOnly _ _
      rw [hflt, s.darkened_frame] at hrest
      rw [hrest]
    · rw [s.sleepBay_eq, State.restChs_ch _ (s.bayUsers_nodup b), s.darkened_ch]
    · have h := congrArg Prod.fst (s.sleepBay_standing b k)
      refine h.trans ?_
      split <;> rfl
    · have h := congrArg Prod.snd (s.sleepBay_standing b k)
      have hrest : ((s.sleepBay b).cell k).standing.2 = (s.cell k).standing.2 := by
        refine h.trans ?_
        split <;> rfl
      simpa [Cell.standing] using hrest
  · rw [hwake, if_neg (by rcases h with h | h <;> simp [h])]
  · rw [hwake, if_pos (by rw [hw, hs]; rfl), s.wakeBay_eq, State.lateTrips_none fun n hn' => ?_]
    · refine ⟨s.woken b, _, rfl, rfl, ?_, ?_, ?_, s.woken_ch b, ?_, ?_, ?_, ?_⟩
      · rw [s.woken_frame]
      · rw [s.woken_bay, if_pos rfl]
      · intro x hx
        rw [s.woken_bay, if_neg hx]
      · intro k
        rw [← s.lit_cell, s.woken_cell]
      · intro h
        rw [s.woken_flt, if_pos h]
      · intro h
        rw [s.woken_flt, if_neg (by omega)]
      · intro h n
        rw [h]
        exact State.takeHeld_nil_ch _ b n
    · have hk := s.woken_keeps b n
      obtain ⟨hreq, hlate⟩ := hn n hn'
      exact ⟨hk.tripReq.trans hreq, fun w => by rw [hk.win w, hlate w]⟩
  · rw [hwake, if_pos (by rw [hw, hs]; rfl), s.wakeBay_eq, hh]
    have hk := s.woken_keeps b n
    obtain ⟨hcfg, ⟨q, hwin⟩⟩ := (s.woken b).lateTrips_win (bayChs_nodup b) hn w
    obtain ⟨hlate, htrips, hhi⟩ := WinSt.notedAll_fields { (s.ch n).win w with late := [] } (l ++ [(st, x)])
    have htime := WinSt.notedAll_time { (s.ch n).win w with late := [] } l (st, x)
    rw [hk.win w, hl] at hwin
    refine ⟨_, rfl, ?_, ?_, ?_, ?_, ?_, ?_⟩
    · have hbays : (((s.woken b).lateTrips (bayChs b)).takeHeld b []).bays = (s.woken b).bays := by
        rw [State.takeHeld_nil_pathsOnly, State.lateTrips_pathsOnly]
      rw [State.bay, hbays]
      exact congrArg BaySt.awake ((s.woken_bay b b).trans (if_pos rfl))
    · rw [State.takeHeld_nil_ch, hwin]
      exact hlate
    · rw [State.takeHeld_nil_ch, hcfg, hk.cfg]
    · rw [State.takeHeld_nil_ch, hwin]
      exact htrips
    · rw [State.takeHeld_nil_ch, hwin]
      exact htime
    · rw [State.takeHeld_nil_ch, hwin]
      exact hhi

end Sys2Proof.Machine
end

section
/-! SUPPORT. The link's time and its spanning sync sets: markers, time steps, commit orders and requests (R453, R477 … R482). -/

namespace Sys2Proof.Machine

/-! ### What acts on the root alone (R477, R493) -/

/-- A host act that changes nothing changes nothing at Grave or under a reset either. -/
theorem State.hostAct_still {s : State} {f : State → State} (h : f s = s) : s.hostAct f = s := by
  unfold State.hostAct State.live
  split
  · rfl
  · dsimp only
    rw [h]
    exact ite_self s

/-! ### Alignment (R453) -/

/-- Where time was aligned, its loss asks for RESYNC at the root's next marker and reports each spanning set. -/
theorem State.unalign_aligned {s : State} (h : s.clk.unaligned = false) :
    ∃ f, s.unalign = { s with clk := { s.clk with unaligned := true }, lnk := { s.lnk with resyncNext := true }, flt := f } := by
  unfold State.unalign
  rw [if_neg (by simp [h])]
  exact ⟨_, State.each_flt (fun (t : BitVec 8) s => s.post (srcLink 0) 2 t.toNat) (fun _ _ => rfl) _ _⟩

/-- The end of a condition clears its live bit. -/
theorem State.endLive_clears (s : State) (src : BitVec 10) {kind : Nat} (hk : kind < 64) : ((s.endLive src kind).flt.srcSt src).live.getLsbD kind = false := by
  have h : ((s.endLive src kind).flt.srcSt src).live = (s.flt.srcSt src).live &&& ~~~ (1#64 <<< kind) := by
    simp [State.endLive, State.upFlt]
  rw [h]
  simp [hk]

/-! ### Markers (R477, R478) -/

theorem State.sendMarker_eq (s : State) : s.sendMarker =
    (s.when (s.clk.unaligned && s.mayAlign) State.align).upLnk fun l => { (l.epoch s.nextMarker) with
      epochReq := false, lastMarker := s.ticks, resyncNext := s.clk.unaligned && !(s.clk.guard == .vco8 && s.clk.pllB.held) } := by
  cases hu : s.clk.unaligned with
  | false => simp [State.sendMarker, hu, State.when]
  | true =>
    cases ha : s.mayAlign with
    | false =>
      have ha' : (s.clk.guard == .vco8 && s.clk.pllB.held) = false := ha
      simp [State.sendMarker, hu, ha, ha', State.when]
    | true =>
      have ha' : (s.clk.guard == .vco8 && s.clk.pllB.held) = true := ha
      simp only [State.sendMarker, hu, ha, ha', State.when]
      rfl

/-- At its own marker the root aligns where the conditions hold. -/
theorem State.alignAtMarker (s : State) : ∃ u f, s.when (s.clk.unaligned && s.mayAlign) State.align =
    { s with clk := { s.clk with unaligned := u }, flt := f } ∧ u = (s.clk.unaligned && !(s.clk.guard == .vco8 && s.clk.pllB.held)) := by
  show ∃ u f, _ ∧ u = (s.clk.unaligned && !s.mayAlign)
  cases h : (s.clk.unaligned && s.mayAlign) with
  | false =>
    refine ⟨s.clk.unaligned, s.flt, rfl, ?_⟩
    revert h
    cases s.clk.unaligned <;> simp
  | true =>
    refine ⟨false, _, rfl, ?_⟩
    simp [(Bool.and_eq_true_iff.mp h).2]

theorem Lnk.epoch_coded (l : Lnk) (m : Marker) (p : Port) : (l.epoch m).ports[p.val].coded = false := by
  simp [Lnk.epoch]

theorem State.markerDue_iff (s : State) : s.markerDue = true ↔
    s.lnk.root = true ∧ (s.lnk.epochReq = true ∨ s.lnk.lastMarker + s.lnk.epochTicks ≤ s.ticks) := by
  simp [State.markerDue]

/-- The device as a marker finds it: a new epoch, with the error shown. -/
def State.epoched (s : State) (m : Marker) : State :=
  s.upLnk fun l => { (l.epoch m) with offset := sat32 (markerError m s.lnk.rootLat.toNat) }

/-- The error is taken: a step beyond two cycles, a trim otherwise. -/
def State.retimed (s : State) (e : Int) : State := if 128 < e.natAbs then s.startStep e else s.startTrim e

theorem State.takeMarker_waits {s : State} (m : Marker) (hu : s.clk.unaligned = true) (ha : s.mayAlign = false) : s.takeMarker m = s.epoched m := by
  have ha' : (s.epoched m).mayAlign = false := ha
  exact (if_pos hu).trans (if_neg fun k => Bool.false_ne_true (ha'.symm.trans k))

theorem State.takeMarker_aligns {s : State} (m : Marker) (hu : s.clk.unaligned = true) (ha : s.mayAlign = true) :
    s.takeMarker m = ((s.epoched m).retimed (markerError m s.lnk.rootLat.toNat)).align := by
  have ha' : (s.epoched m).mayAlign = true := ha
  have h : s.takeMarker m = (if decide (128 < (markerError m s.lnk.rootLat.toNat).natAbs) = true then
      (s.epoched m).startStep (markerError m s.lnk.rootLat.toNat) else (s.epoched m).startTrim (markerError m s.lnk.rootLat.toNat)).align :=
    (if_pos hu).trans (if_pos ha')
  simpa [State.retimed] using h

theorem State.takeMarker_holds {s : State} {m : Marker} (hu : s.clk.unaligned = false)
    (h : (markerError m s.lnk.rootLat.toNat).natAbs ≤ 128 ∨ m.resync = true) :
    s.takeMarker m = (s.epoched m).retimed (markerError m s.lnk.rootLat.toNat) := by
  have hm : s.takeMarker m = if (!decide (128 < (markerError m s.lnk.rootLat.toNat).natAbs)) = true then
        (s.epoched m).startTrim (markerError m s.lnk.rootLat.toNat)
      else if m.resync = true then (s.epoched m).startStep (markerError m s.lnk.rootLat.toNat)
      else ((s.epoched m).startStep (markerError m s.lnk.rootLat.toNat)).unalign := if_neg (by simp [State.upLnk, hu])
  rw [hm, State.retimed]
  by_cases hb : 128 < (markerError m s.lnk.rootLat.toNat).natAbs
  · have hr := h.resolve_left (by omega)
    simp [hb, hr]
  · simp [hb]

theorem State.takeMarker_loses {s : State} {m : Marker} (hu : s.clk.unaligned = false) (hb : 128 < (markerError m s.lnk.rootLat.toNat).natAbs)
    (hr : m.resync = false) : s.takeMarker m = ((s.epoched m).retimed (markerError m s.lnk.rootLat.toNat)).unalign := by
  have hm : s.takeMarker m = if (!decide (128 < (markerError m s.lnk.rootLat.toNat).natAbs)) = true then
        (s.epoched m).startTrim (markerError m s.lnk.rootLat.toNat)
      else if m.resync = true then (s.epoched m).startStep (markerError m s.lnk.rootLat.toNat)
      else ((s.epoched m).startStep (markerError m s.lnk.rootLat.toNat)).unalign := if_neg (by simp [State.upLnk, hu])
  rw [hm, State.retimed]
  simp [hb, hr]

/-- No field differs but the step, the trim and what the next marker says. -/
def Lnk.Timed (l k : Lnk) : Prop := k = { l with step := k.step, steps := k.steps, trim := k.trim, resyncNext := k.resyncNext }

theorem Lnk.Timed.resync {l k : Lnk} (h : l.Timed k) (b : Bool) : l.Timed { k with resyncNext := b } := by
  unfold Lnk.Timed at *
  rw [h]

/-- A correction changes the step and the trim, and marks the open windows at a step. -/
theorem State.retimed_spec (s : State) (e : Int) : ∃ c l, s.retimed e = { s with chans := c, lnk := l } ∧
    s.lnk.Timed l ∧
    (e.natAbs ≤ 128 → l.trim = e ∧ l.step = s.lnk.step ∧ l.steps = s.lnk.steps ∧ c = s.chans) ∧
    (128 < e.natAbs → l.step = some (e / 64, ((-(e / 64)) % 1024).toNat) ∧ l.steps = satInc s.lnk.steps ∧ l.trim = e % 64) ∧
    ∀ n, ((s.retimed e).ch n).force = (s.ch n).force ∧ ((s.retimed e).ch n).strand = (s.ch n).strand ∧ ((s.retimed e).ch n).loop = (s.ch n).loop := by
  unfold State.retimed
  split
  · next h =>
    refine ⟨_, _, rfl, rfl, fun k => absurd h (by omega), fun _ => ⟨rfl, rfl, ?_⟩, fun n => ?_⟩
    · show e - 64 * (e / 64) = e % 64
      omega
    · have hch : (s.startStep e).ch n = (s.ch n).markWindows s.time := s.allCh_ch (fun _ c => c.markWindows s.time) n
      rw [hch]
      exact ⟨rfl, rfl, rfl⟩
  · next h => exact ⟨_, _, rfl, rfl, fun _ => ⟨rfl, rfl, rfl, rfl⟩, fun k => absurd k h, fun _ => ⟨rfl, rfl, rfl⟩⟩

/-- What a marker leaves, by its error `e`. -/
structure State.Taken (s t : State) (m : Marker) (e : Int) : Prop where
  number : t.lnk.epochNo = m.number
  resync : t.lnk.epochResync = m.resync
  sent : t.lnk.sent = some m
  offset : t.lnk.offset = sat32 e
  time : t.time = s.time
  chans : ∀ n, (t.ch n).force = (s.ch n).force ∧ (t.ch n).strand = (s.ch n).strand ∧ (t.ch n).loop = (s.ch n).loop
  coded : ∀ p : Port, t.lnk.ports[p.val].coded = false

theorem State.Taken.of_epoched {s : State} (m : Marker) : s.Taken (s.epoched m) m (markerError m s.lnk.rootLat.toNat) :=
  ⟨rfl, rfl, rfl, rfl, rfl, fun _ => ⟨rfl, rfl, rfl⟩, s.lnk.epoch_coded m⟩

/-- The correction, and an alignment or its loss behind it, change none of these. -/
theorem State.Taken.of_timed {s t : State} {m : Marker} (h : (s.epoched m).lnk.Timed t.lnk) (htime : t.time = s.time)
    (hch : ∀ n, (t.ch n).force = (s.ch n).force ∧ (t.ch n).strand = (s.ch n).strand ∧ (t.ch n).loop = (s.ch n).loop) :
    s.Taken t m (markerError m s.lnk.rootLat.toNat) := by
  obtain ⟨h1, h2, h3, h4, -, -, h5⟩ := State.Taken.of_epoched (s := s) m
  unfold Lnk.Timed at h
  exact ⟨by rw [h]; exact h1, by rw [h]; exact h2, by rw [h]; exact h3, by rw [h]; exact h4, htime, hch, by rw [h]; exact h5⟩

/-- The trim, or the step with the rest as a trim. -/
structure State.Adjusted (s t : State) (e : Int) : Prop where
  small : e.natAbs ≤ 128 → t.lnk.trim = e ∧ t.lnk.step = s.lnk.step ∧ t.lnk.steps = s.lnk.steps ∧ t.chans = s.chans
  big : 128 < e.natAbs → t.lnk.step = some (e / 64, ((-(e / 64)) % 1024).toNat) ∧ t.lnk.steps = satInc s.lnk.steps ∧ t.lnk.trim = e % 64

/-- The four answers to a marker. -/
theorem State.alignment_cases (s : State) (m : Marker) : (s.clk.unaligned = true ∧ s.mayAlign = false) ∨ (s.clk.unaligned = true ∧ s.mayAlign = true) ∨
    (s.clk.unaligned = false ∧ ((markerError m s.lnk.rootLat.toNat).natAbs ≤ 128 ∨ m.resync = true)) ∨
    (s.clk.unaligned = false ∧ 128 < (markerError m s.lnk.rootLat.toNat).natAbs ∧ m.resync = false) := by
  cases s.clk.unaligned with
  | true =>
    cases s.mayAlign with
    | false => exact .inl ⟨rfl, rfl⟩
    | true => exact .inr (.inl ⟨rfl, rfl⟩)
  | false =>
    by_cases h : (markerError m s.lnk.rootLat.toNat).natAbs ≤ 128 ∨ m.resync = true
    · exact .inr (.inr (.inl ⟨rfl, h⟩))
    · obtain ⟨hb, hs⟩ := not_or.mp h
      exact .inr (.inr (.inr ⟨rfl, by omega, by simpa using hs⟩))

theorem State.takeMarker_aligning {s : State} (m : Marker) (hu : s.clk.unaligned = true) (ha : s.mayAlign = true) :
    s.Taken (s.takeMarker m) m (markerError m s.lnk.rootLat.toNat) ∧ s.Adjusted (s.takeMarker m) (markerError m s.lnk.rootLat.toNat) ∧
    (s.takeMarker m).clk = { s.clk with unaligned := false } ∧ ((s.takeMarker m).flt.srcSt (srcLink 0)).live.getLsbD 2 = false := by
  obtain ⟨c, l, he, hl, hsmall, hbig, hch⟩ := (s.epoched m).retimed_spec (markerError m s.lnk.rootLat.toNat)
  rw [State.takeMarker_aligns m hu ha]
  rw [he] at hch ⊢
  exact ⟨State.Taken.of_timed hl rfl hch, ⟨hsmall, hbig⟩, rfl, State.endLive_clears _ _ (by decide)⟩

theorem State.takeMarker_holding {s : State} {m : Marker} (hu : s.clk.unaligned = false)
    (h : (markerError m s.lnk.rootLat.toNat).natAbs ≤ 128 ∨ m.resync = true) :
    s.Taken (s.takeMarker m) m (markerError m s.lnk.rootLat.toNat) ∧ s.Adjusted (s.takeMarker m) (markerError m s.lnk.rootLat.toNat) ∧
    (s.takeMarker m).clk = s.clk ∧ (s.takeMarker m).flt = s.flt := by
  obtain ⟨c, l, he, hl, hsmall, hbig, hch⟩ := (s.epoched m).retimed_spec (markerError m s.lnk.rootLat.toNat)
  rw [State.takeMarker_holds hu h]
  rw [he] at hch ⊢
  exact ⟨State.Taken.of_timed hl rfl hch, ⟨hsmall, hbig⟩, rfl, rfl⟩

theorem State.takeMarker_losing {s : State} {m : Marker} (hu : s.clk.unaligned = false) (hb : 128 < (markerError m s.lnk.rootLat.toNat).natAbs)
    (hr : m.resync = false) :
    s.Taken (s.takeMarker m) m (markerError m s.lnk.rootLat.toNat) ∧ s.Adjusted (s.takeMarker m) (markerError m s.lnk.rootLat.toNat) ∧
    (s.takeMarker m).clk = { s.clk with unaligned := true } ∧ (s.takeMarker m).lnk.resyncNext = true := by
  obtain ⟨c, l, he, hl, hsmall, hbig, hch⟩ := (s.epoched m).retimed_spec (markerError m s.lnk.rootLat.toNat)
  rw [State.takeMarker_loses hu hb hr]
  rw [he] at hch ⊢
  obtain ⟨f, hloss⟩ := State.unalign_aligned (s := { s.epoched m with chans := c, lnk := l }) hu
  rw [hloss]
  exact ⟨State.Taken.of_timed (hl.resync true) rfl hch, ⟨hsmall, hbig⟩, rfl, rfl⟩

/-! ### The end of a time step (R479) -/

/-- Whole periods: the step and the lengthened periods add a multiple of 1,024. -/
theorem stepped_mod (t : Nat) (e : Int) (h : 0 ≤ (t : Int) + e + (-e) % 1024) : ((t : Int) + e + (-e) % 1024).toNat % 1024 = t % 1024 := by
  omega

theorem stepLen_cast (e : Int) : (stepLen e : Int) = (-e) % 1024 := by
  unfold stepLen
  omega

theorem State.endStep_ends {s : State} {e : Int} (h : s.lnk.step = some (e, 0)) :
    s.endStep = (s.shiftTime (e + stepLen e)).upLnk fun l => { l with step := none } := by
  rw [State.endStep, h]
  rfl

theorem State.endStep_waits {s : State} (h : ∀ e, s.lnk.step ≠ some (e, 0)) : s.endStep = s := by
  unfold State.endStep
  split
  · next e he => exact absurd he (h e)
  · rfl

theorem State.shiftTime_ch (s : State) (d : Int) (n : Ch) : (s.shiftTime d).ch n = (s.ch n).moved d := s.allCh_ch (fun _ c => c.moved d) n

/-! ### Commit orders (R481) -/

/-- A member with its order. -/
def Chan.ordered (c : Chan) (b : Nat) : Chan := { c with strand := { c.strand with order := some (256 * b) } }

/-- Each channel of a list takes the order. -/
def State.giveOrder (s : State) (l : List Ch) (b : Nat) : State := s.each l fun m s => s.upCh m fun c => c.ordered b

theorem State.giveOrder_frame (s : State) (l : List Ch) (b : Nat) : s.giveOrder l b = { s with chans := (s.giveOrder l b).chans } :=
  State.each_inv (fun t => t = { s with chans := t.chans }) _ (fun n t h => by rw [h]; rfl) l s rfl

theorem State.giveOrder_ch (s : State) {l : List Ch} (hl : l.Nodup) (b : Nat) (n : Ch) :
    (s.giveOrder l b).ch n = if n ∈ l then (s.ch n).ordered b else s.ch n :=
  State.each_chs _ (fun _ c => c.ordered b) (fun _ s _ h => s.upCh_ch_ne _ h) (fun a s => s.upCh_ch a _) l hl s n

theorem State.runners_nodup (s : State) (x : BitVec 8) : (s.runners x).Nodup := (s.setMembers_nodup x).filter _

theorem State.order_running {s : State} {x : BitVec 8} (h : s.runners x ≠ []) (b : Nat) : s.order x b = s.giveOrder (s.runners x) b := by
  have he : (s.runners x).isEmpty = false := by simpa using h
  unfold State.order
  dsimp only
  rw [he]
  rfl

theorem State.order_starts {s : State} {x : BitVec 8} (h : s.runners x = []) (b : Nat) :
    s.order x b = (s.setStart x).giveOrder ((s.setStart x).runners x) b := by
  unfold State.order
  dsimp only
  rw [h]
  rfl

/-- With none running, the members that START released are the set's runners. -/
theorem State.setStart_runners {s : State} {x : BitVec 8} (h : s.runners x = []) (m : Ch) :
    m ∈ (s.setStart x).runners x ↔ m ∈ s.setMembers x ∧ (s.ch m).strand.st = .armed := by
  obtain ⟨-, hin, hout⟩ := s.setStart_spec x
  have hdecl (n : Ch) : ((s.setStart x).ch n).decl = (s.ch n).decl := by
    by_cases hn : n ∈ s.setMembers x ∧ (s.ch n).strand.st = .armed
    · rw [hin n hn.1 hn.2]; rfl
    · rw [hout n (by simpa [imp_iff_not_or] using hn)]
  have hmem : (s.setStart x).setMembers x = s.setMembers x := by
    unfold State.setMembers
    simp only [hdecl]
  have hstill : m ∈ s.setMembers x → (s.ch m).strand.st.runs = false := fun hm => by
    have := List.filter_eq_nil_iff.mp h m hm
    simpa using this
  unfold State.runners
  rw [List.mem_filter, hmem]
  constructor
  · rintro ⟨hm, hr⟩
    refine ⟨hm, ?_⟩
    by_contra ha
    rw [hout m (.inr ha), hstill hm] at hr
    exact Bool.false_ne_true hr
  · rintro ⟨hm, ha⟩
    refine ⟨hm, ?_⟩
    rw [hin m hm ha]
    rfl

/-! ### Readiness reports (R481) -/

/-- A report replaces its device's earlier one for the set. -/
def newReports (l : List Readiness) (r q : Readiness) : List Readiness := (l.filter fun x => !(x.dev == r.dev && x.set == r.set)) ++ [q]

theorem mem_newReports_other {l : List Readiness} {r q x : Readiness} (hq : q.dev = r.dev ∧ q.set = r.set) (h : x.dev ≠ r.dev ∨ x.set ≠ r.set) :
    x ∈ newReports l r q ↔ x ∈ l := by
  have hne : x ≠ q := by
    rintro rfl
    exact h.elim (fun k => k hq.1) fun k => k hq.2
  simpa [newReports, hne] using fun _ => h

/-- Settles O58: markers by the correction that they ask for, orders by the runners they find. -/
theorem linkTimeAndSpanningSets : Obligations.LinkTimeAndSpanningSets := by
  intro s hr
  have hsend : exec .epochMarkerSend s = .next (if s.markerDue then s.sendMarker else s) := congrArg _ (s.live_of _ hr)
  have hend : exec .timeStepEnd s = .next s.endStep := congrArg _ (s.live_of _ hr)
  have hrecv (m : Marker) : exec (.epochMarkerReceive m) s =
      .next (if s.lnk.root || s.lnk.refused || (s.port 0).st != .up then s else s.takeMarker m) := congrArg _ (s.live_of _ hr)
  have horder (x : BitVec 8) (b : Nat) : exec (.commitOrderReceive x b) s = .next (if s.lnk.root || s.lnk.refused then s else s.order x b) :=
    congrArg _ (s.live_of _ hr)
  have hreq (a : SyncAct) (x : BitVec 8) : exec (.syncRequestReceive a x) s = .next (s.syncRequest a x) := congrArg _ (s.live_of _ hr)
  refine ⟨fun hg hroot => ?_, fun hroot => ?_, fun h => ?_, fun hroot hdue => ⟨_, hsend, ?_⟩, fun m => ⟨fun h => ?_, fun h1 h2 h3 => ?_⟩,
    fun h => ?_, fun e he => ⟨_, hend, ?_⟩, fun r => ⟨fun h => ?_, fun h => ?_⟩, fun x b => ⟨fun h => ?_, fun h1 h2 => ⟨fun h => ?_, fun h => ?_⟩⟩,
    fun a x => ⟨fun hu ha => ?_, fun h => ?_⟩⟩
  · exact congrArg _ ((s.hostAct_of _ hr hg).trans (if_pos hroot))
  · exact congrArg _ (State.hostAct_still (if_neg (by simp [hroot])))
  · rw [hsend, if_neg]
    rw [s.markerDue_iff]
    rintro ⟨k1, k2⟩
    rcases h with h | ⟨h, h'⟩
    · simp [k1] at h
    · rcases k2 with k2 | k2
      · simp [h] at k2
      · omega
  · rw [if_pos (s.markerDue_iff.mpr ⟨hroot, hdue⟩), s.sendMarker_eq]
    obtain ⟨u, f, hw, hu⟩ := s.alignAtMarker
    rw [hw]
    exact ⟨rfl, rfl, rfl, rfl, rfl, hu.symm, hu, fun p => s.lnk.epoch_coded s.nextMarker p⟩
  · rw [hrecv, if_pos]
    rcases h with h | h | h <;> simp [State.port, h]
  · rw [hrecv, if_neg (by simp [State.port, h1, h2, h3])]
    refine ⟨_, markerError m s.lnk.rootLat.toNat, rfl, rfl, ?_⟩
    have hmay : s.mayAlign = (s.clk.guard == .vco8 && s.clk.pllB.held) := rfl
    rw [← hmay]
    rcases s.alignment_cases m with ⟨hu, ha⟩ | ⟨hu, ha⟩ | ⟨hu, hk⟩ | ⟨hu, hb, hs⟩
    · rw [State.takeMarker_waits m hu ha]
      obtain ⟨t1, t2, t3, t4, t5, t6, t7⟩ := State.Taken.of_epoched (s := s) m
      exact ⟨t1, t2, t3, t4, t5, t6, t7, fun _ _ => ⟨rfl, rfl, rfl, rfl, rfl, rfl⟩, by simp [ha], by simp [hu], by simp [hu], by simp [hu, ha]⟩
    · obtain ⟨⟨t1, t2, t3, t4, t5, t6, t7⟩, ⟨hsmall, hbig⟩, hclk, hlive⟩ := State.takeMarker_aligning m hu ha
      exact ⟨t1, t2, t3, t4, t5, t6, t7, by simp [ha], fun _ _ => ⟨hclk, hlive⟩, by simp [hu], by simp [hu], fun _ => ⟨hsmall, hbig⟩⟩
    · obtain ⟨⟨t1, t2, t3, t4, t5, t6, t7⟩, ⟨hsmall, hbig⟩, hclk, hflt⟩ := State.takeMarker_holding hu hk
      refine ⟨t1, t2, t3, t4, t5, t6, t7, by simp [hu], by simp [hu], fun _ _ => ⟨hclk, hflt⟩, fun _ hb hs => ?_, fun _ => ⟨hsmall, hbig⟩⟩
      rcases hk with hk | hk
      · omega
      · exact absurd (hs.symm.trans hk) Bool.false_ne_true
    · obtain ⟨⟨t1, t2, t3, t4, t5, t6, t7⟩, ⟨hsmall, hbig⟩, hclk, hnext⟩ := State.takeMarker_losing hu hb hs
      refine ⟨t1, t2, t3, t4, t5, t6, t7, by simp [hu], by simp [hu], fun _ hk => ?_, fun _ _ _ => ⟨hclk, hnext⟩, fun _ => ⟨hsmall, hbig⟩⟩
      rcases hk with hk | hk
      · omega
      · exact absurd (hs.symm.trans hk) Bool.false_ne_true
  · rw [hend, State.endStep_waits h]
  · rw [State.endStep_ends he]
    refine ⟨rfl, ?_, ?_, fun n => ?_⟩
    · show ((s.time : Int) + (e + stepLen e)).toNat = _
      rw [stepLen_cast, ← add_assoc]
    · intro h
      show ((s.time : Int) + (e + stepLen e)).toNat % 1024 = _
      rw [stepLen_cast, ← add_assoc]
      exact stepped_mod _ _ h
    · have hch : ((s.shiftTime (e + stepLen e)).upLnk fun l => { l with step := none }).ch n = (s.ch n).moved (e + stepLen e) := s.shiftTime_ch _ n
      rw [hch]
      exact ⟨rfl, rfl, rfl⟩
  · exact congrArg _ ((s.live_of _ hr).trans (if_neg (by simp [h])))
  · refine ⟨_, congrArg _ ((s.live_of _ hr).trans (if_pos h)), List.mem_append_right _ (List.mem_singleton.mpr rfl), fun q hq => ?_⟩
    exact mem_newReports_other (q := { r with boundary := max r.boundary s.leadBoundary }) ⟨rfl, rfl⟩ hq
  · rw [horder, if_pos]
    rcases h with h | h <;> simp [h]
  · rw [horder, if_neg (by simp [h1, h2]), State.order_running h]
    refine ⟨_, rfl, s.giveOrder_frame _ b, fun m hm => ?_, fun m hm => ?_⟩
    · rw [s.giveOrder_ch (s.runners_nodup x), if_pos hm]
      rfl
    · rw [s.giveOrder_ch (s.runners_nodup x), if_neg hm]
  · rw [horder, if_neg (by simp [h1, h2]), State.order_starts h]
    obtain ⟨hframe, hin, hout⟩ := s.setStart_spec x
    have hch (m : Ch) := (s.setStart x).giveOrder_ch ((s.setStart x).runners_nodup x) b m
    refine ⟨_, rfl, ?_, fun m hm ha => ?_, fun m hm => ?_⟩
    · rw [State.giveOrder_frame, hframe]
    · rw [hch, if_pos ((State.setStart_runners h m).mpr ⟨hm, ha⟩), hin m hm ha]
      rfl
    · rw [hch, if_neg fun k => ?_, hout m hm]
      obtain ⟨k1, k2⟩ := (State.setStart_runners h m).mp k
      exact hm.elim (fun j => j k1) fun j => j k2
  · exact (hreq a x).trans (congrArg _ (if_pos (by simp [hu, ha])))
  · exact (hreq a x).trans (congrArg _ (if_neg (by rcases h with h | h <;> simp [h])))

end Sys2Proof.Machine
end

section
/-! SUPPORT. The link's ports, packets and tree: what each change of a port leaves, where a packet goes, and what an enumeration gives
(R466 … R475, R485 … R489). -/

namespace Sys2Proof.Machine

/-! ### Ports (R467, R468, R473) -/

/-- Port `p` put in the place of the present one. -/
def State.putPort (s : State) (p : Port) (y : PortSt) : State := { s with lnk := { s.lnk with ports := s.lnk.ports.set p.val y } }

theorem State.upPort_eq (s : State) (p : Port) (f : PortSt → PortSt) : s.upPort p f = s.putPort p (f (s.port p)) := rfl

@[simp] theorem State.putPort_port (s : State) (p : Port) (y : PortSt) : (s.putPort p y).port p = y := by
  simp [State.port, State.putPort]

@[simp] theorem State.putPort_putPort (s : State) (p : Port) (x y : PortSt) : (s.putPort p x).putPort p y = s.putPort p y := by
  simp [State.putPort, Vector.set_set]

/-- The collector beside two changes of one port. -/
theorem State.putPort_flt (s : State) (p : Port) (x y : PortSt) (f : Flt) :
    ({ s.putPort p x with flt := f } : State).putPort p y = { s.putPort p y with flt := f } :=
  congrArg (fun t : State => { t with flt := f }) (s.putPort_putPort p x y)

theorem State.treeChanged_eq (s : State) : s.treeChanged = { s with lnk := { s.lnk with enumBusy := s.lnk.enumBusy || s.lnk.root } } := by
  unfold State.treeChanged
  split
  · next h => rw [h, Bool.or_true]; rfl
  · next h => rw [Bool.eq_false_iff.mpr h, Bool.or_false]

/-- A port that was not UP, or stays UP, changes alone. -/
theorem State.portTo_still {s : State} {p : Port} {st : PortState} (h : (s.port p).st ≠ .up ∨ st = .up) :
    s.portTo p st = s.putPort p { s.port p with st := st } := by
  have hw : ((s.port p).st == .up && st != .up) = false := by rcases h with h | h <;> simp [h]
  unfold State.portTo
  dsimp only
  rw [hw]
  rfl

theorem State.portTo_leaves {s : State} {p : Port} {st : PortState} (h : (s.port p).st = .up) (hst : st ≠ .up) :
    s.portTo p st = ((s.putPort p { s.port p with st := st }).treeChanged).checkPath := by
  have hw : ((s.port p).st == .up && st != .up) = true := by simp [h, hst]
  unfold State.portTo
  dsimp only
  rw [hw]
  rfl

/-- A check of the path ends a forwarded read alone. -/
theorem State.checkPath_spec (s : State) : ∃ b d e c, s.checkPath = { s with lnk := { s.lnk with
    fwdBusy := b, fwdDone := d, fwdError := e, fwdCount := c } } ∧ (s.lnk.fwdBusy = false → s.checkPath = s) ∧
    (s.lnk.fwdBusy = true → s.pathUp s.lnk.fwdDev = false → b = false ∧ d = true ∧ e = .link ∧ c = 0) := by
  unfold State.checkPath
  split
  · next h =>
    have hb := (Bool.and_eq_true_iff.mp h).1
    exact ⟨_, _, _, _, rfl, fun k => absurd (k.symm.trans hb) Bool.false_ne_true, fun _ _ => ⟨rfl, rfl, rfl, rfl⟩⟩
  · next h => exact ⟨_, _, _, _, rfl, fun _ => rfl, fun hb hp => absurd (by rw [hb, hp]; rfl) h⟩

/-- Where every route to a device leads over a port that is not UP, its path is not. -/
theorem State.pathUp_down {s : State} {d : BitVec 12} {p : Port} (hp : (s.port p).st ≠ .up) (h : ∀ r ∈ s.lnk.routes, r.1 = d → r.2 = p) :
    s.pathUp d = false := by
  unfold State.pathUp
  split
  · next r hr =>
    have hp2 : r.2 = p := h r (List.mem_of_find?_eq_some hr) (by simpa using List.find?_some hr)
    subst hp2
    exact beq_false_of_ne hp
  · rfl

/-- A port that leaves UP: the root enumerates, and a forwarded read whose path led over the port ends. -/
theorem State.portTo_leaves_spec {s : State} {p : Port} {st : PortState} (h : (s.port p).st = .up) (hst : st ≠ .up) :
    ∃ k : Lnk, s.portTo p st = { s with lnk := k } ∧ k.ports = s.lnk.ports.set p.val { s.port p with st := st } ∧
    k.enumBusy = (s.lnk.enumBusy || s.lnk.root) ∧ (s.lnk.fwdBusy = false → k = { s.lnk with ports := k.ports, enumBusy := k.enumBusy }) ∧
    (s.lnk.fwdBusy = true → (∀ r, r ∈ s.lnk.routes → r.1 = s.lnk.fwdDev → r.2 = p) →
      k.fwdBusy = false ∧ k.fwdDone = true ∧ k.fwdError = .link ∧ k.fwdCount = 0) := by
  rw [State.portTo_leaves h hst, State.treeChanged_eq]
  obtain ⟨b, d, e, c, heq, hidle, hends⟩ := State.checkPath_spec { s.putPort p { s.port p with st := st } with
    lnk := { (s.putPort p { s.port p with st := st }).lnk with enumBusy := s.lnk.enumBusy || s.lnk.root } }
  refine ⟨_, heq, rfl, rfl, fun hb => ?_, fun hb hroutes => hends hb (State.pathUp_down (p := p) ?_ hroutes)⟩
  · exact (congrArg State.lnk (heq.symm.trans (hidle hb))).trans rfl
  · have hp : (s.putPort p { s.port p with st := st }).port p = { s.port p with st := st } := s.putPort_port p _
    exact fun k => hst ((congrArg PortSt.st hp).symm.trans k)

/-! ### Line errors (R489) -/

/-- The error counted on its port. -/
def State.errored (s : State) (p : Port) : State := s.upPort p fun x => { x with errs := satInc x.errs }

theorem State.lineError_again {s : State} {p : Port} (h : (s.port p).coded = true) :
    s.lineError p = s.putPort p { s.port p with errs := satInc (s.port p).errs } :=
  if_pos (by rw [State.upPort_eq, State.putPort_port]; exact h)

/-- The codes of a port's code error and of its loss are listed. -/
theorem linkCode_listed (p : Port) : codeInfo (srcLink p) 0 ≠ none ∧ codeInfo (srcLink p) 1 ≠ none := by
  revert p
  decide

/-- The first error of an epoch raises CODE_ERROR. -/
theorem State.lineError_first {s : State} {p : Port} (h : (s.port p).coded = false) : ∃ f, s.lineError p =
      { s.putPort p { s.port p with errs := satInc (s.port p).errs, coded := true } with flt := f } ∧
    (f.srcSt (srcLink p)).sticky.getLsbD 0 = true := by
  have hp : (s.errored p).port p = { s.port p with errs := satInc (s.port p).errs } := s.putPort_port p _
  have he : s.lineError p = ((s.errored p).post (srcLink p) 0 ((s.errored p).port p).errs.toNat).upPort p fun x => { x with coded := true } :=
    if_neg (by rw [← State.errored, hp]; simp [h])
  refine ⟨((s.errored p).post (srcLink p) 0 ((s.errored p).port p).errs.toNat).flt, ?_, State.post_sticky _ _ (by decide) (linkCode_listed p).1⟩
  have hport : ((s.errored p).post (srcLink p) 0 ((s.errored p).port p).errs.toNat).port p = (s.errored p).port p := rfl
  rw [he, State.upPort_eq, hport, hp]
  exact State.putPort_flt s p _ _ _

/-- Whichever it is, the error is counted and the epoch's flag is set. -/
theorem State.lineError_counts (s : State) (p : Port) : ∃ f, s.lineError p =
    { s.putPort p { s.port p with errs := satInc (s.port p).errs, coded := true } with flt := f } := by
  cases h : (s.port p).coded with
  | true =>
    rw [State.lineError_again h, ← h]
    exact ⟨s.flt, rfl⟩
  | false =>
    obtain ⟨f, hf, -⟩ := State.lineError_first h
    exact ⟨f, hf⟩

/-! ### Packets (R466, R485, R486) -/

theorem State.packet_write_own {s : State} {f : WriteFrame} (h : f.devId.extractLsb' 0 12 = s.lnk.devId) : s.packet (.write f) = s.serveWrite f :=
  if_pos h

theorem State.packet_write_other {s : State} {f : WriteFrame} (h : f.devId.extractLsb' 0 12 ≠ s.lnk.devId) :
    s.packet (.write f) = s.relay (f.devId.extractLsb' 0 12) (.write f) := if_neg h

theorem State.packet_read_own {s : State} {f : ReadFrame} (h : f.devId.extractLsb' 0 12 = s.lnk.devId) : s.packet (.read f) = s.serveForwarded f :=
  if_pos h

theorem State.packet_read_other {s : State} {f : ReadFrame} (h : f.devId.extractLsb' 0 12 ≠ s.lnk.devId) :
    s.packet (.read f) = s.relay (f.devId.extractLsb' 0 12) (.read f) := if_neg h

theorem State.packet_data_off {s : State} {w : List Word} (h : s.lnk.root = false) : s.packet (.data w) = s.relay 0 (.data w) :=
  if_neg (Bool.eq_false_iff.mp h)

theorem State.packet_data_root {s : State} {w : List Word} (h : s.lnk.root = true) : s.packet (.data w) = s.readAnswered w := if_pos h

theorem State.packet_summary_off {s : State} {d : BitVec 12} {a g : Bool} (h : s.lnk.root = false) :
    s.packet (.summary d a g) = s.relay 0 (.summary d a g) := if_neg (Bool.eq_false_iff.mp h)

theorem State.packet_summary_root {s : State} {d : BitVec 12} {a g : Bool} (h : s.lnk.root = true) : s.packet (.summary d a g) = s.summary d a g :=
  if_pos h

/-! ### Summaries (R488) -/

theorem mem_markDev_self (l : List (BitVec 12)) (d : BitVec 12) (on : Bool) : d ∈ markDev l d on ↔ on = true := by
  unfold markDev
  cases on <;> simp

theorem mem_markDev_ne (l : List (BitVec 12)) {d e : BitVec 12} (on : Bool) (h : e ≠ d) : e ∈ markDev l d on ↔ e ∈ l := by
  have hne : e.toNat < d.toNat ∨ d.toNat < e.toNat := Nat.lt_or_gt_of_ne fun k => h (BitVec.eq_of_toNat_eq k)
  have hlist : e ∈ l ∧ e.toNat < d.toNat ∨ e ∈ l ∧ d.toNat < e.toNat ↔ e ∈ l := by rw [← and_or_left, and_iff_left hne]
  unfold markDev
  cases on <;> simp [h, hlist]

/-! ### Enumeration (R470 … R475) -/

theorem leadOf_small {m : Nat} (h : 3 * m ≤ 38000) : leadOf m = 2 := by
  unfold leadOf
  omega

theorem leadOf_three {m : Nat} (h : 38000 < 3 * m) (h' : 3 * m ≤ 63000) : leadOf m = 3 := by
  unfold leadOf
  omega

theorem Lnk.walk_ports (l : Lnk) (x : EnumIn) (p : Port) : (l.walk x).ports[p.val] =
    l.ports[p.val].walked (x.refusedPorts.contains p) ((x.peers.find? fun y => y.1 == p).map (·.2)) :=
  tabulate_get 4 _ p

theorem exec_partnerDetected {s : State} (p : Port) (hr : s.runs) :
    ((s.port p).st = .idle ∨ (s.port p).st = .paused → exec (.partnerDetected p) s = .next (s.putPort p { s.port p with st := .training })) ∧
    ((s.port p).st ≠ .idle → (s.port p).st ≠ .paused → exec (.partnerDetected p) s = .next s) := by
  have he : exec (.partnerDetected p) s = .next (match (s.port p).st with
    | .idle | .paused => s.portTo p .training
    | _ => s) := congrArg _ (s.live_of _ hr)
  refine ⟨fun h => ?_, fun h1 h2 => ?_⟩
  · rw [he, ← State.portTo_still (.inl (by rcases h with h | h <;> simp [h]))]
    rcases h with h | h <;> rw [h]
  · rw [he]
    split
    · next h => exact absurd h h1
    · next h => exact absurd h h2
    · rfl

/-- A port that has been UP reports that it is down before it goes to IDLE. -/
theorem exec_linkAlignmentLost {s : State} (p : Port) (hr : s.runs) :
    ((s.port p).st ≠ .up → (s.port p).st ≠ .training → (s.port p).st ≠ .measuring → exec (.linkAlignmentLost p) s = .next s) ∧
    ((s.port p).st = .up ∨ (s.port p).st = .training ∨ (s.port p).st = .measuring →
      exec (.linkAlignmentLost p) s = .next ((s.when (s.port p).wasUp fun s => s.linkDown p).portTo p .idle)) := by
  have he : exec (.linkAlignmentLost p) s = .next (match (s.port p).st with
    | .up | .training | .measuring => (s.when (s.port p).wasUp fun s => s.linkDown p).portTo p .idle
    | _ => s) := congrArg _ (s.live_of _ hr)
  refine ⟨fun h1 h2 h3 => ?_, fun h => ?_⟩
  · rw [he]
    split
    · next h => exact absurd h h1
    · next h => exact absurd h h2
    · next h => exact absurd h h3
    · rfl
  · rw [he]
    rcases h with h | h | h <;> rw [h]

/-- The report beside the port's change. -/
theorem State.reportDown_spec (s : State) (p : Port) : ∃ f, (s.when (s.port p).wasUp fun s => s.linkDown p) = { s with flt := f } ∧
    ((s.port p).wasUp = false → f = s.flt) ∧ ((s.port p).wasUp = true → (f.srcSt (srcLink p)).sticky.getLsbD 1 = true) := by
  cases h : (s.port p).wasUp with
  | false => exact ⟨s.flt, rfl, fun _ => rfl, nofun⟩
  | true => exact ⟨_, rfl, nofun, fun _ => State.post_sticky _ _ (by decide) (linkCode_listed p).2⟩

theorem exec_packetReceive {s : State} (p : Port) (k : Packet) (hr : s.runs) :
    ((s.port p).st ≠ .up → ∀ crc, exec (.packetReceive p k crc) s = .next s) ∧
    ((s.port p).st = .up → exec (.packetReceive p k true) s = .next ((s.putPort p { s.port p with sends := 0 }).packet k)) := by
  have he (crc : Bool) : exec (.packetReceive p k crc) s = .next (if (s.port p).st = .up then
      if crc then (s.upPort p fun x => { x with sends := 0 }).packet k
      else
        let s := (s.lineError p).upPort p fun x => { x with sends := x.sends + 1 }
        if 4 ≤ (s.port p).sends then (s.linkDown p).upPort p fun x => { x with sends := 0 } else s
    else s) := congrArg _ (s.live_of _ hr)
  exact ⟨fun h crc => by rw [he, if_neg h], fun h => by rw [he, if_pos h, if_pos rfl]; rfl⟩

/-- A refused packet is a line error and one more sending; the fourth reports LINK_DOWN. -/
theorem exec_packetReceive_refused {s : State} {p : Port} (k : Packet) (hr : s.runs) (h : (s.port p).st = .up) :
    ∃ f, exec (.packetReceive p k false) s = .next { s.putPort p { s.port p with
        errs := satInc (s.port p).errs, coded := true, sends := if 3 ≤ (s.port p).sends then 0 else (s.port p).sends + 1 } with flt := f } ∧
      (3 ≤ (s.port p).sends → (f.srcSt (srcLink p)).sticky.getLsbD 1 = true) := by
  obtain ⟨f, hf⟩ := s.lineError_counts p
  have hcounted : (s.lineError p).upPort p (fun x => { x with sends := x.sends + 1 }) = { s.putPort p { s.port p with
      errs := satInc (s.port p).errs, coded := true, sends := (s.port p).sends + 1 } with flt := f } := by
    have hport : ({ s.putPort p { s.port p with errs := satInc (s.port p).errs, coded := true } with flt := f } : State).port p =
      { s.port p with errs := satInc (s.port p).errs, coded := true } := s.putPort_port p _
    rw [hf, State.upPort_eq, hport]
    exact s.putPort_flt p _ _ f
  generalize hu : ({ s.putPort p { s.port p with
      errs := satInc (s.port p).errs, coded := true, sends := (s.port p).sends + 1 } with flt := f } : State) = u at hcounted
  have hport : u.port p = { s.port p with errs := satInc (s.port p).errs, coded := true, sends := (s.port p).sends + 1 } := by
    rw [← hu]
    exact s.putPort_port p _
  have he : exec (.packetReceive p k false) s = .next (if 4 ≤ (u.port p).sends then (u.linkDown p).upPort p fun x => { x with sends := 0 } else u) := by
    rw [← hcounted]
    exact congrArg _ ((s.live_of _ hr).trans (if_pos h))
  rw [he, hport]
  by_cases h3 : 3 ≤ (s.port p).sends
  · have hdown : (u.linkDown p).upPort p (fun x => { x with sends := 0 }) = { s.putPort p { s.port p with
        errs := satInc (s.port p).errs, coded := true, sends := 0 } with flt := (u.linkDown p).flt } := by
      have hp : (u.linkDown p).port p = u.port p := rfl
      rw [State.upPort_eq, hp, hport, ← hu]
      exact s.putPort_flt p _ _ _
    rw [if_pos (show 4 ≤ (s.port p).sends + 1 by omega), if_pos h3, hdown]
    exact ⟨_, rfl, fun _ => State.post_sticky _ _ (by decide) (linkCode_listed p).2⟩
  · rw [if_neg (show ¬ 4 ≤ (s.port p).sends + 1 by omega), if_neg h3, ← hu]
    exact ⟨f, rfl, fun k => absurd k h3⟩

/-- Settles O57: a port's change by `portTo`, a packet by its kind, the tree by its walk. -/
theorem linkPortsPacketsAndTheTree : Obligations.LinkPortsPacketsAndTheTree := by
  intro s hr
  have hroot : exec .rootTimeout s = .next (if (s.port 0).wasUp || s.lnk.refused || !s.clk.pllB.locked then s else s.becomeRoot) :=
    congrArg _ (s.live_of _ hr)
  have hdone (w : List Word) : exec (.forwardedReadDone w) s = .next (s.readAnswered w) := congrArg _ (s.live_of _ hr)
  have htimeout : exec .forwardedReadTimeout s = .next (if s.lnk.fwdBusy then s.upLnk fun l => { l with
      fwdBusy := false, fwdDone := true, fwdError := .timeout, fwdCount := 0 } else s) := congrArg _ (s.live_of _ hr)
  have hsummary (d : BitVec 12) (a g : Bool) : exec (.summaryReceive d a g) s = .next (s.summary d a g) := congrArg _ (s.live_of _ hr)
  have henum (x : EnumIn) : exec (.enumerationDone x) s = .next (if s.lnk.root then (if s.lnk.enumBusy then s.upLnk fun l => l.walk x else s)
      else if x.refused then s.refuseSelf else s.upLnk fun l => l.walk x) := congrArg _ (s.live_of _ hr)
  refine ⟨fun h1 h2 h3 h4 => ?_, fun h => ?_, ?_, fun d a g => ⟨fun h => ?_, fun h => ⟨_, hsummary d a g, ?_⟩⟩,
    fun h => ⟨fun w => ?_, ?_⟩, fun h => ⟨fun w => ⟨_, (hdone w).trans (congrArg _ (if_pos h)), ?_⟩, ?_⟩,
    fun hg h => ?_, fun h => congrArg _ (State.hostAct_still (if_neg (Bool.eq_false_iff.mp h))), fun x => ⟨fun h h' => ?_, fun h h' => ?_, fun h => ?_⟩⟩
  · have hw : ((s.port 0).wasUp || s.lnk.refused || !s.clk.pllB.locked) = false := by rw [show (s.port 0).wasUp = false from h1, h2, h3]; rfl
    rw [hroot, hw, State.becomeRoot, if_neg (Bool.eq_false_iff.mp h4)]
    rfl
  · rw [hroot]
    rcases h with h | h | h | h
    · rw [show (s.port 0).wasUp = true from h]; rfl
    · rw [h, Bool.or_true]; rfl
    · rw [h, Bool.not_false, Bool.or_true]; rfl
    · rw [State.becomeRoot, if_pos h, ite_self]
  · intro p x hx
    have hx : x = s.port p := hx
    subst hx
    obtain ⟨hdetected, hdetected'⟩ := exec_partnerDetected p hr
    obtain ⟨hlost, hlost'⟩ := exec_linkAlignmentLost p hr
    have htraining : exec (.portTrainingDone p) s = .next (if (s.port p).st = .training then s.portTo p .measuring else s) :=
      congrArg _ (s.live_of _ hr)
    have hhop (lat : BitVec 16) : exec (.hopMeasureDone p lat) s = .next (if (s.port p).st = .measuring then s.portUp p lat else s) :=
      congrArg _ (s.live_of _ hr)
    have hpause : exec (.pauseReceived p) s = .next (if (s.port p).st = .up then s.portTo p .paused else s) := congrArg _ (s.live_of _ hr)
    have hpaused : exec (.pauseTimeout p) s = .next (if (s.port p).st = .paused ∧ (s.port p).wasUp then s.linkDown p else s) :=
      congrArg _ (s.live_of _ hr)
    have hcode : exec (.linkCodeError p) s = .next (if (s.port p).st = .up then s.lineError p else s) := congrArg _ (s.live_of _ hr)
    refine ⟨hdetected, hdetected', fun h => ?_, fun h => ?_, fun lat => ⟨fun h => ?_, fun h hp => ?_, fun h hp => ?_⟩, fun h => ?_, fun h => ?_,
      fun h1 h2 h3 => ?_, fun h => ?_, fun h => ?_, fun h1 h2 => ?_, fun h => ?_, fun h hc => ?_, fun h hc => ?_, fun k crc h => ?_, ?_, ?_⟩
    · rw [htraining, if_pos h, State.portTo_still (.inl (by rw [show (s.port p).st = .training from h]; decide))]
      rfl
    · rw [htraining, if_neg h]
    · rw [hhop, if_neg h]
    · subst hp
      rw [hhop, if_pos h]
      rfl
    · rw [hhop, if_pos h, State.portUp, if_neg hp, State.treeChanged_eq]
      rfl
    · rw [hpause, if_neg h]
    · obtain ⟨k, hk, hports, henum, hidle, hends⟩ := State.portTo_leaves_spec (st := .paused) h (by decide)
      rw [hpause, if_pos h, hk]
      exact ⟨_, rfl, rfl, hports, henum, hidle, hends⟩
    · exact hlost h1 h2 h3
    · obtain ⟨f, hf, hsame, hsticky⟩ := s.reportDown_spec p
      rw [hlost' h, hf]
      by_cases hup : (s.port p).st = .up
      · obtain ⟨k, hk, hports, henum, -, -⟩ := State.portTo_leaves_spec (s := { s with flt := f }) (st := .idle) hup (by decide)
        rw [hk, hup]
        exact ⟨_, rfl, rfl, hports, by rw [henum]; simp, hsame, hsticky⟩
      · rw [State.portTo_still (s := { s with flt := f }) (.inl hup), beq_false_of_ne hup]
        exact ⟨_, rfl, rfl, rfl, by rw [Bool.and_false, Bool.or_false]; rfl, hsame, hsticky⟩
    · rw [hpaused, if_neg]
      rintro ⟨k1, k2⟩
      exact h.elim (fun j => j k1) fun j => Bool.false_ne_true (j.symm.trans k2)
    · rw [hpaused, if_pos ⟨h1, h2⟩]
      exact ⟨_, rfl, rfl, State.post_sticky _ _ (by decide) (linkCode_listed p).2⟩
    · rw [hcode, if_neg h]
    · rw [hcode, if_pos h, State.lineError_again hc]
      rfl
    · obtain ⟨f, hf, hsticky⟩ := State.lineError_first (s := s) (p := p) hc
      rw [hcode, if_pos h, hf]
      exact ⟨_, rfl, rfl, hsticky⟩
    · exact (exec_packetReceive p k hr).1 h crc
    · intro h u hu
      have hput : u = s.putPort p { s.port p with sends := 0 } := hu
      have hpacket (k : Packet) : exec (.packetReceive p k true) s = .next (u.packet k) := by rw [hput, (exec_packetReceive p k hr).2 h]
      have hrun : u.runs := by rw [hput]; exact hr
      have hdev : u.lnk.devId = s.lnk.devId := by rw [hput]; rfl
      have hisroot : u.lnk.root = s.lnk.root := by rw [hput]; rfl
      have hbox : u.lnk.outbox = s.lnk.outbox := by rw [hput]; rfl
      have hgrave : u.flt.grave = s.flt.grave := by rw [hput]; rfl
      rw [← hdev, ← hisroot, ← hbox, ← hgrave]
      refine ⟨fun f hf => ?_, fun f hf hg hm hc => ?_, fun f hf => ?_, fun f hf => ?_,
        fun w hn => ?_, fun d a g hn => ?_, fun w hy => ?_, fun d a g hy => ?_⟩
      · rw [hpacket, State.packet_write_other hf]
        rfl
      · rw [hpacket, State.packet_write_own hf, State.serveWrite_mapped hg hc hm]
      · rw [hpacket, State.packet_read_other hf]
        rfl
      · rw [hpacket, State.packet_read_own hf]
        exact ⟨_, (u.readWords f.opcode f.addr (readCount f)).2.1, rfl, State.readWords_length _ _ _ _, rfl, List.getLast?_concat⟩
      · rw [hpacket, State.packet_data_off hn]
        rfl
      · rw [hpacket, State.packet_summary_off hn]
        rfl
      · rw [hpacket, State.packet_data_root hy]
        exact congrArg _ (u.live_of _ hrun).symm
      · rw [hpacket, State.packet_summary_root hy]
        exact congrArg _ (u.live_of _ hrun).symm
    · intro k h
      obtain ⟨f, hf, hsticky⟩ := exec_packetReceive_refused k hr h
      rw [hf]
      exact ⟨_, rfl, rfl, rfl, hsticky⟩
  · rw [hsummary, State.summary, if_neg (Bool.eq_false_iff.mp h)]
  · rw [State.summary, if_pos h]
    exact ⟨rfl, mem_markDev_self _ _ _, mem_markDev_self _ _ _, fun e he => ⟨mem_markDev_ne _ _ he, mem_markDev_ne _ _ he⟩⟩
  · rw [hdone, State.readAnswered, if_neg (Bool.eq_false_iff.mp h)]
  · rw [htimeout, if_neg (Bool.eq_false_iff.mp h)]
  · intro i
    rw [tabulate_get 64 (fun i => w.getD i.val s.lnk.fwdBuf[i.val]) i]
    split
    · next hi => exact List.getD_eq_getElem _ _ hi
    · next hi => exact List.getD_eq_default _ _ (by omega)
  · rw [htimeout, if_pos h]
    rfl
  · exact congrArg _ ((s.hostAct_of _ hr hg).trans (if_pos h))
  · rw [henum, if_pos h, if_neg (Bool.eq_false_iff.mp h')]
  · rw [henum, if_neg (Bool.eq_false_iff.mp h), if_pos h']
    rfl
  · have hwalk : exec (.enumerationDone x) s = .next (s.upLnk fun l => l.walk x) := by
      rcases h with ⟨h, h'⟩ | ⟨h, h'⟩
      · rw [henum, if_pos h, if_pos h']
      · rw [henum, if_neg (Bool.eq_false_iff.mp h), if_neg (Bool.eq_false_iff.mp h')]
    refine ⟨_, hwalk, rfl, rfl, rfl, rfl, rfl, rfl, rfl, rfl, rfl, fun hm => ?_, fun hm hm' => ?_, fun p => ?_⟩
    · show BitVec.ofNat 4 (min 15 (leadOf x.maxLat)) = 2
      rw [leadOf_small hm]
      rfl
    · show BitVec.ofNat 4 (min 15 (leadOf x.maxLat)) = 3
      rw [leadOf_three hm hm']
      rfl
    · have hp : (s.upLnk fun l => l.walk x).lnk.ports[p.val] = _ := s.lnk.walk_ports x p
      rw [hp]
      refine ⟨rfl, ?_⟩
      simp [PortSt.walked]

end Sys2Proof.Machine
end

section
/-! SUPPORT. The host's commands to the cellar: what refuses them, and the work that they become (R416, R420, R424, R425, R427). -/

namespace Sys2Proof.Machine

/-! ### Refusals (R420, R424) -/

/-- What refuses one command of its own: the key and the channels of FORMAT, the image that a slot write takes. -/
def State.ownRefusal (s : State) (key cmd : BitVec 8) : Option CelResult :=
  if cmd = 1 then (if key ≠ 0xA5 then some .badKey else if allChs.all fun n => (s.ch n).quiesced then none else some .notQuiescent)
  else if cmd = 2 ∨ cmd = 3 then s.slotRefusal else none

/-- The eight commands of CEL_CMD with their numbers. -/
def celCommands (key : BitVec 8) : List (Instr × BitVec 8) :=
  [(.format key, 1#8), (.writeSlotA, 2), (.writeSlotB, 3), (.clearSlotA, 4), (.clearSlotB, 5), (.saveLibrary, 6), (.patrol, 7), (.flush, 8)]

theorem exec_celCommands {s : State} (hs : s.serves) {key : BitVec 8} {x : Instr × BitVec 8} (h : x ∈ celCommands key) :
    exec x.1 s = .next (s.celCommand x.2 (s.ownRefusal key x.2)) := by
  have hact (f : State → State) : (.next (s.hostAct f) : Host.Outcome State Fault Refusal) = .next (f s) := congrArg _ (s.hostAct_of f hs.1 hs.2)
  simp only [celCommands, List.mem_cons, List.not_mem_nil, or_false] at h
  rcases h with rfl | rfl | rfl | rfl | rfl | rfl | rfl | rfl <;> exact hact _

theorem State.celCommand_refused {s : State} {cmd : BitVec 8} {own : Option CelResult} {r : CelResult} (h : (s.cel.refusal cmd).or own = some r) :
    s.celCommand cmd own = { s with cel := s.cel.finish cmd r } := by
  rw [State.celCommand, h]

theorem State.celCommand_taken {s : State} {cmd : BitVec 8} {own : Option CelResult} (h : (s.cel.refusal cmd).or own = none) :
    s.celCommand cmd own = State.celAsk { s with cel := { s.cel with busy := true } } (.command cmd) := by
  rw [State.celCommand, h]

theorem Cel.refusal_fenced {c : Cel} (cmd : BitVec 8) (h : c.st = .fenced) : c.refusal cmd = some .fenced := by
  simp [Cel.refusal, h]

theorem Cel.refusal_busy {c : Cel} (cmd : BitVec 8) (h : c.st ≠ .fenced) (hb : c.busy = true) : c.refusal cmd = some .busy := by
  unfold Cel.refusal
  split
  · next hf => exact absurd hf h
  · exact if_pos hb

/-- Without another command the state decides. -/
theorem Cel.refusal_idle {c : Cel} (cmd : BitVec 8) (hb : c.busy = false) : c.refusal cmd = match c.st with
    | .fenced => some .fenced
    | .start | .mounting => some .busy
    | .unformatted => if cmd = 1 then none else some .unformatted
    | .sealed => if cmd = 7 then none else some .sealed
    | .ready => none := by
  unfold Cel.refusal
  rw [hb]
  cases c.st <;> rfl

/-- The states in which a command is left to its own refusals. -/
theorem Cel.refusal_none {c : Cel} {cmd : BitVec 8} (hb : c.busy = false)
    (h : c.st = .ready ∨ (c.st = .unformatted ∧ cmd = 1) ∨ (c.st = .sealed ∧ cmd = 7)) : c.refusal cmd = none := by
  rw [Cel.refusal_idle cmd hb]
  rcases h with h | ⟨h, hc⟩ | ⟨h, hc⟩
  · rw [h]
  · rw [h]
    exact if_pos hc
  · rw [h]
    exact if_pos hc

theorem State.ownRefusal_format (s : State) (key : BitVec 8) :
    s.ownRefusal key 1 = if key ≠ 0xA5 then some .badKey else if allChs.all fun n => (s.ch n).quiesced then none else some .notQuiescent :=
  if_pos rfl

theorem State.ownRefusal_slot {s : State} (key : BitVec 8) {cmd : BitVec 8} (h : cmd = 2 ∨ cmd = 3) : s.ownRefusal key cmd = s.slotRefusal := by
  have h1 : cmd ≠ 1 := by rcases h with rfl | rfl <;> decide
  rw [State.ownRefusal, if_neg h1, if_pos h]

theorem State.allQuiesced_iff (s : State) : (allChs.all fun n => (s.ch n).quiesced) = true ↔ ∀ n, (s.ch n).quiesced = true := by
  rw [List.all_eq_true]
  exact ⟨fun h n => h n (mem_allChs n), fun h n _ => h n⟩

theorem State.ownRefusal_none {s : State} {key cmd : BitVec 8} (hf : cmd = 1 → key = 0xA5 ∧ ∀ n, (s.ch n).quiesced = true)
    (hs : cmd = 2 ∨ cmd = 3 → s.img.st ≠ .boot ∧ s.img.st ≠ .loading ∧ 64 ≤ s.stagedLength ∧ s.stagedLength ≤ 262144 ∧ s.stagedLength % 4 = 0) :
    s.ownRefusal key cmd = none := by
  unfold State.ownRefusal
  split
  · next h =>
    obtain ⟨hkey, hq⟩ := hf h
    rw [if_neg (not_not.mpr hkey), if_pos (s.allQuiesced_iff.mpr hq)]
  · split
    · next h =>
      obtain ⟨hboot, hload, hlen⟩ := hs h
      exact (if_neg (not_or.mpr ⟨hboot, hload⟩)).trans (if_pos hlen)
    · rfl

/-- Settles O54: the common refusals first, then the command's own, and the work that is left. -/
theorem cellarCommandsAreRefusedOrBecomeWork : Obligations.CellarCommandsAreRefusedOrBecomeWork := by
  intro s hs key x hx
  dsimp only
  have hexec := exec_celCommands hs hx
  have hends {r : CelResult} (h : (s.cel.refusal x.2).or (s.ownRefusal key x.2) = some r) :
      exec x.1 s = .next { s with cel := { s.cel with done := true, result := r, lastCmd := x.2 } } := by
    rw [hexec, State.celCommand_refused h]
    rfl
  have hcommon {r : CelResult} (h : s.cel.refusal x.2 = some r) : (s.cel.refusal x.2).or (s.ownRefusal key x.2) = some r := by rw [h]; rfl
  refine ⟨fun h => hends (hcommon (Cel.refusal_fenced _ h)), fun h hb => hends (hcommon (Cel.refusal_busy _ h hb)), fun hb h => hends (hcommon ?_),
    fun hb h hx1 => hends (hcommon ?_), fun hb h hx7 => hends (hcommon ?_), fun hb h => ?_⟩
  · rw [Cel.refusal_idle _ hb]
    rcases h with h | h <;> rw [h]
  · rw [Cel.refusal_idle _ hb, h]
    exact if_neg hx1
  · rw [Cel.refusal_idle _ hb, h]
    exact if_neg hx7
  · have hor : (s.cel.refusal x.2).or (s.ownRefusal key x.2) = s.ownRefusal key x.2 := by rw [Cel.refusal_none hb h]; rfl
    rw [hor] at hends
    refine ⟨fun h1 hk => hends ?_, fun h1 hk hn => hends ?_, fun h2 hi => hends ?_, fun h2 hb hl hlen => hends ?_, fun hf hslot => ?_⟩
    · rw [h1, State.ownRefusal_format, if_pos hk]
    · have hq : ¬ (allChs.all fun n => (s.ch n).quiesced) = true := by
        rw [s.allQuiesced_iff]
        obtain ⟨n, hn⟩ := hn
        exact fun k => Bool.false_ne_true (hn.symm.trans (k n))
      rw [h1, State.ownRefusal_format, if_neg (not_not.mpr hk), if_neg hq]
    · rw [State.ownRefusal_slot key h2]
      exact if_pos hi
    · rw [State.ownRefusal_slot key h2]
      exact (if_neg (not_or.mpr ⟨hb, hl⟩)).trans (if_neg (by omega))
    · rw [hexec, State.celCommand_taken (hor.trans (State.ownRefusal_none hf hslot))]
      exact ⟨fun hr => congrArg _ (if_pos (by simp [hr])), fun hr => congrArg _ (if_neg (by simpa using hr))⟩

end Sys2Proof.Machine
end

section
/-! SUPPORT. The cellar's flash: pages programmed one by one, the valid copy of a page, and what leaves all but the cellar alone (R406, R413 … R420). -/

namespace Sys2Proof.Machine

/-! ### Pages programmed (R406, R413) -/

/-- Pages are added, every one of the kind `Q`, and nothing else changes but the cellar's program number and its commands to the part. -/
structure State.Adds (s t : State) (Q : FPage → Prop) : Prop where
  frame : t = { s with
    flash := { s.flash with pages := t.flash.pages }
    cel := { s.cel with nextSeq := t.cel.nextSeq, sent := t.cel.sent } }
  pages : ∃ l, t.flash.pages = s.flash.pages ++ l ∧ ∀ q ∈ l, Q q

theorem State.Adds.refl (s : State) (Q : FPage → Prop) : s.Adds s Q := ⟨rfl, [], (List.append_nil _).symm, nofun⟩

theorem State.Adds.trans {a b c : State} {Q : FPage → Prop} (h : a.Adds b Q) (k : b.Adds c Q) : a.Adds c Q := by
  obtain ⟨l, hl, hq⟩ := h.pages
  obtain ⟨m, hm, hq'⟩ := k.pages
  refine ⟨?_, l ++ m, by rw [hm, hl, List.append_assoc], fun q hq'' => (List.mem_append.mp hq'').elim (hq q) (hq' q)⟩
  rw [k.frame, h.frame]

theorem State.Adds.mono {s t : State} {Q R : FPage → Prop} (h : s.Adds t Q) (hqr : ∀ q, Q q → R q) : s.Adds t R := by
  obtain ⟨l, hl, hq⟩ := h.pages
  exact ⟨h.frame, l, hl, fun q hm => hqr q (hq q hm)⟩

theorem State.Adds.clock {s t : State} {Q : FPage → Prop} (h : s.Adds t Q) : t.cel.clock = s.cel.clock := by rw [h.frame]

theorem State.Adds.desc {s t : State} {Q : FPage → Prop} (h : s.Adds t Q) : t.flash.desc = s.flash.desc := by rw [h.frame]

theorem State.send_adds (s : State) (l : List NandOp) (Q : FPage → Prop) : s.Adds (s.send l) Q := ⟨rfl, [], (List.append_nil _).symm, nofun⟩

/-- The page that a program writes into block `b`. -/
def State.newPage (s : State) (b : Nat) (r : Region) (l set : Nat) (last : Bool) (data : List Byte) : FPage :=
  { block := b, page := s.flash.fill b, region := r, setLast := last, lpage := l, seq := s.cel.nextSeq, set := set, hour := s.cel.clock.toNat,
    data := data }

/-- A page of this content at this place, programmed at this hour. -/
def FPage.Holds (q : FPage) (r : Region) (l : Nat) (data : List Byte) (hour : Nat) : Prop :=
  q.region = r ∧ q.lpage = l ∧ q.data = data ∧ q.lost = false ∧ q.hour = hour

theorem State.programAt_pages (s : State) (b : Nat) (r : Region) (l set : Nat) (last : Bool) (data : List Byte) :
    (s.programAt b r l set last data).flash.pages = s.flash.pages ++ [s.newPage b r l set last data] := rfl

theorem State.programAt_adds (s : State) (b : Nat) (r : Region) (l set : Nat) (last : Bool) (data : List Byte) :
    s.Adds (s.programAt b r l set last data) fun q => q.Holds r l data s.cel.clock.toNat := by
  refine ⟨rfl, _, s.programAt_pages b r l set last data, fun q hq => ?_⟩
  rw [List.mem_singleton.mp hq]
  exact ⟨rfl, rfl, rfl, rfl, rfl⟩

theorem State.program_target {s : State} {r : Region} {b : Nat} (h : s.flash.target r = some b) (l set : Nat) (last : Bool) (data : List Byte) :
    s.program r l set last data = s.programAt b r l set last data := by
  rw [State.program, h]

theorem State.program_full {s : State} {r : Region} (h : s.flash.target r = none) (l set : Nat) (last : Bool) (data : List Byte) :
    s.program r l set last data = s := by
  rw [State.program, h]

theorem State.program_adds (s : State) (r : Region) (l set : Nat) (last : Bool) (data : List Byte) :
    s.Adds (s.program r l set last data) fun q => q.Holds r l data s.cel.clock.toNat := by
  cases h : s.flash.target r with
  | none => rw [State.program_full h]; exact State.Adds.refl s _
  | some b => rw [State.program_target h]; exact s.programAt_adds b r l set last data

/-! ### The valid copy (R406) -/

/-- Pages of other places leave a place's valid copy alone. -/
theorem State.Adds.valid {s t : State} {Q : FPage → Prop} (h : s.Adds t Q) {r : Region} {l : Nat} (hq : ∀ q, Q q → ¬ (q.region = r ∧ q.lpage = l)) :
    t.flash.valid r l = s.flash.valid r l := by
  obtain ⟨m, hm, hall⟩ := h.pages
  have hnone : m.filter (fun p => p.region == r && p.lpage == l) = [] :=
    List.filter_eq_nil_iff.mpr fun q hmem => by simpa using hq q (hall q hmem)
  rw [Flash.valid, Flash.valid, hm, List.filter_append, hnone, List.append_nil]

/-- A page just programmed is the valid copy of its place. -/
theorem State.programAt_valid (s : State) (b : Nat) (r : Region) (l set : Nat) (last : Bool) (data : List Byte) :
    (s.programAt b r l set last data).flash.valid r l = some (s.newPage b r l set last data) := by
  have hone : [s.newPage b r l set last data].filter (fun p => p.region == r && p.lpage == l) = [s.newPage b r l set last data] := by
    simp [State.newPage]
  rw [Flash.valid, State.programAt_pages, List.filter_append, hone, List.getLast?_concat]

theorem State.program_valid {s : State} {r : Region} {b : Nat} (h : s.flash.target r = some b) (l set : Nat) (last : Bool) (data : List Byte) :
    (s.program r l set last data).flash.valid r l = some (s.newPage b r l set last data) := by
  rw [State.program_target h, State.programAt_valid]

/-! ### Moving pages (R414, R415, R417) -/

/-- Each page of a list programmed again as a set of its own, where `place` puts it. -/
theorem State.each_programs {place : FPage → State → State} (hplace : ∀ p s, State.Adds s (place p s) fun q => q.Holds p.region p.lpage p.data s.cel.clock.toNat)
    (ps : List FPage) (s : State) : s.Adds (s.each ps place) fun q => ∃ p ∈ ps, q.Holds p.region p.lpage p.data s.cel.clock.toNat := by
  induction ps generalizing s with
  | nil => exact State.Adds.refl s _
  | cons p ps ih =>
    have hone := hplace p s
    have hrest := ih (place p s)
    rw [hone.clock] at hrest
    exact (hone.mono fun q hq => ⟨p, by simp, hq⟩).trans (hrest.mono fun q ⟨p', hp', hq⟩ => ⟨p', by simp [hp'], hq⟩)

/-- The valid readable pages of a block. -/
def State.blockPages (s : State) (b : Nat) : List FPage := s.flash.validPages.filter fun p => p.block == b && !p.lost

theorem State.mem_blockPages {s : State} {b : Nat} {p : FPage} (h : p ∈ s.blockPages b) : p ∈ s.flash.pages ∧ p.block = b ∧ p.lost = false := by
  obtain ⟨hv, hp⟩ := List.mem_filter.mp h
  exact ⟨(List.mem_filter.mp hv).1, by simpa using hp⟩

/-- A page that carries the content and the place of one of the block's. -/
def State.CopiesOf (s : State) (b : Nat) (q : FPage) : Prop :=
  ∃ p, p ∈ s.flash.pages ∧ p.block = b ∧ p.lost = false ∧ q.Holds p.region p.lpage p.data s.cel.clock.toNat

theorem State.CopiesOf.of_mem {s : State} {b : Nat} {q : FPage} (h : ∃ p ∈ s.blockPages b, q.Holds p.region p.lpage p.data s.cel.clock.toNat) :
    s.CopiesOf b q := by
  obtain ⟨p, hp, hq⟩ := h
  obtain ⟨hm, hb, hl⟩ := State.mem_blockPages hp
  exact ⟨p, hm, hb, hl, hq⟩

/-- The same blocks, of which those listed take no further pages. -/
def State.closing (s : State) (l : List Nat) : State := { s with flash := { s.flash with closed := l } }

theorem State.copyOut_adds (s : State) (b : Nat) : ∃ l, (s.closing l).Adds (s.copyOut b) (s.CopiesOf b) :=
  ⟨_, (State.each_programs (fun p u => u.program_adds p.region p.lpage u.cel.nextSeq true p.data) (s.blockPages b)
    (s.closing (if s.flash.closed.contains b then s.flash.closed else s.flash.closed ++ [b]))).mono fun _ hq => State.CopiesOf.of_mem hq⟩

theorem State.moved_adds (s : State) (b d : Nat) :
    (s.closing s.flash.closed).Adds (s.each (s.blockPages b) fun p u => u.programAt d p.region p.lpage u.cel.nextSeq true p.data) (s.CopiesOf b) :=
  (State.each_programs (fun p u => u.programAt_adds d p.region p.lpage u.cel.nextSeq true p.data) (s.blockPages b) s).mono
    fun _ hq => State.CopiesOf.of_mem hq

/-! ### Garbage collection (R414) -/

/-- A block freed: what garbage collection leaves of the flash and the cellar. -/
structure State.Frees (s t : State) (b : Nat) : Prop where
  frame : t = { s with flash := t.flash, cel := { s.cel with nextSeq := t.cel.nextSeq, sent := t.cel.sent } }
  erased : ∃ x y, t.cel.sent = x ++ [.writeEnable, .erase (b * s.flash.perBlock), .getFeature 0xC0] ++ y
  emptied : ∀ p, p ∈ t.flash.pages → p.block ≠ b
  others : ∀ p, p ∈ s.flash.pages → p.block ≠ b → p ∈ t.flash.pages
  copies : ∀ q, q ∈ t.flash.pages → q ∈ s.flash.pages ∨ s.CopiesOf b q

theorem State.eraseBlock_pages (s : State) (b : Nat) : (s.eraseBlock b).flash.pages = s.flash.pages.filter fun p => p.block != b := rfl

/-- The block whose pages have been copied is erased. -/
theorem State.Adds.frees {s u : State} {b : Nat} {l : List Nat} (h : (s.closing l).Adds u (s.CopiesOf b)) : s.Frees (u.eraseBlock b) b := by
  obtain ⟨m, hm, hq⟩ := h.pages
  have hper : u.flash.perBlock = s.flash.perBlock := by rw [Flash.perBlock, h.desc]; rfl
  refine ⟨?_, ⟨u.cel.sent, u.cel.programOps u.flash b 0 u.flash.pageSize, ?_⟩, fun p hp => ?_, fun p hp hne => ?_, fun q hp => ?_⟩
  · show State.send { u with flash := u.flash.erase b } _ = _
    rw [h.frame]
    rfl
  · rw [← hper, List.append_assoc]
    rfl
  · rw [State.eraseBlock_pages] at hp
    simpa using (List.mem_filter.mp hp).2
  · rw [State.eraseBlock_pages, hm]
    exact List.mem_filter.mpr ⟨List.mem_append_left _ hp, by simpa using hne⟩
  · rw [State.eraseBlock_pages, hm] at hp
    exact (List.mem_append.mp (List.mem_filter.mp hp).1).imp id fun k => hq q k

theorem exec_garbageCollection {s : State} (hr : s.runs) : exec .garbageCollection s =
    .next (if !s.celWrites || s.flt.grave || allCellIxs.any (fun k => (s.cell k).role == .shadow) then s
    else match s.flash.garbage, s.flash.levelling with
      | some b, _ => (s.copyOut b).eraseBlock b
      | none, some m => s.moveBlock m.1 m.2
      | none, none => s) := congrArg _ (s.live_of _ hr)

theorem exec_garbageCollection_rests {s : State} (hr : s.runs) (h : s.cel.st ≠ .ready ∨ s.flt.grave = true ∨ ∃ k, (s.cell k).role = .shadow) :
    exec .garbageCollection s = .next s := by
  rw [exec_garbageCollection hr, if_pos]
  rcases h with h | h | ⟨k, h⟩
  · simp [State.celWrites, h]
  · simp [h]
  · have hany : allCellIxs.any (fun k => (s.cell k).role == .shadow) = true := List.any_eq_true.mpr ⟨k, List.mem_finRange k, by simp [h]⟩
    rw [hany, Bool.or_true]

/-- Where it may run, the garbage of a region goes first, and levelling behind it. -/
theorem exec_garbageCollection_runs {s : State} (hr : s.runs) (hc : s.cel.st = .ready) (hg : s.flt.grave = false)
    (hs : ∀ k, (s.cell k).role ≠ .shadow) : exec .garbageCollection s = .next (match s.flash.garbage, s.flash.levelling with
      | some b, _ => (s.copyOut b).eraseBlock b
      | none, some m => s.moveBlock m.1 m.2
      | none, none => s) := by
  rw [exec_garbageCollection hr, if_neg]
  simp [State.celWrites, hc, hg, hs]

theorem exec_garbageCollection_frees {s : State} (hr : s.runs) (hc : s.cel.st = .ready) (hg : s.flt.grave = false)
    (hs : ∀ k, (s.cell k).role ≠ .shadow) {b : Nat} (h : s.flash.garbage = some b ∨ (s.flash.garbage = none ∧ ∃ d, s.flash.levelling = some (b, d))) :
    ∃ t, exec .garbageCollection s = .next t ∧ s.Frees t b := by
  rw [exec_garbageCollection_runs hr hc hg hs]
  rcases h with h | ⟨h, d, hd⟩
  · obtain ⟨l, hadds⟩ := s.copyOut_adds b
    exact ⟨_, by rw [h], hadds.frees⟩
  · exact ⟨_, by rw [h, hd]; rfl, (s.moved_adds b d).frees⟩

/-! ### Retiring, losing and reading pages (R415, R417, R419) -/

theorem State.celWrites_iff (s : State) : s.celWrites = true ↔ s.cel.st = .ready := by simp [State.celWrites]

theorem State.celWrites_false {s : State} (h : s.cel.st ≠ .ready) : s.celWrites = false := by simp [State.celWrites, h]

theorem State.celReads_iff (s : State) : s.celReads = true ↔ s.cel.st = .ready ∨ s.cel.st = .sealed := by simp [State.celReads]

/-- A seal changes the cellar's state and the collector alone. -/
theorem State.sealCheck_spec (s : State) : ∃ st f, s.sealCheck = { s with cel := { s.cel with st := st }, flt := f } ∧ (st = s.cel.st ∨ st = .sealed) := by
  unfold State.sealCheck
  split
  · exact ⟨_, _, rfl, .inr rfl⟩
  · exact ⟨_, _, rfl, .inl rfl⟩

theorem State.copyOut_frame (s : State) (b : Nat) : ∃ g l n e, s.copyOut b = { s with
    flash := { s.flash with pages := g, closed := l }
    cel := { s.cel with nextSeq := n, sent := e } } := by
  obtain ⟨l, hadds⟩ := s.copyOut_adds b
  exact ⟨_, l, _, _, hadds.frame⟩

/-- A block retired: its pages lie elsewhere, and it is counted as bad. -/
theorem State.retireBlock_retires {s : State} {b : Nat} (hc : s.celWrites = true) (hb : b ∉ s.flash.bad) : ∃ g l n e st f, s.retireBlock b = { s with
    flash := { s.flash with pages := g, closed := l, bad := s.flash.bad ++ [b] }
    cel := { s.cel with nextSeq := n, sent := e, st := st, retires := satInc s.cel.retires }
    flt := f } := by
  obtain ⟨g, l, n, e, hcopy⟩ := s.copyOut_frame b
  unfold State.retireBlock
  rw [if_pos (by simp [hc, hb]), hcopy]
  obtain ⟨st, f, hseal, -⟩ := State.sealCheck_spec (State.post (State.send { s with
      flash := { s.flash with pages := g.filter fun p => p.block != b || p.lost, closed := l, bad := s.flash.bad ++ [b] }
      cel := { s.cel with nextSeq := n, sent := e, retires := satInc s.cel.retires } }
    ({ s.cel with nextSeq := n, sent := e }.programOps { s.flash with pages := g, closed := l } b 0 s.flash.pageSize)) srcCellar 1 b)
  exact ⟨_, _, _, _, st, f, hseal⟩

theorem State.retireBlock_idle {s : State} {b : Nat} (h : s.celWrites = false ∨ b ∈ s.flash.bad) : s.retireBlock b = s :=
  if_neg (by rcases h with h | h <;> simp [h])

/-- A page found lost: it is marked, counted and reported. -/
def State.pageLost (s : State) (p : FPage) : State :=
  State.post { s with
    flash := { s.flash with pages := s.flash.pages.map fun (q : FPage) => (if q.seq = p.seq then { q with lost := true } else q) }
    cel := { s.cel with ues := satInc s.cel.ues } } srcCellar 2 (s.flash.row p)

theorem State.losePage_eq (s : State) (p : FPage) : s.losePage p = (s.pageLost p).retireBlock p.block := rfl

theorem State.pageLost_celWrites (s : State) (p : FPage) : (s.pageLost p).celWrites = s.celWrites := rfl

theorem State.losePage_idle {s : State} {p : FPage} (h : s.celWrites = false ∨ p.block ∈ s.flash.bad) : s.losePage p = s.pageLost p := by
  rw [State.losePage_eq, State.retireBlock_idle]
  exact h

theorem State.losePage_retires {s : State} {p : FPage} (hc : s.celWrites = true) (hb : p.block ∉ s.flash.bad) : ∃ g l n e st f, s.losePage p = { s with
    flash := { s.flash with pages := g, closed := l, bad := s.flash.bad ++ [p.block] }
    cel := { s.cel with nextSeq := n, sent := e, st := st, ues := satInc s.cel.ues, retires := satInc s.cel.retires }
    flt := f } := by
  rw [State.losePage_eq]
  obtain ⟨g, l, n, e, st, f, h⟩ := State.retireBlock_retires (s := s.pageLost p) hc hb
  exact ⟨g, l, n, e, st, f, h⟩

/-- A lost page leaves channels, cells, memory and the log of attention alone, and is counted. -/
theorem State.losePage_counts (s : State) (p : FPage) : (s.losePage p).chans = s.chans ∧ (s.losePage p).cells = s.cells ∧
    (s.losePage p).mem = s.mem ∧ (s.losePage p).att = s.att ∧ (s.losePage p).cel.ues = satInc s.cel.ues ∧ (s.losePage p).cel.pass = s.cel.pass := by
  by_cases h : s.celWrites = true ∧ p.block ∉ s.flash.bad
  · obtain ⟨_, _, _, _, _, _, hlose⟩ := State.losePage_retires h.1 h.2
    rw [hlose]
    exact ⟨rfl, rfl, rfl, rfl, rfl, rfl⟩
  · rw [State.losePage_idle (by simpa [Classical.or_iff_not_imp_left] using h)]
    exact ⟨rfl, rfl, rfl, rfl, rfl, rfl⟩

/-- A refresh programs the page's content again, and is counted and reported. -/
theorem State.refreshPage_programs {s : State} {p : FPage} (hc : s.celWrites = true) : ∃ f, s.refreshPage p =
    { s.program p.region p.lpage s.cel.nextSeq true p.data with
      flt := f
      cel := { (s.program p.region p.lpage s.cel.nextSeq true p.data).cel with refreshes := satInc s.cel.refreshes } } :=
  ⟨_, if_pos hc⟩

theorem State.refreshPage_idle {s : State} {p : FPage} (hc : s.celWrites = false) : s.refreshPage p = s := if_neg (by simp [hc])

/-- The commands that read a page, sent. -/
def State.readSent (s : State) (p : FPage) : State := s.send (s.cel.readOps s.flash p.block p.page)

theorem State.readPage_uncorrectable (s : State) (p : FPage) : s.readPage p .uncorrectable = (s.readSent p).losePage p := rfl

theorem State.readPage_read {o : FlashOutcome} (h : o ≠ .uncorrectable) (s : State) (p : FPage) :
    s.readPage p o = if (s.readSent p).refreshDue p (correctedBits o) then (s.readSent p).refreshPage p else s.readSent p := by
  cases o with
  | uncorrectable => exact absurd rfl h
  | ok => rfl
  | failed => rfl
  | corrected n => rfl

theorem State.refreshDue_iff (s : State) (p : FPage) (n : Nat) :
    s.refreshDue p n = true ↔ s.cel.refreshBits ≤ n ∨ s.cel.maxAgeDays * 24 ≤ s.cel.clock.toNat - p.hour := by
  simp [State.refreshDue]

/-! ### The patrol (R417) -/

/-- The cellar ahead of a patrol read: a pass that has ended starts again. -/
def State.patrolPass (s : State) : Cel := if s.cel.pass = [] then s.cel.newPass s.flash else s.cel

/-- The cellar `c` behind the read of a page with outcome `o`, with the pages `l` left in its pass. -/
def Cel.patrolled (c : Cel) (l : List Nat) (o : FlashOutcome) : Cel :=
  { c with pass := l, corrMax := BitVec.ofNat 8 (max c.corrMax.toNat (min (correctedBits o) 255)) }

/-- The valid readable page of sequence number `q`. -/
def Flash.patrolPage (f : Flash) (q : Nat) : Option FPage := f.pages.find? fun (p : FPage) => p.seq == q && f.isValid p && !p.lost

theorem Flash.patrolPage_none {f : Flash} {q : Nat} (h : ∀ p, p ∈ f.validPages → p.lost = false → p.seq ≠ q) : f.patrolPage q = none := by
  refine List.find?_eq_none.mpr fun p hp hfound => ?_
  simp only [Bool.and_eq_true, beq_iff_eq, Bool.not_eq_true'] at hfound
  obtain ⟨⟨hseq, hvalid⟩, hlost⟩ := hfound
  exact h p (List.mem_filter.mpr ⟨hp, hvalid⟩) hlost hseq

theorem exec_patrolPageRead {s : State} (hr : s.runs) (o : FlashOutcome) : exec (.patrolPageRead o) s =
    .next (if !s.celReads then s else match s.patrolPass.pass with
      | [] => { s with cel := s.patrolPass }
      | q :: l => match s.flash.patrolPage q with
        | some p => State.readPage { s with cel := s.patrolPass.patrolled l o } p o
        | none => { s with cel := s.patrolPass.patrolled l o }) := congrArg _ (s.live_of _ hr)

theorem exec_patrolPageRead_rests {s : State} (hr : s.runs) (o : FlashOutcome) (h : s.celReads = false) : exec (.patrolPageRead o) s = .next s := by
  rw [exec_patrolPageRead hr, if_pos (by simp [h])]

theorem exec_patrolPageRead_empty {s : State} (hr : s.runs) (o : FlashOutcome) (h : s.celReads = true) (hp : s.patrolPass.pass = []) :
    exec (.patrolPageRead o) s = .next { s with cel := s.patrolPass } := by
  rw [exec_patrolPageRead hr, if_neg (by simp [h]), hp]

theorem exec_patrolPageRead_gone {s : State} (hr : s.runs) (o : FlashOutcome) (h : s.celReads = true) {q : Nat} {l : List Nat}
    (hp : s.patrolPass.pass = q :: l) (hq : s.flash.patrolPage q = none) :
    exec (.patrolPageRead o) s = .next { s with cel := s.patrolPass.patrolled l o } := by
  rw [exec_patrolPageRead hr, if_neg (by simp [h]), hp]
  simp only [hq]

theorem exec_patrolPageRead_reads {s : State} (hr : s.runs) (o : FlashOutcome) (h : s.celReads = true) {q : Nat} {l : List Nat}
    (hp : s.patrolPass.pass = q :: l) {p : FPage} (hq : s.flash.patrolPage q = some p) :
    exec (.patrolPageRead o) s = .next (State.readPage { s with cel := s.patrolPass.patrolled l o } p o) := by
  rw [exec_patrolPageRead hr, if_neg (by simp [h]), hp]
  simp only [hq]

/-- A page that is due is programmed again: the valid copy of its place moves, and no other does. -/
theorem State.refreshPage_moves {s : State} {p : FPage} (hc : s.celWrites = true) :
    s.refreshPage p = { s with
      flash := (s.refreshPage p).flash
      cel := { s.cel with nextSeq := (s.refreshPage p).cel.nextSeq, sent := (s.refreshPage p).cel.sent, refreshes := satInc s.cel.refreshes }
      flt := (s.refreshPage p).flt } ∧
    (∀ r l, r ≠ p.region ∨ l ≠ p.lpage → (s.refreshPage p).flash.valid r l = s.flash.valid r l) ∧
    ∀ b, s.flash.target p.region = some b → ∃ x, (s.refreshPage p).flash.valid p.region p.lpage = some x ∧ x.data = p.data ∧ x.block = b ∧
      x.hour = s.cel.clock.toNat := by
  obtain ⟨f, hf⟩ := State.refreshPage_programs (p := p) hc
  have hadds := s.program_adds p.region p.lpage s.cel.nextSeq true p.data
  rw [hf]
  refine ⟨?_, fun r l hne => hadds.valid fun q ⟨hqr, hql, _⟩ ⟨hr, hl⟩ => ?_, fun b hb => ⟨_, State.program_valid hb _ _ _ _, rfl, rfl, rfl⟩⟩
  · rw [hadds.frame]
  · exact hne.elim (fun h => h (hr.symm.trans hqr)) (fun h => h (hl.symm.trans hql))

theorem State.patrolPass_frame (s : State) : ∃ l m, s.patrolPass = { s.cel with pass := l, corrMax := m } := by
  unfold State.patrolPass
  split
  · exact ⟨_, _, rfl⟩
  · exact ⟨_, _, rfl⟩

/-- The cellar as the patrol finds it differs in its pass alone. -/
def State.patrols (s : State) (l : List Nat) (o : FlashOutcome) : State := { s with cel := s.patrolPass.patrolled l o }

theorem State.patrols_frame (s : State) (l : List Nat) (o : FlashOutcome) : ∃ m, s.patrols l o = { s with cel := { s.cel with pass := l, corrMax := m } } := by
  obtain ⟨l', m', h⟩ := s.patrolPass_frame
  rw [State.patrols, h]
  exact ⟨_, rfl⟩

/-- A page of the patrol that cannot be read. -/
theorem State.patrols_loses (s : State) (l : List Nat) (p : FPage) (o : FlashOutcome) :
    ((s.patrols l o).readPage p .uncorrectable).chans = s.chans ∧ ((s.patrols l o).readPage p .uncorrectable).cells = s.cells ∧
    ((s.patrols l o).readPage p .uncorrectable).mem = s.mem ∧ ((s.patrols l o).readPage p .uncorrectable).att = s.att ∧
    ((s.patrols l o).readPage p .uncorrectable).cel.ues = satInc s.cel.ues ∧ ((s.patrols l o).readPage p .uncorrectable).cel.pass = l ∧
    (s.cel.st = .sealed → ((s.patrols l o).readPage p .uncorrectable).flash =
      { s.flash with pages := s.flash.pages.map fun x => (if x.seq = p.seq then { x with lost := true } else x) }) ∧
    (s.cel.st = .ready → p.block ∉ s.flash.bad → ((s.patrols l o).readPage p .uncorrectable).flash.bad = s.flash.bad ++ [p.block] ∧
      ((s.patrols l o).readPage p .uncorrectable).cel.retires = satInc s.cel.retires) := by
  rw [State.readPage_uncorrectable]
  obtain ⟨m, hm⟩ := s.patrols_frame l o
  rw [hm]
  obtain ⟨hchans, hcells, hmem, hatt, hues, hpass⟩ := (State.readSent { s with cel := { s.cel with pass := l, corrMax := m } } p).losePage_counts p
  refine ⟨hchans, hcells, hmem, hatt, hues, hpass, fun hs => ?_, fun hs hb => ?_⟩
  · rw [State.losePage_idle (.inl (State.celWrites_false (by simp [State.readSent, State.send, hs])))]
    rfl
  · obtain ⟨_, _, _, _, _, _, hlose⟩ := State.losePage_retires (s := State.readSent { s with cel := { s.cel with pass := l, corrMax := m } } p) (p := p)
      ((State.celWrites_iff _).mpr hs) hb
    rw [hlose]
    exact ⟨rfl, rfl⟩

/-! ### Read-back, clock and a part that does not answer (R403, R418, R426) -/

/-- The cellar with a fetch begun. -/
def Cel.fetching (c : Cel) (v : Word) : Cel :=
  { c with readHistory := v.getLsbD 31, readBack := v.extractLsb' 0 16, ready := false, none_ := false, readUe := false }

/-- The cellar behind the fetch of the record found. -/
def Cel.fetched (c : Cel) (found : Option (List Word × Bool)) : Cel :=
  match found with
  | some (_, true) => { c with readUe := true }
  | some (w, false) => { c with ready := true, data := tabulate 8 fun i => w.getD i.val 0 }
  | none => { c with none_ := true }

theorem Cel.fetched_select (c : Cel) (found : Option (List Word × Bool)) :
    (c.fetched found).readHistory = c.readHistory ∧ (c.fetched found).readBack = c.readBack := by
  unfold Cel.fetched
  split <;> exact ⟨rfl, rfl⟩

theorem State.readSel_unread {s : State} (h : s.celReads = false) (v : Word) : s.readSel v = { s with cel := s.cel.fetching v } :=
  if_neg (by change ¬ s.celReads = true; simp [h])

theorem State.readSel_reads {s : State} (h : s.celReads = true) (v : Word) :
    s.readSel v = { s with cel := (s.cel.fetching v).fetched (s.flash.records (v.getLsbD 31))[(v.extractLsb' 0 16).toNat]? } := by
  refine Eq.trans (if_pos (c := s.celReads = true) h) ?_
  cases (s.flash.records (v.getLsbD 31))[(v.extractLsb' 0 16).toNat]? with
  | none => rfl
  | some x =>
    obtain ⟨w, lost⟩ := x
    cases lost with
    | false => rfl
    | true => rfl

theorem exec_celReadSelWrite_selects {s : State} (hr : s.runs) (v : Word) : exec (.celReadSelWrite v) s = .next (s.readSel v) :=
  congrArg _ (s.live_of _ hr)

theorem exec_celClockWrite_sets {s : State} (hr : s.runs) (hg : s.flt.grave = false) (v : Word) :
    exec (.celClockWrite v) s = .next (if s.cel.clock.toNat < v.toNat then { s with cel := { s.cel with clock := v } } else s) :=
  congrArg _ (s.hostAct_of _ hr hg)

theorem exec_notResponding_posts {s : State} (hr : s.runs) (op : BitVec 8) : exec (.notResponding op) s = .next (s.post srcCellar 4 op.toNat) :=
  congrArg _ (s.live_of _ hr)

theorem exec_cellarHourTick_counts {s : State} (hr : s.runs) : exec .cellarHourTick s = .next { s with cel := { s.cel with clock := s.cel.clock + 1 } } :=
  congrArg _ (s.live_of _ hr)

/-! ### The obligation -/

/-- The patrol's clause for a page that it finds. -/
theorem exec_patrolPageRead_found {s : State} (hr : s.runs) (o : FlashOutcome) (h : s.cel.st = .ready ∨ s.cel.st = .sealed) {q : Nat} {l : List Nat}
    (hp : s.patrolPass.pass = q :: l) {p : FPage} (hq : s.flash.patrolPage q = some p) {rd : Cel}
    (hrd : rd = ((s.patrols l o).readSent p).cel) :
    (o ≠ .uncorrectable → correctedBits o < rd.refreshBits → s.cel.clock.toNat - p.hour < rd.maxAgeDays * 24 →
      exec (.patrolPageRead o) s = .next { s with cel := rd }) ∧
    (o ≠ .uncorrectable → s.cel.st = .sealed → exec (.patrolPageRead o) s = .next { s with cel := rd }) ∧
    (o ≠ .uncorrectable → s.cel.st = .ready → rd.refreshBits ≤ correctedBits o ∨ rd.maxAgeDays * 24 ≤ s.cel.clock.toNat - p.hour →
      exec (.patrolPageRead o) s = .next (State.refreshPage { s with cel := rd } p)) ∧
    (o = .uncorrectable → exec (.patrolPageRead o) s = .next ((s.patrols l o).readPage p .uncorrectable)) := by
  have hreads := exec_patrolPageRead_reads hr o ((State.celReads_iff s).mpr h) hp hq
  obtain ⟨m, hm⟩ := s.patrols_frame l o
  have hsent : (s.patrols l o).readSent p = { s with cel := rd } := by rw [hrd]; rfl
  have hst : ({ s with cel := rd } : State).cel.st = s.cel.st := by rw [← hsent, hm]; rfl
  have hclock : rd.clock = s.cel.clock := by rw [hrd, hm]; rfl
  have hread : o ≠ .uncorrectable → exec (.patrolPageRead o) s =
      .next (if State.refreshDue { s with cel := rd } p (correctedBits o) then State.refreshPage { s with cel := rd } p else { s with cel := rd }) := by
    intro ho
    rw [hreads, ← hsent]
    exact congrArg _ (State.readPage_read ho (s.patrols l o) p)
  have hdue := State.refreshDue_iff { s with cel := rd } p (correctedBits o)
  simp only [hclock] at hdue
  refine ⟨fun ho hlow hyoung => ?_, fun ho hs => ?_, fun ho _ hbits => ?_, fun ho => ?_⟩
  · rw [hread ho, if_neg (by rw [hdue]; omega)]
  · rw [hread ho, State.refreshPage_idle (State.celWrites_false (by rw [hst, hs]; decide)), ite_self]
  · rw [hread ho, if_pos (hdue.mpr hbits)]
  · rw [hreads, ho]
    rfl

/-- Settles O56: garbage collection and the patrol by what they program, erase and lose; the read-back by the record found. -/
theorem theCellarCollectsPatrolsAndReadsBack : Obligations.TheCellarCollectsPatrolsAndReadsBack := by
  intro s hr
  refine ⟨exec_garbageCollection_rests hr, fun hc hg hs => ⟨fun hgarb hlev => ?_, fun b hb => ?_⟩, fun o hne hns => ?_, fun o c hread hc => ?_, fun op => ?_,
    fun v => ?_, fun v hg => ⟨fun hlt => ?_, fun hle => ?_⟩, exec_cellarHourTick_counts hr⟩
  · rw [exec_garbageCollection_runs hr hc hg hs, hgarb, hlev]
  · obtain ⟨t, ht, hfrees⟩ := exec_garbageCollection_frees hr hc hg hs hb
    exact ⟨t, ht, hfrees.frame, hfrees.erased, hfrees.emptied, hfrees.others, hfrees.copies⟩
  · exact exec_patrolPageRead_rests hr o (by simp [State.celReads, hne, hns])
  · have hreads := (State.celReads_iff s).mpr hread
    have hpass : c = s.patrolPass := hc
    subst hpass
    refine ⟨exec_patrolPageRead_empty hr o hreads, fun q l c' hp hc' => ?_⟩
    have hpatrolled : c' = s.patrolPass.patrolled l o := hc'.trans (by cases o <;> rfl)
    subst hpatrolled
    refine ⟨fun hgone => exec_patrolPageRead_gone hr o hreads hp (Flash.patrolPage_none hgone), fun p rd hfind hrd => ?_⟩
    obtain ⟨hfresh, hsealed, hdue, hlost⟩ := exec_patrolPageRead_found hr o hread hp hfind (rd := rd) hrd
    refine ⟨fun ho hlow => hfresh ho (by cases o <;> exact hlow), hsealed, fun ho hready hbits => ?_, fun ho => ?_⟩
    · obtain ⟨m, hm⟩ := s.patrols_frame l o
      have hst : rd.st = s.cel.st := by rw [hrd]; exact congrArg (fun t : State => t.cel.st) hm
      have hclock : rd.clock = s.cel.clock := by rw [hrd]; exact congrArg (fun t : State => t.cel.clock) hm
      obtain ⟨hframe, hothers, hplace⟩ := State.refreshPage_moves (s := { s with cel := rd }) (p := p) ((State.celWrites_iff _).mpr (hst.trans hready))
      refine ⟨_, hdue ho hready (by cases o <;> exact hbits), hframe, hothers, fun b hb => ?_⟩
      rw [← hclock]
      exact hplace b hb
    · exact ⟨_, hlost ho, s.patrols_loses l p o⟩
  · exact ⟨_, exec_notResponding_posts hr op, rfl, s.post_sticky _ (by decide) (by decide)⟩
  · rw [exec_celReadSelWrite_selects hr]
    by_cases hreads : s.celReads = true
    · rw [State.readSel_reads hreads]
      obtain ⟨hhist, hback⟩ := (s.cel.fetching v).fetched_select (s.flash.records (v.getLsbD 31))[(v.extractLsb' 0 16).toNat]?
      refine ⟨_, rfl, hhist, hback, fun hne hns => ?_, fun _ => ⟨fun w hw => ?_, fun w hw => ?_, fun hw => ?_⟩⟩
      · exact absurd ((State.celReads_iff s).mp hreads) (by simp [hne, hns])
      · rw [hw]
        exact ⟨rfl, rfl, rfl, fun i => tabulate_get ..⟩
      · rw [hw]
        exact ⟨rfl, rfl, rfl⟩
      · rw [hw]
        exact ⟨rfl, rfl, rfl⟩
    · rw [State.readSel_unread (by simpa using hreads)]
      exact ⟨_, rfl, rfl, rfl, fun _ _ => ⟨rfl, rfl, rfl, rfl⟩, fun h => absurd ((State.celReads_iff s).mpr h) hreads⟩
  · rw [exec_celClockWrite_sets hr hg, if_pos hlt]
  · rw [exec_celClockWrite_sets hr hg, if_neg (by omega)]

end Sys2Proof.Machine
end

section
/-! SUPPORT. The cellar's work: what a set, a locket, a command and the start of the next work leave (R187, R188, R413, R416, R425, R427). -/

namespace Sys2Proof.Machine

/-! ### The work that waits (R416) -/

theorem CelWork.one_le_rank (w : CelWork) : 1 ≤ w.rank := by cases w <;> simp [CelWork.rank]

/-- The first work waits, and none goes ahead of it. -/
theorem firstWork_spec {l : List CelWork} (h : l ≠ []) : ∃ w, firstWork l = some w ∧ w ∈ l ∧ ∀ v, v ∈ l → w.rank ≤ v.rank := by
  induction l with
  | nil => exact absurd rfl h
  | cons w l ih =>
    cases l with
    | nil => exact ⟨w, rfl, by simp, by simp⟩
    | cons x l =>
      obtain ⟨v, hv, hmem, hmin⟩ := ih (List.cons_ne_nil x l)
      rw [firstWork, hv]
      by_cases hlt : v.rank < w.rank
      · exact ⟨v, if_pos hlt, List.mem_cons_of_mem w hmem, fun u hu => (List.mem_cons.mp hu).elim (fun e => e ▸ hlt.le) (hmin u)⟩
      · refine ⟨w, if_neg hlt, by simp, fun u hu => (List.mem_cons.mp hu).elim (fun e => e ▸ le_rfl) fun hu => ?_⟩
        have := hmin u hu
        omega

/-- Work of the lowest order that stands first goes first. -/
theorem firstWork_head {w : CelWork} (h : w.rank = 1) (l : List CelWork) : firstWork (w :: l) = some w := by
  rw [firstWork]
  split
  · next v _ => rw [if_neg (by have := v.one_le_rank; omega)]
  · rfl

theorem State.nextWork_some {s : State} {w : CelWork} (h : firstWork s.cel.work = some w) :
    s.nextWork = { s with cel := { s.cel with running := some w, work := s.cel.work.erase w } } := by
  rw [State.nextWork, h]

theorem State.nextWork_none {s : State} (h : s.cel.work = []) : s.nextWork = { s with cel := { s.cel with running := none } } := by
  rw [State.nextWork, h]
  rfl

/-- The start of the next work changes the list of works alone. -/
theorem State.nextWork_frame (s : State) : ∃ r l, s.nextWork = { s with cel := { s.cel with running := r, work := l } } := by
  unfold State.nextWork
  split <;> exact ⟨_, _, rfl⟩

/-- The second half of a work runs or waits. -/
theorem State.nextWork_celNext (s : State) (w : CelWork) : ∃ r l, (s.celNext w).nextWork = { s with cel := { s.cel with running := r, work := l } } ∧
    (r = some w ∨ w ∈ l) := by
  obtain ⟨v, hv, -, -⟩ := firstWork_spec (List.cons_ne_nil w s.cel.work)
  refine ⟨some v, (w :: s.cel.work).erase v, State.nextWork_some hv, ?_⟩
  by_cases h : v = w
  · exact .inl (congrArg some h)
  · exact .inr ((List.mem_erase_of_ne (Ne.symm h)).mpr (by simp))

/-- The second half of a read runs at once. -/
theorem State.nextWork_celNext_first (s : State) {w : CelWork} (h : w.rank = 1) : ∃ l, (s.celNext w).nextWork =
    { s with cel := { s.cel with running := some w, work := l } } := ⟨_, State.nextWork_some (firstWork_head h _)⟩

/-! ### Sets (R413) -/

theorem State.programAll_cons (s : State) (r : Region) (l set : Nat) (d : List Byte) (ds : List (List Byte)) :
    s.programAll r l set (d :: ds) = (s.program r l set ds.isEmpty d).programAll r (l + 1) set ds := by
  cases ds <;> rfl

theorem State.programAll_adds (s : State) (r : Region) (l set : Nat) (ds : List (List Byte)) :
    s.Adds (s.programAll r l set ds) fun q => q.region = r ∧ l ≤ q.lpage := by
  induction ds generalizing s l with
  | nil => exact State.Adds.refl s _
  | cons d ds ih =>
    rw [State.programAll_cons]
    exact ((s.program_adds r l set ds.isEmpty d).mono fun q ⟨hr, hl, _⟩ => ⟨hr, hl.ge⟩).trans ((ih _ (l + 1)).mono fun q ⟨hr, hl⟩ => ⟨hr, by omega⟩)

/-- A set has a first page, which holds the first bytes. -/
theorem chunks_head (p fuel : Nat) (l : List Byte) : ∃ ds, chunks p (fuel + 1) l = l.take p :: ds := by
  rw [chunks]
  by_cases h : l.length ≤ p
  · exact ⟨[], by rw [if_pos h, List.take_of_length_le h]⟩
  · exact ⟨_, if_neg h⟩

theorem State.writeSet_adds (s : State) (r : Region) (bytes : List Byte) : s.Adds (s.writeSet r bytes) fun q => q.region = r :=
  (s.programAll_adds r 0 s.cel.nextSeq _).mono fun _ h => h.1

theorem State.writeSet_first {s : State} {r : Region} {b : Nat} (h : s.flash.target r = some b) (bytes : List Byte) :
    ∃ last, (s.writeSet r bytes).flash.valid r 0 = some (s.newPage b r 0 s.cel.nextSeq last (bytes.take s.flash.pageSize)) := by
  obtain ⟨ds, hds⟩ := chunks_head s.flash.pageSize 1023 bytes
  refine ⟨ds.isEmpty, ?_⟩
  rw [State.writeSet, hds, State.programAll_cons]
  rw [(State.programAll_adds _ r 1 s.cel.nextSeq ds).valid fun q ⟨_, hl⟩ ⟨_, hz⟩ => by omega]
  exact State.program_valid h _ _ _ _

theorem State.cell_of_cells {s t : State} (h : t.cells = s.cells) (k : CellIx) : t.cell k = s.cell k := by
  rw [State.cell, State.cell, h]

/-! ### What changes the flash, the cellar and the collector alone -/

/-- All but the flash, the cellar and the collector is left alone. -/
def State.CellarOnly (s t : State) : Prop := t = { s with
  flash := t.flash
  cel := t.cel
  flt := t.flt }

theorem State.CellarOnly.of_eq {s t : State} {g : Flash} {c : Cel} {f : Flt} (h : t = { s with flash := g, cel := c, flt := f }) : s.CellarOnly t := by
  subst h
  rfl

theorem State.CellarOnly.refl (s : State) : s.CellarOnly s := rfl

theorem State.CellarOnly.trans {a b c : State} (h : a.CellarOnly b) (k : b.CellarOnly c) : a.CellarOnly c := by
  unfold State.CellarOnly at *
  rw [k, h]

theorem State.CellarOnly.chans {s t : State} (h : s.CellarOnly t) : t.chans = s.chans := by rw [h]

theorem State.CellarOnly.cells {s t : State} (h : s.CellarOnly t) : t.cells = s.cells := by rw [h]

theorem State.Adds.cellarOnly {s t : State} {Q : FPage → Prop} (h : s.Adds t Q) : s.CellarOnly t := .of_eq h.frame

theorem State.retireBlock_cellarOnly (s : State) (b : Nat) : s.CellarOnly (s.retireBlock b) := by
  by_cases h : s.celWrites = true ∧ b ∉ s.flash.bad
  · obtain ⟨_, _, _, _, _, _, hret⟩ := State.retireBlock_retires h.1 h.2
    exact .of_eq hret
  · rw [State.retireBlock_idle (by simpa [Classical.or_iff_not_imp_left] using h)]
    exact .refl s

theorem State.losePage_cellarOnly (s : State) (p : FPage) : s.CellarOnly (s.losePage p) :=
  State.CellarOnly.trans (b := s.pageLost p) (.of_eq rfl) (State.retireBlock_cellarOnly _ _)

theorem State.refreshPage_cellarOnly (s : State) (p : FPage) : s.CellarOnly (s.refreshPage p) := by
  by_cases h : s.celWrites = true
  · exact .of_eq (State.refreshPage_moves h).1
  · rw [State.refreshPage_idle (by simpa using h)]
    exact .refl s

theorem State.readPage_cellarOnly (s : State) (p : FPage) (o : FlashOutcome) : s.CellarOnly (s.readPage p o) := by
  have hsent : s.CellarOnly (s.readSent p) := .of_eq rfl
  by_cases h : o = .uncorrectable
  · rw [h, State.readPage_uncorrectable]
    exact hsent.trans (State.losePage_cellarOnly _ p)
  · rw [State.readPage_read h]
    split
    · exact hsent.trans (State.refreshPage_cellarOnly _ p)
    · exact hsent

theorem State.readLocketPage_cellarOnly (s : State) (k : CellIx) (c : Nat) (o : FlashOutcome) : s.CellarOnly (s.readLocketPage k c o) := by
  unfold State.readLocketPage
  split
  · split
    · exact .refl s
    · exact s.readPage_cellarOnly _ o
  · exact .refl s

theorem State.programFailed_cellarOnly (s : State) (w : CelWork) (o : FlashOutcome) : s.CellarOnly (s.programFailed w o) := by
  unfold State.programFailed
  split
  · exact s.retireBlock_cellarOnly _
  · exact .refl s

/-- No block is retired where the flash reports no failure. -/
theorem State.programFailed_done {o : FlashOutcome} (h : o ≠ .failed) (s : State) (w : CelWork) : s.programFailed w o = s := by
  unfold State.programFailed
  split
  · exact absurd rfl h
  · rfl

/-- Nor for work that programs no region. -/
theorem State.programFailed_none {w : CelWork} (h : w.region = none) (s : State) (o : FlashOutcome) : s.programFailed w o = s := by
  unfold State.programFailed
  rw [h]
  split
  · next hb => simp at hb
  · rfl

theorem State.programFailed_sealed {s : State} (h : s.cel.st = .sealed) (w : CelWork) (o : FlashOutcome) : s.programFailed w o = s := by
  unfold State.programFailed
  split
  · exact State.retireBlock_idle (.inl (State.celWrites_false (by simp [h])))
  · rfl

/-! ### Lockets (R187, R188) -/

theorem State.writeLocket_adds (s : State) (k : CellIx) (c : Nat) (l : Locket) : s.Adds (s.writeLocket k c l) fun q => q.region = .lockets :=
  (s.program_adds .lockets _ _ true _).mono fun _ h => h.1

theorem State.writeLocket_valid {s : State} {b : Nat} (h : s.flash.target .lockets = some b) (k : CellIx) (c : Nat) (l : Locket) :
    ∃ p, (s.writeLocket k c l).flash.valid .lockets (locketOffset k c / s.flash.pageSize) = some p ∧ p.block = b ∧ p.lost = false :=
  ⟨_, State.program_valid h _ _ _ _, rfl, rfl⟩

theorem State.storeBad_cellarOnly (s : State) (k : CellIx) : s.CellarOnly (s.storeBad k) := by
  have hwrite := (s.writeLocket_adds k (s.olderCopy k) (s.cell k).locket.next).cellarOnly
  unfold State.storeBad
  dsimp only
  generalize s.writeLocket k (s.olderCopy k) (s.cell k).locket.next = u at hwrite ⊢
  have hlose : s.CellarOnly (match u.flash.locketPage k (s.olderCopy k) with
      | some p => u.losePage p
      | none => u) := by
    split
    · exact hwrite.trans (State.losePage_cellarOnly _ _)
    · exact hwrite
  split
  · exact hlose.trans (State.program_adds _ _ _ _ _ _).cellarOnly
  · exact hlose

/-- The managed area keeps its descriptor and bad blocks, and takes pages of lockets alone; beside it, cells and the collector change. -/
structure State.LocketsOnly (s t : State) : Prop where
  frame : t = { s with flash := t.flash, cel := t.cel, flt := t.flt, cells := t.cells }
  bad : t.flash.bad = s.flash.bad
  desc : t.flash.desc = s.flash.desc
  st : t.cel.st = s.cel.st ∨ t.cel.st = .sealed
  pages : ∀ p, p ∈ t.flash.pages → p ∈ s.flash.pages ∨ p.region = .lockets

theorem State.LocketsOnly.refl (s : State) : s.LocketsOnly s := ⟨rfl, rfl, rfl, .inl rfl, fun _ => .inl⟩

theorem State.LocketsOnly.trans {a b c : State} (h : a.LocketsOnly b) (k : b.LocketsOnly c) : a.LocketsOnly c where
  frame := by rw [k.frame, h.frame]
  bad := k.bad.trans h.bad
  desc := k.desc.trans h.desc
  st := k.st.elim (fun e => e ▸ h.st) .inr
  pages := fun p hp => (k.pages p hp).elim (h.pages p) .inr

theorem State.LocketsOnly.each {α : Type} {f : α → State → State} (hf : ∀ a s, State.LocketsOnly s (f a s)) (l : List α) (s : State) :
    s.LocketsOnly (s.each l f) := by
  induction l generalizing s with
  | nil => exact .refl s
  | cons a l ih => exact (hf a s).trans (ih (f a s))

theorem State.Adds.locketsOnly {s t : State} (h : s.Adds t fun q => q.region = .lockets) : s.LocketsOnly t := by
  obtain ⟨l, hl, hq⟩ := h.pages
  refine ⟨?_, by rw [h.frame], h.desc, .inl (by rw [h.frame]), fun p hp => ?_⟩
  · rw [h.frame]
  · rw [hl] at hp
    exact (List.mem_append.mp hp).imp id (hq p)

theorem State.eraseBlock_locketsOnly (s : State) (b : Nat) : s.LocketsOnly (s.eraseBlock b) :=
  ⟨rfl, rfl, rfl, .inl rfl, fun _ hp => .inl (List.mem_filter.mp hp).1⟩

theorem State.sealCheck_locketsOnly (s : State) : s.LocketsOnly s.sealCheck := by
  obtain ⟨st, f, h, hst⟩ := s.sealCheck_spec
  rw [h]
  exact ⟨rfl, rfl, rfl, hst, fun _ => .inl⟩

/-- A cell takes a locket. -/
def State.takeLocket (s : State) (k : CellIx) (l : Locket) (st : LocketState) : State := s.upCell k fun x => { x with locket := l, locketSt := st }

/-- A cell takes its one valid copy, which repairs the other where the cellar writes. -/
def State.takeOne (s : State) (k : CellIx) (l : Locket) (other : Nat) : State :=
  if s.celWrites then ((s.takeLocket k l .repaired).writeLocket k other l).postCell k 0xC 0x0B other else s.takeLocket k l .single

theorem State.applyLocket_eq (s : State) (k : CellIx) : s.applyLocket k = match s.locketCopy k 0, s.locketCopy k 1 with
    | some a, some b => s.takeLocket k (if a.gen.toNat < b.gen.toNat then b else a) .valid
    | some a, none => s.takeOne k a 1
    | none, some b => s.takeOne k b 0
    | none, none => (s.takeLocket k (Locket.nominal k.val) .nominal).postCell k 0xB 0x0B 0 := rfl

/-- Lockets change, and no cell but `k`. -/
def State.LocketAt (s t : State) (k : CellIx) : Prop := s.LocketsOnly t ∧ ∀ j, j ≠ k → t.cell j = s.cell j

theorem State.takeLocket_at (s : State) (k : CellIx) (l : Locket) (st : LocketState) : s.LocketAt (s.takeLocket k l st) k :=
  ⟨⟨rfl, rfl, rfl, .inl rfl, fun _ => .inl⟩, fun _ h => State.upCell_cell_ne _ _ h⟩

theorem State.takeOne_at (s : State) (k : CellIx) (l : Locket) (other : Nat) : s.LocketAt (s.takeOne k l other) k := by
  unfold State.takeOne
  split
  · obtain ⟨hl, hj⟩ := s.takeLocket_at k l .repaired
    have hadds := (s.takeLocket k l .repaired).writeLocket_adds k other l
    have hcell : ∀ j, ((s.takeLocket k l .repaired).writeLocket k other l).cell j = (s.takeLocket k l .repaired).cell j := fun j => by
      rw [hadds.frame]
      rfl
    exact ⟨(hl.trans hadds.locketsOnly).trans ⟨rfl, rfl, rfl, .inl rfl, fun _ => .inl⟩, fun j hne => (hcell j).trans (hj j hne)⟩
  · exact s.takeLocket_at k l .single

theorem State.applyLocket_at (s : State) (k : CellIx) : s.LocketAt (s.applyLocket k) k := by
  rw [State.applyLocket_eq]
  split
  · exact s.takeLocket_at k _ .valid
  · exact s.takeOne_at k _ 1
  · exact s.takeOne_at k _ 0
  · obtain ⟨hl, hj⟩ := s.takeLocket_at k (Locket.nominal k.val) .nominal
    exact ⟨hl.trans ⟨rfl, rfl, rfl, .inl rfl, fun _ => .inl⟩, hj⟩

/-! ### FORMAT (R427) -/

/-- The geometry of CEL_GEOM as the descriptor holds it. -/
def Cel.geometry (c : Cel) : BitVec 4 := BitVec.ofNat 4 (bit c.bigPage + 2 * bit c.ppb128 + 4 * bit c.quad + 8 * bit c.plane)

theorem geometry_bits (a b c d : Bool) (g : BitVec 4) (h : g = BitVec.ofNat 4 (bit a + 2 * bit b + 4 * bit c + 8 * bit d)) :
    g.getLsbD 0 = a ∧ g.getLsbD 1 = b ∧ g.getLsbD 2 = c ∧ g.getLsbD 3 = d := by
  subst h
  revert a b c d
  decide

/-- A managed area of the new geometry, with no page. -/
def State.formatting (s : State) : State := { s with
  flash := { s.flash with
    desc := some (s.cel.geometry, s.cel.blocks.toNat, (match s.flash.desc with | some d => d.2.2.1 + 1 | none => 1), s.cel.id)
    pages := []
    closed := [] }
  cel := { s.cel with st := .ready } }

/-- The managed area erased, and its descriptor written. -/
def State.described (s : State) : State :=
  let e := s.formatting.each s.formatting.flash.good fun b u => u.eraseBlock b
  e.send (Cel.eraseOps e.flash 0 ++ e.cel.programOps e.flash 0 0 0 ++ e.cel.programOps e.flash 0 1 0)

theorem State.described_locketsOnly (s : State) : s.formatting.LocketsOnly s.described :=
  (State.LocketsOnly.each (fun b u => u.eraseBlock_locketsOnly b) _ _).trans (State.send_adds _ _ _).locketsOnly

/-- The new managed area with its lockets, each applied by its cell. -/
def State.formatted (s : State) : State :=
  (s.described.writeSet .lockets s.described.formatLockets).sealCheck.each allCellIxs fun k u => u.applyLocket k

theorem State.format_eq (s : State) : s.format = { s.formatted with cel := s.formatted.cel.newPass s.formatted.flash } := rfl

/-- Behind the descriptor, FORMAT writes lockets alone. -/
theorem State.formatted_locketsOnly (s : State) : s.formatting.LocketsOnly s.formatted :=
  ((s.described_locketsOnly.trans (s.described.writeSet_adds .lockets _).locketsOnly).trans (State.sealCheck_locketsOnly _)).trans
    (.each (fun k u => (u.applyLocket_at k).1) _ _)

/-! ### Commands (R410, R420, R425, R427) -/

theorem State.persistAll_rest (s : State) : s.persistAll.mem = s.mem := by
  have hp := s.persistRecords_persists 4096 s.flt.unpersisted
  unfold State.persistAll
  generalize s.persistRecords 4096 s.flt.unpersisted = u at hp ⊢
  dsimp only
  split
  · rw [hp.rest]
  · rw [State.persistHistory_frame, State.upAtt_mem, hp.rest]

/-- No command changes a channel or the host's memory. -/
theorem State.runCommand_leaves (s : State) (cmd : BitVec 8) (o : FlashOutcome) :
    (s.runCommand cmd o).1.chans = s.chans ∧ (s.runCommand cmd o).1.mem = s.mem := by
  have hset : ∀ r c, (s.writeSet r c).chans = s.chans ∧ (s.writeSet r c).mem = s.mem := fun r c => by
    rw [(s.writeSet_adds r c).frame]
    exact ⟨rfl, rfl⟩
  have hslot : ∀ r c, ((if o = .uncorrectable then (s, CelResult.verifyFailed) else (s.writeSet r c, .ok)).1).chans = s.chans ∧
      ((if o = .uncorrectable then (s, CelResult.verifyFailed) else (s.writeSet r c, .ok)).1).mem = s.mem := fun r c => by
    split
    · exact ⟨rfl, rfl⟩
    · exact hset r c
  unfold State.runCommand
  split
  · rw [State.format_eq, s.formatted_locketsOnly.frame]
    exact ⟨rfl, rfl⟩
  · exact hslot .slotA _
  · exact hslot .slotB _
  · exact hset .slotA _
  · exact hset .slotB _
  · exact hset .library _
  · exact ⟨rfl, rfl⟩
  · exact ⟨s.persistAll_spec.2.1, s.persistAll_rest⟩

/-- The cellar at the end of a command. -/
def Cel.commandEnd (c : Cel) (cmd : BitVec 8) (r : CelResult) : Cel := { c with busy := false, done := true, result := r, lastCmd := cmd }

theorem State.endCommand_eq (s : State) (cmd : BitVec 8) (o : FlashOutcome) : ∃ u r, s.endCommand cmd o = { u with cel := u.cel.commandEnd cmd r } ∧
    (u, r) = if s.cel.st = .sealed ∧ cmd ≠ 7 then (s, CelResult.sealed) else s.runCommand cmd o := ⟨_, _, rfl, rfl⟩

theorem State.endCommand_sealed {s : State} {cmd : BitVec 8} (h : s.cel.st = .sealed) (hc : cmd ≠ 7) (o : FlashOutcome) :
    s.endCommand cmd o = { s with cel := s.cel.commandEnd cmd .sealed } := by
  obtain ⟨u, r, he, hur⟩ := s.endCommand_eq cmd o
  rw [if_pos ⟨h, hc⟩] at hur
  obtain ⟨rfl, rfl⟩ := Prod.mk.injEq .. ▸ hur
  exact he

theorem State.endCommand_runs {s : State} {cmd : BitVec 8} (h : s.cel.st ≠ .sealed ∨ cmd = 7) {o : FlashOutcome} {u : State} {r : CelResult}
    (hrun : s.runCommand cmd o = (u, r)) : s.endCommand cmd o = { u with cel := u.cel.commandEnd cmd r } := by
  obtain ⟨u', r', he, hur⟩ := s.endCommand_eq cmd o
  rw [if_neg (by tauto), hrun] at hur
  obtain ⟨rfl, rfl⟩ := Prod.mk.injEq .. ▸ hur
  exact he

/-- A command ends, and no channel and nothing of the host's memory changes. -/
theorem State.endCommand_leaves (s : State) (cmd : BitVec 8) (o : FlashOutcome) : (s.endCommand cmd o).chans = s.chans ∧
    (s.endCommand cmd o).mem = s.mem ∧ ∃ (c : Cel) (r : CelResult), (s.endCommand cmd o).cel = c.commandEnd cmd r := by
  by_cases h : s.cel.st = .sealed ∧ cmd ≠ 7
  · rw [State.endCommand_sealed h.1 h.2]
    exact ⟨rfl, rfl, _, _, rfl⟩
  · obtain ⟨hchans, hmem⟩ := s.runCommand_leaves cmd o
    rw [State.endCommand_runs (by tauto) (Prod.eta (s.runCommand cmd o)).symm]
    exact ⟨hchans, hmem, _, _, rfl⟩

/-! ### Stored updates (R188, R195) -/

theorem State.storeEnd_frame (s : State) (m : Option Ch) (r : CalResult) : s.storeEnd m r = { s with chans := (s.storeEnd m r).chans } := by
  cases m <;> rfl

/-- The session that waits for the store ends with its result. -/
theorem State.storeEnd_ends {s : State} {n : Ch} (h : (s.ch n).meas.cal.st = .storing) (r : CalResult) :
    (s.storeEnd (some n) r).ch n = (s.ch n).calEnd r :=
  (State.upCh_ch ..).trans (if_pos h)

theorem State.storeDone_refused {s : State} (h : s.cel.st ≠ .ready) (k : CellIx) (m : Option Ch) (second : Option Nat) (o : FlashOutcome) :
    s.storeDone k m second o = s.storeEnd m .notStored :=
  if_pos (by simp [State.celWrites_false h])

theorem State.storeDone_second {s : State} (h : s.cel.st = .ready) (k : CellIx) (m : Option Ch) (c : Nat) (o : FlashOutcome) :
    s.storeDone k m (some c) o = (s.writeLocket k c (s.cell k).locket).storeEnd m .ok :=
  if_neg (by simp [(State.celWrites_iff s).mpr h])

theorem State.storeDone_first {s : State} (h : s.cel.st = .ready) (k : CellIx) (m : Option Ch) {o : FlashOutcome} (ho : o ≠ .uncorrectable) :
    s.storeDone k m none o = (s.storeFirst k).celNext (.storeLocket k m (some (1 - s.olderCopy k))) :=
  (if_neg (by simp [(State.celWrites_iff s).mpr h])).trans (if_neg ho)

theorem State.storeDone_bad {s : State} (h : s.cel.st = .ready) (k : CellIx) (m : Option Ch) :
    s.storeDone k m none .uncorrectable = (s.storeBad k).celNext (.storeLocket k m none) :=
  (if_neg (by simp [(State.celWrites_iff s).mpr h])).trans (if_pos rfl)

/-- The first half of a stored update leaves all but the one cell's locket and the flash alone. -/
theorem State.storeFirst_spec (s : State) (k : CellIx) : (s.storeFirst k).flt = s.flt ∧ (s.storeFirst k).chans = s.chans ∧
    (∀ j, j ≠ k → (s.storeFirst k).cell j = s.cell j) ∧ ((s.storeFirst k).cell k).locket = (s.cell k).locket.next ∧
    (s.storeFirst k).flash = (s.writeLocket k (s.olderCopy k) (s.cell k).locket.next).flash := by
  have hframe := (s.writeLocket_adds k (s.olderCopy k) (s.cell k).locket.next).frame
  refine ⟨by rw [State.storeFirst, hframe]; rfl, by rw [State.storeFirst, hframe]; rfl, fun j hj => ?_, ?_, rfl⟩
  · rw [State.storeFirst, State.upCell_cell_ne _ _ hj, hframe]
    rfl
  · rw [State.storeFirst, State.upCell_cell]

/-! ### CELLAR_OPERATION_DONE -/

theorem exec_cellarOperationDone_idle {s : State} (hr : s.runs) (h : s.cel.running = none) (o : FlashOutcome) :
    exec (.cellarOperationDone o) s = .next s.nextWork := by
  refine congrArg _ ((s.live_of _ hr).trans ?_)
  simp only [h]

theorem exec_cellarOperationDone_ends {s : State} (hr : s.runs) {w : CelWork} (h : s.cel.running = some w) (o : FlashOutcome) :
    exec (.cellarOperationDone o) s = .next ((s.programFailed w o).workDone w o).nextWork := by
  refine congrArg _ ((s.live_of _ hr).trans ?_)
  simp only [h]

/-- The end of a command: no channel and nothing of the host's memory changes, and the cellar is free again. -/
theorem exec_command_ends {s : State} (hr : s.runs) {cmd : BitVec 8} (h : s.cel.running = some (.command cmd)) (o : FlashOutcome) :
    ∃ t, exec (.cellarOperationDone o) s = .next t ∧ t.cel.busy = false ∧ t.cel.done = true ∧ t.cel.lastCmd = cmd ∧ t.chans = s.chans ∧ t.mem = s.mem := by
  have hfailed := s.programFailed_cellarOnly (.command cmd) o
  obtain ⟨hchans, hmem, c, r, hcel⟩ := (s.programFailed (.command cmd) o).endCommand_leaves cmd o
  obtain ⟨x, l, hnext⟩ := ((s.programFailed (.command cmd) o).endCommand cmd o).nextWork_frame
  refine ⟨_, exec_cellarOperationDone_ends hr h o, ?_⟩
  rw [show (s.programFailed (.command cmd) o).workDone (.command cmd) o = (s.programFailed (.command cmd) o).endCommand cmd o from rfl, hnext]
  exact ⟨congrArg Cel.busy hcel, congrArg Cel.done hcel, congrArg Cel.lastCmd hcel, hchans.trans hfailed.chans, hmem.trans (by rw [hfailed])⟩

/-- A command that no failure retires a block for leaves what its work leaves. -/
theorem exec_command_runs {s : State} (hr : s.runs) {cmd : BitVec 8} (h : s.cel.running = some (.command cmd)) {o : FlashOutcome}
    (hf : s.programFailed (.command cmd) o = s) (hs : s.cel.st ≠ .sealed ∨ cmd = 7) {u : State} {r : CelResult} (hrun : s.runCommand cmd o = (u, r)) :
    ∃ x l, exec (.cellarOperationDone o) s = .next { u with cel := { u.cel.commandEnd cmd r with running := x, work := l } } := by
  obtain ⟨x, l, hnext⟩ := State.nextWork_frame { u with cel := u.cel.commandEnd cmd r }
  refine ⟨x, l, (exec_cellarOperationDone_ends hr h o).trans ?_⟩
  rw [hf, ← hnext, ← State.endCommand_runs hs hrun]
  rfl

theorem exec_command_sealed {s : State} (hr : s.runs) {cmd : BitVec 8} (h : s.cel.running = some (.command cmd)) (o : FlashOutcome)
    (hs : s.cel.st = .sealed) (hc : cmd ≠ 7) :
    ∃ x l, exec (.cellarOperationDone o) s = .next { s with cel := { s.cel.commandEnd cmd .sealed with running := x, work := l } } := by
  obtain ⟨x, l, hnext⟩ := State.nextWork_frame { s with cel := s.cel.commandEnd cmd .sealed }
  refine ⟨x, l, (exec_cellarOperationDone_ends hr h o).trans ?_⟩
  rw [s.programFailed_sealed hs, ← hnext, ← State.endCommand_sealed hs hc o]
  rfl

/-- FORMAT leaves a managed area of the new geometry with lockets alone. -/
theorem exec_format_writes {s : State} (hr : s.runs) (h : s.cel.running = some (.command 1)) (o : FlashOutcome) (hs : s.cel.st ≠ .sealed) :
    ∃ u x l, s.formatting.LocketsOnly u ∧
      exec (.cellarOperationDone o) s = .next { u with cel := { (u.cel.newPass u.flash).commandEnd 1 .ok with running := x, work := l } } := by
  obtain ⟨x, l, hx⟩ := exec_command_runs hr h (State.programFailed_none rfl s o) (.inl hs) (rfl : s.runCommand 1 o = (s.format, .ok))
  refine ⟨s.formatted, x, l, s.formatted_locketsOnly, hx.trans ?_⟩
  rw [State.format_eq]

/-! ### Work that writes a region (R406, R413) -/

/-- Each work that writes a region, with its content. -/
def State.regionWork (s : State) : List (CelWork × Region × List Byte) :=
  [(.command 2, .slotA, s.staged s.stagedLength), (.command 3, .slotB, s.staged s.stagedLength), (.command 4, .slotA, []), (.command 5, .slotB, []),
    (.command 6, .library, s.libraryImage), (.writeRest, .rest, s.restTable), (.writeLibrary, .library, s.libraryImage)]

/-- A command whose work is a set ends with OK. -/
theorem State.endCommand_writes {s : State} (h : s.cel.st = .ready) {cmd : BitVec 8} {r : Region} {c : List Byte}
    (hrun : s.runCommand cmd .ok = (s.writeSet r c, .ok)) : ∃ x : Cel, s.endCommand cmd .ok = { s.writeSet r c with cel := x } ∧ x.result = .ok :=
  ⟨_, State.endCommand_runs (.inl (by simp [h])) hrun, rfl⟩

/-- The work programs its content as one set. -/
theorem State.workDone_writes {s : State} (h : s.cel.st = .ready) {w : CelWork} {r : Region} {c : List Byte} (hw : (w, r, c) ∈ s.regionWork) :
    ∃ x : Cel, s.workDone w .ok = { s.writeSet r c with cel := x } ∧ ∀ cmd, w = .command cmd → x.result = .ok := by
  have hcommand : ∀ {cmd r' c'}, s.runCommand cmd .ok = (s.writeSet r' c', .ok) → w = .command cmd ∧ r = r' ∧ c = c' →
      ∃ x : Cel, s.workDone w .ok = { s.writeSet r c with cel := x } ∧ ∀ cmd, w = .command cmd → x.result = .ok := by
    rintro cmd r' c' hrun ⟨rfl, rfl, rfl⟩
    obtain ⟨x, hx, hres⟩ := State.endCommand_writes h hrun
    exact ⟨x, hx, fun _ _ => hres⟩
  have hself : ∀ {w' r' c'}, s.workDone w' .ok = s.writeSet r' c' → (∀ cmd, w' ≠ .command cmd) → w = w' ∧ r = r' ∧ c = c' →
      ∃ x : Cel, s.workDone w .ok = { s.writeSet r c with cel := x } ∧ ∀ cmd, w = .command cmd → x.result = .ok := by
    rintro w' r' c' hdone hno ⟨rfl, rfl, rfl⟩
    exact ⟨_, hdone, fun cmd hcmd => absurd hcmd (hno cmd)⟩
  have hwrites := (State.celWrites_iff s).mpr h
  simp only [State.regionWork, List.mem_cons, Prod.mk.injEq, List.not_mem_nil, or_false] at hw
  rcases hw with hw | hw | hw | hw | hw | hw | hw
  · exact hcommand rfl hw
  · exact hcommand rfl hw
  · exact hcommand rfl hw
  · exact hcommand rfl hw
  · exact hcommand rfl hw
  · exact hself (w' := .writeRest) (if_pos hwrites) nofun hw
  · exact hself (w' := .writeLibrary) (if_pos hwrites) nofun hw

theorem exec_regionWork_writes {s : State} (hr : s.runs) (hc : s.cel.st = .ready) {w : CelWork} {r : Region} {c : List Byte}
    (hw : (w, r, c) ∈ s.regionWork) (h : s.cel.running = some w) :
    ∃ t, exec (.cellarOperationDone .ok) s = .next t ∧ t.chans = s.chans ∧ t.cells = s.cells ∧ t.mem = s.mem ∧ t.flt = s.flt ∧
      (∀ cmd, w = .command cmd → t.cel.result = .ok) ∧ (∀ r' l, r' ≠ r → t.flash.valid r' l = s.flash.valid r' l) ∧
      ∀ b, s.flash.target r = some b → ∃ p, t.flash.valid r 0 = some p ∧ p.data = c.take s.flash.pageSize ∧ p.block = b ∧ p.lost = false ∧
        p.hour = s.cel.clock.toNat := by
  obtain ⟨x, hx, hres⟩ := State.workDone_writes hc hw
  obtain ⟨y, l, hnext⟩ := State.nextWork_frame { s.writeSet r c with cel := x }
  have hadds := s.writeSet_adds r c
  refine ⟨_, exec_cellarOperationDone_ends hr h .ok, ?_⟩
  rw [State.programFailed_done (by decide), hx, hnext]
  refine ⟨?_, ?_, ?_, ?_, hres, fun r' l hne => ?_, fun b hb => ?_⟩
  · rw [hadds.frame]
  · rw [hadds.frame]
  · rw [hadds.frame]
  · rw [hadds.frame]
  · exact hadds.valid fun q hq ⟨hq', _⟩ => hne (hq'.symm.trans hq)
  · obtain ⟨last, hlast⟩ := State.writeSet_first hb c
    exact ⟨_, hlast, rfl, rfl, rfl, rfl⟩

/-! ### A stored update at its end (R188, R195) -/

theorem exec_storeLocket_ends {s : State} (hr : s.runs) {k : CellIx} {m : Option Ch} {second : Option Nat}
    (h : s.cel.running = some (.storeLocket k m second)) {o : FlashOutcome} (ho : o ≠ .failed) :
    exec (.cellarOperationDone o) s = .next (s.storeDone k m second o).nextWork := by
  rw [exec_cellarOperationDone_ends hr h o, State.programFailed_done ho]
  rfl

/-- A cellar that does not write stores nothing. -/
theorem exec_storeLocket_refused {s : State} (hr : s.runs) {k : CellIx} {m : Option Ch} {second : Option Nat}
    (h : s.cel.running = some (.storeLocket k m second)) (hc : s.cel.st ≠ .ready) : ∃ t, exec (.cellarOperationDone .ok) s = .next t ∧
      t.flt = s.flt ∧ t.cells = s.cells ∧ t.flash = s.flash ∧
      ∀ n, m = some n → (s.ch n).meas.cal.st = .storing → t.ch n = (s.ch n).calEnd .notStored := by
  obtain ⟨x, l, hnext⟩ := (s.storeEnd m .notStored).nextWork_frame
  refine ⟨_, exec_storeLocket_ends hr h (by decide), ?_⟩
  rw [State.storeDone_refused hc, hnext]
  refine ⟨?_, ?_, ?_, ?_⟩
  · rw [State.storeEnd_frame]
  · rw [State.storeEnd_frame]
  · rw [State.storeEnd_frame]
  · rintro n rfl hcal
    exact State.storeEnd_ends hcal .notStored

/-- The second copy ends the session that asked for the store. -/
theorem exec_storeLocket_second {s : State} (hr : s.runs) {k : CellIx} {m : Option Ch} {c : Nat}
    (h : s.cel.running = some (.storeLocket k m (some c))) (hc : s.cel.st = .ready) : ∃ t, exec (.cellarOperationDone .ok) s = .next t ∧
      t.flt = s.flt ∧ t.cells = s.cells ∧ (∀ n, m = some n → (s.ch n).meas.cal.st = .storing → t.ch n = (s.ch n).calEnd .ok) ∧
      ∀ b, s.flash.target .lockets = some b → ∃ p, t.flash.valid .lockets (locketOffset k c / s.flash.pageSize) = some p ∧ p.block = b ∧ p.lost = false := by
  have hframe := (s.writeLocket_adds k c (s.cell k).locket).frame
  obtain ⟨x, l, hnext⟩ := ((s.writeLocket k c (s.cell k).locket).storeEnd m .ok).nextWork_frame
  refine ⟨_, exec_storeLocket_ends hr h (by decide), ?_⟩
  rw [State.storeDone_second hc, hnext, State.storeEnd_frame]
  refine ⟨by rw [hframe], by rw [hframe], ?_, fun b hb => State.writeLocket_valid hb k c _⟩
  rintro n rfl hcal
  have hch : (s.writeLocket k c (s.cell k).locket).ch n = s.ch n := by
    rw [hframe]
    rfl
  rw [← hch] at hcal ⊢
  exact State.storeEnd_ends hcal .ok

/-- The first copy changes the cell's record, and the other copy runs or waits. -/
theorem exec_storeLocket_first {s : State} (hr : s.runs) {k : CellIx} {m : Option Ch} (h : s.cel.running = some (.storeLocket k m none))
    (hc : s.cel.st = .ready) : ∃ t, exec (.cellarOperationDone .ok) s = .next t ∧ t.flt = s.flt ∧ (∀ j, j ≠ k → t.cell j = s.cell j) ∧
      (t.cell k).locket = (s.cell k).locket.next ∧ t.chans = s.chans ∧
      (t.cel.running = some (.storeLocket k m (some (1 - s.olderCopy k))) ∨ .storeLocket k m (some (1 - s.olderCopy k)) ∈ t.cel.work) ∧
      ∀ b, s.flash.target .lockets = some b →
        ∃ p, t.flash.valid .lockets (locketOffset k (s.olderCopy k) / s.flash.pageSize) = some p ∧ p.block = b ∧ p.lost = false := by
  obtain ⟨hflt, hchans, hcells, hcell, hflash⟩ := s.storeFirst_spec k
  obtain ⟨x, l, hnext, hwait⟩ := (s.storeFirst k).nextWork_celNext (.storeLocket k m (some (1 - s.olderCopy k)))
  refine ⟨_, exec_storeLocket_ends hr h (by decide), ?_⟩
  rw [State.storeDone_first hc k m (by decide), hnext]
  refine ⟨hflt, hcells, hcell, hchans, hwait, fun b hb => ?_⟩
  show ∃ p, (s.storeFirst k).flash.valid _ _ = some p ∧ p.block = b ∧ p.lost = false
  rw [hflash]
  exact State.writeLocket_valid hb k _ _

/-- A first copy that does not read back starts the update again. -/
theorem exec_storeLocket_bad {s : State} (hr : s.runs) {k : CellIx} {m : Option Ch} (h : s.cel.running = some (.storeLocket k m none))
    (hc : s.cel.st = .ready) : ∃ t, exec (.cellarOperationDone .uncorrectable) s = .next t ∧ t.chans = s.chans ∧ t.cells = s.cells ∧
      (t.cel.running = some (.storeLocket k m none) ∨ .storeLocket k m none ∈ t.cel.work) := by
  have hbad := s.storeBad_cellarOnly k
  obtain ⟨x, l, hnext, hwait⟩ := (s.storeBad k).nextWork_celNext (.storeLocket k m none)
  refine ⟨_, exec_storeLocket_ends hr h (by decide), ?_⟩
  rw [State.storeDone_bad hc, hnext]
  exact ⟨hbad.chans, hbad.cells, hwait⟩

/-! ### A locket read for a migration (R187, R335) -/

theorem exec_confirm_ends {s : State} (hr : s.runs) {b : Bay} {k : CellIx} {second : Bool} (h : s.cel.running = some (.confirm b second))
    (hm : (s.mig b).runs = true) (hk : (s.mig b).newCell = some k) (o : FlashOutcome) : exec (.cellarOperationDone o) s =
      .next (if second then ((s.readLocketPage k 1 o).applyLocket k).upMig b fun m => { m with confirmed := true }
        else (s.readLocketPage k 0 o).celNext (.confirm b true)).nextWork := by
  rw [exec_cellarOperationDone_ends hr h o, State.programFailed_none rfl, State.workDone]
  simp only [hm, hk]

/-- The read of the first copy changes nothing of the cells, and the second one's follows at once. -/
theorem exec_confirm_first {s : State} (hr : s.runs) {b : Bay} {k : CellIx} (h : s.cel.running = some (.confirm b false))
    (hm : (s.mig b).runs = true) (hk : (s.mig b).newCell = some k) (o : FlashOutcome) : ∃ t, exec (.cellarOperationDone o) s = .next t ∧
      t.att = s.att ∧ t.chans = s.chans ∧ t.cells = s.cells ∧ t.cel.running = some (.confirm b true) := by
  have hread := s.readLocketPage_cellarOnly k 0 o
  obtain ⟨l, hnext⟩ := (s.readLocketPage k 0 o).nextWork_celNext_first (w := .confirm b true) rfl
  refine ⟨_, exec_confirm_ends hr h hm hk o, ?_⟩
  rw [if_neg (by decide), hnext]
  exact ⟨by rw [hread], hread.chans, hread.cells, rfl⟩

/-- Behind the second copy the cell applies its locket, and the migration is confirmed. -/
theorem exec_confirm_second {s : State} (hr : s.runs) {b : Bay} {k : CellIx} (h : s.cel.running = some (.confirm b true))
    (hm : (s.mig b).runs = true) (hk : (s.mig b).newCell = some k) (o : FlashOutcome) : ∃ t, exec (.cellarOperationDone o) s = .next t ∧
      (t.mig b).confirmed = true ∧ t.chans = s.chans ∧ ∀ j, j ≠ k → t.cell j = s.cell j := by
  have hread := s.readLocketPage_cellarOnly k 1 o
  obtain ⟨hlockets, hcells⟩ := (s.readLocketPage k 1 o).applyLocket_at k
  refine ⟨_, exec_confirm_ends hr h hm hk o, ?_⟩
  rw [if_pos rfl]
  generalize (s.readLocketPage k 1 o).applyLocket k = u at hlockets hcells ⊢
  have hmig := congrArg BayMig.confirmed (u.upMig_mig b fun m => { m with confirmed := true })
  obtain ⟨x, l, hnext⟩ := (u.upMig b fun m => { m with confirmed := true }).nextWork_frame
  rw [hnext]
  refine ⟨hmig, (congrArg State.chans hlockets.frame :).trans hread.chans, fun j hj => (hcells j hj).trans (State.cell_of_cells hread.cells j)⟩

/-! ### The obligation -/

/-- Settles O55: each kind of work by what it leaves, and the next one's start. -/
theorem cellarWorkEndsAsTheFlashReports : Obligations.CellarWorkEndsAsTheFlashReports := by
  intro s hr o
  refine ⟨fun hrun hwork => ?_, fun hrun hwork => ?_, fun cmd hrun => ?_, fun w r c hw hrun hc ho => ?_, fun k m second hrun ho => ?_,
    fun k m hrun hc ho => ?_, fun b k hm hk => ⟨fun hrun => exec_confirm_first hr hrun hm hk o, fun hrun => exec_confirm_second hr hrun hm hk o⟩⟩
  · rw [exec_cellarOperationDone_idle hr hrun, State.nextWork_none hwork, ← hrun]
  · obtain ⟨w, hw, hmem, hmin⟩ := firstWork_spec hwork
    exact ⟨w, hmem, hmin, by rw [exec_cellarOperationDone_idle hr hrun, State.nextWork_some hw]⟩
  · obtain ⟨t, ht, hbusy, hdone, hlast, hchans, hmem⟩ := exec_command_ends hr hrun o
    refine ⟨t, ht, hbusy, hdone, hlast, hchans, hmem, fun hs hne => ?_, ?_, fun hcmd hc ho => ?_, ?_, ?_⟩
    · obtain ⟨x, l, hx⟩ := exec_command_sealed hr hrun o hs hne
      obtain rfl := Host.Outcome.next.inj (ht.symm.trans hx)
      exact ⟨rfl, rfl, rfl⟩
    · rintro rfl -
      obtain ⟨x, l, hx⟩ := exec_command_runs hr hrun (State.programFailed_none rfl s o) (.inr rfl)
        (rfl : s.runCommand 7 o = ({ s with cel := s.cel.newPass s.flash }, .ok))
      obtain rfl := Host.Outcome.next.inj (ht.symm.trans hx)
      exact ⟨rfl, rfl, rfl, rfl⟩
    · subst ho
      have hwork : s.runCommand cmd .uncorrectable = (s, .verifyFailed) := by rcases hcmd with rfl | rfl <;> rfl
      obtain ⟨x, l, hx⟩ := exec_command_runs hr hrun (State.programFailed_done (by decide) s _) (.inl (by simp [hc])) hwork
      obtain rfl := Host.Outcome.next.inj (ht.symm.trans hx)
      exact ⟨rfl, rfl⟩
    · rintro rfl hs
      obtain ⟨u, x, l, hlockets, hx⟩ := exec_format_writes hr hrun o hs
      obtain rfl := Host.Outcome.next.inj (ht.symm.trans hx)
      exact ⟨rfl, hlockets.st, hlockets.bad, fun p hp => (hlockets.pages p hp).elim nofun id, _, hlockets.desc, geometry_bits _ _ _ _ _ rfl⟩
    · rintro rfl hc rfl
      obtain ⟨x, l, hx⟩ := exec_command_runs hr hrun (State.programFailed_done (by decide) s _) (.inl (by simp [hc]))
        (rfl : s.runCommand 8 .ok = (s.persistAll, .ok))
      obtain rfl := Host.Outcome.next.inj (ht.symm.trans hx)
      obtain ⟨hflt, -, -, hhist⟩ := s.persistAll_spec
      exact ⟨rfl, hhist, (congrArg Flt.coffer hflt).trans (s.persistRecords_persists 4096 s.flt.unpersisted).coffer⟩
  · subst ho
    exact exec_regionWork_writes hr hc hw hrun
  · subst ho
    by_cases hc : s.cel.st = .ready
    · cases second with
      | none =>
        obtain ⟨t, ht, hflt, hothers, hlocket, hchans, hwait, hvalid⟩ := exec_storeLocket_first hr hrun hc
        exact ⟨t, ht, hflt, hothers, fun hne => absurd hc hne, fun _ => ⟨fun _ => ⟨hlocket, hchans, hwait⟩, nofun, hvalid⟩⟩
      | some c =>
        obtain ⟨t, ht, hflt, hcells, hends, hvalid⟩ := exec_storeLocket_second hr hrun hc
        have hcal : ∀ n, m = some n → (s.ch n).meas.cal.st = .storing →
            (t.ch n).meas.cal.st = .idle ∧ (t.ch n).meas.cal.done = true ∧ (t.ch n).meas.cal.result = .ok := fun n hn hst => by
          rw [hends n hn hst]
          exact ⟨rfl, rfl, rfl⟩
        exact ⟨t, ht, hflt, fun j _ => State.cell_of_cells hcells j, fun hne => absurd hc hne, fun _ => ⟨nofun, fun _ _ => ⟨hcells, hcal⟩, hvalid⟩⟩
    · obtain ⟨t, ht, hflt, hcells, hflash, hends⟩ := exec_storeLocket_refused hr hrun hc
      refine ⟨t, ht, hflt, fun j _ => State.cell_of_cells hcells j, fun _ => ⟨hcells, hflash, fun n hn hst => ?_⟩, fun h => absurd h hc⟩
      rw [hends n hn hst]
      exact ⟨rfl, rfl, rfl⟩
  · subst ho
    exact exec_storeLocket_bad hr hrun hc

end Sys2Proof.Machine
end
